-- ==== Sys2Proof/Word.lean ====
section
/-! DEFINITION. The word types of the node: bytes, and finite tables keyed by a number. -/

namespace Sys2Proof

/-- One byte of host-visible memory, of a payload or of an OCTETS object (R30). -/
abbrev Byte := BitVec 8

/-- A finite table: pairs of a key and a value, keys strictly rising in its canonical form.
An unlisted key reads as the default that the table's owner names. -/
abbrev Tbl (α : Type) := List (Nat × α)

/-- An IEEE 754 binary32 bit pattern, 0 to 2^32 - 1 (R84). -/
abbrev F32 := Nat

end Sys2Proof
end

