-- ==== Sys2Proof/Syntax.lean ====
section
/-! DEFINITION. The commands of the node: one constructor per row of the table of operations and events,
with the operands each takes from outside. The table gives no operand fields; the operands are those that
the row's own rule names. -/

namespace Sys2Proof

/-! ## Who asks, and the protocol data unit -/

/-- The transport and requester of a dictionary request (R42, R44, R51). -/
inductive Via where
  | session (n : Nat)    -- management session n
  | noSession            -- management port, no session
  | fabric (src : Nat)   -- fabric management lane, from node src
  | pf                   -- CXL mailbox of the physical function
  | vf (n : Nat)         -- CXL mailbox of virtual function n
  | internal             -- bundle or autostart (transport 0x0)
  deriving DecidableEq, Repr

/-- A protocol data unit (R40): the header's fields, the payload carried, and whether the CRC-32C passed. -/
structure Pdu where
  version : Nat
  opcode : Nat
  flags : Nat
  transaction : Nat
  index : Nat
  subindex : Nat
  result : Nat
  reason : Nat
  length : Nat
  offset : Nat
  reserved : Nat
  payload : List Byte
  crcOk : Bool
  deriving DecidableEq, Repr

/-- The requester and transaction number of a write to an object that has a row of its own. -/
structure WReq where
  via : Via
  txn : Nat
  deriving DecidableEq, Repr

/-! ## Blocks, packets and entries of the links -/

/-- A TIME block (R316 type 0x01). -/
structure TimeBlock where
  hops : Nat
  ht : Nat
  turnaroundPs : Nat
  node : Nat
  leadTerm : Nat
  deriving DecidableEq, Repr

/-- A LINK block (R316 type 0x02). -/
structure LinkBlock where
  node : Nat
  link : Nat
  herdId : Nat
  goodLanes : Nat
  widthOffer : Nat
  deriving DecidableEq, Repr

/-- A packet (R318): its header fields, its payload and its flit count. intact: no flit of it failed R317. -/
structure Packet where
  dst : Nat
  src : Nat
  vl : Nat
  kind : Nat
  msgId : Nat
  lengthM1 : Nat
  offset : Nat
  key : Nat
  remoteOffset : Nat
  ce : Bool
  hopsLeft : Nat
  flits : Nat
  intact : Bool
  payload : List Byte
  deriving DecidableEq, Repr

/-- An ACK entry (R332). -/
structure AckEntry where
  msgId : Nat
  complete : Bool
  ceEcho : Bool
  base : Nat
  bitmap : Nat
  deriving DecidableEq, Repr

/-- A step announcement (R321 type 0x02). -/
structure Announce where
  step : Nat
  start : Nat
  leadTerm : Nat
  epoch : Nat
  deriving DecidableEq, Repr

/-! ## Data carried between nodes -/

/-- One half of a Sheet: its format, the tokens' element codes (in BF16 while the token's block is open, R104),
how many tokens are in closed blocks, and the scales by block then channel (R87). -/
structure Half where
  fmt : Nat
  toks : List (List Nat)
  closed : Nat
  scales : List (List Nat)
  deriving DecidableEq, Repr

/-- A Sheet's metadata record (R114) beside its two halves. -/
structure Sheet where
  tenant : Nat
  ream : Nat
  layer : Nat
  head : Nat
  num : Nat
  dim : Nat
  tokenCount : Nat
  pending : Nat
  commitStep : Nat
  createdStep : Nat
  alive : Nat
  segments : List Nat
  ages : List Nat
  segmented : Bool
  kExt : Bool
  vExt : Bool
  kHalf : Half
  vHalf : Half
  poisoned : Bool
  bankSet : Nat
  deriving DecidableEq, Repr

/-- A Deckle (R193). -/
structure Deckle where
  reps : Nat
  repOf : List Nat
  codes : List (List Nat)
  residual : List Nat
  maxNorm : Nat
  codebookCrc : Nat
  firstStep : Nat
  alive : Nat
  poisoned : Bool
  deriving DecidableEq, Repr

/-- A Partial Attention Record of one row (R154, R155); the output vector as FP32 patterns, BF16 widened. -/
structure Rec where
  m : F32
  l : F32
  o : List F32
  tokens : Nat
  contributors : Nat
  empty : Bool
  deriving DecidableEq, Repr

/-- A weight entry of a record set (R158, R224). -/
structure WeightEntry where
  sheet : Nat
  vals : List F32
  deriving DecidableEq, Repr

/-- A gap record (R228). -/
structure Gap where
  cause : Nat
  node : Nat
  slice : Nat
  ream : Nat
  layer : Nat
  head : Nat
  sheetFirst : Nat
  sheetLast : Nat
  ticketId : Nat
  more : Bool
  deriving DecidableEq, Repr

/-- A record set, or with rows 0 a refusal set (R224). -/
structure RecSet where
  ticketId : Nat
  treeId : Nat
  sender : Nat
  epoch : Nat
  rows : Nat
  status : Nat
  late : Bool
  recs : List Rec
  gaps : List Gap
  weights : List WeightEntry
  weightDropped : Nat
  deriving DecidableEq, Repr

/-- An entry of the composition map (R371). -/
structure MapEntry where
  node : Nat
  role : Nat
  membership : Nat
  inService : Nat
  retrieval : Nat
  spareGroup : Nat
  deriving DecidableEq, Repr

/-- A pool lease in the Lead's table (R361, R362). -/
structure PoolLease where
  id : Nat
  holder : Nat
  base : Nat
  mib : Nat
  expiry : Nat
  lapsed : Bool
  deriving DecidableEq, Repr

/-- One version of a share (R366 to R370): the object, where it lies, and its opens by entry node. -/
structure Version where
  num : Nat
  kind : Nat
  object : Nat
  node : Nat
  base : Nat
  opens : List (Nat × Nat)
  deriving DecidableEq, Repr

/-- A share in the Lead's table (R366). -/
structure ShareDef where
  tenant : Nat
  id : Nat
  current : Nat
  ended : Bool
  versions : List Version
  deriving DecidableEq, Repr

/-- The Lead's state as it travels to the deputy at each commit point (R19). -/
structure LeadImage where
  epoch : Nat
  map : List MapEntry
  leases : List PoolLease
  shares : List ShareDef
  scores : Tbl Nat
  step : Nat
  stepStart : Nat
  spans : Tbl Nat
  deriving DecidableEq, Repr

/-- A handoff order (R376 step 1). -/
structure Handoff where
  src : Nat
  dst : Nat
  tenant : Nat
  ream : Nat
  layerFirst : Nat
  layerLast : Nat
  headFirst : Nat
  headLast : Nat
  quireFirst : Nat
  quireLast : Nat
  homeMoves : Bool
  layers : Nat
  heads : Nat
  dim : Nat
  retired : Nat
  retiredSet : Bool
  preempted : Bool
  sealed : Bool
  deriving DecidableEq, Repr

/-- A composition map as the Lead sends it (R373): its epoch, the drain steps W that govern it, its entries, and the handoffs
that it ends (R376). -/
structure MapMsg where
  epoch : Nat
  drain : Nat
  map : List MapEntry
  ready : List Handoff
  deriving DecidableEq, Repr

/-- The contents of one Quire as a handoff copies it (R376 step 2). -/
structure QuireImage where
  tenant : Nat
  ream : Nat
  layer : Nat
  head : Nat
  num : Nat
  sheets : List Sheet
  deckles : Tbl Deckle
  deriving DecidableEq, Repr

/-- A part of a whole with the message ID that it came under (R144). -/
structure WholePart where
  msgId : Nat
  bytes : List Byte
  deriving DecidableEq, Repr

/-- A handoff with the Quires as they stand in the copy of it that has ended (R376). -/
structure CopySet where
  order : Handoff
  images : List QuireImage
  deriving DecidableEq, Repr

/-- A committed token as the append journal carries it (R399). -/
structure JournalTok where
  tenant : Nat
  ream : Nat
  layer : Nat
  head : Nat
  dim : Nat
  layers : Nat
  heads : Nat
  position : Nat
  segment : Nat
  commitStep : Nat
  kFmt : Nat
  vFmt : Nat
  k : List Nat
  v : List Nat
  kScales : List Nat        -- scales of the token's block by channel, empty while it is open
  vScales : List Nat
  deriving DecidableEq, Repr

/-- A lost range (R401). -/
structure LostRange where
  tenant : Nat
  ream : Nat
  layer : Nat
  head : Nat
  sheetFirst : Nat
  sheetLast : Nat
  deriving DecidableEq, Repr

/-- A join request (R456 step 2). -/
structure JoinReq where
  src : Nat
  unitId : Nat
  herdId : Nat
  role : Nat
  spareGroup : Nat
  slices : Nat
  deriving DecidableEq, Repr

/-- A join reply (R456 step 3): cause 0 accepts. -/
structure JoinRep where
  unitId : Nat
  cause : Nat
  number : Nat
  deriving DecidableEq, Repr

/-- An OPEN, CLOSE or PUBLISH as the entry node sends it to the Lead (R366). -/
structure ShareMsg where
  src : Nat
  op : Nat          -- ticket type: 0x0A OPEN, 0x0B CLOSE, 0x0C PUBLISH
  ticketId : Nat
  tenant : Nat
  shareId : Nat
  version : Nat
  kind : Nat
  object : Nat
  node : Nat
  base : Nat
  deriving DecidableEq, Repr

/-- The Lead's answer to a ShareMsg (R366, R367). -/
structure ShareAns where
  ticketId : Nat
  tenant : Nat
  status : Nat
  count : Nat
  kind : Nat
  object : Nat
  node : Nat
  base : Nat
  deriving DecidableEq, Repr

/-- A grant or refusal of a pool lease (R361 step 2). -/
structure PoolGrant where
  granted : Bool
  id : Nat
  base : Nat
  mib : Nat
  mustClear : Bool
  deriving DecidableEq, Repr

/-! ## What the hardware reports to the node -/

/-- The word that failed parity, by the paths of R380 and the reader of R382. -/
inductive ParityAt where
  | engine (slice engine lane share : Nat)     -- engine datapath; share: place in the slice's queue
  | feltStaging (slice block : Nat)            -- Felt, staging copy
  | feltHome (sheetKey addr : Nat)             -- Felt home: as an HBM line of the Quire
  | sheetLine (sheetKey stack addr : Nat)      -- HBM line of Sheet metadata or halves
  | deckleLine (sheetKey stack addr : Nat)     -- HBM line of a Deckle
  | indexEntry (index item stack addr : Nat)   -- HBM line of index entries
  | quireRecord (quireKey stack addr : Nat)    -- HBM line of a Quire record
  | hostLine (dpa : Nat)                       -- HBM line of a host-visible block
  | hbmLine (stack addr : Nat)                 -- another HBM line
  | scoreArray (slice : Nat)                   -- the score array of stack 2 x slice
  | xbarRecord (slice share : Nat)             -- crossbar, carrying a slice record
  | xbarPacket (die off : Nat)                 -- crossbar, carrying a packet
  | mergeRow (ctx off : Nat)                   -- merge-unit row store
  deriving DecidableEq, Repr

/-- What the check of a guarded record showed (R385): none where the word is of no such record; otherwise its crc or alive value
fails, stale where the crc passes and the alive value lies 1 to 127 behind. -/
inductive RecordCheck where
  | none
  | fails
  | stale
  deriving DecidableEq, Repr

/-- Outcome of a slice's training and self-test (R451, R465). -/
structure HwResult where
  scoringOk : Bool
  carryingOk : Bool
  enginesFailed : List Nat
  scoreArrayOk : Bool
  feltFailed : List Nat
  deriving DecidableEq, Repr

/-- One 10 us sample of a rail (R414): milliwatts, and amperes. -/
structure RailSample where
  milliwatts : Nat
  amps : Nat
  deriving DecidableEq, Repr

/-- One 10 us reading of the sensors (R421), in whole degrees Celsius: 8 junction diodes for each of the two attention dies,
2 for each of the four port dies, one for each of the eight stacks. -/
structure Temps where
  att : List Nat
  port : List Nat
  hbm : List Nat
  deriving DecidableEq, Repr

/-- The 247 rows of the table of operations and events. -/
inductive Instr where
  -- the dictionary
  | read (via : Via) (p : Pdu)
  | write (via : Via) (p : Pdu)
  | describe (via : Via) (p : Pdu)
  | readBlock (via : Via) (p : Pdu)
  | enableStopDone (key : Nat)
  | storeCommit (w : WReq) (v : Byte) (readBackOk : Bool)
  | storeDefaults (w : WReq) (v : Byte)
  | bundleApply (w : WReq) (v : Byte)
  -- the Herd
  | herdEnable (w : WReq) (v : Byte)
  | deputyEnable (w : WReq) (v : Byte) (taken : Bool)    -- taken: the Lead already has a deputy
  | deputyState (src : Nat) (img : LeadImage)
  | leadSilenceTimeout
  | takeoverProbe (src heard : Nat)
  | probeReply (src heard : Nat)
  | leadTakeover
  -- Herd Time and steps
  | timeSymbolSend (link : Nat)
  | timeSymbol (link block : Nat)
  | htSymbolTimeout
  | htLost
  | htRefEnable (w : WReq) (v : Byte)
  | htSourceEnable (w : WReq) (v : Byte)
  | htRefEdge
  | htRefMissing
  | stepAnnounceDue
  | stepAnnounce (link src msgId hops unit : Nat) (a : Announce)
  | stepStart
  | epochDrainEnd
  | stepGuardPoint
  | stallNotice (src step : Nat)
  | spanReport (src span : Nat)
  | scheduleEnable (slice : Nat) (w : WReq) (v : Byte)
  | scheduleTableWrite (slice sub : Nat) (w : WReq) (payload : List Byte)
  | sweep (slice entry : Nat)
  | admitOpen (slice entry : Nat)
  | admitClose (slice entry : Nat)
  | commit (slice entry : Nat)
  | tierStallLimit
  | mergeClose (slice entry : Nat)
  | maintOpen (slice entry : Nat) (eqFailed : List Nat) (stackFailed : Bool)
  | maintClose (slice entry : Nat)
  | deadlineEnable (w : WReq) (v : Byte)
  | deadlineFire (id : Nat)
  | formatRulesEnable (w : WReq) (v : Byte)
  -- attention
  | query
  | append
  | retire
  | appendRoomWaitEnd
  | ticketMessage (link src vl depth key whole offset : Nat) (part : WholePart)
  | shareDispatch (slice : Nat)
  | shareResume (slice : Nat)
  | shareStreamStart (slice : Nat)
  | passStart (slice : Nat)
  | shareRecord (slice : Nat)
  | attentionEnable (w : WReq) (v : Byte)
  -- scoring stacks
  | scoringEnable (w : WReq) (v : Byte)
  | rebalanceEnable (w : WReq) (v : Byte)
  | burstStart (slice : Nat)
  | burstEnd (slice : Nat)
  | refreshDue (slice bankSet : Nat)
  | hostMemRead (hpa : Nat)
  | hostMemWrite (hpa : Nat) (data : List Byte)
  | flipToDevice
  | flipToHost
  | fence
  | fenceDone (id : Nat)
  | quireRebalanceSwitch (quireKey : Nat)
  -- Deckle index and vector search
  | deckleEnable (w : WReq) (v : Byte)
  | deckleBuild (slice : Nat)
  | searchEnable (w : WReq) (v : Byte)
  | vindexEnable (index : Nat) (w : WReq) (v : Byte)
  | search
  | insert
  | delete
  | filterStore
  | filterDrop
  | loadCodebook
  | dropCodebook
  -- merge trees
  | mergeEnable (w : WReq) (v : Byte)
  | treeEntryWrite (w : WReq) (payload : List Byte)
  | queryForwardArrive (link src vl depth key : Nat) (whole : List Byte)
  | mergeContextOpen
  | set (src : Nat) (m : RecSet)
  | mergeDeadline (ctx : Nat)
  -- the directory
  | directoryEnable (w : WReq) (v : Byte)
  | dirWindowFind (w : WReq)
  | dirWindowInsert (w : WReq)
  | dirWindowRemove (w : WReq)
  -- tiers
  | vatEnable (w : WReq) (v : Byte)
  | pressEnable (w : WReq) (v : Byte)
  | feltHomeEnable (w : WReq) (v : Byte)
  | vatRegionEnable (region : Nat) (w : WReq) (v : Byte)
  | tenantEnable (tenant : Nat) (w : WReq) (v : Byte)
  | quireMoveSwitch (quireKey : Nat) (times : List Nat)   -- times: ns that each of its Vat accesses took
  | quireSourceFree (quireKey : Nat)
  | quireMoveError (quireKey : Nat) (access : Bool)   -- access: a CXL access error
  | demotionStart (slice : Nat)
  | overQuotaDemotion (tenant : Nat)
  | preempt
  | preemptAck (src tenant ream count : Nat)
  | resume
  | move
  | press
  | vatRegionDrain (region : Nat) (w : WReq) (v : Byte)
  | vatRegionFail (region : Nat)
  -- the host port
  | hostPortEnable (w : WReq) (v : Byte)
  | slotAreaEnable (area : Nat) (w : WReq) (v : Byte)
  | hdmDecoderProgram (decoder hpa size dpa : Nat) (lock commit : Bool)
  | hostSnoopResponse (line : Nat)
  | completionWriteError (id : Nat)
  | cxlLinkDown
  | cxlLinkUp (hostMode width : Nat)
  | conventionalReset
  | functionLevelReset (vf : Nat)
  | mailboxUzoenePdu (fn : Nat) (payload : List Byte)
  | getEventRecords (fn : Nat)
  | clearEventRecords (fn : Nat) (handles : List Nat)
  | getFwInfo (fn : Nat)
  | transferFw (fn action slot offset : Nat) (data : List Byte)
  | activateFw (fn action slot : Nat)
  | getSupportedLogs (fn : Nat)
  | getLog (fn log : Nat)
  | identifyMemoryDevice (fn : Nat)
  | mailboxUnsupported (fn opcode : Nat)
  | getMeasurements (index nonce : Nat)
  | keyExchange (doe : Bool) (pubKey : Nat) (transcript sig : List Byte)
  | ideKm (session stream : Nat) (establish : Bool)
  -- links and transport
  | linkEnable (link : Nat) (w : WReq) (v : Byte)
  | linkTrained (link farOffer : Nat)
  | linkTrainingTimeout (link : Nat) (signal : Bool)
  | linkRetrainAttempt (link : Nat)
  | laneFlap (link lane : Nat) (farTraining : Bool)
  | laneRestore (link : Nat) (w : WReq) (v : Byte)
  | linkBlockSend (link : Nat)
  | linkBlock (link block : Nat)
  | packetReceive (link : Nat) (flits : List (List Byte)) (corrected uncorrectable : Nat)
  | ack (src vl : Nat) (e : AckEntry)
  | nak (src vl msgId status : Nat)
  | ackDelayExpire (src vl msgId : Nat)
  | retransmitTimeout (dst vl msgId packet : Nat)
  | rnrDelayExpire (dst vl msgId : Nat)
  | reassemblyTimeout (src vl msgId : Nat)
  | ccInterval (dst : Nat)
  | register (w : WReq)
  | deregister (w : WReq)
  | transportEnable (w : WReq) (v : Byte)
  | trafficEnable (w : WReq) (v : Byte)
  | egressSelect (link : Nat)
  -- extents, leases and composition
  | extentEnable (w : WReq) (v : Byte)
  | create (w : WReq)
  | setGrants (w : WReq)
  | revoke (w : WReq)
  | extentDrainEnd (extent : Nat)
  | memoryClearDone (holder : Nat)
  | tenantLeaseExpire (tenant : Nat)
  | renew
  | open
  | close
  | publish
  | shareReq (m : ShareMsg)
  | shareReply (a : ShareAns)
  | versionRelease (kind object tenant : Nat)
  | poolEnable (w : WReq) (v : Byte)
  | poolRequestMib (w : WReq) (mib : Nat)
  | poolLeaseReq (src mib : Nat)
  | poolLeaseGrant (g : PoolGrant)
  | poolLeaseRenewDue (lease : Nat)
  | poolLeaseRenew (src lease : Nat)
  | poolRelease (w : WReq) (lease : Nat)
  | poolLeaseRelease (src lease : Nat) (drained : Bool)
  | poolLeaseRevoke (lease drainNs : Nat)
  | poolLeaseGuardExpire (lease : Nat)
  | poolLeaseLapse (lease : Nat)
  | mapUpdate (src : Nat) (m : MapMsg)
  | handoffOrder (src : Nat) (o : Handoff) (copies : List QuireImage)
  | handoffCopyDone (c : CopySet)
  | handoffReady (src : Nat) (o : Handoff)
  | handoffRevert (src : Nat) (o : Handoff)
  -- integrity, health and spares
  | parityError (at_ : ParityAt) (check : RecordCheck) (failed : Nat)
  | cvReset (w : WReq)
  | cvRun (w : WReq)
  | cvRunDone (ctx : Nat)
  | cvAbort (w : WReq) (fed : Nat)
  | sliceWatchdogTimeout (slice : Nat) (answers : Bool)
  | healthEnable (w : WReq) (v : Byte)
  | healthReportDue
  | healthReport (src : Nat) (counts : List Nat) (unmirrored : Nat)
  | healthReportMissed (node : Nat)
  | nodeLost (node : Nat) (neighbours : Bool)    -- neighbours: every trained neighbour reports all its links to it down
  | standInOrder (src node : Nat)
  | lostRanges (src : Nat) (ranges : List LostRange)
  | journalEnable (w : WReq) (v : Byte)
  | journalMirror (src step : Nat) (toks : List JournalTok)
  | journalAck (src step : Nat) (taken : Bool)
  | journalAckTimeout
  | journalFetch (src lost : Nat) (toks : List JournalTok)
  | lostRangeClear (src tenant ream : Nat)
  | event (src entry : Nat)
  | logClear (w : WReq) (v : Byte)
  | traceTriggerEnable (w : WReq) (v : Byte)
  -- power
  | powerEnable (w : WReq) (v : Byte)
  | powerWindow
  | powerSample (rails : List RailSample) (sliceWatts : List Nat)
  | thermalSample (t : Temps)
  | thermTrip (att : Bool) (die : Nat)
  -- trust and firmware
  | nodeReset
  | debugAttached
  | extest
  | attestRequest (w : WReq) (v : Byte)
  | attestReportReady
  | mgmtSessionEnable (w : WReq) (v : Byte)
  | mgmtSecureDatagram (session : Nat) (bytes : List Byte)
  | sessionIdleTimeout (session : Nat)
  | sessionKeyWrite (entry : Nat) (w : WReq) (payload : List Byte)
  | ownerKeyWrite (w : WReq) (payload : List Byte)
  | fwBufferWrite (w : WReq) (offset : Nat) (payload : List Byte)
  | fwApply (w : WReq) (v : Byte)
  | fwVerifyDone
  | fwWriteDone
  | fwAbort (w : WReq) (v : Byte)
  | fwBufferTimeout
  | fwActivateSlices (w : WReq) (v : Byte)
  | imageActivated (slice : Nat)
  | svnCommit (w : WReq) (v : Byte)
  -- start-up and service
  | sliceHardwareReady (slice : Nat) (r : HwResult)
  | autostartWaitEnd
  | autostartTimeout
  | joinRequest (r : JoinReq)
  | joinReply (r : JoinRep)
  | joinTimeout
  | quiesce (slice : Nat) (w : WReq)
  | evacuationDone (slice : Nat)
  | cancel (slice : Nat) (w : WReq)
  | retrain (slice : Nat) (w : WReq)
  | retrainDone (slice : Nat) (ok : Bool)
  | retireSlice (slice : Nat) (w : WReq)
  | readmit (slice : Nat) (w : WReq)
  | readmitDone (slice : Nat) (r : HwResult)
  | sliceReport (src slice state : Nat)
  -- pins and late rows of the table
  | nodeRstNRelease (strap : Bool)
  | nodeRstNAssert
  | pwrOkCoreDrop
  | ticketWholeTimeout (src vl : Nat)
  | coreRailsPowerUp
  | vddAuxPowerUp
  | controlCoreWatchdog
  | poolRunCleared (lease : Nat)
  | resumeAck (src tenant ream count : Nat)
  deriving DecidableEq, Repr

end Sys2Proof
end

