-- ==== Sys2Proof/Decode.lean ====
section
/-! DEFINITION. The command that a word spells: the table of this block gives no row any bits, so none is spelt. -/

namespace Sys2Proof

/-- The command spelt by a word of the table's bits. No row of the table has a bit pattern. -/
def decodeTableWord (_nbits _w : Nat) : Option Instr := none

end Sys2Proof
end

