-- ==== Sys2Proof/Machine/Table.lean ====
section
/-! DEFINITION. Finite tables keyed by a number, in one canonical form: keys strictly rising. -/

namespace Sys2Proof.Machine

/-- The entry at a key, if the table lists one. -/
def tget? {α : Type} : Tbl α → Nat → Option α
  | [], _ => none
  | (k, v) :: t, n => if k = n then some v else tget? t n

/-- The entry at a key, or the given default. -/
def tget {α : Type} (t : Tbl α) (n : Nat) (d : α) : α := (tget? t n).getD d

/-- The table without the entry at a key. -/
def terase {α : Type} : Tbl α → Nat → Tbl α
  | [], _ => []
  | (k, v) :: t, n => if k = n then terase t n else (k, v) :: terase t n

/-- The table with an entry put before the first larger key. -/
def tput {α : Type} : Tbl α → Nat → α → Tbl α
  | [], n, v => [(n, v)]
  | (k, w) :: t, n, v => if n < k then (n, v) :: (k, w) :: t else (k, w) :: tput t n v

/-- The table with the entry at a key replaced. -/
def tset {α : Type} (t : Tbl α) (n : Nat) (v : α) : Tbl α := tput (terase t n) n v

/-- As tset, but an entry equal to the default is not listed. -/
def tsetD {α : Type} [DecidableEq α] (t : Tbl α) (n : Nat) (v d : α) : Tbl α :=
  if v = d then terase t n else tset t n v

/-- Change one listed entry; an unlisted key stays unlisted. -/
def tmod {α : Type} (t : Tbl α) (n : Nat) (f : α → α) : Tbl α :=
  match tget? t n with
  | none => t
  | some v => tset t n (f v)

/-- The keys of a table. -/
def tkeys {α : Type} (t : Tbl α) : List Nat := t.map Prod.fst

/-- The lowest number, up to the limit, that the table does not list; the limit where it lists them all. -/
def tfree {α : Type} (t : Tbl α) : Nat → Nat → Nat
  | 0, n => n
  | fuel + 1, n => if (tget? t n).isSome then tfree t fuel (n + 1) else n

/-- The canonical form: keys strictly rising. -/
def twf {α : Type} : Tbl α → Bool
  | [] => true
  | [_] => true
  | (a, _) :: (b, w) :: t => decide (a < b) && twf ((b, w) :: t)

/-- Element n of a list, or a default. -/
def nth {α : Type} : List α → Nat → α → α
  | [], _, d => d
  | a :: _, 0, _ => a
  | _ :: t, n + 1, d => nth t n d

/-- The list with element n replaced (nothing changes beyond its end). -/
def setNth {α : Type} : List α → Nat → α → List α
  | [], _, _ => []
  | _ :: t, 0, v => v :: t
  | a :: t, n + 1, v => a :: setNth t n v

/-- Whether a list of numbers holds a number. -/
def has (l : List Nat) (n : Nat) : Bool := l.any (fun a => a == n)

/-- The list with a number put at its end, unless it holds it. -/
def addNew (l : List Nat) (n : Nat) : List Nat := if has l n then l else l ++ [n]

/-- The list without a number. -/
def without (l : List Nat) (n : Nat) : List Nat := l.filter (fun a => a != n)

/-- The numbers a, a + 1, ..., a + n - 1. -/
def upFrom : Nat → Nat → List Nat
  | _, 0 => []
  | a, n + 1 => a :: upFrom (a + 1) n

/-- The sum of a list. -/
def sumNat (l : List Nat) : Nat := l.foldl (fun a b => a + b) 0

/-- The largest of a list, 0 for none. -/
def maxNat (l : List Nat) : Nat := l.foldl (fun a b => max a b) 0

/-- The first failing test of a list, in order. -/
def firstSome {β : Type} : List (Option β) → Option β
  | [] => none
  | some b :: _ => some b
  | none :: t => firstSome t

/-- The quotient rounded up. -/
def ceilDiv (a b : Nat) : Nat := (a + b - 1) / b

end Sys2Proof.Machine
end

