-- ==== Sys2Proof/Machine/Bits.lean ====
section
/-! DEFINITION. Bit fields, little-endian bytes and the two check codes. -/

namespace Sys2Proof.Machine

/-- Bits [lo + len - 1 : lo] of a word. -/
def bits (w lo len : Nat) : Nat := (w >>> lo) % 2 ^ len

/-- One bit of a word. -/
def bitB (w n : Nat) : Bool := bits w n 1 == 1

/-- A Bool as a bit. -/
def b2n (b : Bool) : Nat := if b then 1 else 0

/-- Fields laid side by side from bit 0 up: each a pair of a width and a value. -/
def packBits : List (Nat × Nat) → Nat
  | [] => 0
  | (w, v) :: t => v % 2 ^ w + 2 ^ w * packBits t

/-- The values of fields of the given widths, from bit 0 up. -/
def unpackBits : List Nat → Nat → List Nat
  | [], _ => []
  | w :: t, n => (n % 2 ^ w) :: unpackBits t (n / 2 ^ w)

/-- The n low bytes of a number, byte 0 first (R30: little-endian). -/
def toBytes : Nat → Nat → List Byte
  | 0, _ => []
  | n + 1, v => BitVec.ofNat 8 v :: toBytes n (v / 256)

/-- The number that bytes spell, byte 0 least significant. -/
def ofBytes : List Byte → Nat
  | [] => 0
  | b :: t => b.toNat + 256 * ofBytes t

/-- A list of bytes cut or filled with 0x00 to a length. -/
def padBytes (n : Nat) (l : List Byte) : List Byte := (l ++ List.replicate (n - l.length) 0).take n

/-- One bit of a reflected CRC. -/
def crcBit (poly c : Nat) : Nat := if c % 2 == 1 then (c / 2) ^^^ poly else c / 2

/-- One byte of a reflected CRC. -/
def crcByte (poly c : Nat) (b : Byte) : Nat :=
  let c := c ^^^ b.toNat
  crcBit poly (crcBit poly (crcBit poly (crcBit poly (crcBit poly (crcBit poly (crcBit poly (crcBit poly c)))))))

/-- CRC-32C: reflected polynomial 0x82F63B78, initial value and final exclusive or 0xFFFFFFFF. -/
def crc32c (l : List Byte) : Nat := (l.foldl (crcByte 0x82F63B78) 0xFFFFFFFF) ^^^ 0xFFFFFFFF

/-- One bit of CRC-64, most significant bit first: ECMA-182 polynomial 0x42F0E1EBA9EA3693 (R387). -/
def crc64Bit (c : Nat) : Nat :=
  if c / 2 ^ 63 % 2 == 1 then (c * 2 % 2 ^ 64) ^^^ 0x42F0E1EBA9EA3693 else c * 2 % 2 ^ 64

/-- One byte of CRC-64. -/
def crc64Byte (c : Nat) (b : Byte) : Nat :=
  let c := c ^^^ (b.toNat * 2 ^ 56)
  crc64Bit (crc64Bit (crc64Bit (crc64Bit (crc64Bit (crc64Bit (crc64Bit (crc64Bit c)))))))

/-- CRC-64 continued from a value over bytes. -/
def crc64 (c : Nat) (l : List Byte) : Nat := l.foldl crc64Byte c

/-- CRC-32C continued from an internal value over bytes (before the final exclusive or). -/
def crc32cCont (c : Nat) (l : List Byte) : Nat := l.foldl (crcByte 0x82F63B78) c

/-- The addition that overflows to the width's modulus. -/
def wrapAdd (w a b : Nat) : Nat := (a + b) % 2 ^ w

end Sys2Proof.Machine
end

