-- ==== Sys2Proof/Machine/Operands.lean ====
section
/-! DEFINITION. The operand forms: the fields of a ticket's header and bodies, of a tree entry, of an extent record and
of a management message, each cut from the number that its bytes spell. -/

namespace Sys2Proof.Machine

/-! ## The common header (R139) -/

def tkCrc (r : Nat) : Nat := bits r 0 32
def tkType (r : Nat) : Nat := bits r 32 8
def tkAlive (r : Nat) : Nat := bits r 40 8
def tkTenant (r : Nat) : Nat := bits r 48 8
def tkInFmt (r : Nat) : Nat := bits r 58 2
def tkVersion (r : Nat) : Nat := bits r 60 4
def tkClass (r : Nat) : Nat := bits r 64 3
def tkEpoch (r : Nat) : Nat := bits r 80 16
def tkId (r : Nat) : Nat := bits r 96 32
def tkAddr (r : Nat) : Nat := bits r 128 64
def tkDeadline (r : Nat) : Nat := bits r 192 64

/-- Bytes per element of an input format (R147): FP32, BF16, FP16 or FP8. -/
def inWidth (f : Nat) : Nat := if f = 0 then 4 else if f = 3 then 1 else 2

/-- The element format code of an input format (R96). -/
def inSpec (f : Nat) : Nat := match f with | 0 => 0 | 1 => 1 | 2 => 2 | _ => 3

/-! ## Bodies: QUERY (R145), APPEND (R148), RETIRE (R133), FENCE (R179), tier tickets (R277), shares (R365) -/

def bReam (r : Nat) : Nat := bits r 256 32

def qFirst (r : Nat) : Nat := bits r 288 32
def qLast (r : Nat) : Nat := bits r 320 32
def qSnap (r : Nat) : Nat := bits r 352 64
def qPayload (r : Nat) : Nat := bits r 416 64
def qResult (r : Nat) : Nat := bits r 480 64
def qMaskAddr (r : Nat) : Nat := bits r 544 64
def qMaskA (r : Nat) : Nat := bits r 608 40
def qMaskB (r : Nat) : Nat := bits r 648 40
def qTree (r : Nat) : Nat := bits r 688 16
def qScale (r : Nat) : Nat := bits r 704 32
def qTopK (r : Nat) : Nat := bits r 736 16
def qLayer (r : Nat) : Nat := bits r 752 12
def qDim (r : Nat) : Nat := bits r 764 4
def qHead (r : Nat) : Nat := bits r 768 8
def qHeads (r : Nat) : Nat := bits r 776 6 + 1
def qSparse (r : Nat) : Bool := bitB r 782
def qOutBf16 (r : Nat) : Bool := bitB r 783
def qTokens (r : Nat) : Nat := bits r 784 4 + 1
def qMask (r : Nat) : Nat := bits r 788 4
def qNormalise (r : Nat) : Bool := bitB r 792
def qTransit (r : Nat) : Bool := bitB r 793
def qExport (r : Nat) : Bool := bitB r 794
def qLog8 (r : Nat) : Bool := bitB r 795
def qWeights (r : Nat) : Nat := bits r 796 16
def qRows (r : Nat) : Nat := qHeads r * qTokens r

def aPos (r : Nat) : Nat := bits r 288 64
def aPayload (r : Nat) : Nat := bits r 352 64
def aLayers (r : Nat) : Nat := bits r 416 16
def aHeads (r : Nat) : Nat := bits r 432 16
def aLayerFirst (r : Nat) : Nat := bits r 448 16
def aLayerCount (r : Nat) : Nat := bits r 464 16
def aHeadFirst (r : Nat) : Nat := bits r 480 16
def aHeadCount (r : Nat) : Nat := bits r 496 16
def aDim (r : Nat) : Nat := bits r 512 4
def aTokens (r : Nat) : Nat := bits r 520 8

def fAddr (r : Nat) : Nat := bits r 256 64
def fLength (r : Nat) : Nat := bits r 320 64
def fOp (r : Nat) : Nat := bits r 384 8

def mFirst (r : Nat) : Nat := bits r 288 32
def mLast (r : Nat) : Nat := bits r 320 32
def mTier (r : Nat) : Nat := bits r 368 4
def pSrc (r : Nat) : Nat := bits r 384 64
def pDst (r : Nat) : Nat := bits r 448 64
def pSrcLen (r : Nat) : Nat := bits r 512 32
def pDstLen (r : Nat) : Nat := bits r 544 32
def pOp (r : Nat) : Nat := bits r 576 4

def sShare (r : Nat) : Nat := bits r 256 32
def sResult (r : Nat) : Nat := bits r 288 64
def sVersion (r : Nat) : Nat := bits r 352 32
def sObject (r : Nat) : Nat := bits r 384 32
def sKind (r : Nat) : Nat := bits r 416 8

/-! SEARCH (R203) -/

def hPayload (r : Nat) : Nat := bits r 256 64
def hResult (r : Nat) : Nat := bits r 320 64
def hBitmap (r : Nat) : Nat := bits r 384 64
def hSnap (r : Nat) : Nat := bits r 448 64
def hFirst (r : Nat) : Nat := bits r 512 32
def hSpan (r : Nat) : Nat := bits r 544 24 + 1
def hK (r : Nat) : Nat := bits r 568 16
def hProbes (r : Nat) : Nat := bits r 584 16 + 65536 * bits r 705 1
def hProbesMax (r : Nat) : Nat := bits r 600 16 + 65536 * bits r 706 1
def hRerank (r : Nat) : Nat := bits r 616 16
def hHandle (r : Nat) : Nat := bits r 632 16
def hTarget (r : Nat) : Nat := bits r 648 16
def hIndex (r : Nat) : Nat := bits r 664 8
def hLayer (r : Nat) : Nat := bits r 672 12
def hHead (r : Nat) : Nat := bits r 684 8
def hOp (r : Nat) : Nat := bits r 692 4
def hFilter (r : Nat) : Nat := bits r 696 2
def hLog8 (r : Nat) : Bool := bitB r 698
def hPart (r : Nat) : Nat := bits r 699 2
def hDim (r : Nat) : Nat := bits r 701 4

/-- The payload bytes of a query (R147) and of an append (R149). -/
def queryPayload (r d : Nat) : Nat := 32 + qTokens r * qHeads r * d * inWidth (tkInFmt r)
def appendPayload (r d : Nat) : Nat := 128 + aLayerCount r * aHeadCount r * aTokens r * 2 * d * inWidth (tkInFmt r)

/-- Bytes of the bitmap that a query names (R146). -/
def bitmapBytes (r : Nat) : Nat := if qMask r = 4 then ceilDiv (bits (qMaskB r) 0 24 + 1) 8 else 0

/-- Whether every reserved bit of a ticket is zero (R138), by type.  -/
def tkReservedOk (r : Nat) : Bool :=
  bits r 56 2 == 0 && bits r 67 13 == 0 &&
  (match tkType r with
   | 0x01 => bits r 812 212 == 0
   | 0x02 => bits r 528 496 == 0 && bits r 516 4 == 0
   | 0x03 => bits r 288 736 == 0
   | 0x04 => bits r 392 632 == 0
   | 0x05 => bits r 707 317 == 0
   | 0x06 | 0x07 | 0x08 | 0x09 => bits r 580 444 == 0 && bits r 372 12 == 0 && bits r 352 16 == 0
   | _ => bits r 424 600 == 0)

/-- Whether a type is assigned (R140): 0x01 to 0x0D. -/
def tkAssigned (r : Nat) : Bool := decide (1 ≤ tkType r) && decide (tkType r ≤ 0x0D)

/-- The CRC-32C over all 128 bytes with the crc field as zero (R139). -/
def tkCrcOk (r : Nat) : Bool := crc32c (toBytes 128 (r - tkCrc r)) == tkCrc r

/-! ## The tree entry (R220) and the extent record (R354) -/

def teMembers (e : Nat) : Nat := bits e 640 1024
def teChildren (e : Nat) : List Nat := (upFrom 0 32).map (fun k => bits e (128 + 16 * k) 16)
def teParent (e : Nat) : Nat := bits e 112 16
def teEpoch (e : Nat) : Nat := bits e 96 16
def teId (e : Nat) : Nat := bits e 80 16
def teCount (e : Nat) : Nat := bits e 72 8
def teDepth (e : Nat) : Nat := bits e 70 2
def teContributes (e : Nat) : Bool := bitB e 69
def teStepBound (e : Nat) : Bool := bitB e 68
def teValid (e : Nat) : Bool := bitB e 67

def exBase (e : Nat) : Nat := bits e 192 64
def exBlocks (e : Nat) : Nat := bits e 160 32
def exOwner (e : Nat) : Nat := bits e 152 8
def exKind (e : Nat) : Nat := bits e 148 4
def exStack (e : Nat) : Nat := bits e 140 4
def exSlice (e : Nat) : Nat := bits e 136 4
def exReserved (e : Nat) : Nat := bits e 128 8
def exGrant (e k : Nat) : Nat := bits e (16 * k) 16

/-! ## Grants (R354) -/

def gTenant (g : Nat) : Nat := bits g 8 8
def gValid (g : Nat) : Bool := bitB g 3
def gLeased (g : Nat) : Bool := bitB g 2
/-- Rights of a grant: bit 1 write, bit 0 read. -/
def gRights (g : Nat) : Nat := bits g 0 2

end Sys2Proof.Machine
end

