-- ==== Sys2Proof/Machine/Catalogue.lean ====
section
/-! DEFINITION. The catalogue of the Uzoene dictionary: every object with its type, access class, persistence,
default and value set, as the object tables of the manual's chapters give them, and the names of their keys.
A key is index x 256 + subindex. -/

namespace Sys2Proof.Machine

/-- Types of objects (R30, R485); octets and record carry their size in bytes. -/
inductive Ty where
  | bool | u8 | u16 | u32 | u64 | i32 | i64 | f32 | htime
  | octets (n : Nat)
  | record (n : Nat)
  | array
  deriving DecidableEq, Repr

/-- Access classes (R32). -/
inductive Acc where
  | ro | rw | wo | rwq | const
  deriving DecidableEq, Repr

/-- Persistence (R35, R485). -/
inductive Pers where
  | none | volatile | store | fuse | alwaysOn
  deriving DecidableEq, Repr

/-- The values that a write may carry (R30). -/
inductive Vals where
  | any
  | range (lo hi : Nat)
  | mult (lo hi m : Nat)       -- a multiple of m in the range
  | listed (l : List Nat)
  | zeroOr (lo hi : Nat)
  | f32 (lo hi : Nat)          -- finite FP32 patterns, not negative, in the range
  | vfTenant                   -- 0x0000 to 0x00FF, or 0xFFFF
  deriving DecidableEq, Repr

/-- A row: objects at indexes idx + i x step for i below idxN, subindices sub to sub + subN - 1. -/
structure Obj where
  idx : Nat
  idxN : Nat
  step : Nat
  sub : Nat
  subN : Nat
  ty : Ty
  acc : Acc
  pers : Pers
  dflt : Nat
  vals : Vals
  name : String
  stepBound : Bool
  deriving DecidableEq, Repr

/-- Bytes of a value of a type. -/
def Ty.size : Ty → Nat
  | .bool => 1 | .u8 => 1 | .u16 => 2 | .u32 => 4 | .u64 => 8 | .i32 => 4 | .i64 => 8 | .f32 => 4 | .htime => 8
  | .octets n => n | .record n => n | .array => 1

/-- Codes of DESCRIBE (R485). -/
def Ty.code : Ty → Nat
  | .bool => 0 | .u8 => 1 | .u16 => 2 | .u32 => 3 | .u64 => 4 | .i32 => 5 | .i64 => 6 | .f32 => 7 | .htime => 8
  | .octets _ => 9 | .record _ => 10 | .array => 11
def Acc.code : Acc → Nat
  | .ro => 0 | .rw => 1 | .wo => 2 | .rwq => 3 | .const => 4
def Pers.code : Pers → Nat
  | .none => 0 | .volatile => 1 | .store => 2 | .fuse => 3 | .alwaysOn => 4

/-- Objects of indexes 0x1000 to 0x10FF. -/
def page10 : List Obj := [
  ⟨0x1000, 1, 1, 0x01, 1, .u32, .const, .none, 13888, .any, "device_type", false⟩,
  ⟨0x1000, 1, 1, 0x02, 1, (.octets 16), .const, .none, 14947372248865984443130792776, .any, "ordering_code", false⟩,
  ⟨0x1000, 1, 1, 0x03, 1, .u8, .const, .none, 177, .any, "stepping", false⟩,
  ⟨0x1000, 1, 1, 0x04, 1, (.octets 16), .const, .none, 1, .any, "unit_id", false⟩,
  ⟨0x1000, 1, 1, 0x05, 1, .u16, .const, .none, 256, .any, "dictionary_version", false⟩,
  ⟨0x1000, 1, 1, 0x06, 1, .u32, .ro, .volatile, 16777216, .any, "firmware_version", false⟩,
  ⟨0x1010, 1, 1, 0x01, 1, .bool, .wo, .none, 0, (.range 0 1), "store_commit", false⟩,
  ⟨0x1010, 1, 1, 0x02, 1, .bool, .wo, .none, 0, (.range 0 1), "store_defaults", false⟩,
  ⟨0x1010, 1, 1, 0x03, 1, .u8, .ro, .volatile, 0, .any, "store_state", false⟩,
  ⟨0x1010, 1, 1, 0x04, 1, .u32, .rw, .volatile, 0, (.range 0 65536), "bundle_length", false⟩,
  ⟨0x1010, 1, 1, 0x05, 1, (.octets 65536), .wo, .volatile, 0, .any, "bundle_buffer", false⟩,
  ⟨0x1010, 1, 1, 0x06, 1, .bool, .wo, .none, 0, (.range 0 1), "bundle_apply", false⟩,
  ⟨0x1010, 1, 1, 0x07, 1, .u8, .ro, .volatile, 0, .any, "bundle_state", false⟩,
  ⟨0x1040, 1, 1, 0x01, 1, .u32, .ro, .volatile, 0, .any, "ht_ref_owner", false⟩,
  ⟨0x10F0, 1, 1, 0x00, 1, (.record 16), .ro, .volatile, 0, .any, "last_refusal", false⟩,
  ⟨0x10F0, 1, 1, 0x01, 1, .htime, .ro, .volatile, 0, .any, "when", false⟩,
  ⟨0x10F0, 1, 1, 0x02, 1, .u16, .ro, .volatile, 0, .any, "index", false⟩,
  ⟨0x10F0, 1, 1, 0x03, 1, .u8, .ro, .volatile, 0, .any, "subindex", false⟩,
  ⟨0x10F0, 1, 1, 0x04, 1, .u8, .ro, .volatile, 0, .any, "reason", false⟩,
  ⟨0x10F0, 1, 1, 0x05, 1, .u8, .ro, .volatile, 0, .any, "transport", false⟩,
  ⟨0x10F0, 1, 1, 0x06, 1, .u32, .ro, .volatile, 0, .any, "sequence", false⟩]

/-- Objects of indexes 0x1100 to 0x11FF. -/
def page11 : List Obj := [
  ⟨0x1100, 1, 1, 0x01, 1, .u8, .rwq, .store, 0, (.range 0 3), "herd_role", false⟩,
  ⟨0x1100, 1, 1, 0x02, 1, .u32, .rwq, .store, 0, .any, "herd_id", false⟩,
  ⟨0x1100, 1, 1, 0x03, 1, .u16, .ro, .volatile, 65535, .any, "node_number", false⟩,
  ⟨0x1100, 1, 1, 0x04, 1, .u16, .rwq, .store, 65535, .any, "spare_group", false⟩,
  ⟨0x1100, 1, 1, 0x05, 1, .bool, .rw, .store, 0, (.range 0 1), "deputy_enable", false⟩,
  ⟨0x1100, 1, 1, 0x06, 1, .u32, .rw, .store, 1000000, (.range 100000 100000000), "lead_takeover_ns", false⟩,
  ⟨0x1100, 1, 1, 0x07, 1, .u8, .ro, .volatile, 0, .any, "membership_state", false⟩,
  ⟨0x1100, 1, 1, 0x08, 1, .bool, .rw, .volatile, 0, (.range 0 1), "herd_enable", false⟩,
  ⟨0x1100, 1, 1, 0x09, 1, .u32, .ro, .store, 0, .any, "lead_term", false⟩]

/-- Objects of indexes 0x1200 to 0x12FF. -/
def page12 : List Obj := [
  ⟨0x1200, 1, 1, 0x01, 1, .u8, .rwq, .store, 0, (.range 0 2), "ht_source", false⟩,
  ⟨0x1200, 1, 1, 0x02, 1, .bool, .rw, .volatile, 0, (.range 0 1), "ht_ref_enable", false⟩,
  ⟨0x1200, 1, 1, 0x03, 1, .bool, .rw, .volatile, 0, (.range 0 1), "ht_source_enable", false⟩,
  ⟨0x1200, 1, 1, 0x04, 1, .u8, .ro, .volatile, 0, .any, "ht_state", false⟩,
  ⟨0x1200, 1, 1, 0x05, 1, .htime, .ro, .volatile, 0, .any, "ht_now", false⟩,
  ⟨0x1200, 1, 1, 0x06, 1, .u64, .rw, .volatile, 0, (.range 0 18446744073), "ht_ref_seconds", true⟩,
  ⟨0x1200, 1, 1, 0x07, 1, .u8, .ro, .volatile, 255, .any, "ht_hops", false⟩,
  ⟨0x1200, 1, 1, 0x08, 1, .u8, .ro, .volatile, 255, .any, "ht_upstream_link", false⟩,
  ⟨0x1200, 1, 1, 0x09, 1, .u32, .rw, .store, 50000000, (.range 1000000 1000000000), "ht_holdover_ns", true⟩,
  ⟨0x1200, 1, 1, 0x0A, 1, .u32, .rw, .store, 200000, (.range 10000 100000000), "step_length_ns", true⟩,
  ⟨0x1200, 1, 1, 0x0B, 1, .u32, .rw, .store, 1000000, (.range 10000 134217727), "step_max_ns", true⟩,
  ⟨0x1200, 1, 1, 0x0C, 1, .u32, .rw, .store, 2000, (.range 100 1000000), "step_extend_ns", true⟩,
  ⟨0x1200, 1, 1, 0x0D, 1, .u32, .rw, .store, 4000, (.range 2500 1000000), "step_guard_ns", true⟩,
  ⟨0x1200, 1, 1, 0x0E, 1, .u32, .ro, .volatile, 0, .any, "schedule_span_ns", false⟩,
  ⟨0x1200, 1, 1, 0x0F, 1, .u64, .ro, .volatile, 0, .any, "current_step", false⟩,
  ⟨0x1200, 1, 1, 0x10, 1, .u8, .rwq, .store, 1, (.range 0 16), "comparators_slice0", true⟩,
  ⟨0x1200, 1, 1, 0x11, 1, .u8, .rwq, .store, 0, (.range 0 16), "comparators_slice1", true⟩,
  ⟨0x1200, 1, 1, 0x12, 1, .u8, .rwq, .store, 0, (.range 0 16), "comparators_slice2", true⟩,
  ⟨0x1200, 1, 1, 0x13, 1, .u8, .rwq, .store, 0, (.range 0 16), "comparators_slice3", true⟩,
  ⟨0x1200, 1, 1, 0x14, 1, .u8, .rwq, .store, 0, (.range 0 48), "felt_mib_slice0", true⟩,
  ⟨0x1200, 1, 1, 0x15, 1, .u8, .rwq, .store, 0, (.range 0 48), "felt_mib_slice1", true⟩,
  ⟨0x1200, 1, 1, 0x16, 1, .u8, .rwq, .store, 0, (.range 0 48), "felt_mib_slice2", true⟩,
  ⟨0x1200, 1, 1, 0x17, 1, .u8, .rwq, .store, 0, (.range 0 48), "felt_mib_slice3", true⟩,
  ⟨0x1200, 1, 1, 0x18, 1, .u8, .rwq, .store, 1, (.range 0 1), "pins", true⟩,
  ⟨0x1200, 1, 1, 0x20, 1, .bool, .rw, .volatile, 0, (.range 0 1), "deadline_enable", false⟩,
  ⟨0x1200, 1, 1, 0x21, 1, .u8, .rwq, .store, 2, (.range 0 16), "comparators_slice0", true⟩,
  ⟨0x1200, 1, 1, 0x22, 1, .u8, .rwq, .store, 2, (.range 0 16), "comparators_slice1", true⟩,
  ⟨0x1200, 1, 1, 0x23, 1, .u8, .rwq, .store, 2, (.range 0 16), "comparators_slice2", true⟩,
  ⟨0x1200, 1, 1, 0x24, 1, .u8, .rwq, .store, 2, (.range 0 16), "comparators_slice3", true⟩,
  ⟨0x1200, 1, 1, 0x25, 1, .u8, .rwq, .store, 0, (.range 0 48), "felt_mib_slice0", true⟩,
  ⟨0x1200, 1, 1, 0x26, 1, .u8, .rwq, .store, 0, (.range 0 48), "felt_mib_slice1", true⟩,
  ⟨0x1200, 1, 1, 0x27, 1, .u8, .rwq, .store, 0, (.range 0 48), "felt_mib_slice2", true⟩,
  ⟨0x1200, 1, 1, 0x28, 1, .u8, .rwq, .store, 0, (.range 0 48), "felt_mib_slice3", true⟩,
  ⟨0x1200, 1, 1, 0x29, 1, .u8, .rwq, .store, 0, (.range 0 1), "pins", true⟩,
  ⟨0x1200, 1, 1, 0x2A, 1, .u32, .rw, .store, 10000000, (.range 10000 1000000000), "deadline_horizon_ns", true⟩,
  ⟨0x1200, 1, 1, 0x2B, 1, .u64, .ro, .volatile, 0, .any, "late_count", false⟩,
  ⟨0x1200, 1, 1, 0x2C, 1, .u64, .ro, .volatile, 0, .any, "late_discard_count", false⟩,
  ⟨0x1210, 4, 1, 0x01, 64, .u64, .rw, .store, 0, .any, "", true⟩,
  ⟨0x1220, 4, 1, 0x01, 1, .u8, .rwq, .store, 0, (.range 0 16), "comparators_slice0", false⟩,
  ⟨0x1220, 4, 1, 0x02, 1, .u8, .rwq, .store, 0, (.range 0 16), "comparators_slice1", false⟩] ++ [
  ⟨0x1220, 4, 1, 0x03, 1, .u8, .rwq, .store, 0, (.range 0 16), "comparators_slice2", false⟩,
  ⟨0x1220, 4, 1, 0x04, 1, .u8, .rwq, .store, 0, (.range 0 16), "comparators_slice3", false⟩,
  ⟨0x1220, 4, 1, 0x05, 1, .u8, .rwq, .store, 0, (.range 0 48), "felt_mib_slice0", false⟩,
  ⟨0x1220, 4, 1, 0x06, 1, .u8, .rwq, .store, 0, (.range 0 48), "felt_mib_slice1", false⟩,
  ⟨0x1220, 4, 1, 0x07, 1, .u8, .rwq, .store, 0, (.range 0 48), "felt_mib_slice2", false⟩,
  ⟨0x1220, 4, 1, 0x08, 1, .u8, .rwq, .store, 0, (.range 0 48), "felt_mib_slice3", false⟩,
  ⟨0x1220, 4, 1, 0x09, 1, .u8, .rwq, .store, 0, (.range 0 1), "pins", false⟩,
  ⟨0x1220, 4, 1, 0x0A, 1, .bool, .rw, .volatile, 0, (.range 0 1), "schedule_enable", false⟩,
  ⟨0x1220, 4, 1, 0x0B, 1, .u64, .ro, .volatile, 0, .any, "sweep_overrun_count", false⟩]

/-- Objects of the slice blocks 0x2000 + 0x100 x s. -/
def page20 : List Obj := [
  ⟨0x2000, 4, 256, 0x01, 1, .u8, .ro, .volatile, 0, .any, "slice_state", false⟩,
  ⟨0x2000, 4, 256, 0x02, 1, .u8, .wo, .none, 0, .any, "slice_op", false⟩,
  ⟨0x2000, 4, 256, 0x03, 1, .u8, .ro, .volatile, 0, .any, "slice_op_state", false⟩,
  ⟨0x2000, 4, 256, 0x04, 1, .u32, .ro, .volatile, 0, .any, "evacuation_quires_left", false⟩,
  ⟨0x2000, 4, 256, 0x08, 1, .u8, .rwq, .store, 24, (.range 8 48), "felt_pool_min_mib", false⟩,
  ⟨0x2000, 4, 256, 0x09, 1, .u8, .rwq, .store, 0, (.range 0 1), "slice_duty", false⟩,
  ⟨0x2000, 4, 256, 0x10, 1, .u32, .ro, .volatile, 0, .any, "sheets_held", false⟩,
  ⟨0x2000, 4, 256, 0x11, 1, .u32, .ro, .volatile, 0, .any, "sheets_open", false⟩,
  ⟨0x2000, 4, 256, 0x12, 1, .u32, .ro, .volatile, 0, .any, "extension_granules", false⟩,
  ⟨0x2000, 4, 256, 0x13, 1, .u64, .ro, .volatile, 0, .any, "appends_committed", false⟩,
  ⟨0x2000, 4, 256, 0x14, 1, .u64, .ro, .volatile, 0, .any, "appends_revoked", false⟩,
  ⟨0x2000, 4, 256, 0x15, 1, .u64, .ro, .volatile, 0, .any, "append_position_conflicts", false⟩,
  ⟨0x2000, 4, 256, 0x16, 1, .u32, .ro, .volatile, 0, .any, "reams_retired_pending", false⟩,
  ⟨0x2000, 4, 256, 0x17, 1, .u64, .ro, .volatile, 0, .any, "reams_reclaimed", false⟩,
  ⟨0x2000, 4, 256, 0x18, 1, .u64, .ro, .volatile, 0, .any, "snapshot_clamped_count", false⟩,
  ⟨0x2000, 4, 256, 0x19, 1, .u64, .ro, .volatile, 0, .any, "snapshot_too_old_count", false⟩,
  ⟨0x2000, 4, 256, 0x1A, 1, .u64, .ro, .volatile, 0, .any, "mask_rights_refused", false⟩,
  ⟨0x2000, 4, 256, 0x1B, 1, .u64, .ro, .volatile, 0, .any, "metadata_check_failures", false⟩,
  ⟨0x2000, 4, 256, 0x20, 1, .u64, .ro, .volatile, 0, .any, "shares_admitted", false⟩,
  ⟨0x2000, 4, 256, 0x21, 1, .u64, .ro, .volatile, 0, .any, "shares_parked", false⟩,
  ⟨0x2000, 4, 256, 0x22, 1, .u16, .ro, .volatile, 0, .any, "parked_now", false⟩,
  ⟨0x2000, 4, 256, 0x23, 1, .u64, .ro, .volatile, 0, .any, "stream_busy_ns", false⟩,
  ⟨0x2000, 4, 256, 0x24, 1, .u64, .ro, .volatile, 0, .any, "passes_run", false⟩,
  ⟨0x2000, 4, 256, 0x25, 1, .u64, .ro, .volatile, 0, .any, "deadline_aborts", false⟩,
  ⟨0x2000, 4, 256, 0x26, 1, .u8, .ro, .volatile, 32, .any, "engines_in_service", false⟩,
  ⟨0x2000, 4, 256, 0x30, 1, .u64, .ro, .volatile, 0, .any, "halves_scored_in_stack", false⟩,
  ⟨0x2000, 4, 256, 0x31, 1, .u64, .ro, .volatile, 0, .any, "halves_scored_over_pins", false⟩,
  ⟨0x2000, 4, 256, 0x32, 1, .u64, .ro, .volatile, 0, .any, "halves_host_bias", false⟩,
  ⟨0x2000, 4, 256, 0x33, 1, .u64, .ro, .volatile, 0, .any, "bursts_issued", false⟩,
  ⟨0x2000, 4, 256, 0x34, 1, .u64, .ro, .volatile, 0, .any, "refresh_at_boundary", false⟩,
  ⟨0x2000, 4, 256, 0x35, 1, .u64, .ro, .volatile, 0, .any, "host_reads_waited", false⟩,
  ⟨0x2000, 4, 256, 0x36, 1, .u32, .ro, .volatile, 0, .any, "host_read_wait_max_ns", false⟩,
  ⟨0x2000, 4, 256, 0x37, 1, .u64, .ro, .volatile, 0, .any, "host_writes_held", false⟩,
  ⟨0x2000, 4, 256, 0x38, 1, .u64, .ro, .volatile, 0, .any, "refresh_postponed", false⟩,
  ⟨0x2000, 4, 256, 0x39, 1, .u32, .ro, .volatile, 65536, .any, "scoring_free_mib", false⟩,
  ⟨0x2000, 4, 256, 0x3A, 1, .u32, .ro, .volatile, 0, .any, "quires_k_in_carrying", false⟩,
  ⟨0x2000, 4, 256, 0x3B, 1, .u8, .ro, .volatile, 0, .any, "score_array_state", false⟩,
  ⟨0x2000, 4, 256, 0x3C, 1, .u64, .ro, .volatile, 0, .any, "quires_rebalanced", false⟩,
  ⟨0x2000, 4, 256, 0x40, 16, .u32, .ro, .volatile, 0, .any, "comparator_owner", false⟩,
  ⟨0x2000, 4, 256, 0x50, 48, .u32, .ro, .volatile, 0, .any, "felt_block_owner", false⟩]

/-- Objects of indexes 0x3100 to 0x31FF. -/
def page31 : List Obj := [
  ⟨0x3100, 256, 1, 0x01, 1, .bool, .rw, .volatile, 0, (.range 0 1), "tenant_enable", false⟩,
  ⟨0x3100, 256, 1, 0x02, 1, .u32, .rw, .store, 0, (.range 0 524288), "hbm_quota_mib", false⟩,
  ⟨0x3100, 256, 1, 0x03, 1, .u16, .rw, .store, 0, (.range 0 192), "felt_quota_mib", false⟩,
  ⟨0x3100, 256, 1, 0x04, 1, .u32, .rw, .store, 0, (.range 0 4194304), "vat_quota_mib", false⟩,
  ⟨0x3100, 256, 1, 0x05, 1, .u16, .rw, .store, 8, .any, "snapshot_age_limit", false⟩,
  ⟨0x3100, 256, 1, 0x06, 1, .bool, .rwq, .store, 0, (.range 0 1), "mask_bitmap_grant", false⟩,
  ⟨0x3100, 256, 1, 0x07, 1, .bool, .rw, .store, 0, (.range 0 1), "over_quota_demote", false⟩,
  ⟨0x3100, 256, 1, 0x08, 1, .u8, .rwq, .store, 255, .any, "swap_region", false⟩,
  ⟨0x3100, 256, 1, 0x09, 1, .u32, .rwq, .store, 0, .any, "swap_offset_mib", false⟩,
  ⟨0x3100, 256, 1, 0x0A, 1, .u32, .rwq, .store, 0, .any, "swap_mib", false⟩,
  ⟨0x3100, 256, 1, 0x10, 1, .u64, .ro, .volatile, 0, .any, "holdings_hbm", false⟩,
  ⟨0x3100, 256, 1, 0x11, 1, .u64, .ro, .volatile, 0, .any, "holdings_felt", false⟩,
  ⟨0x3100, 256, 1, 0x12, 1, .u64, .ro, .volatile, 0, .any, "holdings_vat", false⟩,
  ⟨0x3100, 256, 1, 0x13, 1, .u64, .ro, .volatile, 0, .any, "holdings_swap", false⟩,
  ⟨0x3100, 256, 1, 0x14, 1, .bool, .ro, .volatile, 0, .any, "over_quota", false⟩,
  ⟨0x3100, 256, 1, 0x15, 1, .u64, .ro, .volatile, 0, .any, "quota_refusals", false⟩,
  ⟨0x3100, 256, 1, 0x16, 1, .u64, .ro, .volatile, 0, .any, "stalls_vat", false⟩,
  ⟨0x3100, 256, 1, 0x17, 1, .u64, .ro, .volatile, 0, .any, "stalls_swap", false⟩,
  ⟨0x3100, 256, 1, 0x18, 1, .u64, .ro, .volatile, 0, .any, "stalls_room", false⟩,
  ⟨0x3100, 256, 1, 0x19, 1, .u64, .ro, .volatile, 0, .any, "stall_ns", false⟩,
  ⟨0x3100, 256, 1, 0x1A, 1, .u32, .ro, .volatile, 0, .any, "quires_in_swap", false⟩,
  ⟨0x3100, 256, 1, 0x1B, 1, .u64, .ro, .volatile, 0, .any, "tier_faults", false⟩,
  ⟨0x3100, 256, 1, 0x1C, 1, .u64, .ro, .volatile, 0, .any, "swap_no_room", false⟩]

/-- Objects of indexes 0x4000 to 0x40FF. -/
def page40 : List Obj := [
  ⟨0x4000, 1, 1, 0x01, 1, .bool, .rw, .volatile, 0, (.range 0 1), "format_rules_enable", false⟩,
  ⟨0x4000, 1, 1, 0x02, 1, .u8, .rw, .store, 3, (.range 1 12), "default_k_format", true⟩,
  ⟨0x4000, 1, 1, 0x03, 1, .u8, .rw, .store, 3, (.range 1 12), "default_v_format", true⟩,
  ⟨0x4000, 1, 1, 0x04, 1, .u64, .ro, .volatile, 0, .any, "nonfinite_input_count", false⟩,
  ⟨0x4000, 1, 1, 0x05, 1, .u64, .ro, .volatile, 0, .any, "saturation_count", false⟩,
  ⟨0x4000, 1, 1, 0x06, 1, .u64, .ro, .volatile, 0, .any, "nonfinite_result_count", false⟩,
  ⟨0x4001, 1, 1, 0x00, 1, .u8, .const, .none, 16, .any, "", false⟩,
  ⟨0x4001, 1, 1, 0x01, 16, .u64, .rw, .store, 0, .any, "", true⟩,
  ⟨0x4008, 1, 1, 0x01, 1, .bool, .rw, .volatile, 0, (.range 0 1), "attention_enable", false⟩,
  ⟨0x4008, 1, 1, 0x02, 1, .u16, .rw, .store, 64, (.range 1 1024), "default_top_k", true⟩,
  ⟨0x4008, 1, 1, 0x03, 1, .u16, .rw, .store, 1024, (.range 1 1024), "max_query_rows", true⟩,
  ⟨0x4008, 1, 1, 0x04, 1, .u16, .rw, .store, 256, (.range 16 1024), "parked_limit", false⟩,
  ⟨0x4008, 1, 1, 0x05, 1, .u64, .ro, .volatile, 0, .any, "records_emitted", false⟩,
  ⟨0x4008, 1, 1, 0x06, 1, .u64, .ro, .volatile, 0, .any, "admission_refused_count", false⟩,
  ⟨0x4008, 1, 1, 0x07, 1, .u16, .rw, .store, 256, (.range 1 4096), "ticket_payload_max_mib", false⟩]

/-- Objects of indexes 0x4100 to 0x41FF. -/
def page41 : List Obj := [
  ⟨0x4100, 1, 1, 0x01, 1, .bool, .rw, .volatile, 0, (.range 0 1), "scoring_enable", false⟩,
  ⟨0x4100, 1, 1, 0x02, 1, .u8, .rw, .store, 0, (.range 0 2), "k_placement", true⟩,
  ⟨0x4100, 1, 1, 0x03, 1, .u32, .rw, .store, 4096, (.range 0 32768), "scoring_reserve_mib", true⟩,
  ⟨0x4100, 1, 1, 0x04, 1, .u16, .rwq, .store, 512, (.range 64 512), "burst_max_ns", false⟩,
  ⟨0x4100, 1, 1, 0x05, 1, .bool, .rw, .volatile, 0, (.range 0 1), "rebalance_enable", false⟩,
  ⟨0x4100, 1, 1, 0x06, 1, .u16, .rw, .store, 16, (.range 1 1024), "rebalance_quires", false⟩,
  ⟨0x4100, 1, 1, 0x07, 1, .u32, .const, .none, 65536, .any, "bias_block_bytes", false⟩,
  ⟨0x4100, 1, 1, 0x08, 1, .u64, .ro, .volatile, 0, .any, "fences_completed", false⟩,
  ⟨0x4100, 1, 1, 0x09, 1, .u64, .ro, .volatile, 0, .any, "flips_completed", false⟩]

/-- Objects of indexes 0x4200 to 0x42FF. -/
def page42 : List Obj := [
  ⟨0x4200, 1, 1, 0x01, 1, .bool, .rw, .volatile, 0, (.range 0 1), "deckle_enable", false⟩,
  ⟨0x4200, 1, 1, 0x02, 1, .u8, .rw, .store, 4, (.range 1 4), "deckle_reps", true⟩,
  ⟨0x4200, 1, 1, 0x03, 1, .f32, .rw, .store, 1065353216, (.f32 0 1082130432), "deckle_slack", true⟩,
  ⟨0x4200, 1, 1, 0x04, 1, .bool, .rw, .volatile, 0, (.range 0 1), "search_enable", false⟩,
  ⟨0x4200, 1, 1, 0x05, 1, .u32, .ro, .volatile, 0, .any, "deckle_backlog", false⟩,
  ⟨0x4200, 1, 1, 0x06, 1, .u64, .ro, .volatile, 0, .any, "forced_overflow_count", false⟩,
  ⟨0x4200, 1, 1, 0x07, 1, .u64, .ro, .volatile, 0, .any, "selections_run", false⟩,
  ⟨0x4200, 1, 1, 0x08, 1, .u64, .ro, .volatile, 0, .any, "recency_selections", false⟩,
  ⟨0x4200, 1, 1, 0x09, 1, .u64, .ro, .volatile, 0, .any, "searches_completed", false⟩,
  ⟨0x4200, 1, 1, 0x0A, 1, .u64, .ro, .volatile, 0, .any, "searches_short", false⟩,
  ⟨0x4200, 1, 1, 0x0B, 1, .u16, .ro, .volatile, 0, .any, "deckle_codebooks", false⟩,
  ⟨0x4200, 1, 1, 0x0C, 1, .u16, .ro, .volatile, 0, .any, "filter_handles_used", false⟩,
  ⟨0x4220, 128, 1, 0x01, 1, .bool, .rw, .volatile, 0, (.range 0 1), "vindex_enable", false⟩,
  ⟨0x4220, 128, 1, 0x02, 1, .u8, .rwq, .store, 0, .any, "vindex_tenant", false⟩,
  ⟨0x4220, 128, 1, 0x03, 1, .u16, .rwq, .store, 128, (.range 2 2048), "vindex_dim", false⟩,
  ⟨0x4220, 128, 1, 0x04, 1, .u8, .rwq, .store, 16, (.range 1 128), "vindex_subquantisers", false⟩,
  ⟨0x4220, 128, 1, 0x05, 1, .u32, .rwq, .store, 1024, (.range 1 65536), "vindex_lists", false⟩,
  ⟨0x4220, 128, 1, 0x06, 1, .u32, .rwq, .store, 1048576, (.range 1 2147483648), "vindex_capacity", false⟩,
  ⟨0x4220, 128, 1, 0x07, 1, .u8, .rwq, .store, 0, (.range 0 1), "vindex_metric", false⟩,
  ⟨0x4220, 128, 1, 0x08, 1, .u8, .rwq, .store, 1, (.range 1 3), "vindex_rerank_format", false⟩,
  ⟨0x4220, 128, 1, 0x09, 1, .bool, .rwq, .store, 1, (.range 0 1), "vindex_rerank_store", false⟩,
  ⟨0x4220, 128, 1, 0x0A, 1, .u32, .rw, .store, 16, (.range 1 65536), "vindex_default_probes", false⟩,
  ⟨0x4220, 128, 1, 0x0B, 1, .u32, .ro, .volatile, 0, .any, "vindex_items_live", false⟩,
  ⟨0x4220, 128, 1, 0x0C, 1, .u32, .ro, .volatile, 0, .any, "vindex_entries", false⟩,
  ⟨0x4220, 128, 1, 0x0D, 1, .u8, .ro, .volatile, 0, .any, "vindex_load_state", false⟩,
  ⟨0x4220, 128, 1, 0x0E, 1, .u32, .ro, .volatile, 0, .any, "vindex_reserved_mib", false⟩]

/-- Objects of indexes 0x4300 to 0x43FF. -/
def page43 : List Obj := [
  ⟨0x4300, 1, 1, 0x01, 1, .bool, .rw, .volatile, 0, (.range 0 1), "merge_enable", false⟩,
  ⟨0x4300, 1, 1, 0x02, 1, .u32, .rw, .store, 400, (.range 200 100000), "merge_level_margin_ns", true⟩,
  ⟨0x4300, 1, 1, 0x03, 1, .u8, .rw, .store, 16, (.range 1 255), "gap_records_max", true⟩,
  ⟨0x4300, 1, 1, 0x04, 1, .u16, .ro, .volatile, 0, .any, "merge_contexts_open", false⟩,
  ⟨0x4300, 1, 1, 0x05, 1, .u64, .ro, .volatile, 0, .any, "merges_completed", false⟩,
  ⟨0x4300, 1, 1, 0x06, 1, .u64, .ro, .volatile, 0, .any, "merges_closed_partial", false⟩,
  ⟨0x4300, 1, 1, 0x07, 1, .u64, .ro, .volatile, 0, .any, "merge_close_forced", false⟩,
  ⟨0x4300, 1, 1, 0x08, 1, .u64, .ro, .volatile, 0, .any, "merge_waits", false⟩,
  ⟨0x4300, 1, 1, 0x09, 1, .u64, .ro, .volatile, 0, .any, "gaps_emitted", false⟩,
  ⟨0x4300, 1, 1, 0x0A, 1, .u64, .ro, .volatile, 0, .any, "forward_refusals", false⟩,
  ⟨0x4300, 1, 1, 0x0B, 1, .u64, .ro, .volatile, 0, .any, "orphan_sets", false⟩,
  ⟨0x4300, 1, 1, 0x10, 1, .u16, .rw, .volatile, 0, .any, "tree_select", false⟩,
  ⟨0x4300, 1, 1, 0x11, 1, (.record 208), .rw, .volatile, 0, .any, "tree_entry", false⟩,
  ⟨0x4300, 1, 1, 0x12, 1, .u16, .ro, .volatile, 0, .any, "tree_count", false⟩]

/-- Objects of indexes 0x4400 to 0x44FF. -/
def page44 : List Obj := [
  ⟨0x4400, 1, 1, 0x01, 1, .bool, .rw, .volatile, 0, (.range 0 1), "directory_enable", false⟩,
  ⟨0x4400, 1, 1, 0x02, 1, .u8, .rw, .store, 8, (.range 0 32), "dir_segment_holes", true⟩,
  ⟨0x4400, 1, 1, 0x03, 1, .u16, .rw, .store, 64, (.range 1 65535), "dir_hot_hold_steps", true⟩,
  ⟨0x4400, 1, 1, 0x04, 1, .u32, .rwq, .store, 1024, (.range 64 8192), "dir_backing_mib", false⟩,
  ⟨0x4400, 1, 1, 0x05, 1, .u8, .rw, .volatile, 0, (.listed [0, 1, 2, 3, 16, 17, 18, 19]), "dir_window_target", false⟩,
  ⟨0x4400, 1, 1, 0x06, 1, (.record 32), .rw, .volatile, 0, .any, "dir_window_entry", false⟩,
  ⟨0x4400, 1, 1, 0x07, 1, .u8, .wo, .none, 0, (.range 1 3), "dir_window_op", false⟩,
  ⟨0x4400, 1, 1, 0x08, 1, .u32, .ro, .volatile, 4294967295, .any, "dir_window_position", false⟩,
  ⟨0x4400, 1, 1, 0x09, 1, .u64, .ro, .volatile, 0, .any, "route_lookups", false⟩,
  ⟨0x4400, 1, 1, 0x0A, 1, .u64, .ro, .volatile, 0, .any, "route_misses", false⟩,
  ⟨0x4410, 4, 1, 0x01, 1, .u32, .ro, .volatile, 0, .any, "dir_hot_entries", false⟩,
  ⟨0x4410, 4, 1, 0x02, 1, .u32, .ro, .volatile, 0, .any, "dir_backing_entries", false⟩,
  ⟨0x4410, 4, 1, 0x03, 1, .u64, .ro, .volatile, 0, .any, "dir_searches", false⟩,
  ⟨0x4410, 4, 1, 0x04, 1, .u64, .ro, .volatile, 0, .any, "dir_hot_misses", false⟩,
  ⟨0x4410, 4, 1, 0x05, 1, .u64, .ro, .volatile, 0, .any, "dir_shift_cycles", false⟩,
  ⟨0x4410, 4, 1, 0x06, 1, .u32, .ro, .volatile, 0, .any, "dir_spilled_groups", false⟩,
  ⟨0x4410, 4, 1, 0x07, 1, .u64, .ro, .volatile, 0, .any, "dir_banks_activated", false⟩,
  ⟨0x4410, 4, 1, 0x08, 1, .u64, .ro, .volatile, 0, .any, "dir_search_stall_ec", false⟩]

/-- Objects of indexes 0x5000 to 0x50FF. -/
def page50 : List Obj := [
  ⟨0x5000, 1, 1, 0x01, 1, .bool, .rw, .volatile, 0, (.range 0 1), "vat_enable", false⟩,
  ⟨0x5000, 1, 1, 0x02, 1, .bool, .rw, .volatile, 0, (.range 0 1), "press_enable", false⟩,
  ⟨0x5000, 1, 1, 0x03, 1, .bool, .rw, .volatile, 0, (.range 0 1), "felt_home_enable", false⟩,
  ⟨0x5000, 1, 1, 0x04, 1, .u32, .rw, .store, 2048, (.range 0 65536), "vat_demote_low_mib", true⟩,
  ⟨0x5000, 1, 1, 0x05, 1, .u32, .rw, .store, 4096, (.range 0 65536), "vat_demote_high_mib", true⟩,
  ⟨0x5000, 1, 1, 0x06, 1, .u8, .rw, .store, 3, (.range 1 15), "move_retry_limit", false⟩,
  ⟨0x5000, 1, 1, 0x07, 1, .u32, .rw, .store, 20000, (.range 1000 10000000), "vat_late_ns", false⟩,
  ⟨0x5000, 1, 1, 0x08, 1, .u32, .rw, .store, 50000, (.range 0 1000000), "tier_stall_limit_ns", true⟩,
  ⟨0x5000, 1, 1, 0x09, 1, .u64, .ro, .volatile, 0, .any, "quires_demoted", false⟩,
  ⟨0x5000, 1, 1, 0x0A, 1, .u64, .ro, .volatile, 0, .any, "quires_faulted_in", false⟩,
  ⟨0x5000, 1, 1, 0x0B, 1, .u64, .ro, .volatile, 0, .any, "moves_abandoned", false⟩,
  ⟨0x5000, 1, 1, 0x0C, 1, .u64, .ro, .volatile, 0, .any, "move_restarts", false⟩,
  ⟨0x5000, 1, 1, 0x0D, 1, .u64, .ro, .volatile, 0, .any, "move_failures", false⟩,
  ⟨0x5000, 1, 1, 0x0E, 1, .u64, .ro, .volatile, 0, .any, "raw_blocks", false⟩,
  ⟨0x5000, 1, 1, 0x0F, 1, .u64, .ro, .volatile, 0, .any, "room_refusals", false⟩,
  ⟨0x5000, 1, 1, 0x10, 1, .u8, .rwq, .store, 0, (.range 0 16), "comparators_slice0", false⟩,
  ⟨0x5000, 1, 1, 0x11, 1, .u8, .rwq, .store, 0, (.range 0 16), "comparators_slice1", false⟩,
  ⟨0x5000, 1, 1, 0x12, 1, .u8, .rwq, .store, 0, (.range 0 16), "comparators_slice2", false⟩,
  ⟨0x5000, 1, 1, 0x13, 1, .u8, .rwq, .store, 0, (.range 0 16), "comparators_slice3", false⟩,
  ⟨0x5000, 1, 1, 0x14, 1, .u8, .rwq, .store, 0, (.range 0 48), "felt_mib_slice0", false⟩,
  ⟨0x5000, 1, 1, 0x15, 1, .u8, .rwq, .store, 0, (.range 0 48), "felt_mib_slice1", false⟩,
  ⟨0x5000, 1, 1, 0x16, 1, .u8, .rwq, .store, 0, (.range 0 48), "felt_mib_slice2", false⟩,
  ⟨0x5000, 1, 1, 0x17, 1, .u8, .rwq, .store, 0, (.range 0 48), "felt_mib_slice3", false⟩,
  ⟨0x5000, 1, 1, 0x18, 1, .u8, .rwq, .store, 0, (.range 0 1), "pins", false⟩,
  ⟨0x5000, 1, 1, 0x19, 1, .u64, .ro, .volatile, 0, .any, "bytes_pressed_source", false⟩,
  ⟨0x5000, 1, 1, 0x1A, 1, .u64, .ro, .volatile, 0, .any, "bytes_pressed_out", false⟩,
  ⟨0x5010, 16, 1, 0x01, 1, .bool, .rw, .volatile, 0, (.range 0 1), "vat_region_enable", false⟩,
  ⟨0x5010, 16, 1, 0x02, 1, .u8, .rwq, .store, 0, (.listed [1, 2]), "vat_kind", false⟩,
  ⟨0x5010, 16, 1, 0x03, 1, .u64, .rwq, .store, 0, (.mult 0 18446744073709551615 1048576), "vat_base", false⟩,
  ⟨0x5010, 16, 1, 0x04, 1, .u32, .rwq, .store, 0, (.range 1 262144), "vat_length_mib", false⟩,
  ⟨0x5010, 16, 1, 0x05, 1, .u32, .rwq, .store, 0, .any, "vat_lease", false⟩,
  ⟨0x5010, 16, 1, 0x06, 1, .u32, .ro, .volatile, 0, .any, "vat_free_mib", false⟩,
  ⟨0x5010, 16, 1, 0x07, 1, .u8, .ro, .volatile, 0, .any, "vat_state", false⟩,
  ⟨0x5010, 16, 1, 0x08, 1, .bool, .wo, .none, 0, (.range 0 1), "vat_region_drain", false⟩,
  ⟨0x5010, 16, 1, 0x09, 1, .u64, .ro, .volatile, 0, .any, "vat_late_count", false⟩,
  ⟨0x5010, 16, 1, 0x0A, 1, .u64, .ro, .volatile, 0, .any, "vat_errors", false⟩]

/-- Objects of indexes 0x6000 to 0x60FF. -/
def page60 : List Obj := [
  ⟨0x6000, 1, 1, 0x01, 1, .u8, .rw, .store, 6, (.range 1 255), "lane_flap_limit", false⟩,
  ⟨0x6000, 1, 1, 0x02, 1, .u32, .rw, .store, 10, (.range 1 1000000), "fec_uncorrectable_limit", false⟩,
  ⟨0x6000, 1, 1, 0x03, 1, .u8, .ro, .volatile, 0, .any, "links_up", false⟩,
  ⟨0x6000, 1, 1, 0x04, 1, .bool, .rw, .store, 0, (.range 0 1), "events_forward", false⟩,
  ⟨0x6000, 1, 1, 0x05, 1, .u16, .rw, .store, 64, (.range 8 4096), "ce_threshold_kib", false⟩,
  ⟨0x6000, 1, 1, 0x06, 1, .u8, .rw, .store, 10, (.range 1 10), "mgmt_share_permille", false⟩]

/-- Objects of indexes 0x6100 to 0x61FF. -/
def page61 : List Obj := [
  ⟨0x6100, 36, 1, 0x01, 1, .bool, .rw, .volatile, 0, (.range 0 1), "link_enable", false⟩,
  ⟨0x6100, 36, 1, 0x02, 1, .u8, .rwq, .store, 0, (.range 0 2), "link_reach", false⟩,
  ⟨0x6100, 36, 1, 0x03, 1, .u8, .rwq, .store, 8, (.listed [1, 2, 4, 8]), "link_width_max", false⟩,
  ⟨0x6100, 36, 1, 0x04, 1, .u8, .ro, .volatile, 0, .any, "link_state", false⟩,
  ⟨0x6100, 36, 1, 0x05, 1, .u8, .ro, .volatile, 0, .any, "link_width_now", false⟩,
  ⟨0x6100, 36, 1, 0x06, 1, .u8, .ro, .volatile, 0, .any, "lanes_retired", false⟩,
  ⟨0x6100, 36, 1, 0x07, 1, .u8, .wo, .none, 0, .any, "lane_restore", false⟩,
  ⟨0x6100, 36, 1, 0x08, 1, .u16, .ro, .volatile, 65535, .any, "peer_node", false⟩,
  ⟨0x6100, 36, 1, 0x09, 1, .u8, .ro, .volatile, 255, .any, "peer_link", false⟩,
  ⟨0x6100, 36, 1, 0x0A, 1, .u32, .ro, .volatile, 0, .any, "one_way_delay_ps", false⟩,
  ⟨0x6100, 36, 1, 0x0B, 1, .u64, .ro, .volatile, 0, .any, "fec_corrected", false⟩,
  ⟨0x6100, 36, 1, 0x0C, 1, .u64, .ro, .volatile, 0, .any, "fec_uncorrectable", false⟩,
  ⟨0x6100, 36, 1, 0x0D, 1, .u64, .ro, .volatile, 0, .any, "flits_discarded", false⟩,
  ⟨0x6100, 36, 1, 0x0E, 1, .u32, .ro, .volatile, 0, .any, "lane_flaps_hour", false⟩,
  ⟨0x6100, 36, 1, 0x0F, 1, .u64, .ro, .volatile, 0, .any, "ce_marked", false⟩,
  ⟨0x6100, 36, 1, 0x10, 1, .u64, .ro, .volatile, 0, .any, "link_downs", false⟩,
  ⟨0x6100, 36, 1, 0x11, 1, .u64, .ro, .volatile, 0, .any, "eq_adapt_failures", false⟩]

/-- Objects of indexes 0x6200 to 0x62FF. -/
def page62 : List Obj := [
  ⟨0x6200, 1, 1, 0x01, 1, .bool, .rw, .volatile, 0, (.range 0 1), "transport_enable", false⟩,
  ⟨0x6200, 1, 1, 0x02, 1, .u32, .rw, .store, 10000, (.range 2000 1000000), "rto_ns", false⟩,
  ⟨0x6200, 1, 1, 0x03, 1, .u8, .rw, .store, 7, (.range 1 15), "retry_limit", false⟩,
  ⟨0x6200, 1, 1, 0x04, 1, .u32, .rw, .store, 20000, (.range 1000 10000000), "rnr_delay_ns", false⟩,
  ⟨0x6200, 1, 1, 0x05, 1, .u32, .rw, .store, 200000, (.range 10000 100000000), "reassembly_timeout_ns", false⟩,
  ⟨0x6200, 1, 1, 0x06, 1, .u32, .rw, .store, 1000000, (.range 100000 1000000000), "region_quarantine_ns", false⟩,
  ⟨0x6200, 1, 1, 0x07, 1, .u32, .rw, .store, 1000, (.range 200 100000), "ack_delay_ns", false⟩,
  ⟨0x6200, 1, 1, 0x08, 1, .u8, .rw, .store, 3, (.range 1 7), "cc_decrease_shift", false⟩,
  ⟨0x6200, 1, 1, 0x09, 1, .u32, .rw, .store, 4000, (.range 1000 1000000), "cc_interval_ns", false⟩,
  ⟨0x6200, 1, 1, 0x0A, 1, .u32, .rw, .store, 1000, (.range 100 6480000), "cc_min_mbs", false⟩,
  ⟨0x6200, 1, 1, 0x0B, 1, .u32, .rw, .store, 180000, (.range 1000 6480000), "cc_max_mbs", false⟩,
  ⟨0x6200, 1, 1, 0x0C, 1, .u32, .rw, .store, 2000, (.range 100 50000), "cc_increase_mbs", false⟩,
  ⟨0x6200, 1, 1, 0x10, 1, .u32, .rw, .volatile, 0, (.range 0 262143), "region_select", false⟩,
  ⟨0x6200, 1, 1, 0x11, 1, (.record 32), .rw, .volatile, 0, .any, "region_entry", false⟩,
  ⟨0x6200, 1, 1, 0x12, 1, .u8, .wo, .none, 0, (.range 1 2), "region_op", false⟩,
  ⟨0x6200, 1, 1, 0x13, 1, .u32, .ro, .volatile, 0, .any, "regions_registered", false⟩,
  ⟨0x6200, 1, 1, 0x14, 1, .u64, .ro, .volatile, 0, .any, "messages_sent", false⟩,
  ⟨0x6200, 1, 1, 0x15, 1, .u64, .ro, .volatile, 0, .any, "messages_received", false⟩,
  ⟨0x6200, 1, 1, 0x16, 1, .u64, .ro, .volatile, 0, .any, "packets_retransmitted", false⟩,
  ⟨0x6200, 1, 1, 0x17, 1, .u64, .ro, .volatile, 0, .any, "duplicates_discarded", false⟩,
  ⟨0x6200, 1, 1, 0x18, 1, .u64, .ro, .volatile, 0, .any, "reassembly_overflows", false⟩,
  ⟨0x6200, 1, 1, 0x19, 1, .u64, .ro, .volatile, 0, .any, "reassembly_timeouts", false⟩,
  ⟨0x6200, 1, 1, 0x1A, 1, .u64, .ro, .volatile, 0, .any, "key_refusals", false⟩,
  ⟨0x6200, 1, 1, 0x1B, 1, .u64, .ro, .volatile, 0, .any, "no_buffer_naks", false⟩,
  ⟨0x6200, 1, 1, 0x1C, 1, .u64, .ro, .volatile, 0, .any, "malformed_packets", false⟩,
  ⟨0x6200, 1, 1, 0x1D, 1, .u64, .ro, .volatile, 0, .any, "mgmt_refused", false⟩]

/-- Objects of indexes 0x6300 to 0x63FF. -/
def page63 : List Obj := [
  ⟨0x6300, 1, 1, 0x01, 1, .bool, .rw, .volatile, 0, (.range 0 1), "traffic_enable", false⟩,
  ⟨0x6300, 1, 1, 0x02, 1, .u8, .ro, .volatile, 1, .any, "count_mode", false⟩,
  ⟨0x6300, 1, 1, 0x03, 1, .u16, .const, .none, 1024, .any, "packet_charge_bytes", false⟩,
  ⟨0x6300, 1, 1, 0x04, 1, .u16, .rw, .store, 512, (.range 64 2048), "egress_class_limit_kib", false⟩,
  ⟨0x6300, 1, 1, 0x05, 1, .u64, .ro, .volatile, 0, .any, "police_drops_total", false⟩,
  ⟨0x6300, 1, 1, 0x06, 1, .u64, .ro, .volatile, 0, .any, "egress_overflow_drops", false⟩,
  ⟨0x6301, 1, 1, 0x01, 32, .u32, .rw, .store, 0, .any, "tenant_groups", true⟩,
  ⟨0x6310, 8, 1, 0x01, 1, .u8, .rw, .store, 0, (.range 0 3), "class_band", true⟩,
  ⟨0x6310, 8, 1, 0x02, 1, .u8, .rw, .store, 16, (.range 1 255), "class_weight", true⟩,
  ⟨0x6310, 8, 1, 0x10, 8, .u8, .rw, .store, 16, (.range 1 255), "group_weight", true⟩,
  ⟨0x6310, 8, 1, 0x20, 8, .u32, .rw, .store, 0, (.zeroOr 100 200000), "police_rate_mbs", true⟩,
  ⟨0x6310, 8, 1, 0x28, 8, .u16, .rw, .store, 64, (.range 1 16384), "police_burst_kib", true⟩,
  ⟨0x6310, 8, 1, 0x30, 8, .u64, .ro, .volatile, 0, .any, "police_dropped", false⟩,
  ⟨0x6310, 8, 1, 0x38, 8, .u64, .ro, .volatile, 0, .any, "charged_bytes", false⟩,
  ⟨0x6320, 36, 1, 0x01, 1, .u64, .ro, .volatile, 0, .any, "link_police_drops", false⟩,
  ⟨0x6320, 36, 1, 0x02, 1, .u64, .ro, .volatile, 0, .any, "link_overflow_drops", false⟩]

/-- Objects of indexes 0x7000 to 0x70FF. -/
def page70 : List Obj := [
  ⟨0x7000, 1, 1, 0x01, 1, .bool, .rw, .volatile, 0, (.range 0 1), "host_port_enable", false⟩,
  ⟨0x7000, 1, 1, 0x02, 1, .u8, .rwq, .store, 1, (.range 0 1), "cxl_mode_max", false⟩,
  ⟨0x7000, 1, 1, 0x03, 1, .u8, .ro, .volatile, 0, .any, "cxl_mode_now", false⟩,
  ⟨0x7000, 1, 1, 0x04, 1, .u8, .ro, .volatile, 0, .any, "link_width", false⟩,
  ⟨0x7000, 1, 1, 0x05, 1, .u16, .rwq, .store, 16, (.range 1 256), "host_visible_gib", false⟩,
  ⟨0x7000, 1, 1, 0x06, 1, .u16, .ro, .volatile, 0, .any, "vf_enabled", false⟩,
  ⟨0x7000, 1, 1, 0x07, 1, .bool, .rw, .store, 0, (.range 0 1), "ide_required", false⟩,
  ⟨0x7000, 1, 1, 0x08, 1, .u8, .rw, .store, 0, (.range 0 1), "completion_path", false⟩,
  ⟨0x7000, 1, 1, 0x09, 1, .u64, .ro, .volatile, 0, .any, "hdm_unmapped_accesses", false⟩,
  ⟨0x7000, 1, 1, 0x0A, 1, .u64, .ro, .volatile, 0, .any, "completion_write_errors", false⟩,
  ⟨0x7000, 1, 1, 0x0B, 1, .u64, .ro, .volatile, 0, .any, "host_bias_lines_read", false⟩,
  ⟨0x7000, 1, 1, 0x0C, 1, .u64, .ro, .volatile, 0, .any, "link_resets", false⟩,
  ⟨0x7000, 1, 1, 0x0D, 1, .u8, .ro, .volatile, 0, .any, "ide_state", false⟩,
  ⟨0x7008, 1, 1, 0x01, 255, .u16, .rw, .store, 65535, .vfTenant, "vf_tenant", false⟩,
  ⟨0x7010, 64, 1, 0x01, 1, .bool, .rw, .volatile, 0, (.range 0 1), "slot_area_enable", false⟩,
  ⟨0x7010, 64, 1, 0x02, 1, .u8, .rwq, .store, 0, (.range 0 255), "area_function", false⟩,
  ⟨0x7010, 64, 1, 0x03, 1, .u8, .rwq, .store, 0, .any, "area_tenant", false⟩,
  ⟨0x7010, 64, 1, 0x04, 1, .u8, .rwq, .store, 0, (.range 0 3), "area_slice", false⟩,
  ⟨0x7010, 64, 1, 0x05, 1, .u64, .rwq, .store, 0, (.mult 0 18446744073709551615 65536), "area_dpa", false⟩,
  ⟨0x7010, 64, 1, 0x06, 1, .u16, .rwq, .store, 64, (.range 8 4032), "area_slots", false⟩,
  ⟨0x7010, 64, 1, 0x07, 1, .u64, .rwq, .store, 0, (.mult 0 18446744073709551615 4096), "cq_base", false⟩,
  ⟨0x7010, 64, 1, 0x08, 1, .u32, .rwq, .store, 65536, (.mult 4096 1073741824 4096), "cq_length", false⟩,
  ⟨0x7010, 64, 1, 0x09, 1, .u64, .ro, .volatile, 0, .any, "area_taken", false⟩,
  ⟨0x7010, 64, 1, 0x0A, 1, .u64, .ro, .volatile, 0, .any, "area_crc_failures", false⟩,
  ⟨0x7010, 64, 1, 0x0B, 1, .u64, .ro, .volatile, 0, .any, "area_alive_mismatch", false⟩,
  ⟨0x7010, 64, 1, 0x0C, 1, .u64, .ro, .volatile, 0, .any, "area_stray_completions", false⟩]

/-- Objects of indexes 0x7100 to 0x71FF. -/
def page71 : List Obj := [
  ⟨0x7100, 1, 1, 0x01, 1, .bool, .rw, .volatile, 0, (.range 0 1), "extent_enable", false⟩,
  ⟨0x7100, 1, 1, 0x02, 1, .u32, .rw, .store, 1000000000, (.range 100000 4000000000), "lease_ns", false⟩,
  ⟨0x7100, 1, 1, 0x03, 1, .u32, .rw, .store, 100000, (.range 10000 10000000), "extent_drain_ns", false⟩,
  ⟨0x7100, 1, 1, 0x04, 1, .u16, .rw, .store, 16384, (.range 1 65535), "opens_max", false⟩,
  ⟨0x7100, 1, 1, 0x05, 1, .u16, .ro, .volatile, 0, .any, "extents_active", false⟩,
  ⟨0x7100, 1, 1, 0x06, 1, .u64, .ro, .volatile, 0, .any, "revocations", false⟩,
  ⟨0x7100, 1, 1, 0x07, 1, .u64, .ro, .volatile, 0, .any, "leases_expired", false⟩,
  ⟨0x7100, 1, 1, 0x08, 1, .u64, .ro, .volatile, 0, .any, "revoked_completions", false⟩,
  ⟨0x7100, 1, 1, 0x09, 1, .u64, .ro, .volatile, 0, .any, "readonly_writes_discarded", false⟩,
  ⟨0x7100, 1, 1, 0x0A, 1, .u32, .ro, .volatile, 0, .any, "opens_held", false⟩,
  ⟨0x7100, 1, 1, 0x10, 1, .u16, .rw, .volatile, 0, (.range 0 1023), "extent_select", false⟩,
  ⟨0x7100, 1, 1, 0x11, 1, (.record 32), .rw, .volatile, 0, .any, "extent_entry", false⟩,
  ⟨0x7100, 1, 1, 0x12, 1, .u8, .wo, .none, 0, .any, "extent_op", false⟩,
  ⟨0x7100, 1, 1, 0x13, 1, .u8, .rw, .volatile, 0, .any, "lease_select", false⟩,
  ⟨0x7100, 1, 1, 0x14, 1, .htime, .ro, .volatile, 0, .any, "lease_expiry", false⟩,
  ⟨0x7100, 1, 1, 0x15, 1, .u8, .rwq, .store, 1, (.range 0 16), "comparators_slice0", false⟩,
  ⟨0x7100, 1, 1, 0x16, 1, .u8, .rwq, .store, 1, (.range 0 16), "comparators_slice1", false⟩,
  ⟨0x7100, 1, 1, 0x17, 1, .u8, .rwq, .store, 1, (.range 0 16), "comparators_slice2", false⟩,
  ⟨0x7100, 1, 1, 0x18, 1, .u8, .rwq, .store, 1, (.range 0 16), "comparators_slice3", false⟩,
  ⟨0x7100, 1, 1, 0x19, 1, .u8, .rwq, .store, 0, (.range 0 48), "felt_mib_slice0", false⟩,
  ⟨0x7100, 1, 1, 0x1A, 1, .u8, .rwq, .store, 0, (.range 0 48), "felt_mib_slice1", false⟩,
  ⟨0x7100, 1, 1, 0x1B, 1, .u8, .rwq, .store, 0, (.range 0 48), "felt_mib_slice2", false⟩,
  ⟨0x7100, 1, 1, 0x1C, 1, .u8, .rwq, .store, 0, (.range 0 48), "felt_mib_slice3", false⟩,
  ⟨0x7100, 1, 1, 0x1D, 1, .u8, .rwq, .store, 0, (.range 0 1), "pins", false⟩,
  ⟨0x7110, 1, 1, 0x01, 1, .bool, .rw, .volatile, 0, (.range 0 1), "pool_enable", false⟩,
  ⟨0x7110, 1, 1, 0x02, 1, .u32, .rw, .store, 1000000000, (.range 10000000 4000000000), "pool_lease_ns", false⟩,
  ⟨0x7110, 1, 1, 0x03, 1, .u32, .rw, .store, 1000000, (.range 100000 100000000), "pool_guard_ns", false⟩,
  ⟨0x7110, 1, 1, 0x04, 1, .u32, .rw, .store, 100000000, (.range 1000000 4000000000), "pool_revoke_drain_ns", false⟩,
  ⟨0x7110, 1, 1, 0x05, 1, .u32, .wo, .none, 0, (.mult 256 262144 256), "pool_request_mib", false⟩,
  ⟨0x7110, 1, 1, 0x06, 1, .u32, .wo, .none, 0, .any, "pool_release", false⟩,
  ⟨0x7110, 1, 1, 0x07, 1, (.octets 16), .ro, .volatile, 0, .any, "pool_result", false⟩,
  ⟨0x7110, 1, 1, 0x08, 1, .u8, .ro, .volatile, 0, .any, "pool_result_state", false⟩,
  ⟨0x7110, 1, 1, 0x10, 4, .u64, .rwq, .store, 0, (.mult 0 18446744073709551615 268435456), "pool_range_base", false⟩,
  ⟨0x7110, 1, 1, 0x14, 4, .u32, .rwq, .store, 0, (.mult 0 4194304 256), "pool_range_mib", false⟩,
  ⟨0x7110, 1, 1, 0x18, 1, .u32, .ro, .volatile, 0, .any, "pool_free_mib", false⟩,
  ⟨0x7110, 1, 1, 0x19, 1, .u16, .ro, .volatile, 0, .any, "pool_leases_held", false⟩,
  ⟨0x7110, 1, 1, 0x1A, 1, .u64, .ro, .volatile, 0, .any, "pool_leases_lapsed", false⟩,
  ⟨0x7120, 1, 1, 0x01, 1, .u8, .rw, .volatile, 0, .any, "share_select_tenant", false⟩,
  ⟨0x7120, 1, 1, 0x02, 1, .u32, .rw, .volatile, 0, .any, "share_select_id", false⟩,
  ⟨0x7120, 1, 1, 0x03, 1, (.octets 16), .ro, .volatile, 0, .any, "share_entry", false⟩] ++ [
  ⟨0x7120, 1, 1, 0x04, 1, .u16, .ro, .volatile, 0, .any, "shares_defined", false⟩,
  ⟨0x7120, 1, 1, 0x05, 1, .u64, .ro, .volatile, 0, .any, "publishes_ordered", false⟩,
  ⟨0x7120, 1, 1, 0x06, 1, .u64, .ro, .volatile, 0, .any, "publish_conflicts", false⟩]

/-- Objects of indexes 0x7200 to 0x72FF. -/
def page72 : List Obj := [
  ⟨0x7200, 1, 1, 0x01, 1, .u16, .ro, .volatile, 0, .any, "map_epoch", false⟩,
  ⟨0x7200, 1, 1, 0x02, 1, .u16, .ro, .volatile, 0, .any, "map_epoch_previous", false⟩,
  ⟨0x7200, 1, 1, 0x03, 1, .u64, .ro, .volatile, 0, .any, "drain_end_step", false⟩,
  ⟨0x7200, 1, 1, 0x04, 1, .u8, .rw, .store, 4, (.range 1 64), "epoch_drain_steps", true⟩,
  ⟨0x7200, 1, 1, 0x05, 1, .u8, .rw, .store, 7, (.range 0 7), "handoff_class", true⟩,
  ⟨0x7200, 1, 1, 0x06, 1, .u64, .ro, .volatile, 0, .any, "stale_epoch_refusals", false⟩,
  ⟨0x7200, 1, 1, 0x07, 1, .u64, .ro, .volatile, 0, .any, "handoffs_completed", false⟩,
  ⟨0x7200, 1, 1, 0x08, 1, .u64, .ro, .volatile, 0, .any, "handoffs_cancelled", false⟩,
  ⟨0x7200, 1, 1, 0x09, 1, .u16, .rw, .volatile, 0, .any, "map_select", false⟩,
  ⟨0x7200, 1, 1, 0x0A, 1, (.record 16), .ro, .volatile, 0, .any, "map_entry", false⟩,
  ⟨0x7200, 1, 1, 0x0B, 1, .u64, .ro, .volatile, 0, .any, "map_wait_count", false⟩]

/-- Objects of indexes 0x8000 to 0x80FF. -/
def page80 : List Obj := [
  ⟨0x8000, 1, 1, 0x01, 1, .u8, .const, .none, 3, .any, "replay_limit", false⟩,
  ⟨0x8000, 1, 1, 0x02, 1, .u64, .ro, .volatile, 0, .any, "replays_total", false⟩,
  ⟨0x8000, 1, 1, 0x03, 1, .u64, .ro, .volatile, 0, .any, "words_poisoned", false⟩,
  ⟨0x8000, 1, 1, 0x04, 1, .u8, .ro, .volatile, 0, .any, "felt_blocks_retired", false⟩,
  ⟨0x8000, 1, 1, 0x05, 1, .u64, .ro, .volatile, 0, .any, "lane_failures", false⟩,
  ⟨0x8000, 1, 1, 0x06, 1, .u64, .ro, .volatile, 0, .any, "stale_records", false⟩,
  ⟨0x8000, 1, 1, 0x10, 1, .u16, .rw, .volatile, 48, (.range 0 255), "cv_select", false⟩,
  ⟨0x8000, 1, 1, 0x11, 1, (.record 32), .rw, .volatile, 0, .any, "cv_entry", false⟩,
  ⟨0x8000, 1, 1, 0x12, 1, .u8, .wo, .none, 0, .any, "cv_op", false⟩,
  ⟨0x8010, 4, 1, 0x01, 1, .u16, .ro, .volatile, 0, .any, "poison_lines_scoring", false⟩,
  ⟨0x8010, 4, 1, 0x02, 1, .u16, .ro, .volatile, 0, .any, "poison_lines_carrying", false⟩,
  ⟨0x8010, 4, 1, 0x03, 1, .u16, .ro, .volatile, 0, .any, "poison_blocks_used", false⟩,
  ⟨0x8010, 4, 1, 0x04, 1, .u64, .ro, .volatile, 0, .any, "salvage_quires", false⟩,
  ⟨0x8010, 4, 1, 0x05, 1, .u64, .ro, .volatile, 0, .any, "salvage_failures", false⟩,
  ⟨0x8010, 4, 1, 0x06, 1, .u64, .ro, .volatile, 0, .any, "shares_state_lost", false⟩]

/-- Objects of indexes 0x8100 to 0x81FF. -/
def page81 : List Obj := [
  ⟨0x8100, 1, 1, 0x01, 1, .bool, .rw, .volatile, 0, (.range 0 1), "health_enable", false⟩,
  ⟨0x8100, 1, 1, 0x02, 1, .u32, .rw, .store, 10000000, (.range 1000000 1000000000), "health_report_ns", false⟩,
  ⟨0x8100, 1, 1, 0x03, 1, .u8, .rw, .store, 8, (.range 2 64), "health_silent_reports", false⟩,
  ⟨0x8100, 1, 1, 0x04, 1, .u16, .rw, .store, 300, (.range 0 999), "health_expel_below", false⟩,
  ⟨0x8100, 1, 1, 0x05, 1, .u16, .rw, .store, 700, (.range 1 1000), "health_restore_at", false⟩,
  ⟨0x8100, 1, 1, 0x06, 1, .u16, .rw, .store, 5, (.range 0 1000), "health_recover", false⟩,
  ⟨0x8100, 1, 1, 0x07, 1, .u8, .rw, .store, 1, (.range 1 16), "expel_max_per_window", false⟩,
  ⟨0x8100, 1, 1, 0x08, 1, .u32, .rw, .store, 600000, (.range 1000 86400000), "expel_window_ms", false⟩,
  ⟨0x8100, 1, 1, 0x09, 1, .u16, .rw, .store, 1, (.range 1 1023), "membership_floor", false⟩,
  ⟨0x8100, 1, 1, 0x0A, 1, .u16, .rw, .volatile, 1, .any, "health_select", false⟩,
  ⟨0x8100, 1, 1, 0x0B, 1, .u16, .ro, .volatile, 1000, .any, "health_score", false⟩,
  ⟨0x8100, 1, 1, 0x0C, 1, .u64, .ro, .volatile, 0, .any, "expulsions", false⟩,
  ⟨0x8100, 1, 1, 0x0D, 1, .u64, .ro, .volatile, 0, .any, "probations", false⟩,
  ⟨0x8100, 1, 1, 0x0E, 1, .u64, .ro, .volatile, 0, .any, "floor_holds", false⟩,
  ⟨0x8100, 1, 1, 0x0F, 1, .u64, .ro, .volatile, 0, .any, "nodes_lost", false⟩,
  ⟨0x8110, 1, 1, 0x01, 1, .u16, .rw, .store, 10, (.range 0 1000), "w_link_down", false⟩,
  ⟨0x8110, 1, 1, 0x02, 1, .u16, .rw, .store, 20, (.range 0 1000), "w_fec_degraded", false⟩,
  ⟨0x8110, 1, 1, 0x03, 1, .u16, .rw, .store, 25, (.range 0 1000), "w_lane_retired", false⟩,
  ⟨0x8110, 1, 1, 0x04, 1, .u16, .rw, .store, 50, (.range 0 1000), "w_word_poisoned", false⟩,
  ⟨0x8110, 1, 1, 0x05, 1, .u16, .rw, .store, 100, (.range 0 1000), "w_engine_retired", false⟩,
  ⟨0x8110, 1, 1, 0x06, 1, .u16, .rw, .store, 400, (.range 0 1000), "w_slice_fault", false⟩,
  ⟨0x8110, 1, 1, 0x07, 1, .u16, .rw, .store, 50, (.range 0 1000), "w_state_lost", false⟩,
  ⟨0x8110, 1, 1, 0x08, 1, .u16, .rw, .store, 20, (.range 0 1000), "w_unmirrored", false⟩,
  ⟨0x8110, 1, 1, 0x09, 1, .u16, .rw, .store, 100, (.range 0 1000), "w_missed_report", false⟩,
  ⟨0x8120, 1, 1, 0x01, 1, .bool, .rw, .volatile, 0, (.range 0 1), "journal_enable", false⟩,
  ⟨0x8120, 1, 1, 0x03, 1, .u32, .rw, .store, 20000, (.range 2000 1000000), "journal_ack_ns", false⟩,
  ⟨0x8120, 1, 1, 0x04, 1, .u16, .ro, .volatile, 65535, .any, "journal_partner", false⟩,
  ⟨0x8120, 1, 1, 0x05, 1, .u64, .ro, .volatile, 0, .any, "journal_bytes_held", false⟩,
  ⟨0x8120, 1, 1, 0x06, 1, .u64, .ro, .volatile, 0, .any, "journal_unmirrored_tokens", false⟩,
  ⟨0x8120, 1, 1, 0x08, 1, .u32, .ro, .volatile, 0, .any, "lost_ranges_held", false⟩,
  ⟨0x8120, 1, 1, 0x09, 1, .u64, .ro, .volatile, 0, .any, "tails_rebuilt", false⟩,
  ⟨0x8120, 1, 1, 0x0A, 1, .u32, .rwq, .store, 4096, (.range 256 65536), "journal_reserve_mib", false⟩]

/-- Objects of indexes 0x8200 to 0x82FF. -/
def page82 : List Obj := [
  ⟨0x8200, 1, 1, 0x01, 1, .u16, .ro, .volatile, 0, .any, "log_head", false⟩,
  ⟨0x8200, 1, 1, 0x02, 1, .u64, .ro, .volatile, 0, .any, "log_count", false⟩,
  ⟨0x8200, 1, 1, 0x03, 1, .u16, .rw, .volatile, 0, (.range 0 4095), "log_select", false⟩,
  ⟨0x8200, 1, 1, 0x04, 1, (.octets 32), .ro, .volatile, 0, .any, "log_entry", false⟩,
  ⟨0x8200, 1, 1, 0x05, 1, .bool, .wo, .none, 0, (.range 0 1), "log_clear", false⟩,
  ⟨0x8200, 1, 1, 0x06, 1, .u8, .rw, .store, 0, (.range 0 3), "log_min_severity", false⟩,
  ⟨0x8200, 1, 1, 0x10, 1, .bool, .rw, .volatile, 0, (.range 0 1), "trace_trigger_enable", false⟩,
  ⟨0x8200, 1, 1, 0x11, 1, .u8, .rwq, .store, 0, (.range 0 16), "comparators_slice0", false⟩,
  ⟨0x8200, 1, 1, 0x12, 1, .u8, .rwq, .store, 0, (.range 0 16), "comparators_slice1", false⟩,
  ⟨0x8200, 1, 1, 0x13, 1, .u8, .rwq, .store, 0, (.range 0 16), "comparators_slice2", false⟩,
  ⟨0x8200, 1, 1, 0x14, 1, .u8, .rwq, .store, 0, (.range 0 16), "comparators_slice3", false⟩,
  ⟨0x8200, 1, 1, 0x15, 1, .u8, .rwq, .store, 0, (.range 0 48), "felt_mib_slice0", false⟩,
  ⟨0x8200, 1, 1, 0x16, 1, .u8, .rwq, .store, 0, (.range 0 48), "felt_mib_slice1", false⟩,
  ⟨0x8200, 1, 1, 0x17, 1, .u8, .rwq, .store, 0, (.range 0 48), "felt_mib_slice2", false⟩,
  ⟨0x8200, 1, 1, 0x18, 1, .u8, .rwq, .store, 0, (.range 0 48), "felt_mib_slice3", false⟩,
  ⟨0x8200, 1, 1, 0x19, 1, .u8, .rwq, .store, 1, (.range 0 1), "pins", false⟩,
  ⟨0x8200, 1, 1, 0x1A, 1, .u8, .rw, .volatile, 0, .any, "trace_trigger_source", false⟩,
  ⟨0x8200, 1, 1, 0x1B, 1, .u8, .rw, .volatile, 0, .any, "trace_trigger_code", false⟩,
  ⟨0x8200, 1, 1, 0x1C, 1, .u64, .ro, .volatile, 0, .any, "trace_pulses", false⟩]

/-- Objects of indexes 0x9000 to 0x90FF. -/
def page90 : List Obj := [
  ⟨0x9000, 1, 1, 0x01, 1, .bool, .rw, .volatile, 0, (.range 0 1), "power_enable", false⟩,
  ⟨0x9000, 1, 1, 0x02, 1, .u16, .rw, .store, 1200, (.range 400 1200), "power_cap_w", false⟩,
  ⟨0x9000, 1, 1, 0x03, 1, .bool, .rw, .store, 1, (.range 0 1), "peak_enable", false⟩,
  ⟨0x9000, 1, 1, 0x04, 1, .u8, .ro, .volatile, 0, .any, "throttle_level", false⟩,
  ⟨0x9000, 1, 1, 0x05, 1, .u8, .rw, .volatile, 0, (.range 0 4), "throttle_level_min", false⟩,
  ⟨0x9000, 1, 1, 0x06, 1, .f32, .ro, .volatile, 0, .any, "node_power_w", false⟩,
  ⟨0x9000, 1, 1, 0x07, 1, .u32, .ro, .volatile, 0, .any, "peak_windows_used", false⟩,
  ⟨0x9000, 1, 1, 0x08, 1, .u64, .ro, .volatile, 0, .any, "budget_waits", false⟩,
  ⟨0x9000, 1, 1, 0x09, 1, .u16, .rw, .store, 150, (.range 0 500), "power_guard_permille", false⟩,
  ⟨0x9000, 1, 1, 0x0A, 1, .u8, .rw, .store, 10, (.range 2 40), "recal_delta_c", false⟩,
  ⟨0x9000, 1, 1, 0x0B, 1, .u16, .rw, .store, 40, (.range 10 200), "recal_delta_w", false⟩,
  ⟨0x9000, 1, 1, 0x0C, 1, .u64, .ro, .volatile, 0, .any, "recal_count", false⟩,
  ⟨0x9000, 1, 1, 0x0E, 1, .u64, .ro, .volatile, 0, .any, "overbudget_windows", false⟩,
  ⟨0x9000, 1, 1, 0x10, 9, .f32, .ro, .volatile, 0, .any, "rail_power_w", false⟩,
  ⟨0x9000, 1, 1, 0x20, 1, .u8, .rw, .store, 95, (.range 80 100), "tj_throttle_c", false⟩,
  ⟨0x9000, 1, 1, 0x21, 1, .u8, .const, .none, 105, .any, "tj_critical_c", false⟩,
  ⟨0x9000, 1, 1, 0x22, 1, .u8, .const, .none, 115, .any, "tj_trip_c", false⟩,
  ⟨0x9000, 1, 1, 0x23, 1, .u8, .rw, .store, 95, (.range 85 100), "hbm_throttle_c", false⟩,
  ⟨0x9000, 1, 1, 0x24, 1, .u8, .ro, .volatile, 0, .any, "tj_max_now_c", false⟩,
  ⟨0x9000, 1, 1, 0x25, 1, .u8, .ro, .alwaysOn, 0, .any, "last_trip", false⟩,
  ⟨0x9010, 4, 1, 0x01, 1, .u8, .ro, .volatile, 0, .any, "model_state", false⟩,
  ⟨0x9010, 4, 1, 0x02, 1, .f32, .ro, .volatile, 0, .any, "cal_temp_c", false⟩,
  ⟨0x9010, 4, 1, 0x03, 1, .f32, .ro, .volatile, 0, .any, "cal_load_w", false⟩,
  ⟨0x9010, 4, 1, 0x04, 1, .f32, .ro, .volatile, 0, .any, "e_mac_pj", false⟩,
  ⟨0x9010, 4, 1, 0x05, 1, .f32, .ro, .volatile, 0, .any, "e_granule_nj", false⟩,
  ⟨0x9010, 4, 1, 0x06, 1, .f32, .ro, .volatile, 0, .any, "leak_w", false⟩]

/-- Objects of indexes 0xA000 to 0xA0FF. -/
def pageA0 : List Obj := [
  ⟨0xA000, 1, 1, 0x01, 1, .u8, .const, .none, 3, .any, "lifecycle", false⟩,
  ⟨0xA000, 1, 1, 0x02, 1, .u8, .ro, .volatile, 0, .any, "debug_state", false⟩,
  ⟨0xA000, 1, 1, 0x03, 1, .u8, .const, .none, 1, .any, "test_fuse", false⟩,
  ⟨0xA000, 1, 1, 0x04, 1, .u8, .ro, .fuse, 0, .any, "keys_revoked", false⟩,
  ⟨0xA000, 1, 1, 0x05, 1, (.octets 8), .ro, .fuse, 0, .any, "svn_floor", false⟩,
  ⟨0xA000, 1, 1, 0x06, 1, .bool, .rw, .store, 0, (.range 0 1), "mgmt_session_enable", false⟩,
  ⟨0xA000, 1, 1, 0x10, 1, (.octets 32), .rw, .store, 0, .any, "owner_key", false⟩,
  ⟨0xA000, 1, 1, 0x11, 1, .u8, .ro, .store, 0, .any, "owner_key_state", false⟩,
  ⟨0xA000, 1, 1, 0x12, 1, .u64, .ro, .store, 0, .any, "bundle_sequence_last", false⟩,
  ⟨0xA000, 1, 1, 0x18, 8, (.octets 40), .rw, .store, 0, .any, "session_key", false⟩,
  ⟨0xA000, 1, 1, 0x20, 1, .u8, .ro, .volatile, 0, .any, "sessions_open", false⟩,
  ⟨0xA000, 1, 1, 0x21, 1, .u16, .rw, .store, 60, (.range 10 3600), "session_idle_s", false⟩,
  ⟨0xA000, 1, 1, 0x22, 1, .u64, .ro, .volatile, 0, .any, "auth_failures", false⟩,
  ⟨0xA000, 1, 1, 0x30, 1, (.octets 32), .rw, .volatile, 0, .any, "attest_nonce", false⟩,
  ⟨0xA000, 1, 1, 0x31, 1, .bool, .wo, .none, 0, (.range 0 1), "attest_request", false⟩,
  ⟨0xA000, 1, 1, 0x32, 1, .u8, .ro, .volatile, 0, .any, "attest_state", false⟩,
  ⟨0xA000, 1, 1, 0x33, 1, (.octets 1520), .ro, .volatile, 0, .any, "attest_report", false⟩,
  ⟨0xA000, 1, 1, 0x40, 13, (.octets 64), .ro, .volatile, 0, .any, "measurement", false⟩,
  ⟨0xA000, 1, 1, 0x4D, 1, .u64, .ro, .volatile, 0, .any, "measurement_changes", false⟩,
  ⟨0xA000, 1, 1, 0x50, 1, .u32, .ro, .volatile, 0, .any, "clear_pending_mib", false⟩,
  ⟨0xA000, 1, 1, 0x51, 1, .u64, .ro, .volatile, 0, .any, "felt_clears", false⟩]

/-- Objects of indexes 0xA100 to 0xA1FF. -/
def pageA1 : List Obj := [
  ⟨0xA100, 1, 1, 0x01, 1, .u8, .ro, .volatile, 0, .any, "fw_state", false⟩,
  ⟨0xA100, 1, 1, 0x02, 1, .u8, .ro, .volatile, 0, .any, "fw_reject_reason", false⟩,
  ⟨0xA100, 1, 1, 0x03, 1, .u32, .rw, .volatile, 0, (.range 0 67108864), "fw_length", false⟩,
  ⟨0xA100, 1, 1, 0x04, 1, (.octets 67108864), .wo, .volatile, 0, .any, "fw_buffer", false⟩,
  ⟨0xA100, 1, 1, 0x05, 1, .bool, .wo, .none, 0, (.range 0 1), "fw_apply", false⟩,
  ⟨0xA100, 1, 1, 0x06, 1, .bool, .wo, .none, 0, (.range 0 1), "fw_abort", false⟩,
  ⟨0xA100, 1, 1, 0x07, 1, .u8, .wo, .none, 0, .any, "fw_activate_slices", false⟩,
  ⟨0xA100, 1, 1, 0x08, 1, .u8, .ro, .volatile, 0, .any, "fw_staged_type", false⟩,
  ⟨0xA100, 1, 1, 0x09, 1, .u32, .ro, .volatile, 0, .any, "fw_staged_version", false⟩,
  ⟨0xA100, 1, 1, 0x0C, 1, .bool, .wo, .none, 0, (.range 0 1), "svn_commit", false⟩,
  ⟨0xA100, 1, 1, 0x10, 6, .u32, .ro, .volatile, 16777216, .any, "fw_flash_version", false⟩,
  ⟨0xA100, 1, 1, 0x18, 4, .u32, .ro, .volatile, 16777216, .any, "slice_fw_version", false⟩,
  ⟨0xA100, 1, 1, 0x20, 1, .u8, .ro, .alwaysOn, 0, .any, "recovery_reason", false⟩,
  ⟨0xA100, 1, 1, 0x21, 1, .u8, .ro, .alwaysOn, 0, .any, "recovery_image_type", false⟩,
  ⟨0xA100, 1, 1, 0x22, 1, .u8, .ro, .alwaysOn, 0, .any, "boot_failures", false⟩,
  ⟨0xA100, 1, 1, 0x23, 1, .u64, .ro, .volatile, 0, .any, "updates_applied", false⟩]

/-- Objects of indexes 0xB000 to 0xB0FF. -/
def pageB0 : List Obj := [
  ⟨0xB000, 1, 1, 0x01, 1, .u8, .ro, .volatile, 0, .any, "node_start_state", false⟩,
  ⟨0xB000, 1, 1, 0x02, 1, .u8, .ro, .volatile, 0, .any, "start_fail_cause", false⟩,
  ⟨0xB000, 1, 1, 0x03, 1, .u32, .ro, .volatile, 0, .any, "start_elapsed_ms", false⟩,
  ⟨0xB000, 1, 1, 0x04, 1, .u8, .ro, .volatile, 0, .any, "stacks_failed_training", false⟩,
  ⟨0xB000, 1, 1, 0x05, 1, .u8, .ro, .volatile, 0, .any, "slices_retired_at_start", false⟩,
  ⟨0xB000, 1, 1, 0x10, 1, .bool, .rw, .store, 0, (.range 0 1), "autostart_enable", false⟩,
  ⟨0xB000, 1, 1, 0x11, 64, .u64, .rw, .store, 0, .any, "autostart_list", false⟩,
  ⟨0xB000, 1, 1, 0x51, 1, .u8, .ro, .volatile, 0, .any, "autostart_position", false⟩,
  ⟨0xB000, 1, 1, 0x52, 1, .u8, .ro, .volatile, 0, .any, "autostart_state", false⟩,
  ⟨0xB000, 1, 1, 0x60, 1, .u32, .rw, .store, 1000, (.range 10 60000), "join_timeout_ms", false⟩,
  ⟨0xB000, 1, 1, 0x61, 1, .u64, .ro, .volatile, 0, .any, "join_attempts", false⟩,
  ⟨0xB000, 1, 1, 0x62, 1, .u8, .ro, .volatile, 0, .any, "join_refusal", false⟩]

/-- The rows that may hold an index. -/
def pageOf (idx : Nat) : List Obj :=
  match idx / 256 with
  | 0x10 => page10
  | 0x11 => page11
  | 0x12 => page12
  | 0x20 => page20
  | 0x21 => page20
  | 0x22 => page20
  | 0x23 => page20
  | 0x31 => page31
  | 0x40 => page40
  | 0x41 => page41
  | 0x42 => page42
  | 0x43 => page43
  | 0x44 => page44
  | 0x50 => page50
  | 0x60 => page60
  | 0x61 => page61
  | 0x62 => page62
  | 0x63 => page63
  | 0x70 => page70
  | 0x71 => page71
  | 0x72 => page72
  | 0x80 => page80
  | 0x81 => page81
  | 0x82 => page82
  | 0x90 => page90
  | 0xA0 => pageA0
  | 0xA1 => pageA1
  | 0xB0 => pageB0
  | _ => []

/-- Whether a row takes in an index. -/
def Obj.hasIdx (o : Obj) (idx : Nat) : Bool :=
  decide (o.idx ≤ idx) && decide (idx < o.idx + o.idxN * o.step) && (idx - o.idx) % o.step == 0

/-- The row of an object, if the dictionary has it (R29, R58). -/
def lookupObj (idx sub : Nat) : Option Obj :=
  (pageOf idx).find? (fun o => o.hasIdx idx && decide (o.sub ≤ sub) && decide (sub < o.sub + o.subN))

/-- The default of an object; three rows name it by their own index. -/
def dfltOf (o : Obj) (idx sub : Nat) : Nat :=
  if decide (0x1220 ≤ idx) && decide (idx ≤ 0x1223) && decide (1 ≤ sub) && decide (sub ≤ 4) then
    (if sub == idx - 0x1220 + 1 then 1 else 0)                     -- R82: comparators_slice s
  else if idx == 0x6310 && sub == 1 then 0                         -- R352: class_band of class 0
  else o.dflt

/-- The key of an object. -/
abbrev keyOf (idx sub : Nat) : Nat := idx * 256 + sub

/-! ## Names of the keys -/

namespace K

abbrev herdRole : Nat := 0x110001
abbrev herdId : Nat := 0x110002
abbrev nodeNumber : Nat := 0x110003
abbrev spareGroup : Nat := 0x110004
abbrev deputyEnable : Nat := 0x110005
abbrev leadTakeoverNs : Nat := 0x110006
abbrev membershipState : Nat := 0x110007
abbrev herdEnable : Nat := 0x110008
abbrev leadTerm : Nat := 0x110009
abbrev deviceType : Nat := 0x100001
abbrev orderingCode : Nat := 0x100002
abbrev stepping : Nat := 0x100003
abbrev unitId : Nat := 0x100004
abbrev dictionaryVersion : Nat := 0x100005
abbrev firmwareVersion : Nat := 0x100006
abbrev storeCommit : Nat := 0x101001
abbrev storeDefaults : Nat := 0x101002
abbrev storeState : Nat := 0x101003
abbrev bundleLength : Nat := 0x101004
abbrev bundleBuffer : Nat := 0x101005
abbrev bundleApply : Nat := 0x101006
abbrev bundleState : Nat := 0x101007
abbrev htRefOwner : Nat := 0x104001
abbrev lastRefusal : Nat := 0x10F000
abbrev feltPoolMinMib (s : Nat) : Nat := 0x200008 + 0x10000 * s
abbrev comparatorOwner (s k : Nat) : Nat := 0x200040 + 0x10000 * s + k
abbrev feltBlockOwner (s k : Nat) : Nat := 0x200050 + 0x10000 * s + k
abbrev htSource : Nat := 0x120001
abbrev htRefEnable : Nat := 0x120002
abbrev htSourceEnable : Nat := 0x120003
abbrev htState : Nat := 0x120004
abbrev htNow : Nat := 0x120005
abbrev htRefSeconds : Nat := 0x120006
abbrev htHops : Nat := 0x120007
abbrev htUpstreamLink : Nat := 0x120008
abbrev htHoldoverNs : Nat := 0x120009
abbrev stepLengthNs : Nat := 0x12000A
abbrev stepMaxNs : Nat := 0x12000B
abbrev stepExtendNs : Nat := 0x12000C
abbrev stepGuardNs : Nat := 0x12000D
abbrev scheduleSpanNs : Nat := 0x12000E
abbrev currentStep : Nat := 0x12000F
abbrev claim1200 : Nat := 0x120010
abbrev deadlineEnable : Nat := 0x120020
abbrev deadlineHorizonNs : Nat := 0x12002A
abbrev lateCount : Nat := 0x12002B
abbrev lateDiscardCount : Nat := 0x12002C
abbrev claim1220 (s : Nat) : Nat := 0x122001 + 0x100 * s
abbrev scheduleEnable (s : Nat) : Nat := 0x12200A + 0x100 * s
abbrev sweepOverrunCount (s : Nat) : Nat := 0x12200B + 0x100 * s
abbrev formatRulesEnable : Nat := 0x400001
abbrev defaultKFormat : Nat := 0x400002
abbrev defaultVFormat : Nat := 0x400003
abbrev nonfiniteInputCount : Nat := 0x400004
abbrev saturationCount : Nat := 0x400005
abbrev nonfiniteResultCount : Nat := 0x400006
abbrev sheetsHeld (s : Nat) : Nat := 0x200010 + 0x10000 * s
abbrev sheetsOpen (s : Nat) : Nat := 0x200011 + 0x10000 * s
abbrev extensionGranules (s : Nat) : Nat := 0x200012 + 0x10000 * s
abbrev appendsCommitted (s : Nat) : Nat := 0x200013 + 0x10000 * s
abbrev appendsRevoked (s : Nat) : Nat := 0x200014 + 0x10000 * s
abbrev appendPositionConflicts (s : Nat) : Nat := 0x200015 + 0x10000 * s
abbrev reamsRetiredPending (s : Nat) : Nat := 0x200016 + 0x10000 * s
abbrev reamsReclaimed (s : Nat) : Nat := 0x200017 + 0x10000 * s
abbrev snapshotClampedCount (s : Nat) : Nat := 0x200018 + 0x10000 * s
abbrev snapshotTooOldCount (s : Nat) : Nat := 0x200019 + 0x10000 * s
abbrev maskRightsRefused (s : Nat) : Nat := 0x20001A + 0x10000 * s
abbrev metadataCheckFailures (s : Nat) : Nat := 0x20001B + 0x10000 * s
abbrev attentionEnable : Nat := 0x400801
abbrev defaultTopK : Nat := 0x400802
abbrev maxQueryRows : Nat := 0x400803
abbrev parkedLimit : Nat := 0x400804
abbrev recordsEmitted : Nat := 0x400805
abbrev admissionRefusedCount : Nat := 0x400806
abbrev ticketPayloadMaxMib : Nat := 0x400807
abbrev sharesAdmitted (s : Nat) : Nat := 0x200020 + 0x10000 * s
abbrev sharesParked (s : Nat) : Nat := 0x200021 + 0x10000 * s
abbrev parkedNow (s : Nat) : Nat := 0x200022 + 0x10000 * s
abbrev streamBusyNs (s : Nat) : Nat := 0x200023 + 0x10000 * s
abbrev passesRun (s : Nat) : Nat := 0x200024 + 0x10000 * s
abbrev deadlineAborts (s : Nat) : Nat := 0x200025 + 0x10000 * s
abbrev enginesInService (s : Nat) : Nat := 0x200026 + 0x10000 * s
abbrev scoringEnable : Nat := 0x410001
abbrev kPlacement : Nat := 0x410002
abbrev scoringReserveMib : Nat := 0x410003
abbrev burstMaxNs : Nat := 0x410004
abbrev rebalanceEnable : Nat := 0x410005
abbrev rebalanceQuires : Nat := 0x410006
abbrev biasBlockBytes : Nat := 0x410007
abbrev fencesCompleted : Nat := 0x410008
abbrev flipsCompleted : Nat := 0x410009
abbrev halvesScoredInStack (s : Nat) : Nat := 0x200030 + 0x10000 * s
abbrev halvesScoredOverPins (s : Nat) : Nat := 0x200031 + 0x10000 * s
abbrev halvesHostBias (s : Nat) : Nat := 0x200032 + 0x10000 * s
abbrev burstsIssued (s : Nat) : Nat := 0x200033 + 0x10000 * s
abbrev refreshAtBoundary (s : Nat) : Nat := 0x200034 + 0x10000 * s
abbrev hostReadsWaited (s : Nat) : Nat := 0x200035 + 0x10000 * s
abbrev hostReadWaitMaxNs (s : Nat) : Nat := 0x200036 + 0x10000 * s
abbrev hostWritesHeld (s : Nat) : Nat := 0x200037 + 0x10000 * s
abbrev refreshPostponed (s : Nat) : Nat := 0x200038 + 0x10000 * s
abbrev scoringFreeMib (s : Nat) : Nat := 0x200039 + 0x10000 * s
abbrev quiresKInCarrying (s : Nat) : Nat := 0x20003A + 0x10000 * s
abbrev scoreArrayState (s : Nat) : Nat := 0x20003B + 0x10000 * s
abbrev quiresRebalanced (s : Nat) : Nat := 0x20003C + 0x10000 * s
abbrev vindexEnable (i : Nat) : Nat := 0x422001 + 0x100 * i
abbrev vindexTenant (i : Nat) : Nat := 0x422002 + 0x100 * i
abbrev vindexDim (i : Nat) : Nat := 0x422003 + 0x100 * i
abbrev vindexSubquantisers (i : Nat) : Nat := 0x422004 + 0x100 * i
abbrev vindexLists (i : Nat) : Nat := 0x422005 + 0x100 * i
abbrev vindexCapacity (i : Nat) : Nat := 0x422006 + 0x100 * i
abbrev vindexMetric (i : Nat) : Nat := 0x422007 + 0x100 * i
abbrev vindexRerankFormat (i : Nat) : Nat := 0x422008 + 0x100 * i
abbrev vindexRerankStore (i : Nat) : Nat := 0x422009 + 0x100 * i
abbrev vindexDefaultProbes (i : Nat) : Nat := 0x42200A + 0x100 * i
abbrev vindexItemsLive (i : Nat) : Nat := 0x42200B + 0x100 * i
abbrev vindexEntries (i : Nat) : Nat := 0x42200C + 0x100 * i
abbrev vindexLoadState (i : Nat) : Nat := 0x42200D + 0x100 * i
abbrev vindexReservedMib (i : Nat) : Nat := 0x42200E + 0x100 * i
abbrev deckleEnable : Nat := 0x420001
abbrev deckleReps : Nat := 0x420002
abbrev deckleSlack : Nat := 0x420003
abbrev searchEnable : Nat := 0x420004
abbrev deckleBacklog : Nat := 0x420005
abbrev forcedOverflowCount : Nat := 0x420006
abbrev selectionsRun : Nat := 0x420007
abbrev recencySelections : Nat := 0x420008
abbrev searchesCompleted : Nat := 0x420009
abbrev searchesShort : Nat := 0x42000A
abbrev deckleCodebooks : Nat := 0x42000B
abbrev filterHandlesUsed : Nat := 0x42000C
abbrev mergeEnable : Nat := 0x430001
abbrev mergeLevelMarginNs : Nat := 0x430002
abbrev gapRecordsMax : Nat := 0x430003
abbrev mergeContextsOpen : Nat := 0x430004
abbrev mergesCompleted : Nat := 0x430005
abbrev mergesClosedPartial : Nat := 0x430006
abbrev mergeCloseForced : Nat := 0x430007
abbrev mergeWaits : Nat := 0x430008
abbrev gapsEmitted : Nat := 0x430009
abbrev forwardRefusals : Nat := 0x43000A
abbrev orphanSets : Nat := 0x43000B
abbrev treeSelect : Nat := 0x430010
abbrev treeEntry : Nat := 0x430011
abbrev treeCount : Nat := 0x430012
abbrev directoryEnable : Nat := 0x440001
abbrev dirSegmentHoles : Nat := 0x440002
abbrev dirHotHoldSteps : Nat := 0x440003
abbrev dirBackingMib : Nat := 0x440004
abbrev dirWindowTarget : Nat := 0x440005
abbrev dirWindowEntry : Nat := 0x440006
abbrev dirWindowOp : Nat := 0x440007
abbrev dirWindowPosition : Nat := 0x440008
abbrev routeLookups : Nat := 0x440009
abbrev routeMisses : Nat := 0x44000A
abbrev dirHotEntries (s : Nat) : Nat := 0x441001 + 0x100 * s
abbrev dirBackingEntries (s : Nat) : Nat := 0x441002 + 0x100 * s
abbrev dirSearches (s : Nat) : Nat := 0x441003 + 0x100 * s
abbrev dirHotMisses (s : Nat) : Nat := 0x441004 + 0x100 * s
abbrev dirShiftCycles (s : Nat) : Nat := 0x441005 + 0x100 * s
abbrev dirSpilledGroups (s : Nat) : Nat := 0x441006 + 0x100 * s
abbrev dirBanksActivated (s : Nat) : Nat := 0x441007 + 0x100 * s
abbrev dirSearchStallEc (s : Nat) : Nat := 0x441008 + 0x100 * s
abbrev tenantEnable (t : Nat) : Nat := 0x310001 + 0x100 * t
abbrev hbmQuotaMib (t : Nat) : Nat := 0x310002 + 0x100 * t
abbrev feltQuotaMib (t : Nat) : Nat := 0x310003 + 0x100 * t
abbrev vatQuotaMib (t : Nat) : Nat := 0x310004 + 0x100 * t
abbrev snapshotAgeLimit (t : Nat) : Nat := 0x310005 + 0x100 * t
abbrev maskBitmapGrant (t : Nat) : Nat := 0x310006 + 0x100 * t
abbrev overQuotaDemote (t : Nat) : Nat := 0x310007 + 0x100 * t
abbrev swapRegion (t : Nat) : Nat := 0x310008 + 0x100 * t
abbrev swapOffsetMib (t : Nat) : Nat := 0x310009 + 0x100 * t
abbrev swapMib (t : Nat) : Nat := 0x31000A + 0x100 * t
abbrev holdingsHbm (t : Nat) : Nat := 0x310010 + 0x100 * t
abbrev holdingsFelt (t : Nat) : Nat := 0x310011 + 0x100 * t
abbrev holdingsVat (t : Nat) : Nat := 0x310012 + 0x100 * t
abbrev holdingsSwap (t : Nat) : Nat := 0x310013 + 0x100 * t
abbrev overQuota (t : Nat) : Nat := 0x310014 + 0x100 * t
abbrev quotaRefusals (t : Nat) : Nat := 0x310015 + 0x100 * t
abbrev stallsVat (t : Nat) : Nat := 0x310016 + 0x100 * t
abbrev stallsSwap (t : Nat) : Nat := 0x310017 + 0x100 * t
abbrev stallsRoom (t : Nat) : Nat := 0x310018 + 0x100 * t
abbrev stallNs (t : Nat) : Nat := 0x310019 + 0x100 * t
abbrev quiresInSwap (t : Nat) : Nat := 0x31001A + 0x100 * t
abbrev tierFaults (t : Nat) : Nat := 0x31001B + 0x100 * t
abbrev swapNoRoom (t : Nat) : Nat := 0x31001C + 0x100 * t
abbrev vatEnable : Nat := 0x500001
abbrev pressEnable : Nat := 0x500002
abbrev feltHomeEnable : Nat := 0x500003
abbrev vatDemoteLowMib : Nat := 0x500004
abbrev vatDemoteHighMib : Nat := 0x500005
abbrev moveRetryLimit : Nat := 0x500006
abbrev vatLateNs : Nat := 0x500007
abbrev tierStallLimitNs : Nat := 0x500008
abbrev quiresDemoted : Nat := 0x500009
abbrev quiresFaultedIn : Nat := 0x50000A
abbrev movesAbandoned : Nat := 0x50000B
abbrev moveRestarts : Nat := 0x50000C
abbrev moveFailures : Nat := 0x50000D
abbrev rawBlocks : Nat := 0x50000E
abbrev roomRefusals : Nat := 0x50000F
abbrev claim5000 : Nat := 0x500010
abbrev bytesPressedSource : Nat := 0x500019
abbrev bytesPressedOut : Nat := 0x50001A
abbrev vatRegionEnable (v : Nat) : Nat := 0x501001 + 0x100 * v
abbrev vatKind (v : Nat) : Nat := 0x501002 + 0x100 * v
abbrev vatBase (v : Nat) : Nat := 0x501003 + 0x100 * v
abbrev vatLengthMib (v : Nat) : Nat := 0x501004 + 0x100 * v
abbrev vatLease (v : Nat) : Nat := 0x501005 + 0x100 * v
abbrev vatFreeMib (v : Nat) : Nat := 0x501006 + 0x100 * v
abbrev vatState (v : Nat) : Nat := 0x501007 + 0x100 * v
abbrev vatRegionDrain (v : Nat) : Nat := 0x501008 + 0x100 * v
abbrev vatLateCount (v : Nat) : Nat := 0x501009 + 0x100 * v
abbrev vatErrors (v : Nat) : Nat := 0x50100A + 0x100 * v
abbrev hostPortEnable : Nat := 0x700001
abbrev cxlModeMax : Nat := 0x700002
abbrev cxlModeNow : Nat := 0x700003
abbrev linkWidth : Nat := 0x700004
abbrev hostVisibleGib : Nat := 0x700005
abbrev vfEnabled : Nat := 0x700006
abbrev ideRequired : Nat := 0x700007
abbrev completionPath : Nat := 0x700008
abbrev hdmUnmappedAccesses : Nat := 0x700009
abbrev completionWriteErrors : Nat := 0x70000A
abbrev hostBiasLinesRead : Nat := 0x70000B
abbrev linkResets : Nat := 0x70000C
abbrev ideState : Nat := 0x70000D
abbrev vfTenant (k : Nat) : Nat := 0x700801 + k
abbrev slotAreaEnable (a : Nat) : Nat := 0x701001 + 0x100 * a
abbrev areaFunction (a : Nat) : Nat := 0x701002 + 0x100 * a
abbrev areaTenant (a : Nat) : Nat := 0x701003 + 0x100 * a
abbrev areaSlice (a : Nat) : Nat := 0x701004 + 0x100 * a
abbrev areaDpa (a : Nat) : Nat := 0x701005 + 0x100 * a
abbrev areaSlots (a : Nat) : Nat := 0x701006 + 0x100 * a
abbrev cqBase (a : Nat) : Nat := 0x701007 + 0x100 * a
abbrev cqLength (a : Nat) : Nat := 0x701008 + 0x100 * a
abbrev areaTaken (a : Nat) : Nat := 0x701009 + 0x100 * a
abbrev areaCrcFailures (a : Nat) : Nat := 0x70100A + 0x100 * a
abbrev areaAliveMismatch (a : Nat) : Nat := 0x70100B + 0x100 * a
abbrev areaStrayCompletions (a : Nat) : Nat := 0x70100C + 0x100 * a
abbrev laneFlapLimit : Nat := 0x600001
abbrev fecUncorrectableLimit : Nat := 0x600002
abbrev linksUp : Nat := 0x600003
abbrev eventsForward : Nat := 0x600004
abbrev ceThresholdKib : Nat := 0x600005
abbrev mgmtSharePermille : Nat := 0x600006
abbrev linkEnable (link : Nat) : Nat := 0x610001 + 0x100 * link
abbrev linkReach (link : Nat) : Nat := 0x610002 + 0x100 * link
abbrev linkWidthMax (link : Nat) : Nat := 0x610003 + 0x100 * link
abbrev linkState (link : Nat) : Nat := 0x610004 + 0x100 * link
abbrev linkWidthNow (link : Nat) : Nat := 0x610005 + 0x100 * link
abbrev lanesRetired (link : Nat) : Nat := 0x610006 + 0x100 * link
abbrev laneRestore (link : Nat) : Nat := 0x610007 + 0x100 * link
abbrev peerNode (link : Nat) : Nat := 0x610008 + 0x100 * link
abbrev peerLink (link : Nat) : Nat := 0x610009 + 0x100 * link
abbrev oneWayDelayPs (link : Nat) : Nat := 0x61000A + 0x100 * link
abbrev fecCorrected (link : Nat) : Nat := 0x61000B + 0x100 * link
abbrev fecUncorrectable (link : Nat) : Nat := 0x61000C + 0x100 * link
abbrev flitsDiscarded (link : Nat) : Nat := 0x61000D + 0x100 * link
abbrev laneFlapsHour (link : Nat) : Nat := 0x61000E + 0x100 * link
abbrev ceMarked (link : Nat) : Nat := 0x61000F + 0x100 * link
abbrev linkDowns (link : Nat) : Nat := 0x610010 + 0x100 * link
abbrev eqAdaptFailures (link : Nat) : Nat := 0x610011 + 0x100 * link
abbrev transportEnable : Nat := 0x620001
abbrev rtoNs : Nat := 0x620002
abbrev retryLimit : Nat := 0x620003
abbrev rnrDelayNs : Nat := 0x620004
abbrev reassemblyTimeoutNs : Nat := 0x620005
abbrev regionQuarantineNs : Nat := 0x620006
abbrev ackDelayNs : Nat := 0x620007
abbrev ccDecreaseShift : Nat := 0x620008
abbrev ccIntervalNs : Nat := 0x620009
abbrev ccMinMbs : Nat := 0x62000A
abbrev ccMaxMbs : Nat := 0x62000B
abbrev ccIncreaseMbs : Nat := 0x62000C
abbrev regionSelect : Nat := 0x620010
abbrev regionEntry : Nat := 0x620011
abbrev regionOp : Nat := 0x620012
abbrev regionsRegistered : Nat := 0x620013
abbrev messagesSent : Nat := 0x620014
abbrev messagesReceived : Nat := 0x620015
abbrev packetsRetransmitted : Nat := 0x620016
abbrev duplicatesDiscarded : Nat := 0x620017
abbrev reassemblyOverflows : Nat := 0x620018
abbrev reassemblyTimeouts : Nat := 0x620019
abbrev keyRefusals : Nat := 0x62001A
abbrev noBufferNaks : Nat := 0x62001B
abbrev malformedPackets : Nat := 0x62001C
abbrev mgmtRefused : Nat := 0x62001D
abbrev trafficEnable : Nat := 0x630001
abbrev countMode : Nat := 0x630002
abbrev packetChargeBytes : Nat := 0x630003
abbrev egressClassLimitKib : Nat := 0x630004
abbrev policeDropsTotal : Nat := 0x630005
abbrev egressOverflowDrops : Nat := 0x630006
abbrev tenantGroups (k : Nat) : Nat := 0x630101 + k
abbrev classBand (c : Nat) : Nat := 0x631001 + 0x100 * c
abbrev classWeight (c : Nat) : Nat := 0x631002 + 0x100 * c
abbrev groupWeight (c k : Nat) : Nat := 0x631010 + 0x100 * c + k
abbrev policeRateMbs (c k : Nat) : Nat := 0x631020 + 0x100 * c + k
abbrev policeBurstKib (c k : Nat) : Nat := 0x631028 + 0x100 * c + k
abbrev policeDropped (c k : Nat) : Nat := 0x631030 + 0x100 * c + k
abbrev chargedBytes (c k : Nat) : Nat := 0x631038 + 0x100 * c + k
abbrev linkPoliceDrops (link : Nat) : Nat := 0x632001 + 0x100 * link
abbrev linkOverflowDrops (link : Nat) : Nat := 0x632002 + 0x100 * link
abbrev extentEnable : Nat := 0x710001
abbrev leaseNs : Nat := 0x710002
abbrev extentDrainNs : Nat := 0x710003
abbrev opensMax : Nat := 0x710004
abbrev extentsActive : Nat := 0x710005
abbrev revocations : Nat := 0x710006
abbrev leasesExpired : Nat := 0x710007
abbrev revokedCompletions : Nat := 0x710008
abbrev readonlyWritesDiscarded : Nat := 0x710009
abbrev opensHeld : Nat := 0x71000A
abbrev extentSelect : Nat := 0x710010
abbrev extentEntry : Nat := 0x710011
abbrev extentOp : Nat := 0x710012
abbrev leaseSelect : Nat := 0x710013
abbrev leaseExpiry : Nat := 0x710014
abbrev claim7100 : Nat := 0x710015
abbrev poolEnable : Nat := 0x711001
abbrev poolLeaseNs : Nat := 0x711002
abbrev poolGuardNs : Nat := 0x711003
abbrev poolRevokeDrainNs : Nat := 0x711004
abbrev poolRequestMib : Nat := 0x711005
abbrev poolRelease : Nat := 0x711006
abbrev poolResult : Nat := 0x711007
abbrev poolResultState : Nat := 0x711008
abbrev poolRangeBase (k : Nat) : Nat := 0x711010 + k
abbrev poolRangeMib (k : Nat) : Nat := 0x711014 + k
abbrev poolFreeMib : Nat := 0x711018
abbrev poolLeasesHeld : Nat := 0x711019
abbrev poolLeasesLapsed : Nat := 0x71101A
abbrev shareSelectTenant : Nat := 0x712001
abbrev shareSelectId : Nat := 0x712002
abbrev shareEntry : Nat := 0x712003
abbrev sharesDefined : Nat := 0x712004
abbrev publishesOrdered : Nat := 0x712005
abbrev publishConflicts : Nat := 0x712006
abbrev mapEpoch : Nat := 0x720001
abbrev mapEpochPrevious : Nat := 0x720002
abbrev drainEndStep : Nat := 0x720003
abbrev epochDrainSteps : Nat := 0x720004
abbrev handoffClass : Nat := 0x720005
abbrev staleEpochRefusals : Nat := 0x720006
abbrev handoffsCompleted : Nat := 0x720007
abbrev handoffsCancelled : Nat := 0x720008
abbrev mapSelect : Nat := 0x720009
abbrev mapEntry : Nat := 0x72000A
abbrev mapWaitCount : Nat := 0x72000B
abbrev sliceDuty (s : Nat) : Nat := 0x200009 + 0x10000 * s
abbrev replayLimit : Nat := 0x800001
abbrev replaysTotal : Nat := 0x800002
abbrev wordsPoisoned : Nat := 0x800003
abbrev feltBlocksRetired : Nat := 0x800004
abbrev laneFailures : Nat := 0x800005
abbrev staleRecords : Nat := 0x800006
abbrev cvSelect : Nat := 0x800010
abbrev cvEntry : Nat := 0x800011
abbrev cvOp : Nat := 0x800012
abbrev poisonLinesScoring (s : Nat) : Nat := 0x801001 + 0x100 * s
abbrev poisonLinesCarrying (s : Nat) : Nat := 0x801002 + 0x100 * s
abbrev poisonBlocksUsed (s : Nat) : Nat := 0x801003 + 0x100 * s
abbrev salvageQuires (s : Nat) : Nat := 0x801004 + 0x100 * s
abbrev salvageFailures (s : Nat) : Nat := 0x801005 + 0x100 * s
abbrev sharesStateLost (s : Nat) : Nat := 0x801006 + 0x100 * s
abbrev healthEnable : Nat := 0x810001
abbrev healthReportNs : Nat := 0x810002
abbrev healthSilentReports : Nat := 0x810003
abbrev healthExpelBelow : Nat := 0x810004
abbrev healthRestoreAt : Nat := 0x810005
abbrev healthRecover : Nat := 0x810006
abbrev expelMaxPerWindow : Nat := 0x810007
abbrev expelWindowMs : Nat := 0x810008
abbrev membershipFloor : Nat := 0x810009
abbrev healthSelect : Nat := 0x81000A
abbrev healthScore : Nat := 0x81000B
abbrev expulsions : Nat := 0x81000C
abbrev probations : Nat := 0x81000D
abbrev floorHolds : Nat := 0x81000E
abbrev nodesLost : Nat := 0x81000F
abbrev wLinkDown : Nat := 0x811001
abbrev wFecDegraded : Nat := 0x811002
abbrev wLaneRetired : Nat := 0x811003
abbrev wWordPoisoned : Nat := 0x811004
abbrev wEngineRetired : Nat := 0x811005
abbrev wSliceFault : Nat := 0x811006
abbrev wStateLost : Nat := 0x811007
abbrev wUnmirrored : Nat := 0x811008
abbrev wMissedReport : Nat := 0x811009
abbrev journalEnable : Nat := 0x812001
abbrev journalAckNs : Nat := 0x812003
abbrev journalPartner : Nat := 0x812004
abbrev journalBytesHeld : Nat := 0x812005
abbrev journalUnmirroredTokens : Nat := 0x812006
abbrev lostRangesHeld : Nat := 0x812008
abbrev tailsRebuilt : Nat := 0x812009
abbrev journalReserveMib : Nat := 0x81200A
abbrev logHead : Nat := 0x820001
abbrev logCount : Nat := 0x820002
abbrev logSelect : Nat := 0x820003
abbrev logEntry : Nat := 0x820004
abbrev logClear : Nat := 0x820005
abbrev logMinSeverity : Nat := 0x820006
abbrev traceTriggerEnable : Nat := 0x820010
abbrev claim8200 : Nat := 0x820011
abbrev traceTriggerSource : Nat := 0x82001A
abbrev traceTriggerCode : Nat := 0x82001B
abbrev tracePulses : Nat := 0x82001C
abbrev powerEnable : Nat := 0x900001
abbrev powerCapW : Nat := 0x900002
abbrev peakEnable : Nat := 0x900003
abbrev throttleLevel : Nat := 0x900004
abbrev throttleLevelMin : Nat := 0x900005
abbrev nodePowerW : Nat := 0x900006
abbrev peakWindowsUsed : Nat := 0x900007
abbrev budgetWaits : Nat := 0x900008
abbrev powerGuardPermille : Nat := 0x900009
abbrev recalDeltaC : Nat := 0x90000A
abbrev recalDeltaW : Nat := 0x90000B
abbrev recalCount : Nat := 0x90000C
abbrev overbudgetWindows : Nat := 0x90000E
abbrev railPowerW (k : Nat) : Nat := 0x900010 + k
abbrev tjThrottleC : Nat := 0x900020
abbrev tjCriticalC : Nat := 0x900021
abbrev tjTripC : Nat := 0x900022
abbrev hbmThrottleC : Nat := 0x900023
abbrev tjMaxNowC : Nat := 0x900024
abbrev lastTrip : Nat := 0x900025
abbrev modelState (s : Nat) : Nat := 0x901001 + 0x100 * s
abbrev calTempC (s : Nat) : Nat := 0x901002 + 0x100 * s
abbrev calLoadW (s : Nat) : Nat := 0x901003 + 0x100 * s
abbrev eMacPj (s : Nat) : Nat := 0x901004 + 0x100 * s
abbrev eGranuleNj (s : Nat) : Nat := 0x901005 + 0x100 * s
abbrev leakW (s : Nat) : Nat := 0x901006 + 0x100 * s
abbrev lifecycle : Nat := 0xA00001
abbrev debugState : Nat := 0xA00002
abbrev testFuse : Nat := 0xA00003
abbrev keysRevoked : Nat := 0xA00004
abbrev svnFloor : Nat := 0xA00005
abbrev mgmtSessionEnable : Nat := 0xA00006
abbrev ownerKey : Nat := 0xA00010
abbrev ownerKeyState : Nat := 0xA00011
abbrev bundleSequenceLast : Nat := 0xA00012
abbrev sessionKey (k : Nat) : Nat := 0xA00018 + k
abbrev sessionsOpen : Nat := 0xA00020
abbrev sessionIdleS : Nat := 0xA00021
abbrev authFailures : Nat := 0xA00022
abbrev attestNonce : Nat := 0xA00030
abbrev attestRequest : Nat := 0xA00031
abbrev attestState : Nat := 0xA00032
abbrev attestReport : Nat := 0xA00033
abbrev measurement (k : Nat) : Nat := 0xA00040 + k
abbrev measurementChanges : Nat := 0xA0004D
abbrev clearPendingMib : Nat := 0xA00050
abbrev feltClears : Nat := 0xA00051
abbrev fwState : Nat := 0xA10001
abbrev fwRejectReason : Nat := 0xA10002
abbrev fwLength : Nat := 0xA10003
abbrev fwBuffer : Nat := 0xA10004
abbrev fwApply : Nat := 0xA10005
abbrev fwAbort : Nat := 0xA10006
abbrev fwActivateSlices : Nat := 0xA10007
abbrev fwStagedType : Nat := 0xA10008
abbrev fwStagedVersion : Nat := 0xA10009
abbrev svnCommit : Nat := 0xA1000C
abbrev fwFlashVersion (k : Nat) : Nat := 0xA10010 + k
abbrev sliceFwVersion (k : Nat) : Nat := 0xA10018 + k
abbrev recoveryReason : Nat := 0xA10020
abbrev recoveryImageType : Nat := 0xA10021
abbrev bootFailures : Nat := 0xA10022
abbrev updatesApplied : Nat := 0xA10023
abbrev nodeStartState : Nat := 0xB00001
abbrev startFailCause : Nat := 0xB00002
abbrev startElapsedMs : Nat := 0xB00003
abbrev stacksFailedTraining : Nat := 0xB00004
abbrev slicesRetiredAtStart : Nat := 0xB00005
abbrev autostartEnable : Nat := 0xB00010
abbrev autostartList (k : Nat) : Nat := 0xB00011 + k
abbrev autostartPosition : Nat := 0xB00051
abbrev autostartState : Nat := 0xB00052
abbrev joinTimeoutMs : Nat := 0xB00060
abbrev joinAttempts : Nat := 0xB00061
abbrev joinRefusal : Nat := 0xB00062
abbrev sliceOp (s : Nat) : Nat := 0x200002 + 0x10000 * s
abbrev sliceOpState (s : Nat) : Nat := 0x200003 + 0x10000 * s
abbrev evacuationQuiresLeft (s : Nat) : Nat := 0x200004 + 0x10000 * s
abbrev sliceState (s : Nat) : Nat := 0x200001 + 0x10000 * s

end K

/-- One index of each kind that is an array (R484): its element count. -/
def arrayCount (idx : Nat) : Option Nat :=
  if decide (0x1210 ≤ idx) && decide (idx ≤ 0x1213) then some 64
  else if idx == 0x4001 then some 16
  else if idx == 0x6301 then some 32
  else if idx == 0x7008 then some 255
  else none

end Sys2Proof.Machine
end

