-- ==== Sys2Proof/Machine/State.lean ====
section
/-! DEFINITION. The state of the node as plain data: the dictionary's values, the structured tables behind its
windows, the queues, lists and timers of each unit, the record of what the node sent, and the queue of waiting commands. -/

namespace Sys2Proof.Machine

/-! ## What the node sends -/

/-- Pins that the node drives. -/
inductive Pin where
  | htRef | thermTripN
  deriving DecidableEq, Repr

/-- The body of a fabric message (R319, R321). -/
inductive Body where
  | bytes (kind : Nat) (data : List Byte)                 -- SEND, WRITE, READ_REQ, READ_RESP as given
  | ticket (whole : List Byte)                            -- TICKET: ticket, payload and bitmap (R144)
  | set (m : RecSet) (heads : Nat) (bf16 : Bool)          -- SET (R224)
  | uzoene (p : Pdu)                                      -- 0x01
  | stepAnnounce (a : Announce)                           -- 0x02
  | stall (step : Nat)                                    -- 0x03
  | span (ns : Nat)                                       -- 0x04
  | deputyState (img : LeadImage)                         -- 0x05
  | probe (heard : Nat)                                   -- 0x06
  | probeReply (heard : Nat)                              -- 0x07
  | event (entry : Nat)                                   -- 0x08
  | poolReq (mib : Nat)                                   -- 0x10
  | poolGrant (g : PoolGrant)                             -- 0x11
  | poolRenew (lease : Nat)                               -- 0x12
  | poolRelease (lease : Nat) (drained : Bool)            -- 0x13
  | poolRevoke (lease drainNs : Nat)                      -- 0x14
  | shareReq (m : ShareMsg)                               -- 0x15
  | shareReply (a : ShareAns)                             -- 0x16
  | versionRelease (kind object tenant : Nat)             -- 0x17
  | mapUpdate (m : MapMsg)                                -- 0x18
  | handoffOrder (o : Handoff)                            -- 0x19
  | handoffReady (o : Handoff)                            -- 0x1A
  | healthReport (counts : List Nat) (unmirrored : Nat)   -- 0x20
  | standInOrder (node : Nat)                             -- 0x21
  | journalMirror (step : Nat) (toks : List JournalTok)   -- 0x22
  | journalAck (step : Nat) (taken : Bool)                -- 0x23
  | handoffRevert (o : Handoff)                           -- 0x24
  | journalFetch (lost : Nat)                             -- 0x25
  | lostRanges (l : List LostRange)                       -- 0x26
  | lostRangeClear (tenant ream : Nat)                    -- 0x27
  | joinRequest (r : JoinReq)                             -- 0x40
  | joinReply (r : JoinRep)                               -- 0x41
  | sliceReport (slice state : Nat)                       -- 0x42
  | completion (record : Nat) (result : List Byte)        -- a completion returned to the entry node
  | preemptAck (tenant ream count : Nat)
  | resumeAck (tenant ream count : Nat)
  | deputyNow (v : Bool)                                  -- a member tells the Lead that it became its deputy, or ceased to be
  | journalTail (lost : Nat) (toks : List JournalTok)     -- a partner answers JOURNAL_FETCH
  deriving DecidableEq, Repr

/-- What leaves the node, newest first in State.out. -/
inductive Out where
  | response (via : Via) (p : Pdu)
  | completion (addr record : Nat) (gaps : List Gap) (io : Bool)   -- the first line of a completion: R299 record, gap record 0
  | memData (hpa : Nat) (data : List Byte) (poison : Bool)
  | memDone (hpa : Nat)
  | rdCurr (line : Nat)
  | snoop (line : Nat)
  | own (line : Nat)                                       -- RdOwnNoData
  | completionLine (addr : Nat) (data : List Byte) (io : Bool)   -- a line of a completion after its first
  | vatRead (addr len : Nat) (uio : Bool)                  -- Vat bytes read: RdCurr, or unordered I/O reads (R303)
  | vatWrite (addr len : Nat) (uio : Bool)                 -- Vat bytes written: ItoMWr, or unordered I/O writes
  | control (link : Nat) (block : Nat)                     -- a control block (R316)
  | packet (link : Nat) (flits : List (List Byte))         -- the flits of a packet (R318)
  | deliver (src vl kind key id : Nat) (data : List Byte)  -- message received, with its ID, handed to its unit
  | pin (p : Pin) (v : Bool)
  | mailbox (fn code : Nat) (payload : List Byte)
  | spdm (what : Nat) (payload : List Byte)
  deriving DecidableEq, Repr

/-! ## The dictionary -/

/-- A write of 0 to an enable whose subsystem has not stopped yet (R50). -/
structure Stop where
  key : Nat
  via : Via
  txn : Nat
  deriving DecidableEq, Repr

/-- A kept response (R43). -/
structure Kept where
  via : Via
  txn : Nat
  resp : Pdu
  deriving DecidableEq, Repr

/-- One bank of the configuration store (R36, R37). -/
structure Bank where
  vals : Tbl Nat
  ok : Bool
  deriving DecidableEq, Repr

/-- A commit of the configuration store that runs (R36): the copy of the working values, who waits for its answer, and
whether its read-back will pass. -/
structure StoreCommit where
  vals : Tbl Nat
  via : Via
  txn : Nat
  ok : Bool
  deriving DecidableEq, Repr

/-- The dictionary beside its values. gov: the governing value of a step-bound object whose written value waits for
the next phase 0 (R34). -/
structure DictSt where
  gov : Tbl Nat
  kept : List Kept
  stopping : List Stop
  banks : List Bank
  current : Nat
  bundle : Tbl Byte
  fwBuf : Tbl Byte
  commit : Option StoreCommit   -- the commit that runs, store_state 0x1
  mbox : List (Nat × Nat)       -- mailbox requests 0xC100 whose response is still to come: function and transaction (R304)
  deriving DecidableEq, Repr

/-! ## Herd Time, steps and the Herd -/

/-- Herd Time and the step. ht counts units of 1/33 ns. -/
structure TimeSt where
  ec : Nat                    -- engine clocks since reset
  ht : Nat
  held : Bool
  slewFwd : Nat               -- units still to be gained, at most 50 ppm
  slewBack : Nat              -- units still to be lost, at most 50 ppm
  lockRun : Nat               -- consecutive symbols within ±20 ns (R63)
  symAt : Nat                 -- ec of the last time symbol with a hop count other than 0xFF
  holdAt : Nat                -- ec at which HOLDOVER began
  refAt : Nat                 -- ec of the last HT_REF edge
  refHt : Nat                 -- Herd Time of the last HT_REF edge, ns
  refSeen : Bool
  linkHops : Tbl Nat          -- hop count of the last symbol of each link
  linkRx : Tbl Nat            -- ec at which the last symbol of each link arrived
  linkTx : Tbl (List Nat)     -- ecs at which the last four symbols were sent on each link, newest first
  stepStart : Nat             -- S(N) of the step that runs, ns
  prevLen : Nat               -- length of the step before, 0 when none is known
  next : Option Announce      -- announced step not yet begun
  heardAt : Nat               -- Herd Time at which the last announcement was heard, ns
  guardDone : Bool            -- the stall notice of this step is settled
  deriving DecidableEq, Repr

/-- A live member that the Lead replaces by a spare (R397): the handoffs still to be ready. -/
structure Leaving where
  node : Nat
  spare : Nat
  orders : List Handoff
  deriving DecidableEq, Repr

/-- State of the Lead role, of the deputy and of a joining node. -/
structure HerdSt where
  spans : Tbl Nat             -- latest span of each node (R70)
  stalls : Nat                -- stall notices since the last announcement (R71)
  lastAnn : Nat               -- step last announced
  lastAnnStart : Nat
  deputy : Nat                -- node of the Lead's deputy, 0xFFFF none
  image : Option LeadImage    -- the deputy's last complete copy (R19)
  probing : Bool
  probeReplies : List Nat
  probeAt : Nat               -- Herd Time of the last probe, ns
  bseen : Tbl (Nat × List Nat)   -- broadcasts taken from each source: highest ID, IDs in the window (R322)
  leadHeard : Bool            -- some member reached has heard the Lead
  map : List MapEntry         -- composition map of the current epoch
  mapPrev : List MapEntry
  mapNext : Option MapMsg     -- map of the next epoch
  mapWant : Option (List MapEntry)    -- Lead: map to be named once an epoch may be
  readyWant : List Handoff    -- Lead: handoffs that it ends
  mapReady : List Handoff     -- handoffs that the current epoch ended
  epochAt : Nat               -- step at whose phase 0 the current epoch began
  leaving : List Leaving      -- Lead: members that spares replace, handoffs outstanding
  mapWait : Bool              -- waits for the map of the epoch that has begun (R373)
  joinSent : Bool
  joinAt : Nat                -- ec of the last JOIN_REQUEST
  numbers : Tbl Nat           -- Lead: unit id of each number given
  spareFree : Tbl Nat         -- Lead: free spare of each group
  deriving DecidableEq, Repr

/-- The schedule tables. -/
structure SchedSt where
  running : List Nat          -- slices whose table runs occurrences in this step
  done : Tbl Nat              -- slice × 64 + entry - 1: occurrences run or skipped in this step
  gates : Tbl Bool            -- slice × 8 + class: open
  maint : List Nat            -- slices whose maintenance window is open
  commitWait : List Nat       -- slices whose COMMIT of this step waits (R273)
  commitAt : Tbl Nat          -- slice: Herd Time of the COMMIT occurrence that waits
  commitDone : List Nat       -- slices whose COMMIT of this step has finished
  deriving DecidableEq, Repr

/-! ## Tickets -/

/-- A ticket that the node has taken (R76, R144): raw is its 128 bytes as a number. -/
structure Tk where
  id : Nat
  raw : Nat
  cls : Nat
  slice : Nat               -- resolving slice (R489)
  die : Nat                 -- port die of arrival, or of the sweeping slice
  area : Nat
  slot : Nat
  fabric : Bool
  src : Nat                 -- sender, for a fabric ticket
  depth : Nat               -- depth of the sender's tree entry, for a forwarded query (R223)
  at_ : Nat                 -- admission time, ns
  step : Nat                -- step of admission
  deadline : Nat            -- D of R79
  gapMax : Nat              -- gap_records_max at admission (R298)
  gen : Nat                 -- reset generation of the area at admission (R304)
  stray : Bool              -- completion goes to the stray line (R298)
  data : List Byte          -- payload and bitmap, of a fabric ticket
  cause : Nat               -- cause of its longest wait (R272)
  waitNs : Nat
  deriving DecidableEq, Repr

/-- A ticket held at a gate or by a cause of R74. -/
structure HeldTk where
  tk : Tk
  link : Nat
  deriving DecidableEq, Repr

/-- A forwarded whole being gathered (R144). -/
structure Gather where
  src : Nat
  vl : Nat
  key : Nat
  link : Nat
  whole : Nat
  got : Nat
  parts : List (Nat × List Byte)
  firstAt : Nat             -- ec of the first part
  base : Nat                -- message ID of the part at offset 0
  buf : Nat                 -- its hold in the pools
  deriving DecidableEq, Repr

/-- Stages of a share (R151). -/
inductive Stage where
  | queued | staged | stream | parked | waitPark
  deriving DecidableEq, Repr

/-- The part of a query in one slice. -/
structure Share where
  id : Nat
  ctx : Nat                 -- work id of its query
  slice : Nat
  sheets : List Nat         -- Sheet keys, in ascending order
  refs : List Nat           -- Sheets on which the share holds a reference
  meta_ : List Sheet        -- metadata copies read (R126)
  stage : Stage
  wasParked : Bool
  pass : Nat                -- passes done
  felt : Nat                -- Felt bytes that its pass holds, 0 none
  inStack : List Nat        -- Sheets of its pass that the score units take (R153)
  kRead : Tbl Half          -- K halves that its bursts have read, as they were then (R105, R176)
  acc : List Rec            -- m, l and o carried from pass to pass
  wts : List WeightEntry
  missing : List (Nat × Nat)  -- Sheets left out, with the cause of the gap
  parkAt : Nat              -- ec of parking
  streamAt : Nat            -- ec at which it entered the stream stage
  wants : List Nat          -- Quires asked for
  deriving DecidableEq, Repr

/-- A tree entry (R220). -/
structure Tree where
  id : Nat
  members : Nat
  children : List Nat
  parent : Nat
  epoch : Nat
  childCount : Nat
  depth : Nat
  contributes : Bool
  stepBound : Bool
  deriving DecidableEq, Repr

/-- A merge context, or a query that waits for one (R217, R218). -/
structure Ctx where
  work : Nat                -- work id
  tk : Tk
  root : Bool
  tree : Tree               -- the node's copy of its entry (R221)
  depth : Nat
  place : Nat               -- die × 1,024 + unit × 64 + context
  inputAt : Nat             -- Herd Time at which its last input completed, units of 1/33 ns
  payload : List Byte
  bitmap : List Byte
  snap : Nat                -- snapshot step S
  slots : List Nat          -- children whose set is folded
  acc : List Rec
  own : List Rec
  ownWts : List WeightEntry
  ownDropped : Nat          -- weight entries dropped from its own records (R158)
  ownOut : List Nat         -- shares that still owe their record
  ownDone : Bool
  inputs : Nat              -- inputs folded
  gaps : List Gap           -- its own, in the order added
  setGaps : List Gap        -- those of the sets, in the order received
  setStatus : List Nat      -- statuses of the sets folded
  wts : List WeightEntry
  wtDropped : Nat
  late : Bool
  epoch : Nat
  closing : Option Nat      -- comparator cycle of a MERGE_CLOSE: it closes when that cycle ends (R226)
  closed : Bool             -- closed; its set has not yet left the node (R219)
  deriving DecidableEq, Repr

/-- An append that has been admitted, or that waits before its admission (R120, R121, R263). -/
structure App where
  tk : Tk
  payload : List Byte
  wait : Nat                -- 0 admitted; 1 waits for its tail Sheet; 2 for room; 3 behind an earlier append of its Ream
  waitAt : Nat              -- ec at which the wait began
  cause : Nat               -- stall cause of the wait that runs (R272)
  reached : Nat             -- step in which it reached the node
  writes : List (Nat × Nat) -- Sheets written, with tokens written
  deriving DecidableEq, Repr

/-- Attention (R138 to R163). -/
structure AttSt where
  taken : List Tk           -- first in, first out
  held : List HeldTk        -- in arrival order
  gathers : List Gather
  shares : List Share       -- in queue order
  appends : List App        -- in admission order
  retires : List Tk         -- admitted, committing at the COMMIT of the step
  fwd : List Tk             -- forwarded to another node, awaiting its completion
  seals : List Tk           -- PUBLISH of a Ream, committing at the COMMIT
  dls : List (Nat × Nat × Nat)   -- slice, deadline, work id
  dead : List Nat           -- work ids whose deadline action has been taken while the result is still to come
  fireCyc : Nat             -- comparator cycle of the deadlines fired last (R77)
  fired : Tbl Nat           -- slice: deadlines fired in that cycle
  doneWork : List (Nat × Nat × List Nat)  -- tree_id, ticket_id and children of contexts closed (R224)
  closing : List Nat        -- slices whose COMMIT has ended since attention_enable was last written 0 (R163)
  deriving DecidableEq, Repr

/-! ## Sheets, Quires and Reams -/

/-- A Ream at its home node (R117, R133). -/
structure Ream where
  tenant : Nat
  id : Nat
  layers : Nat
  heads : Nat
  dim : Nat
  retired : Nat             -- retire step, 0 when not retired
  retiredSet : Bool
  preempted : Bool
  sealed : Bool
  reclaimed : Bool          -- reclaimed at the COMMIT of the step; known until the next phase 0 (R136)
  deriving DecidableEq, Repr

/-- A move of a Quire (R258). -/
structure Move where
  target : Nat              -- tier 0 to 3; 4 rebalance, 5 salvage, 6 another slice, 7 taken in by a handoff
  restarts : Nat
  region : Nat              -- Vat region of the destination
  kib : Nat                 -- space taken at the destination, and its start in the region, KiB
  start : Nat
  tk : Nat                  -- work id of the MOVE ticket, 0 none
  slice : Nat               -- destination slice
  bytesK : Nat              -- HBM or Felt space taken at the destination, K part and the rest
  bytesV : Nat
  kCarrying : Bool          -- where the K part lies at the destination
  deriving DecidableEq, Repr

/-- Space at a source, held by references taken before a switch (R258 step 5). -/
structure Source where
  quire : Nat               -- key
  slice : Nat
  tier : Nat
  bytesK : Nat
  bytesV : Nat
  kCarrying : Bool
  region : Nat
  kib : Nat
  start : Nat
  shares : List Nat
  deriving DecidableEq, Repr

/-- A Quire (R113, R185, R238, R256). -/
structure Quire where
  tenant : Nat
  ream : Nat
  layer : Nat
  head : Nat
  num : Nat
  slice : Nat
  tier : Nat
  kCarrying : Bool
  tookIn : Bool             -- taken in by a handoff whose drain window runs (R376)
  departing : Bool          -- copy left behind at a handoff (R376)
  record : Nat              -- index of its Quire record
  touch : Nat
  kShare : Nat              -- bytes set aside in the K stack
  vShare : Nat              -- bytes set aside in the carrying stack
  region : Nat              -- Vat region, tiers 0x2 and 0x3
  kib : Nat
  start : Nat               -- start of its space in the region, KiB
  vatPoison : Bool
  move : Option Move
  place : Nat               -- index of the free values that are its locations (R238, R257)
  deckled : List Nat        -- slots whose Deckle is built
  deriving DecidableEq, Repr

/-- A MOVE ticket under way (R278). -/
structure MoveTk where
  tk : Tk
  target : Nat
  quires : List Nat         -- Quires of this node in its range
  left : List Nat           -- of these, those still to move
  noRoom : Bool
  quota : Bool
  remote : List Nat         -- nodes whose answer is still to come
  moved : Nat               -- Quires in the target tier on other nodes
  deriving DecidableEq, Repr

/-- A PREEMPT or RESUME ticket under way on the home node (R274, R276). -/
structure PreTk where
  tk : Tk
  waiting : List Nat        -- nodes that have not acknowledged
  count : Nat
  deriving DecidableEq, Repr

/-- The cache's contents. -/
structure KvSt where
  reams : Tbl Ream
  quires : Tbl Quire
  sheets : Tbl Sheet
  deckles : Tbl Deckle
  builds : List Nat         -- Sheets whose Deckle is to be built, in order
  sources : List Source
  queuedMoves : List (Nat × Nat)   -- Quire, target tier, to run after the running move, or once there is room
  moveTks : List MoveTk
  preTks : List PreTk
  preempted : List Nat      -- Reams pre-empted on this node (R274)
  demoting : List Nat       -- slices whose demotion runs until free HBM reaches the high mark (R266)
  deriving DecidableEq, Repr

/-! ## The directory -/

/-- A directory entry and its place: bank × 4,096 + slot where it is in the hot directory. -/
structure Ent where
  dir : Nat                 -- 0 to 3 slice, 0x10 to 0x13 route table of a port die
  key : Nat
  care : Nat
  prio : Nat
  data : Nat
  place : Option Nat
  backed : Bool
  searched : Nat            -- step of the last search of its group
  deriving DecidableEq, Repr

/-! ## Scoring stacks -/

/-- A burst that runs in a scoring stack (R170). -/
structure Burst where
  share : Nat
  sheets : List Nat
  banks : List Nat          -- bank sets it owns
  startEc : Nat
  plannedNs : Nat
  deriving DecidableEq, Repr

/-- A query context of a scoring stack (R164): the rows of one share in the broadcast form, and their running maxima. -/
structure QCtx where
  share : Nat
  rows : List (List Nat)
  maxima : List F32
  deriving DecidableEq, Repr

/-- One scoring stack. -/
structure StackSt where
  ctxs : List QCtx          -- at most two
  burst : Option Burst
  lastEnd : Nat             -- ec at which the last burst ended
  planned : List Nat        -- Sheets of the stream share still to be commanded
  balance : Tbl Int         -- refresh balance of each bank set; +1 unlisted, as an idle set is pulled in (R171)
  due : Tbl Nat             -- ec at which a refresh of each bank set fell due last
  slots : List (Nat × Nat)  -- bank sets in a refresh slot, with the ec at which it began
  writeBuf : List (Nat × List Byte)
  readWait : List (Nat × Nat × Nat × Nat)   -- host reads that wait: host physical address, DPA, ec of arrival, writes held before it
  writeWait : List (Nat × Nat × List Byte)   -- host physical address, DPA, bytes
  deriving DecidableEq, Repr

/-- A fence that waits (R181). -/
structure Fence where
  tk : Tk
  op : Nat
  base : Nat
  len : Nat
  writes : List (Nat × Nat)       -- slice, address of the held writes that must reach DRAM
  deriving DecidableEq, Repr

/-! ## Host-visible memory -/

/-- Who holds a block of the DPA space (R286). -/
inductive Holder where
  | area (a : Nat)
  | extent (e : Nat)
  deriving DecidableEq, Repr

/-- A run of mapped blocks (R286), in one stack of one slice or spread over the carrying stacks of several slices (R354, R355). -/
structure Mapped where
  base : Nat
  blocks : Nat
  holder : Holder
  stackKind : Nat           -- 0 carrying, 1 scoring
  slice : Nat               -- 0 to 3, or 0xF spread
  slices : List Nat         -- the slices over which it is spread
  unmapping : Bool          -- waits for snoops (R290)
  deriving DecidableEq, Repr

/-- Host-visible memory and the bias bits. -/
structure MemSt where
  cells : List Host.Cell
  maps : List Mapped
  hostBias : List Nat       -- blocks in host bias
  poison : List Nat         -- poisoned 64-byte lines of the DPA space
  poisonBlocks : List Nat   -- 64 KiB blocks of the DPA space in the block tables (R383)
  wroteAt : Nat             -- ec of the last write of a whole line
  wrote : List Nat          -- lines written whole in that ec (R383)
  snoops : List Nat         -- lines of BISnpInv not answered
  deriving DecidableEq, Repr

/-! ## Messages handed to the transport -/

/-- A message handed to the transport and not yet cut into packets. -/
structure Post where
  dst : Nat
  vl : Nat
  key : Nat
  off : Nat                 -- remote offset, READ_RESP
  body : Body
  fwd : Option (Nat × Nat × Nat × Nat)   -- a broadcast forwarded: its source, its ID, its hops left, the link it came in on
  deriving DecidableEq, Repr

/-! ## Sessions -/

/-- An open management session (R432): the session_key entry it was opened with, its rights (1 read, 2 full), and the
ec of its last valid datagram. -/
structure Sess where
  entry : Nat
  rights : Nat
  lastEc : Nat
  deriving DecidableEq, Repr

/-! ## Space (R488) -/

/-- What holds space of a stack, beside the Quires. -/
inductive HoldKind where
  | backing | area | extent | vindex | filter | journal | pools | staging | codebook | clearing
  deriving DecidableEq, Repr

/-- Space of one stack held. -/
structure Hold where
  kind : HoldKind
  id : Nat
  stack : Nat
  bytes : Nat
  deriving DecidableEq, Repr

/-! ## Extents, leases and shares -/

/-- A revoked holding of one tenant that drains (R359); next is the grant that follows. -/
structure GDrain where
  grant : Nat
  tenant : Nat
  rights : Nat
  since : Nat
  next : Nat
  deriving DecidableEq, Repr

/-- An extent record (R354). -/
structure Extent where
  base : Nat
  blocks : Nat
  owner : Nat
  kind : Nat
  state : Nat
  stack : Nat
  slice : Nat
  grants : List Nat
  drains : List GDrain
  since : Nat               -- start of the revocation of the whole extent
  clr : Nat                 -- clearing id, state 0x3
  deriving DecidableEq, Repr

/-- A pool lease as its holder keeps it (R361). -/
structure HeldLease where
  id : Nat
  base : Nat
  mib : Nat
  expiry : Nat
  renewedAt : Nat           -- Herd Time of the last renewal sent
  releasing : Nat           -- 0 held; 1 drains for a release; 2 drains for a revocation
  drainEnd : Nat
  clearing : Bool           -- its run is being cleared (R361)
  failed : Bool
  deriving DecidableEq, Repr

/-- A handoff as its source or destination keeps it (R376). phase: 1 copies, 2 copies done and
appends held, 3 ready, 4 switched and draining, 5 switched and to be reverted. -/
structure HandoffSt where
  order : Handoff
  source : Bool
  phase : Nat
  holdFrom : Nat            -- step from whose phase 0 appends are held
  deriving DecidableEq, Repr

/-- Extents, tenant leases, the pool, shares and handoffs. -/
structure CompSt where
  extents : Tbl Extent
  tleases : Tbl Nat         -- tenant: expiry
  opens : List (Nat × Nat × Nat)    -- tenant, share, version: opens held through this node
  asks : List Tk            -- OPEN, CLOSE and PUBLISH tickets that await the Lead's reply
  shares : List ShareDef    -- Lead
  leases : List PoolLease   -- Lead
  nextLease : Nat           -- Lead
  dirty : List (Nat × Nat)  -- Lead: base and MiB of runs that must be cleared
  held : List HeldLease     -- member
  poolAsk : Nat             -- member: MiB asked for and not answered
  handoffs : List HandoffSt
  releases : List (Nat × Nat)       -- tenant and Ream of released versions, retired at the next COMMIT
  deriving DecidableEq, Repr

/-! ## The host port -/

/-- An HDM decoder (R287). -/
structure Hdm where
  hpa : Nat
  size : Nat
  dpa : Nat
  lock : Bool
  commit : Bool
  deriving DecidableEq, Repr

/-- A completion write (R302). -/
structure CWrite where
  area : Nat
  addr : Nat
  record : Nat
  gaps : List Gap
  attempts : Nat
  deriving DecidableEq, Repr

/-- The host port beside its objects. gens: resets met by each area's completions (R304); alive tables and slots lie in the DPA space. -/
structure HostSt where
  hdm : Tbl Hdm
  gens : Tbl Nat
  writes : Tbl CWrite
  events : Tbl Nat          -- event records by handle (R307)
  nextHandle : Nat
  doe : List Nat            -- SPDM sessions of the DOE mailbox
  deriving DecidableEq, Repr

/-! ## Integrity, health and the journal -/

/-- Integrity, health, lost ranges and the append journal (R380 to R407). -/
structure RelSt where
  lost : List LostRange
  jhold : List (Tk × Nat)   -- home: append completions that wait for JOURNAL_ACK, with their commit step
  jmirrors : List (Nat × Nat × Nat)   -- home: mirrors not acknowledged, oldest first: commit step, tokens, ec of sending
  jstore : Tbl (List JournalTok)    -- partner: by home node, the tail tokens held
  jstopped : Bool           -- journal_enable has been written 0 since it last read 1
  unmirrored : Nat          -- tokens left unmirrored since the last report
  penalties : Tbl Nat       -- member: count of each penalty since the last report
  reportAt : Nat            -- member: Herd Time of the last report
  reports : Tbl Nat         -- Lead: Herd Time of each member's last report
  silent : Tbl Nat          -- Lead: intervals missed in a row
  scores : Tbl Nat          -- Lead: health score by node; 1,000 unlisted
  expelled : List (Nat × Nat)   -- Lead: spare group and Herd Time of each expulsion, ns
  standFor : Nat            -- spare: node it is ordered to stand in for, 0xFFFF none
  laneFails : Tbl Nat       -- engine × 64 + lane: replays failed in this maintenance phase (R9)
  cvs : Tbl Nat             -- check-value contexts: slice × 64 + context, record (R387)
  plines : List (Nat × Nat) -- poisoned lines of the stacks outside the DPA space: stack, line
  pblocks : List (Nat × Nat)    -- poisoned 64 KiB blocks: stack, block
  tableSaid : List Nat      -- stack × 2 + table: POISON_TABLE_FULL written
  feltDead : List Nat       -- slice × 64 + block: Felt blocks out of the pool (R382)
  enginesOut : List Nat     -- slice × 32 + engine: engines retired (R9)
  deriving DecidableEq, Repr

/-! ## Search -/

/-- A Deckle codebook (R191): elements of 16 sub-quantisers, and its CRC. -/
structure Codebook where
  tenant : Nat
  layer : Nat
  head : Nat
  dim : Nat
  fmt : Nat
  codes : List Nat
  crc : Nat
  deriving DecidableEq, Repr

/-- An entry of a vector index (R205, R206). add 0: insert pending; del 0: not deleted. -/
structure Item where
  index : Nat
  item : Nat
  list : Nat
  code : List Nat
  norm : F32
  vec : List Nat
  add : Nat
  del : Nat
  delPending : Bool
  poisoned : Bool
  deriving DecidableEq, Repr

/-- A filter handle (R208). previous: the version before the current one; a search runs in one command, so none still uses it.
pend: the pending version, none when no store waits. -/
structure Filter where
  tenant : Nat
  index : Nat
  current : Tbl Byte
  previous : Tbl Byte
  pend : Option (Tbl Byte)
  dropping : Bool
  deriving DecidableEq, Repr

/-- Codebooks, vector indexes and filters. -/
structure SearchSt where
  books : Tbl Codebook      -- Deckle codebooks by tenant, layer and head
  codebooks : Tbl (Nat × List Nat)  -- index codebook: format and elements
  centroids : Tbl (Nat × List Nat)  -- coarse centroid by index × 65,536 + list
  items : List Item
  listSlices : Tbl (List Nat)       -- slices in service at the enable of an index
  filters : Tbl Filter
  pend : List (Tk × Nat)    -- INSERT and DELETE tickets that complete at the COMMIT, with their counts
  deriving DecidableEq, Repr

/-! ## Power -/

/-- A request to the budget arbiter, or a grant of one (R410, R411). holder: 0 to 3 slice, 4 to 11 stack, 12 to 15 port die,
16 node; cls: 1 foreground, 2 maintenance, 3 background. -/
structure Budget where
  holder : Nat
  cls : Nat
  first : Nat
  span : Nat
  watts : Nat
  madeIn : Nat
  waited : Bool
  no : Nat                  -- tells requests of one holder apart
  used : Bool               -- its work has begun: a burst, or a share's stream stage
  deriving DecidableEq, Repr

/-- The arbiter, the throttle and the models (R409 to R424). -/
structure PowerSt where
  reqs : List Budget
  grants : List Budget
  win : Nat                 -- windows closed so far
  turn : Nat                -- slice from which the next window starts
  peak : List Nat           -- windows above 1,200 W among the last 100,000
  asked : Nat               -- level that the last reading asks for, with its cause
  cause : Nat
  warm : Tbl Nat            -- level: ec at which a cause of it was last not 3 °C below its threshold
  railEc : Option Nat       -- ec of the last RAIL_OVERCURRENT
  slow : Nat                -- throttle level that governs issue in this window
  tempAvg : Tbl (List Nat)  -- slice: its die readings of the last 1 ms, mean of each reading
  loadAvg : Tbl (List Nat)  -- slice: its watts over the last 1 ms
  hbmNow : List Nat         -- last reading of each stack
  fit : Tbl Nat             -- slice: windows in a row with a good fit
  fitAt : Tbl (F32 × F32)   -- slice: mean temperature and load at which the fit that runs began
  started : Bool            -- power_enable governs this window
  deriving DecidableEq, Repr

/-! ## Links, queues and messages (R310 to R353) -/

/-- A link beside its objects. -/
structure LinkSt where
  flaps : List (Nat × Nat)  -- SerDes lane and minute of each flap of the last hour (R312)
  held : Bool               -- held under R316
  trainAt : Nat             -- ec at which the training that runs began
  said : Bool               -- LINK_DOWN has been raised since the link was last up (R313)
  width : Nat               -- width at which the link last ran, 0 none
  restores : Nat            -- lanes that return at the next maintenance window
  blockAt : Option Nat      -- ec of the last LINK block sent in this training
  peerHerd : Nat            -- herd_id of the last LINK block received in this training
  fecMinute : Nat
  fecCount : Nat            -- uncorrectable codewords of that minute
  deriving DecidableEq, Repr

/-- A packet in an egress queue, with its queue number (8 × class + group, 64 for lane 0x8) and the ec of its enqueue. -/
structure QPkt where
  pkt : Packet
  queue : Nat
  at_ : Nat
  deriving DecidableEq, Repr

/-- Start and finish tag of the head of a group queue, with its charge (R349). -/
structure GTag where
  s : Nat
  f : Nat
  l : Nat
  deriving DecidableEq, Repr

/-- Egress of a link (R341 to R351). -/
structure Egress where
  q : List QPkt             -- in order of enqueue
  freeAt : Nat              -- thousandths of an ec: end of the packet in transmission
  mgmtSent : List (Nat × Nat)   -- ec and flits of lane 0x8 in the last 10 us
  rr : Nat                  -- next queue while traffic_enable reads 0
  gtags : Tbl GTag          -- by queue, of the non-empty ones
  ctags : Tbl (Nat × Nat)   -- by class: start tag and weight
  gv : Tbl Nat              -- virtual time of each class's group level
  cv : Tbl Nat              -- virtual time of each band's class level
  gf : Tbl Nat              -- F of the last packet chosen, by queue
  cf : Tbl Nat              -- the same by class
  deriving DecidableEq, Repr

/-- A packet of a message being sent (R333). -/
structure SPkt where
  sentAt : Option Nat
  tries : Nat
  acked : Bool
  waits : Bool              -- waits to be handed to a link
  free : Bool               -- its resend is not governed by the rate (R335)
  deriving DecidableEq, Repr

/-- A message being sent. -/
structure SMsg where
  dst : Nat
  vl : Nat
  id : Nat
  kind : Nat
  key : Nat
  off : Nat
  data : List Byte
  pkts : List SPkt
  nakAt : Option Nat        -- ec of a NAK with 0x25 QUOTA
  quota : Bool              -- its last failure is 0x25
  ticket : Nat              -- the ticket that it carries a part of, 0 none
  ctx : Option Nat          -- the closed merge context whose set it is (R219)
  deriving DecidableEq, Repr

/-- Rate control toward one destination (R335). rate 0: cc_max_mbs. -/
structure Rate where
  rate : Nat
  echo : Bool
  readyAt : Nat             -- thousandths of an ec
  adjustedAt : Nat
  deriving DecidableEq, Repr

/-- A reassembly context (R327). -/
structure RCtx where
  src : Nat
  vl : Nat
  id : Nat
  kind : Nat
  key : Nat
  off : Nat
  len : Nat
  map : List Nat            -- packet indexes received
  unacked : List Nat        -- those not yet in an ACK entry
  count : Nat
  parts : List (Nat × List Byte)
  openedAt : Nat
  ackFrom : Nat             -- ec of the first packet not yet acknowledged
  ce : Bool
  buf : Nat                 -- SEND: the descriptor's DPA
  bufAddr : Nat
  deriving DecidableEq, Repr

/-- The receiver's side of a connection (R326): the highest ID, and the outcome of IDs in the window (0 complete). -/
structure RConn where
  high : Nat
  done : Tbl Nat
  deriving DecidableEq, Repr

/-- A fabric region (R323, R330). -/
structure Region where
  base : Nat
  len : Nat
  tenant : Nat
  kind : Nat
  rights : Nat
  gen : Nat
  valid : Bool
  ringBase : Nat
  ringEntries : Nat
  deregAt : Option Nat
  head : Nat
  lap : Nat
  deriving DecidableEq, Repr

/-- Links, queues, connections and regions. -/
structure NetSt where
  links : Tbl LinkSt
  egress : Tbl Egress
  buckets : Tbl (Nat × Nat) -- link × 64 + queue: 1/3,300 bytes and the ec they were counted at; full unlisted
  nextMsg : Tbl Nat         -- destination × 16 + lane: next message ID
  nextCast : Nat            -- next broadcast ID
  sends : List SMsg
  rates : Tbl Rate
  conns : Tbl RConn         -- source × 16 + lane
  rctxs : List RCtx
  regions : Tbl Region
  refusedAt : Tbl Nat       -- source: ec of the last KEY_REFUSED
  deriving DecidableEq, Repr

/-! ## Trust and firmware (R425 to R449), and the reset inputs (R473, R480) -/

/-- A firmware image as the node keeps it: its header's fields, its digest (none for the image fitted at manufacture), and
whether its bytes are whole. -/
structure FwImg where
  version : Nat
  svn : Nat
  key : Nat
  debug : Bool
  digest : Option Nat
  ok : Bool
  deriving DecidableEq, Repr

/-- The security processor. flash: by type, where not the fitted image; running: by type × 8 + slice; meas: measurement
blocks 1 to 12; owner: transport of the staging buffer's owner; held: the node is held in reset. -/
structure SecSt where
  flash : Tbl FwImg
  running : Tbl FwImg
  meas : Tbl Nat
  owner : Nat
  wroteAt : Nat
  activating : List Nat     -- slices whose firmware restarts
  reports : Nat             -- reports made since reset
  report : List Byte
  autoAt : Nat              -- ec at which the wait of the autostart entry began
  fromRetired : List Nat    -- slices being re-admitted from RETIRED
  rstLow : Bool             -- NODE_RST_N is low
  held : Bool
  deriving DecidableEq, Repr


/-! ## The node -/

/-- The state of one node. -/
structure State where
  pending : List Instr      -- commands that wait, first in first out
  out : List Out            -- what the node sent, newest first
  free : Nat                -- index of the next free value (the model's own field)
  nextId : Nat              -- next work id (the model's own field)
  dict : Tbl Nat            -- dictionary values by key; an unlisted object holds its default
  dq : DictSt
  tm : TimeSt
  herd : HerdSt
  sch : SchedSt
  att : AttSt
  kv : KvSt
  dirs : List Ent
  trees : Tbl Tree
  ctxs : List Ctx           -- open merge contexts
  ctxWait : List Ctx        -- queries that wait for a context
  arrays : List StackSt     -- scoring stacks of slices 0 to 3
  fences : List Fence
  mem : MemSt
  log : Tbl Nat             -- event log: 256-bit entries by place
  outbox : List Post
  sessions : Tbl Sess       -- open management sessions
  holds : List Hold
  dirTaken : Nat            -- MiB of each backing region taken at directory_enable (R248); 0 none
  comp : CompSt
  host : HostSt
  rel : RelSt
  srch : SearchSt
  pow : PowerSt
  net : NetSt
  sec : SecSt
  deriving DecidableEq, Repr

/-- Reasons for a fault. -/
inductive Fault where
  /-- Raised by no meaning: a supply or input outside its absolute limits (R480) may damage the part, and the
  manual gives no behaviour. Safe: no command of the table names it. -/
  | outsideLimits
  deriving DecidableEq, Repr

/-- Reasons for a refusal. -/
inductive Refusal where
  /-- Raised by an arm of exec whose command has no meaning in this model. Safe: the machine stops by name. -/
  | notModelled (mnemonic : String)
  deriving DecidableEq, Repr

/-! ## Reset -/

def TimeSt.reset : TimeSt :=
  { ec := 0, ht := 0, held := false, slewFwd := 0, slewBack := 0, lockRun := 0, symAt := 0, holdAt := 0, refAt := 0,
    refHt := 0, refSeen := false, linkHops := [], linkRx := [], linkTx := [], stepStart := 0,
    prevLen := 0, next := none, heardAt := 0, guardDone := false }

def HerdSt.reset : HerdSt :=
  { spans := [], stalls := 0, lastAnn := 0, lastAnnStart := 0, deputy := 0xFFFF, image := none, probing := false,
    probeReplies := [], probeAt := 0, bseen := [], leadHeard := false, map := [], mapPrev := [], mapNext := none, mapWant := none, readyWant := [], mapWait := false,
    mapReady := [], epochAt := 0, leaving := [], joinSent := false, joinAt := 0, numbers := [], spareFree := [] }

def SchedSt.reset : SchedSt :=
  { running := [], done := [], gates := [], maint := [], commitWait := [], commitAt := [], commitDone := [] }

def AttSt.reset : AttSt :=
  { taken := [], held := [], gathers := [], shares := [], appends := [], retires := [], fwd := [], seals := [],
    dls := [], dead := [], fireCyc := 0, fired := [], doneWork := [], closing := [] }

def KvSt.reset : KvSt :=
  { reams := [], quires := [], sheets := [], deckles := [], builds := [], sources := [], queuedMoves := [],
    moveTks := [], preTks := [], preempted := [], demoting := [] }

def StackSt.reset : StackSt :=
  { ctxs := [], burst := none, lastEnd := 0, planned := [], balance := [], due := [], slots := [], writeBuf := [],
    readWait := [], writeWait := [] }

def MemSt.reset : MemSt := { cells := [], maps := [], hostBias := [], poison := [], poisonBlocks := [], wroteAt := 0, wrote := [], snoops := [] }

def DictSt.reset : DictSt :=
  { gov := [], kept := [], stopping := [], banks := [⟨[], true⟩, ⟨[], true⟩], current := 0, bundle := [], fwBuf := [], commit := none, mbox := [] }

def CompSt.reset : CompSt :=
  { extents := [], tleases := [], opens := [], asks := [], shares := [], leases := [], nextLease := 1, dirty := [], held := [],
    poolAsk := 0, handoffs := [], releases := [] }

def HostSt.reset : HostSt :=
  { hdm := [], gens := [], writes := [], events := [], nextHandle := 1, doe := [] }

def RelSt.reset : RelSt :=
  { lost := [], jhold := [], jmirrors := [], jstore := [], jstopped := false, unmirrored := 0, penalties := [], reportAt := 0,
    reports := [], silent := [], scores := [], expelled := [], standFor := 0xFFFF, laneFails := [], cvs := [],
    plines := [], pblocks := [], tableSaid := [], feltDead := [], enginesOut := [] }

def SearchSt.reset : SearchSt :=
  { books := [], codebooks := [], centroids := [], items := [], listSlices := [], filters := [], pend := [] }

def PowerSt.reset : PowerSt :=
  { reqs := [], grants := [], win := 0, turn := 0, peak := [], asked := 0, cause := 0, warm := [], railEc := none, slow := 0,
    tempAvg := [], loadAvg := [], hbmNow := [], fit := [], fitAt := [], started := false }

def LinkSt.reset : LinkSt :=
  { flaps := [], held := false, trainAt := 0, said := false, width := 0, restores := 0, blockAt := none, peerHerd := 0,
    fecMinute := 0, fecCount := 0 }

def Egress.reset : Egress :=
  { q := [], freeAt := 0, mgmtSent := [], rr := 0, gtags := [], ctags := [], gv := [], cv := [], gf := [], cf := [] }

def Rate.reset : Rate := { rate := 0, echo := false, readyAt := 0, adjustedAt := 0 }

def Region.reset : Region :=
  { base := 0, len := 0, tenant := 0, kind := 0, rights := 0, gen := 0, valid := false, ringBase := 0, ringEntries := 0,
    deregAt := none, head := 0, lap := 1 }

def NetSt.reset : NetSt :=
  { links := [], egress := [], buckets := [], nextMsg := [], nextCast := 0, sends := [], rates := [], conns := [], rctxs := [],
    regions := [], refusedAt := [] }

def FwImg.fitted : FwImg := { version := 0x01000000, svn := 0, key := 0, debug := false, digest := none, ok := true }

def SecSt.reset : SecSt :=
  { flash := [], running := [], meas := [], owner := 0, wroteAt := 0, activating := [], reports := 0, report := [], autoAt := 0, fromRetired := [], rstLow := false,
    held := false }


/-- The node right after a node reset: every object at its default (R35), the store's bank loaded without listed
values, nothing held, nothing waiting. -/
def State.reset : State :=
  { pending := [], out := [], free := 0, nextId := 1, dict := [], dq := DictSt.reset, tm := TimeSt.reset,
    herd := HerdSt.reset, sch := SchedSt.reset, att := AttSt.reset, kv := KvSt.reset, dirs := [], trees := [],
    ctxs := [], ctxWait := [],
    arrays := [StackSt.reset, StackSt.reset, StackSt.reset, StackSt.reset], fences := [], mem := MemSt.reset,
    log := [], outbox := []
    , sessions := []
    , holds := [], dirTaken := 0, comp := CompSt.reset, host := HostSt.reset
    , rel := RelSt.reset
    , srch := SearchSt.reset
    , pow := PowerSt.reset
    , net := NetSt.reset
    , sec := SecSt.reset
  }

end Sys2Proof.Machine
end

