-- ==== Sys2Proof/Machine/Flags.lean ====
section
/-! DEFINITION. Status codes, their precedence, and the flags and fields of completion, gap and set records. -/

namespace Sys2Proof.Machine

namespace St
abbrev ok : Nat := 0x00
abbrev short : Nat := 0x01
abbrev partialCoverage : Nat := 0x02
abbrev bounds : Nat := 0x11
abbrev rights : Nat := 0x12
abbrev tenant : Nat := 0x13
abbrev deadline : Nat := 0x20
abbrev staleEpoch : Nat := 0x21
abbrev revoked : Nat := 0x22
abbrev stateLost : Nat := 0x23
abbrev preempted : Nat := 0x24
abbrev quota : Nat := 0x25
abbrev versionConflict : Nat := 0x26
abbrev poisoned : Nat := 0x30
abbrev tierFault : Nat := 0x31
abbrev internalError : Nat := 0x3F
end St

/-- The completion record (R299). -/
def completionRecord (doneHt commitStep count ticketId status : Nat) (late : Bool) (stall alive area slot type : Nat) : Nat :=
  packBits [(12, 0), (8, type), (12, slot), (2, 0), (6, area), (8, alive), (3, 0), (3, stall), (1, 1), (1, b2n late),
    (8, status), (32, ticketId), (32, count), (64, commitStep), (64, doneHt)]

def crStatus (r : Nat) : Nat := bits r 56 8
def crLate (r : Nat) : Bool := bitB r 55
def crStall (r : Nat) : Nat := bits r 51 3
def crTicket (r : Nat) : Nat := bits r 64 32
def crCount (r : Nat) : Nat := bits r 96 32
def crCommit (r : Nat) : Nat := bits r 128 64

/-- A gap record's 256 bits (R228). -/
def gapWord (g : Gap) : Nat :=
  packBits [(32, g.ticketId), (32, g.ream), (32, g.sheetFirst), (32, g.sheetLast), (16, g.node), (8, g.cause),
    (12, g.layer), (8, g.head), (3, g.slice), (1, b2n g.more), (80, 0)]

/-- The status that the causes of gaps call for at the root (R229, orders 2 to 6). -/
def gapStatus (l : List Nat) : Nat :=
  if has l St.stateLost then St.stateLost
  else if has l St.staleEpoch then St.staleEpoch
  else if has l St.tierFault then St.tierFault
  else if l.isEmpty then St.ok else St.partialCoverage

/-- The status field of a set (R224): the first status of the order of R229 among those of its gaps, 0x20 before the others. DEDUCED
(log entry 127): that order names 0x20 for a root with no input; the worked example gives a set with one gap of cause 0x20 that status. -/
def setStatus (l : List Nat) : Nat := if has l St.deadline then St.deadline else gapStatus l

/-- The record header of a row (R155), without the output vector. -/
def recWord (r : Rec) (bf16 norm : Bool) (j g treeId ticketId : Nat) : Nat :=
  packBits [(32, ticketId), (16, treeId), (8, g), (4, j), (1, b2n bf16), (1, b2n norm), (1, b2n r.empty), (1, 0),
    (16, r.contributors), (16, 0), (32, r.tokens), (32, r.m), (32, r.l), (64, 0)]

/-- The bytes of a record. -/
def recBytes (r : Rec) (bf16 norm : Bool) (j g treeId ticketId : Nat) : List Byte :=
  toBytes 32 (recWord r bf16 norm j g treeId ticketId)
  ++ r.o.flatMap (fun x => if bf16 then toBytes 2 (x / 65536) else toBytes 4 x)

end Sys2Proof.Machine
end

