-- ==== Sys2Proof/Config.lean ====
section
/-! DEFINITION. What an implementation fixes and the manual leaves open: opaque constants with no body,
so that a statement about them holds whatever they are. Each is named in the assumption log. -/

namespace Sys2Proof.Config

/-- 2^x of an FP32 input in the two ranges of R100 that are bounded by an error only; a value outside that error is not used. -/
opaque exp2 : F32 → F32

/-- Ed25519 verification: key, message, signature (R430, R437, R432). -/
opaque ed25519Verify : Nat → List Byte → List Byte → Bool

/-- Ed25519 signature by the alias key over a report (R434). -/
opaque aliasSign : List Byte → Nat

/-- SHA-512 of a byte string (R428, R430). -/
opaque sha512 : List Byte → Nat

/-- Application data of an SPDM secured message under a session, or none where decryption fails (R432). -/
opaque aeadOpen : Nat → List Byte → Option (List Byte)

/-- Code lengths (0 to 15) of the 512 symbols of a table, from the symbol counts of the first pass (R270). -/
opaque codeLengths : List (Nat × Nat) → Nat → Nat

/-- The line a host returns to a RdCurr, or none where it returns none (R289); by request number and address. -/
opaque hostLine : Nat → Nat → Option (List Byte)

/-- The identifier of the CXL event-record form, by event source (R307). -/
opaque eventId : Nat → Nat

/-- Fresh values for results that the manual leaves open; the index is a counter of State. -/
opaque freeNat : Nat → Nat

/-- Locations of a Quire's slot in its stacks or in Felt (R238): k_granule, v_granule and meta_slot; by place and slot. -/
opaque slotPlace : Nat → Nat → Nat × Nat × Nat

/-- The lane that a free choice of order takes, where the manual gives none; the index is a counter of State. -/
opaque freeBool : Nat → Bool

/-- The body of a management message whose layout is not exposed (R321, R377, R407); by request number. -/
opaque bodyBytes : Nat → List Byte

/-- Bytes of a packet's last flit after its payload (R318); by place. -/
opaque flitPad : Nat → Byte

/-- The port die whose route table a message that starts on the node takes (R253): destination, lane, message ID. -/
opaque ownDie : Nat → Nat → Nat → Nat

/-- The bank set that holds a 64-byte line of a stack: stack, line (R165 places K halves; the lines of an extent have no stated place). -/
opaque bankSet : Nat → Nat → Nat

/-- Power model coefficients of the unit's factory record (R417): slice, field number. -/
opaque factory : Nat → Nat → F32

/-- The floor in watts of a holder of the budget under its slice's power model, before the guard band (R410, R417):
holder, then the five model coefficients' bit patterns. -/
opaque modelFloor : Nat → List F32 → Nat

/-- The watts above its floor that a request of a holder names (R410): holder, class, coefficients' bit patterns. -/
opaque modelRequest : Nat → Nat → List F32 → Nat

/-- The residual in permille of one window's model fit, and the coefficients fitted (R419): slice, window number. -/
opaque fitResidual : Nat → Nat → Nat
opaque fitCoeff : Nat → Nat → Nat → F32

/-- SHA-512 digests of ROM (0) and of the images fitted at manufacture (types 1 to 6), R428. -/
opaque fittedDigest : Nat → Nat

/-- Maeltin signing keys 0 to 3 (R430). -/
opaque maeltinKey : Nat → Nat

end Sys2Proof.Config
end

