-- ==== Sys2Proof/Machine/Ops.lean ====
section
/-! DEFINITION. Named operations over the state: dictionary values, counters, clocks, what the node sends, fresh
values, ids, and the event log (R402 to R404, R338). -/

namespace Sys2Proof.Machine

/-- The default of the object at a key (R35); 0 where the dictionary has no such object. The power model's fields hold
the unit's factory coefficients (R417). -/
def keyDflt (k : Nat) : Nat :=
  if decide (0x9010 ≤ k / 256) && decide (k / 256 ≤ 0x9013) && decide (2 ≤ k % 256) && decide (k % 256 ≤ 6) then
    Config.factory (k / 256 - 0x9010) (k % 256) % 2 ^ 32
  else match lookupObj (k / 256) (k % 256) with
  | some o => dfltOf o (k / 256) (k % 256)
  | none => 0

/-- The value an object holds: what was last written, or its default. -/
def rd (s : State) (k : Nat) : Nat := tget s.dict k (keyDflt k)

/-- The value that governs the object's unit: the written one, but for a step-bound write that waits for phase 0 (R34). -/
def gv (s : State) (k : Nat) : Nat := (tget? s.dq.gov k).getD (rd s k)

/-- Set an object's value. -/
def wr (s : State) (k v : Nat) : State := { s with dict := tset s.dict k v }

/-- Whether a Boolean object reads 1. -/
def on (s : State) (k : Nat) : Bool := rd s k == 1

/-- Add to a counter, which wraps at 64 bits. -/
def bump (s : State) (k n : Nat) : State := wr s k ((rd s k + n) % 2 ^ 64)

/-- Record something sent. -/
def emit (s : State) (o : Out) : State := { s with out := o :: s.out }

/-- Hand a message to the transport. -/
def post (s : State) (dst vl : Nat) (b : Body) : State :=
  { s with outbox := s.outbox ++ [{ dst := dst, vl := vl, key := 0, off := 0, body := b, fwd := none }] }

/-- The same under the access key of a tenant's ticket intake (R324). -/
def postFor (s : State) (tenant dst vl : Nat) (b : Body) : State :=
  { s with outbox := s.outbox ++ [{ dst := dst, vl := vl, key := tenant * 2 ^ 24, off := 0, body := b, fwd := none }] }

/-- Hand a management message to the transport (R321). -/
def mgmt (s : State) (dst : Nat) (b : Body) : State := post s dst 8 b

/-- The index of a fresh free value, and the state with it used. -/
def fresh (s : State) : Nat × State := (s.free, { s with free := s.free + 1 })

/-- A new work id. -/
def newId (s : State) : Nat × State := (s.nextId, { s with nextId := s.nextId + 1 })

/-- Local ns since reset. -/
def localNs (s : State) : Nat := s.tm.ec * 10 / 33

/-- Herd Time in ns; meaningful while it is held. -/
def htNs (s : State) : Nat := s.tm.ht / 33

/-- The node's time stamp (R51, R402, R63): Herd Time, or before it is held the local count with bit 63 set. -/
def stamp (s : State) : Nat := if s.tm.held then htNs s % 2 ^ 64 else localNs s % 2 ^ 63 + 2 ^ 63

/-- Whole engine clocks in a number of ns, rounded up. -/
def nsToEc (n : Nat) : Nat := ceilDiv (n * 33) 10

/-- Whether a number of ns has passed since an engine-clock mark. -/
def passed (s : State) (mark ns : Nat) : Bool := decide (mark + nsToEc ns ≤ s.tm.ec)

/-- The time that guards a deadline: Herd Time as the node counts it. -/
def now (s : State) : Nat := htNs s

/-! ## Roles -/

def isLead (s : State) : Bool := rd s K.membershipState == 6
def myNode (s : State) : Nat := rd s K.nodeNumber

/-- The node that the current composition map names with role Lead (R44); 0 where there is no map. -/
def leadNode (s : State) : Nat :=
  match s.herd.map.find? (fun e => e.role == 1) with
  | some e => e.node
  | none => 0

/-- Schedules run in LOCKED and HOLDOVER (R64). -/
def htRuns (s : State) : Bool := rd s K.htState == 2 || rd s K.htState == 3

/-- Slices whose state is IN_SERVICE, ascending. -/
def inService (s : State) : List Nat := (upFrom 0 4).filter (fun i => rd s (K.sliceState i) == 1)

/-! ## The event log -/

/-- An event entry (R402). -/
def logWord (ht cycle source code slice sev repeats data : Nat) : Nat :=
  packBits [(96, data), (8, repeats), (4, sev), (4, slice), (8, code), (8, source), (64, cycle), (64, ht)]

/-- Offer an entry through Get Event Records (R307, R338), the newest 4,096. -/
def offerRecord (s : State) (e : Nat) : State :=
  let h := s.host.nextHandle
  let l := tset s.host.events h e
  { s with host := { s.host with events := l.drop (l.length - 4096), nextHandle := if h = 0xFFFF then 1 else h + 1 } }

/-- Write an entry at log_head, and drive the trace pulse where source and code match (R403, R404). -/
def logPut (s : State) (e : Nat) : State :=
  let h := rd s K.logHead % 4096
  let s := offerRecord { s with log := tset s.log h e } e
  let s := wr s K.logHead ((h + 1) % 4096)
  let s := bump s K.logCount 1
  if on s K.traceTriggerEnable && rd s K.traceTriggerSource == bits e 120 8 && rd s K.traceTriggerCode == bits e 112 8
  then emit (bump s K.tracePulses 1) (.pin .htRef true) else s

/-- The place of an entry of the same event raised within 1 ms (R338). -/
def logSame (s : State) (source code slice data : Nat) : Option (Nat × Nat) :=
  s.log.find? (fun p => bits p.2 120 8 == source && bits p.2 112 8 == code && bits p.2 108 4 == slice
    && bits p.2 0 96 == data && decide (s.tm.ec < bits p.2 128 64 + 3300000))

/-- Count penalties for the next health report (R392). -/
def addPenalty (s : State) (i n : Nat) : State :=
  { s with rel := { s.rel with penalties := tset s.rel.penalties i (tget s.rel.penalties i 0 + n) } }

/-- The penalty of R393 that an event is, from 0 in row order. -/
def penaltyOf (source code : Nat) : Option Nat :=
  match source, code with
  | 0x60, 2 => some 0 | 0x60, 5 => some 1 | 0x60, 4 => some 2
  | 0x80, 1 => some 3 | 0x80, 2 => some 4 | 0x80, 5 => some 5
  | _, _ => none

/-- Raise an event (R402, R403, R338): counted where it is a penalty; folded into an entry of the last 1 ms, or written, and forwarded to the Lead. -/
def event (s : State) (source code slice sev data : Nat) : State :=
  let s := match penaltyOf source code with | some i => addPenalty s i 1 | none => s
  if sev < rd s K.logMinSeverity then s
  else
    match logSame s source code slice (data % 2 ^ 96) with
    | some (k, e) =>
      let r := bits e 96 8
      { s with log := tset s.log k (if r == 255 then e else e + 2 ^ 96) }
    | none =>
      let e := logWord (stamp s) (s.tm.ec % 2 ^ 64) source code slice sev 0 data
      let s := logPut s e
      if on s K.eventsForward && !isLead s && rd s K.nodeNumber != 0xFFFF then mgmt s (leadNode s) (.event e) else s

/-- Whether the node is in recovery (R444, R450). -/
def inRecovery (s : State) : Bool := rd s K.nodeStartState == 5

/-- The node itself, as an event's slice field. -/
def nodeSlice : Nat := 0xF

/-- An event whose code, severity and data the manual does not give: free values. -/
def freeEvent (s : State) (source slice : Nat) : State :=
  let (i, s) := fresh s
  let (j, s) := fresh s
  let (k, s) := fresh s
  event s source (Config.freeNat i % 256) slice (Config.freeNat j % 4) (Config.freeNat k)

end Sys2Proof.Machine
end

