-- ==== Sys2Proof/Machine/Dict.lean ====
section
/-! DEFINITION. The dictionary's front end (R27 to R58, R484 to R486): rights, results in their order, access and
length tests, value sets, refusals, claims, and the answer of a request. The handlers of single objects stand with
their units. -/

namespace Sys2Proof.Machine

/-! ## Results -/

/-- The outcome of a request that passed the tests of R41 up to LENGTH_MISMATCH. -/
inductive Res where
  | done
  | refused (reason idx sub : Nat)
  | checkFailed (reason key : Nat)   -- an enable's check failed (R47)
  | busy
  | length
  | later                      -- answered when the subsystem has stopped (R50)
  | data (l : List Byte)
  deriving DecidableEq, Repr

/-- Reason codes of R48, in the order in which a check evaluates them. -/
def reasonRank : Nat → Nat
  | 0x09 => 1 | 0x06 => 2 | 0x05 => 3 | 0x01 => 4 | 0x07 => 5 | 0x08 => 6 | 0x02 => 7 | 0x0A => 8 | 0x0B => 9
  | 0x0D => 10 | 0x03 => 11 | 0x04 => 12 | 0x0C => 13 | _ => 14

/-- A failing condition: reason, and the key of the offending object. -/
abbrev Fail := Option (Nat × Nat)

/-- A condition of a check. -/
def failIf (c : Bool) (reason key : Nat) : Fail := if c then some (reason, key) else none

/-- The failure that a check reports: the first reason in the order of R48, and within it the first object. -/
def firstFail (l : List Fail) : Fail :=
  (l.filterMap id).foldl (fun (a : Fail) (x : Nat × Nat) =>
    match a with
    | none => some x
    | some y =>
      if reasonRank x.1 < reasonRank y.1 then some x
      else if reasonRank x.1 == reasonRank y.1 && x.2 < y.2 then some x else some y) none

/-! ## Transports and rights -/

/-- Transport code of last_refusal (R51). -/
def viaTransport : Via → Nat
  | .session _ => 1 | .noSession => 1 | .fabric _ => 2 | .pf => 3 | .vf _ => 4 | .internal => 0

/-- Whether the transport discards a PDU of bad CRC, and keeps responses (R43). -/
def viaKeeps : Via → Bool
  | .session _ => true | .fabric _ => true | _ => false

/-- Whether a request came through a CXL mailbox. -/
def isMailbox : Via → Bool
  | .pf => true | .vf _ => true | _ => false

/-- Request queue depth (R42). -/
def viaDepth : Via → Nat
  | .session _ => 16 | .noSession => 16 | .fabric _ => 64 | .pf => 1 | .vf _ => 1 | .internal => 0x10000

/-- Tenant bound to a VF; 0xFFFF unbound (R285). -/
def vfTenantOf (s : State) (n : Nat) : Nat := rd s (keyOf 0x7008 n)

/-- Read rights over an index (R44). -/
def mayRead (s : State) (via : Via) (idx : Nat) : Bool :=
  match via with
  | .session n => decide (1 ≤ ((tget? s.sessions n).map Sess.rights).getD 0)
  | .noSession => idx == 0x1000 || inRecovery s
  | .fabric src => src == leadNode s && !s.herd.map.isEmpty || decide (0x1000 ≤ idx) && decide (idx ≤ 0x12FF)
  | .pf => true
  | .vf n => idx == 0x1000 || (decide (vfTenantOf s n < 256) && idx == 0x3100 + vfTenantOf s n)
  | .internal => true

/-- Write rights (R44). -/
def mayWrite (s : State) (via : Via) : Bool :=
  match via with
  | .session n => ((tget? s.sessions n).map Sess.rights).getD 0 == 2
  | .noSession => inRecovery s
  | .fabric src => src == leadNode s && !s.herd.map.isEmpty
  | .pf => true
  | .vf _ => false
  | .internal => true

/-- What a node in recovery serves (R444). -/
def recoveryServes (idx sub : Nat) (write : Bool) : Bool :=
  idx == 0xA100 || (!write && (idx == 0x1000 || idx == 0xB000 || (idx == 0xA000 && decide (1 ≤ sub) && decide (sub ≤ 5))))

/-- Objects whose writes the fabric may not make (R433). -/
def fabricLocked (via : Via) (idx sub : Nat) : Bool :=
  match via with
  | .fabric _ => idx == 0xA100 || (idx == 0xA000 && decide (0x10 ≤ sub) && decide (sub ≤ 0x1F))
  | _ => false

/-! ## Objects, sizes and values -/

/-- The highest subindex present in an index; 0 for none. -/
def highestSub (idx : Nat) : Nat :=
  maxNat (((pageOf idx).filter (fun o => o.hasIdx idx)).map (fun o => o.sub + o.subN - 1))

/-- The synthetic object at subindex 00 of a group or an array (R27, R484). -/
def subZero (idx : Nat) : Option Obj :=
  if ((pageOf idx).any (fun o => o.hasIdx idx)) then
    some { idx := idx, idxN := 1, step := 1, sub := 0, subN := 1, ty := .u8, acc := .const, pers := .none,
           dflt := (arrayCount idx).getD (highestSub idx), vals := .any, name := "", stepBound := false }
  else none

/-- The object of a request (R29). -/
def findObj (idx sub : Nat) : Option Obj :=
  match lookupObj idx sub with
  | some o => some o
  | none => if sub = 0 then subZero idx else none

/-- Whether a value lies in the object's stated value set (R30). -/
def valsOk (v : Vals) (n : Nat) : Bool :=
  match v with
  | .any => true
  | .range lo hi => decide (lo ≤ n) && decide (n ≤ hi)
  | .mult lo hi m => decide (lo ≤ n) && decide (n ≤ hi) && n % m == 0
  | .listed l => has l n
  | .zeroOr lo hi => n == 0 || (decide (lo ≤ n) && decide (n ≤ hi))
  | .f32 lo hi => (decide (lo ≤ n) && decide (n ≤ hi)) || (n == 0x80000000 && lo == 0)
  | .vfTenant => decide (n < 256) || n == 0xFFFF

/-- Whether an index is a vector index record (R200). -/
def isVindex (idx : Nat) : Bool := decide (0x4220 ≤ idx) && decide (idx < 0x42A0)

/-- Bounds that another object gives (R30): both directions. -/
def boundOk (s : State) (k v : Nat) : Bool :=
  if k == K.stepLengthNs then decide (v ≤ rd s K.stepMaxNs)
  else if k == K.stepMaxNs then decide (rd s K.stepLengthNs ≤ v)
  else if k == K.vatDemoteLowMib then decide (v ≤ rd s K.vatDemoteHighMib)
  else if k == K.vatDemoteHighMib then decide (rd s K.vatDemoteLowMib ≤ v)
  else if k == K.ccMinMbs then decide (v ≤ rd s K.ccMaxMbs)
  else if k == K.ccMaxMbs then decide (rd s K.ccMinMbs ≤ v)
  else if k == K.healthExpelBelow then decide (v < rd s K.healthRestoreAt)
  else if k == K.healthRestoreAt then decide (rd s K.healthExpelBelow < v)
  else if isVindex (k / 256) && k % 256 == 0x0A then decide (v ≤ rd s (K.vindexLists (k / 256 - 0x4220)))
  else if isVindex (k / 256) && k % 256 == 0x05 then decide (rd s (K.vindexDefaultProbes (k / 256 - 0x4220)) ≤ v)
  else true

/-- The bounds of DESCRIBE (R485): a bound that another object gives is that object's value, and a bound that the row does
not state is zero, as for every BOOL. -/
def boundsOf (s : State) (o : Obj) (k : Nat) : Nat × Nat :=
  let r := if o.ty == .bool then (0, 0) else match o.vals with
    | .range lo hi => (lo, hi) | .mult lo hi _ => (lo, hi) | .zeroOr _ hi => (0, hi) | .f32 lo hi => (lo, hi)
    | .listed l => (l.foldl min (l.headD 0), maxNat l) | .vfTenant => (0, 0xFFFF) | .any => (0, 0)
  if k == K.stepLengthNs then (r.1, min r.2 (rd s K.stepMaxNs))
  else if k == K.stepMaxNs then (rd s K.stepLengthNs, r.2)
  else if k == K.vatDemoteHighMib then (rd s K.vatDemoteLowMib, r.2)
  else if k == K.ccMinMbs then (r.1, rd s K.ccMaxMbs)
  else if k == K.healthRestoreAt then (rd s K.healthExpelBelow, r.2)
  else if isVindex (k / 256) && k % 256 == 0x0A then (r.1, rd s (K.vindexLists (k / 256 - 0x4220)))
  else r

/-- Whether the object's row gives no default value of its own (per unit, factory, as fused, at boot, of the running image): its
default field in DESCRIBE is zero (R485). -/
def unstatedDflt (k : Nat) : Bool :=
  k == 0x100006 || decide (0x9010 ≤ k / 256) && decide (k / 256 ≤ 0x9013) && decide (2 ≤ k % 256) && decide (k % 256 ≤ 6)
  || has [K.lifecycle, K.debugState, K.keysRevoked] k
  || decide (K.fwFlashVersion 0 ≤ k) && decide (k ≤ K.sliceFwVersion 3)

/-- The enable objects (R47), in ascending order of their keys: the objects that an owning chapter gives a check.
DESIGN CHOICE (log entry 115): peak_enable (0x9000:03) and autostart_enable (0xB000:10) are BOOL RW objects whose names
end in _enable but which no chapter gives a check or a subsystem; they are plain objects here, and do not count for
store_defaults (R38), R33 or R47. -/
def enableKeys : List Nat :=
  [K.deputyEnable, K.herdEnable, K.htRefEnable, K.htSourceEnable, K.deadlineEnable]
  ++ (upFrom 0 4).map (fun i => K.scheduleEnable i) ++ (upFrom 0 256).map (fun i => K.tenantEnable i)
  ++ [K.formatRulesEnable, K.attentionEnable, K.scoringEnable, K.rebalanceEnable, K.deckleEnable, K.searchEnable]
  ++ (upFrom 0 128).map (fun i => K.vindexEnable i) ++ [K.mergeEnable, K.directoryEnable, K.vatEnable, K.pressEnable,
  K.feltHomeEnable] ++ (upFrom 0 16).map (fun i => K.vatRegionEnable i) ++ (upFrom 0 36).map (fun i => K.linkEnable i)
  ++ [K.transportEnable, K.trafficEnable, K.hostPortEnable] ++ (upFrom 0 64).map (fun i => K.slotAreaEnable i)
  ++ [K.extentEnable, K.poolEnable, K.healthEnable, K.journalEnable, K.traceTriggerEnable, K.powerEnable,
  K.mgmtSessionEnable]

/-- Whether the unit that owns an RWQ object is quiesced (R33). -/
def quiesced (s : State) (idx : Nat) : Bool :=
  if decide (0x2000 ≤ idx) && decide (idx ≤ 0x2300) then
    let st := rd s (keyOf idx 1)
    st == 0 || st == 3 || st == 4
  else (enableKeys.filter (fun k => k / 256 == idx)).all (fun k => rd s k == 0)

/-! ## Refusals -/

/-- A refusal updates last_refusal (R51). -/
def noteRefusal (s : State) (via : Via) (reason key : Nat) : State :=
  let q := (rd s 0x10F006 + 1) % 2 ^ 24
  let s := wr s 0x10F001 (stamp s)
  let s := wr s 0x10F002 (key / 256)
  let s := wr s 0x10F003 (key % 256)
  let s := wr s 0x10F004 reason
  let s := wr s 0x10F005 (viaTransport via)
  wr s 0x10F006 q

/-- The record last_refusal as a number (R51). -/
def lastRefusal (s : State) : Nat :=
  packBits [(24, rd s 0x10F006), (8, rd s 0x10F005), (8, rd s 0x10F004), (8, rd s 0x10F003), (16, rd s 0x10F002),
    (64, rd s 0x10F001)]

/-- ENABLE_REFUSED (R486). -/
def enableRefused (s : State) (via : Via) (reason key : Nat) : State :=
  event s 0x10 4 nodeSlice 1 (packBits [(16, key / 256), (8, key % 256), (8, reason), (8, (viaTransport via)),
    (32, rd s 0x10F006)])

/-! ## Claims (R52 to R54) -/

/-- Owners in the form of R55: index × 0x100 + subindex. -/
def freeComparators (s : State) (sl : Nat) : List Nat :=
  (upFrom 0 16).filter (fun c => rd s (K.comparatorOwner sl c) == 0)

def freeFelt (s : State) (sl : Nat) : List Nat :=
  (upFrom 0 48).filter (fun b => rd s (K.feltBlockOwner sl b) == 0 && !has s.rel.feltDead (sl * 64 + b))

/-- The resource tests of R53 for a claim record at a key. -/
def claimFail (s : State) (claim : Nat) : List Fail :=
  (upFrom 0 4).map (fun sl => failIf (decide ((freeFelt s sl).length < rd s (claim + 4 + sl) + rd s (K.feltPoolMinMib sl)))
      0x03 (claim + 4 + sl))
  ++ (upFrom 0 4).map (fun sl => failIf (decide ((freeComparators s sl).length < rd s (claim + sl))) 0x04 (claim + sl))
  ++ [failIf (rd s (claim + 8) % 2 == 1 && rd s K.htRefOwner != 0) 0x0C (claim + 8)]

/-- Set several objects to one value. -/
def wrAll (s : State) (l : List Nat) (v : Nat) : State := l.foldl (fun t k => wr t k v) s

/-- Hand out the resources of a claim to an enable: the lowest-numbered free ones (R53). -/
def claimTake (s : State) (claim owner : Nat) : State :=
  let s := (upFrom 0 4).foldl (fun t sl =>
    wrAll t (((freeComparators t sl).take (rd t (claim + sl))).map (fun c => K.comparatorOwner sl c)) owner) s
  let s := (upFrom 0 4).foldl (fun t sl =>
    wrAll t (((freeFelt t sl).take (rd t (claim + 4 + sl))).map (fun b => K.feltBlockOwner sl b)) owner) s
  if rd s (claim + 8) % 2 == 1 then wr s K.htRefOwner owner else s

/-- Release what an enable owns (R50). -/
def claimRelease (s : State) (owner : Nat) : State :=
  let s := (upFrom 0 4).foldl (fun t sl =>
    wrAll t (((upFrom 0 16).filter (fun c => rd t (K.comparatorOwner sl c) == owner)).map (fun c => K.comparatorOwner sl c)) 0) s
  let s := (upFrom 0 4).foldl (fun t sl =>
    wrAll t (((upFrom 0 48).filter (fun b => rd t (K.feltBlockOwner sl b) == owner)).map (fun b => K.feltBlockOwner sl b)) 0) s
  if rd s K.htRefOwner == owner then wr s K.htRefOwner 0 else s

/-- Comparators of a slice that an enable owns. -/
def ownedComparators (s : State) (sl owner : Nat) : Nat :=
  ((upFrom 0 16).filter (fun c => rd s (K.comparatorOwner sl c) == owner)).length

/-! ## Storing a value -/

/-- Whether the node runs steps (R34): it has begun one since reset. DESIGN CHOICE (log entry 119): a node whose herd_enable
was written 0 after it ran steps still counts, so its step-bound writes wait for the next phase 0. -/
def runsSteps (s : State) : Bool := rd s K.currentStep != 0

/-- Store a written value: a step-bound write keeps the governing value until phase 0 (R34). -/
def store (s : State) (o : Obj) (k v : Nat) : State :=
  if o.stepBound && runsSteps s && (tget? s.dq.gov k).isNone then
    { wr s k v with dq := { s.dq with gov := tset s.dq.gov k (rd s k) } }
  else wr s k v

/-- The last byte and onwards of a segment written into a sparse buffer (R31). -/
def putBytes : Tbl Byte → Nat → List Byte → Tbl Byte
  | t, _, [] => t
  | t, n, b :: r => putBytes (tsetD t n b 0) (n + 1) r

/-- Bytes n .. of a sparse buffer. -/
def getBytes (t : Tbl Byte) (n len : Nat) : List Byte := (upFrom n len).map (fun i => tget t i 0)

/-! ## The answer -/

/-- The response PDU of a request (R40). -/
def respond (p : Pdu) (result reason : Nat) (payload : List Byte) : Pdu :=
  { version := 1, opcode := p.opcode, flags := 1, transaction := p.transaction, index := p.index,
    subindex := p.subindex, result := result, reason := reason, length := payload.length, offset := p.offset,
    reserved := 0, payload := payload, crcOk := true }

/-- Keep the last 16 responses of a requester (R43). DESIGN CHOICE (log entry 118): every response sent is kept under its
transaction number, BUSY too, until another response under that number takes its place. -/
def keepResp (l : List Kept) (via : Via) (p : Pdu) : List Kept :=
  let mine := l.filter (fun k => k.via == via && k.txn != p.transaction)
  let rest := l.filter (fun k => !(k.via == via))
  rest ++ (mine ++ [Kept.mk via p.transaction p]).drop (mine.length + 1 - 16)

/-- The bytes of a PDU. -/
def pduBytes (p : Pdu) : List Byte :=
  toBytes 16 (packBits [(12, p.reserved), (32, p.offset), (12, p.length), (8, p.reason), (8, p.result), (8, p.subindex),
    (16, p.index), (16, p.transaction), (8, p.flags), (4, p.opcode), (4, p.version)]) ++ p.payload

/-- A PDU as it is carried, with its CRC-32C (R40). -/
def pduWire (p : Pdu) : List Byte := pduBytes p ++ toBytes 4 (crc32c (pduBytes p))

/-- The mailbox's return code Success (PRESUMED value, of CXL 3.1; log entry 55). -/
def mbSuccess : Nat := 0x0

/-- The function of a mailbox. -/
def mailboxFn : Via → Option Nat
  | .pf => some 0
  | .vf n => some n
  | _ => none

/-- Where a mailbox request waits for this response, the mailbox answers it with Success (R307). -/
def endMailbox (s : State) (via : Via) (r : Pdu) : State :=
  match mailboxFn via with
  | none => s
  | some fn =>
    if s.dq.mbox.any (fun m => m == (fn, r.transaction)) then
      emit { s with dq := { s.dq with mbox := s.dq.mbox.filter (fun m => !(m == (fn, r.transaction))) } } (.mailbox fn mbSuccess (pduWire r))
    else s

/-- Send a response and keep it (R43). A response over the fabric goes back as a UZOENE_PDU message (R321). -/
def answer (s : State) (via : Via) (r : Pdu) : State :=
  let s := match via with
    | .fabric src => mgmt s src (.uzoene r)
    | .internal => s
    | _ => endMailbox (emit s (.response via r)) via r
  if viaKeeps via then { s with dq := { s.dq with kept := keepResp s.dq.kept via r } } else s

/-- The kept response of a repeated transaction number (R43). -/
def keptFor (s : State) (via : Via) (txn : Nat) : Option Pdu :=
  if viaKeeps via then (s.dq.kept.find? (fun k => k.via == via && k.txn == txn)).map Kept.resp else none

/-- Whether two requests wait in one queue: the fabric lane has one queue whatever the requesting node, a session and a
mailbox have each their own (R42). -/
def sameQueue (a b : Via) : Bool :=
  match a, b with
  | .fabric _, .fabric _ => true
  | _, _ => a == b

/-- Whether the request queue of the transport is full: requests whose answer waits hold their place (R41, R42). -/
def queueFull (s : State) (via : Via) : Bool :=
  decide (viaDepth via ≤ (s.dq.stopping.filter (fun p => sameQueue p.via via)).length
    + (match s.dq.commit with | some c => b2n (sameQueue c.via via) | none => 0))

/-- Bad version, opcode, reserved bits or length field (R41). DESIGN CHOICE (log entry 116): result and reason fields
other than 0x00 in a request, which R40 fixes at 0x00, count as reserved bits. -/
def malformed (p : Pdu) : Bool :=
  p.version != 1 || decide (p.opcode < 1) || decide (p.opcode > 4) || p.flags != 0 || p.result != 0 || p.reason != 0
  || p.reserved != 0 || (if p.opcode == 4 then !p.payload.isEmpty else p.length != p.payload.length)

/-- Whether the vendor test range is addressed (R29): this node is never in test mode (R425). -/
def vendorRange (idx : Nat) : Bool := decide (0xF000 ≤ idx)

/-- Send the answer that an outcome calls for (R41, R51). -/
def finish (s : State) (via : Via) (p : Pdu) (r : Res) : State :=
  match r with
  | .done => answer s via (respond p 0 0 [])
  | .data l => answer s via (respond p 0 0 l)
  | .refused reason idx sub => answer (noteRefusal s via reason (keyOf idx sub)) via (respond p 1 reason [])
  | .checkFailed reason key =>
    let s := noteRefusal s via reason key
    answer (enableRefused s via reason key) via (respond p 1 reason [])
  | .busy => answer s via (respond p 6 0 [])
  | .length => answer s via (respond p 4 0 [])
  | .later => s

/-- A handler: what a write that passed the common tests does. -/
abbrev Handler := State → WReq → List Byte → State × Res

/-- The common tests of a write in the order of R41 from SECURITY_LOCKED to LENGTH_MISMATCH, then the handler. size:
bytes of the object; segmented: an OCTETS object longer than 1,024 bytes, written at an offset (R31). DESIGN CHOICE (log
entry 117): a segment of no bytes is answered LENGTH_MISMATCH; a whole-array write ignores its offset (log entry 120). -/
def serveWrite (s : State) (via : Via) (p : Pdu) (h : Handler) : State :=
  if vendorRange p.index then finish s via p (.refused 0x09 p.index p.subindex)
  else if !mayWrite s via then answer s via (respond p 5 0 [])
  else if inRecovery s && !recoveryServes p.index p.subindex true then answer s via (respond p 2 0 [])
  else
    match findObj p.index p.subindex with
    | none => answer s via (respond p 2 0 [])
    | some o =>
      let arr := p.subindex == 0 && (arrayCount p.index).isSome
      if !arr && (o.acc == .ro || o.acc == .const) then answer s via (respond p 3 0 [])
      else
        let size := o.ty.size
        let big := match o.ty with | .octets n => decide (1024 < n) | _ => false
        let badLen := if arr then false
          else if big then p.payload.isEmpty || decide (1024 < p.payload.length) || decide (size < p.offset + p.payload.length)
          else p.payload.length != size || p.offset != 0
        if badLen then answer s via (respond p 4 0 [])
        else if fabricLocked via p.index p.subindex then finish s via p (.refused 0x09 p.index p.subindex)
        else
          let (t, r) := h s { via := via, txn := p.transaction } p.payload
          finish t via p r

/-- The PDU of a write that comes as a command of its own row. -/
def rowPdu (w : WReq) (idx sub offset : Nat) (payload : List Byte) : Pdu :=
  { version := 1, opcode := 2, flags := 0, transaction := w.txn, index := idx, subindex := sub, result := 0,
    reason := 0, length := payload.length, offset := offset, reserved := 0, payload := payload, crcOk := true }

/-- Take a request PDU: CRC, queue, repeated transaction, form; then serve it (R41, R43). On the management port and the
fabric lane a PDU of bad CRC is discarded; on a mailbox the queue comes first. A node held in reset takes none (R480). -/
def takePdu (s : State) (via : Via) (p : Pdu) (serve : State → State) : State :=
  if s.sec.held then s
  else if !p.crcOk && !isMailbox via then s
  else if queueFull s via then answer s via (respond p 6 0 [])
  else if !p.crcOk then answer s via (respond p 7 0 [])
  else
    match keptFor s via p.transaction with
    | some r => (match via with | .fabric src => mgmt s src (.uzoene r) | _ => emit s (.response via r))
    | none => if malformed p then answer s via (respond p 7 0 []) else serve s

/-- A write that has a row of its own. -/
def rowWrite (s : State) (w : WReq) (idx sub offset : Nat) (payload : List Byte) (h : Handler) : State :=
  let p := rowPdu w idx sub offset payload
  takePdu s w.via p (fun s => serveWrite s w.via p h)

/-! ## The configuration store (R36, R486) and measurement (R428) -/

/-- Set a measurement block, counted. -/
def measure (s : State) (n v : Nat) : State :=
  bump { s with sec := { s.sec with meas := tset s.sec.meas n v } } K.measurementChanges 1

def measOf (s : State) (n : Nat) : Nat := tget s.sec.meas n 0

/-- The bytes of a bank: its entries by key. -/
def bankBytes (b : Bank) : List Byte :=
  b.vals.flatMap (fun p => toBytes 4 p.1 ++ toBytes (match lookupObj (p.1 / 256) (p.1 % 256) with | some o => o.ty.size | none => 0) p.2)

def bankAt (s : State) (n : Nat) : Bank := nth s.dq.banks n { vals := [], ok := false }

/-- Block 12: the current bank. -/
def measureBank (s : State) : State := measure s 12 (Config.sha512 (bankBytes (bankAt s s.dq.current)))

/-- The persistence of a key's object. -/
def persOf (k : Nat) : Option Pers := (lookupObj (k / 256) (k % 256)).map Obj.pers

/-- The working values that a commit copies: bundle_sequence_last stands apart (R437). -/
def storeVals (s : State) : Tbl Nat := s.dict.filter (fun p => persOf p.1 == some .store && p.1 != K.bundleSequenceLast)

/-- Steps 3 and 4 of a commit (R36): the other bank holds the copy and is current where the read-back passed; its writer
is answered DONE either way. -/
def endCommit (s : State) : State :=
  match s.dq.commit with
  | none => s
  | some c =>
    let n := 1 - s.dq.current
    let s := { s with dq := { s.dq with banks := setNth s.dq.banks n { vals := c.vals, ok := c.ok }, commit := none } }
    let s := if c.ok then measureBank (wr { s with dq := { s.dq with current := n } } K.storeState 0)
      else event (wr s K.storeState 3) 0x10 3 nodeSlice 2 n
    answer s c.via (respond (rowPdu { via := c.via, txn := c.txn } 0x1010 1 0 []) 0 0 [])

/-- Steps 1 and 2 of a commit (R36): the copy as the values stand, and the bank that is not current, whose CRC holds only
once it is whole. DESIGN CHOICE (log entry 1): the commit ends on the next engine clock of an empty queue, before a second
commit begins, or at once for an internal write; a repeat of the request that started it starts nothing. -/
def beginCommit (w : WReq) (readBackOk : Bool) (s : State) : State × Res :=
  if s.dq.commit.any (fun c => c.via == w.via && c.txn == w.txn && viaKeeps w.via) then (s, .later)
  else
    let s := endCommit s
    let n := 1 - s.dq.current
    let c : StoreCommit := { vals := storeVals s, via := w.via, txn := w.txn, ok := readBackOk }
    let s := wr { s with dq := { s.dq with banks := setNth s.dq.banks n { vals := [], ok := false }, commit := some c } } K.storeState 1
    match w.via with
    | .internal => (endCommit s, .done)
    | _ => (s, .later)

end Sys2Proof.Machine
end

