-- ==== Sys2Proof/Machine/Fp.lean ====
section
/-! DEFINITION. Number formats and arithmetic (R83 to R101): exact dyadic values, one rounding to a format,
FP32 arithmetic, the block formats, LOG8 and the broadcast form. -/

namespace Sys2Proof.Machine

/-- What a code stands for: NaN, an infinity, or the exact value (-1)^neg × m × 2^e. -/
inductive Val where
  | nan
  | inf (neg : Bool)
  | fin (neg : Bool) (m : Nat) (e : Int)
  deriving DecidableEq, Repr

/-- The fields of a floating-point element format (R84). ieee: an all-ones exponent holds infinity and NaN. -/
structure FmtSpec where
  eb : Nat
  fb : Nat
  bias : Nat
  ieee : Bool
  maxFin : Nat     -- code of the largest finite value, positive
  nan : Nat        -- canonical NaN, or the code that R94 writes for a NaN
  deriving DecidableEq, Repr

/-- The element formats of R84 by code; codes 0x8 to 0xA name their element format (R83). -/
def fmtSpec : Nat → FmtSpec
  | 0x0 => ⟨8, 23, 127, true, 0x7F7FFFFF, 0x7FC00000⟩
  | 0x1 => ⟨8, 7, 127, true, 0x7F7F, 0x7FC0⟩
  | 0x2 => ⟨5, 10, 15, true, 0x7BFF, 0x7E00⟩
  | 0x3 => ⟨4, 3, 7, false, 0x7E, 0x7F⟩
  | 0x4 => ⟨5, 2, 15, true, 0x7B, 0x7E⟩
  | 0x5 => ⟨3, 2, 3, false, 0x1F, 0x00⟩
  | 0x6 => ⟨2, 3, 1, false, 0x1F, 0x00⟩
  | 0x7 => ⟨2, 1, 1, false, 0x7, 0x0⟩
  | 0x8 => ⟨4, 3, 7, false, 0x7E, 0x7F⟩
  | 0x9 => ⟨2, 3, 1, false, 0x1F, 0x00⟩
  | 0xA => ⟨2, 1, 1, false, 0x7, 0x0⟩
  | _ => ⟨8, 23, 127, true, 0x7F7FFFFF, 0x7FC00000⟩

/-- The broadcast form (R97): 8-bit exponent of bias 127, 10-bit fraction. -/
def bcastSpec : FmtSpec := ⟨8, 10, 127, true, 0x3FBFF, 0x3FE00⟩

/-- Bits per element of each format code (R83). -/
def fmtBits : Nat → Nat
  | 0x0 => 32
  | 0x1 => 16
  | 0x2 => 16
  | 0x5 => 6
  | 0x6 => 6
  | 0x7 => 4
  | 0x9 => 6
  | 0xA => 4
  | 0xC => 4
  | _ => 8

/-- Whether a code is a block format (R83). -/
def isBlockFmt (f : Nat) : Bool := decide (8 ≤ f) && decide (f ≤ 0xC)

/-- Tokens per block along the token axis (R86). -/
def blockTokens (f : Nat) : Nat := if f == 0xB then 64 else 32

/-- Whether a code is one of the MX formats 0x8 to 0xA. -/
def isMx (f : Nat) : Bool := decide (8 ≤ f) && decide (f ≤ 0xA)

/-- Element bytes and scale bytes per channel of 64 tokens (R87). -/
def bytesPerChannel (f : Nat) : Nat :=
  8 * fmtBits f + (if isMx f then 2 else if f == 0xB then 2 else if f == 0xC then 4 else 0)

/-- The sign bit's weight in a format. -/
def signWeight (s : FmtSpec) : Nat := 2 ^ (s.eb + s.fb)

/-- Decode a code of a format exactly; subnormals keep their value (R85). -/
def decodeF (s : FmtSpec) (c : Nat) : Val :=
  let neg := bits c (s.eb + s.fb) 1 == 1
  let e := bits c s.fb s.eb
  let f := bits c 0 s.fb
  if s.ieee && e == 2 ^ s.eb - 1 then (if f == 0 then .inf neg else .nan)
  else if !s.ieee && s.nan != 0 && c % signWeight s == s.nan then .nan
  else if e == 0 then .fin neg f (1 - (s.bias : Int) - s.fb)
  else .fin neg (2 ^ s.fb + f) ((e : Int) - s.bias - s.fb)

/-- m / 2^k rounded to the nearest whole number, ties to even (R93). -/
def rneShift (m k : Nat) : Nat :=
  if k = 0 then m
  else
    let q := m >>> k
    let r := m % 2 ^ k
    let h := 2 ^ (k - 1)
    if r > h || (r == h && q % 2 == 1) then q + 1 else q

/-- The magnitude code of m × 2^e in a format with its exponent range unbounded above (R93). -/
def roundMag (s : FmtSpec) (m : Nat) (e : Int) : Nat :=
  if m = 0 then 0
  else
    let top : Int := (Nat.log2 m : Int) + e
    let q : Int := max (top - s.fb) (1 - (s.bias : Int) - s.fb)
    let k := if q ≤ e then m <<< (e - q).toNat else rneShift m (q - e).toNat
    (q + s.fb + s.bias - 1).toNat <<< s.fb + k

/-- A code and whether the value saturated. -/
structure Conv where
  code : Nat
  sat : Bool
  deriving DecidableEq, Repr

/-- Conversion to a format (R93, R94): finite values saturate, infinities and NaN as the table of R94. -/
def convF (s : FmtSpec) (v : Val) : Conv :=
  match v with
  | .nan => ⟨s.nan, false⟩
  | .inf neg => ⟨(if s.ieee then (2 ^ s.eb - 1) <<< s.fb else s.maxFin) + (if neg then signWeight s else 0), false⟩
  | .fin neg m e =>
    let c := roundMag s m e
    let sg := if neg then signWeight s else 0
    if c > s.maxFin then ⟨s.maxFin + sg, true⟩ else ⟨c + sg, false⟩

/-- FP32 result of an arithmetic operation: overflow is infinite (R101). -/
def roundFp32 (v : Val) : F32 :=
  match v with
  | .nan => 0x7FC00000
  | .inf neg => if neg then 0xFF800000 else 0x7F800000
  | .fin neg m e =>
    let c := roundMag (fmtSpec 0) m e
    let sg := if neg then 0x80000000 else 0
    if c > 0x7F7FFFFF then 0x7F800000 + sg else c + sg

/-- The exact value of an FP32 pattern. -/
def fp32Val (x : F32) : Val := decodeF (fmtSpec 0) x

/-- Whether a value is NaN or infinite. -/
def Val.nonfinite : Val → Bool
  | .nan => true
  | .inf _ => true
  | .fin _ _ _ => false

/-- Signed mantissa of a finite value. -/
def Val.signed : Val → Int
  | .fin true m _ => -(m : Int)
  | .fin false m _ => m
  | _ => 0

/-- Exponent of a finite value. -/
def Val.ex : Val → Int
  | .fin _ _ e => e
  | _ => 0

/-- A value from a signed mantissa. -/
def valOf (n : Int) (e : Int) : Val := .fin (decide (n < 0)) n.natAbs e

/-- The exact sum of two values; an exact zero from unlike signs is +0. -/
def addV (a b : Val) : Val :=
  match a, b with
  | .nan, _ => .nan
  | _, .nan => .nan
  | .inf s, .inf t => if s == t then .inf s else .nan
  | .inf s, _ => .inf s
  | _, .inf t => .inf t
  | .fin s m e, .fin t n f =>
    let k := min e f
    let x : Int := (if s then -1 else 1) * ((m <<< (e - k).toNat : Nat) : Int)
    let y : Int := (if t then -1 else 1) * ((n <<< (f - k).toNat : Nat) : Int)
    if x + y = 0 then .fin (s && t) 0 k else valOf (x + y) k

/-- The exact product of two values. -/
def mulV (a b : Val) : Val :=
  match a, b with
  | .nan, _ => .nan
  | _, .nan => .nan
  | .inf s, .inf t => .inf (s != t)
  | .inf s, .fin t n _ => if n = 0 then .nan else .inf (s != t)
  | .fin s m _, .inf t => if m = 0 then .nan else .inf (s != t)
  | .fin s m e, .fin t n f => .fin (s != t) (m * n) (e + f)

/-- The quotient of two values, with a sticky bit below 64 bits of quotient. -/
def divV (a b : Val) : Val :=
  match a, b with
  | .nan, _ => .nan
  | _, .nan => .nan
  | .inf _, .inf _ => .nan
  | .inf s, .fin t _ _ => .inf (s != t)
  | .fin s _ _, .inf t => .fin (s != t) 0 0
  | .fin s m e, .fin t n f =>
    if n = 0 then (if m = 0 then .nan else .inf (s != t))
    else
      let w := 64 + Nat.log2 n
      let q := (m <<< w) / n
      let r := (m <<< w) % n
      .fin (s != t) (2 * q + (if r = 0 then 0 else 1)) (e - f - w - 1)

/-- The square root of a non-negative value, with a sticky bit below 64 bits of root. -/
def sqrtV : Val → Val
  | .nan => .nan
  | .inf s => if s then .nan else .inf false
  | .fin s m e =>
    if m = 0 then .fin s 0 0
    else if s then .nan
    else
      let k := if e % 2 = 0 then 128 else 129
      let n := m <<< k
      let r := Nat.sqrt n
      .fin false (2 * r + (if r * r = n then 0 else 1)) ((e - k) / 2 - 1)

def negV : Val → Val
  | .nan => .nan
  | .inf s => .inf (!s)
  | .fin s m e => .fin (!s) m e

/-- FP32 addition, subtraction, multiplication and division, each rounded once (R98). -/
def fadd (a b : F32) : F32 := roundFp32 (addV (fp32Val a) (fp32Val b))
def fsub (a b : F32) : F32 := roundFp32 (addV (fp32Val a) (negV (fp32Val b)))
def fmul (a b : F32) : F32 := roundFp32 (mulV (fp32Val a) (fp32Val b))
def fdiv (a b : F32) : F32 := roundFp32 (divV (fp32Val a) (fp32Val b))

def fsqrt (a : F32) : F32 := roundFp32 (sqrtV (fp32Val a))

/-- a < b as exact values; NaN compares false. -/
def ltV (a b : Val) : Bool :=
  match a, b with
  | .nan, _ => false
  | _, .nan => false
  | .inf s, .inf t => s && !t
  | .inf s, .fin _ _ _ => s
  | .fin _ _ _, .inf t => !t
  | .fin s m e, .fin t n f =>
    let k := min e f
    let x : Int := (if s then -1 else 1) * ((m <<< (e - k).toNat : Nat) : Int)
    let y : Int := (if t then -1 else 1) * ((n <<< (f - k).toNat : Nat) : Int)
    decide (x < y)

def flt (a b : F32) : Bool := ltV (fp32Val a) (fp32Val b)
def fisNan (a : F32) : Bool := fp32Val a == .nan
def fnonfinite (a : F32) : Bool := (fp32Val a).nonfinite

/-- The larger of two FP32 values; a NaN goes through. -/
def fmax (a b : F32) : F32 := if fisNan a then 0x7FC00000 else if fisNan b then 0x7FC00000 else if flt a b then b else a

def fNegInf : F32 := 0xFF800000
def fPosInf : F32 := 0x7F800000
def fOne : F32 := 0x3F800000

/-- The whole number below or at a finite value, and the one above or at it. -/
def floorV (n e : Int) : Int := if 0 ≤ e then n * 2 ^ e.toNat else n / 2 ^ (-e).toNat
def ceilV (n e : Int) : Int := -floorV (-n) e

/-- The roots 2^(1/2), 2^(1/4), ..., 2^(2^-40), in units of 2^-64 and cut off. -/
def twoRoots : List Nat :=
  [0x16A09E667F3BCC908, 0x1306FE0A31B7152DE, 0x1172B83C7D517ADCD, 0x10B5586CF9890F629, 0x1059B0D31585743AE] ++
  [0x102C9A3E778060EE6, 0x10163DA9FB33356D8, 0x100B1AFA5ABCBED61, 0x10058C86DA1C09EA1, 0x1002C605E2E8CEC50] ++
  [0x100162F3904051FA1, 0x1000B175EFFDC76BA, 0x100058BA01FB9F96D, 0x10002C5CC37DA9491, 0x1000162E525EE0547] ++
  [0x10000B17255775C04, 0x1000058B91B5BC9AE, 0x100002C5C89D5EC6C, 0x10000162E43F4F831, 0x100000B1721BCFC99] ++
  [0x10000058B90CF1E6D, 0x1000002C5C863B73F, 0x100000162E430E5A1, 0x1000000B172183551, 0x100000058B90C0B48] ++
  [0x10000002C5C8601CC, 0x1000000162E42FFF0, 0x10000000B17217FBA, 0x1000000058B90BFCD, 0x100000002C5C85FE3] ++
  [0x10000000162E42FF0, 0x100000000B17217F8, 0x10000000058B90BFB, 0x1000000002C5C85FD, 0x100000000162E42FE] ++
  [0x1000000000B17217F, 0x100000000058B90BF, 0x10000000002C5C85F, 0x1000000000162E42F, 0x10000000000B17217]

/-- The product of the roots at the set bits of f, a fraction in units of 2^-40 with its highest bit first. -/
def rootProduct (f : Nat) : List Nat → Nat → Nat → Nat
  | [], _, acc => acc
  | r :: t, i, acc => rootProduct f t (i - 1) (if f.testBit i then (acc * r) >>> 64 else acc)

/-- 2^(n × 2^e), within a relative error of 2^-39. -/
def exp2Near (n e : Int) : Val :=
  let lo := floorV n e
  let f := (floorV n (e + 40) - lo * 2 ^ 40).toNat
  .fin false (rootProduct f twoRoots 39 (2 ^ 64)) (lo - 64)

/-- Whether a result lies within the error that R100 allows of 2^x, of which p is the value within 2^-39: relative 2^-22, and
absolute 2^-149 where tiny (below -126). Both bounds are widened by the error of p. -/
def exp2Band (tiny : Bool) (p : Val) (r : F32) : Bool :=
  let v := fp32Val r
  let low := if tiny then addV p (.fin true (2 ^ 11 + 1) (-160)) else mulV p (.fin false (2 ^ 38 - 2 ^ 16 - 1) (-38))
  let high := if tiny then addV p (.fin false (2 ^ 11 + 1) (-160)) else mulV p (.fin false (2 ^ 38 + 2 ^ 16 + 1) (-38))
  !v.nonfinite && !ltV v low && !ltV high v && !(v == .fin true 0 (-149))

/-- 2^x (R100): the exact rows of the table; in the two ranges that it bounds by an error, the unit's own value, any within that
error of 2^x. -/
def fexp2 (x : F32) : F32 :=
  match fp32Val x with
  | .nan => 0x7FC00000
  | .inf true => 0
  | .inf false => fPosInf
  | .fin s m e =>
    if m = 0 then fOne
    else if ltV (.fin s m e) (.fin true 149 0) then 0
    else if ltV (.fin s m e) (.fin false 128 0) then
      let p := exp2Near (if s then -(m : Int) else m) e
      let r := Config.exp2 x
      if exp2Band (ltV (.fin s m e) (.fin true 126 0)) p r then r else roundFp32 p
    else fPosInf

/-- The exact sum of a group of products, converted once to FP32 (R93, R94, R98): a finite sum above the largest finite value
saturates, and is counted. -/
def groupConv (l : List Val) : Conv :=
  match l with
  | [] => ⟨0, false⟩
  | v :: t => convF (fmtSpec 0) (t.foldl addV v)

def groupSum (l : List Val) : F32 := (groupConv l).code

/-- Cut a list into groups of n. -/
def chunks {α : Type} (n : Nat) : Nat → List α → List (List α)
  | 0, _ => []
  | _, [] => []
  | fuel + 1, l => l.take n :: chunks n fuel (l.drop n)

/-- Sum of products: each group exactly, then an FP32 accumulator (R98). Groups of 32 in an engine, 64 in a score unit. -/
def accumulate (group : Nat) (l : List Val) : F32 :=
  (chunks group (l.length + 1) l).foldl (fun acc g => fadd acc (groupSum g)) 0

/-- The group sums that saturate (R94). -/
def groupSats (group : Nat) (l : List Val) : Nat := sumNat ((chunks group (l.length + 1) l).map (fun g => b2n (groupConv g).sat))

/-- FP32 pattern of an exactly represented value. -/
def toF32 (v : Val) : F32 := roundFp32 v

/-- The broadcast form of a value, and whether it saturated (R97). -/
def toBcast (v : Val) : Conv := convF bcastSpec v

/-- The value a broadcast code stands for. -/
def bcastVal (c : Nat) : Val := decodeF bcastSpec c

/-! ## Block formats -/

/-- The largest magnitude of a block, as a value. -/
def amaxV (l : List Val) : Val :=
  l.foldl (fun a v => match v with | .fin _ m e => if ltV a (.fin false m e) then .fin false m e else a | _ => a)
    (.fin false 0 0)

/-- A quantised block: its element codes, its scale, and the elements clamped or saturated. -/
structure Block where
  codes : List Nat
  scale : Nat
  sat : Nat
  deriving DecidableEq, Repr

def emaxOf (f : Nat) : Int := if f == 8 then 8 else 2

/-- Quantise one MX block (R88, R90). -/
def quantMx (f : Nat) (l : List Val) : Block :=
  if l.any Val.nonfinite then ⟨l.map (fun _ => 0), 0xFF, 0⟩
  else
    match amaxV l with
    | .fin _ m e =>
      if m = 0 then ⟨l.map (fun _ => 0), 0, 0⟩
      else
        let x : Int := max (-127) (min 127 ((Nat.log2 m : Int) + e - emaxOf f))
        let cs := l.map (fun v => convF (fmtSpec f) (mulV v (.fin false 1 (-x))))
        ⟨cs.map Conv.code, (x + 127).toNat, (cs.filter Conv.sat).length⟩
    | _ => ⟨l.map (fun _ => 0), 0xFF, 0⟩

/-- The FP16 code not below the positive value amax / q (R89 step 3), held between 2^-24 and 65,504. -/
def scaleUp (m : Nat) (e : Int) (q : Nat) : Nat :=
  match divV (.fin false m e) (.fin false q 0) with
  | .fin _ n f =>
    -- round toward +infinity: the nearest code, raised by one if it lies below the exact quotient
    let c := roundMag (fmtSpec 2) n f
    let below := match decodeF (fmtSpec 2) c with
      | .fin _ a b => ltV (mulV (.fin false a b) (.fin false q 0)) (.fin false m e)
      | _ => false
    let c := if c > 0x7BFF then 0x7BFF else if below then c + 1 else c
    if c > 0x7BFF then 0x7BFF else if c == 0 then 1 else c
  | _ => 0x7BFF

/-- n / d rounded to the nearest whole number, ties to even, of magnitudes. -/
def rneDiv (n d : Nat) : Nat :=
  let q := n / d
  let r := n % d
  if 2 * r > d || (2 * r == d && q % 2 == 1) then q + 1 else q

/-- x / scale to the nearest whole number, ties to even (R89 step 4). -/
def intQuot (x sc : Val) : Int :=
  match x, sc with
  | .fin s m e, .fin _ n f =>
    let k := min e f
    let q := rneDiv (m <<< (e - k).toNat) (n <<< (f - k).toNat)
    if s then -(q : Int) else q
  | _, _ => 0

/-- Two's complement code of a small whole number. -/
def intCode (w : Nat) (x : Int) : Nat := (x % (2 ^ w : Int)).toNat

/-- Quantise one INT block (R89, R90). -/
def quantInt (f : Nat) (l : List Val) : Block :=
  if l.any Val.nonfinite then ⟨l.map (fun _ => 0), 0x7E00, 0⟩
  else
    let q : Nat := if f == 0xB then 127 else 7
    match amaxV l with
    | .fin _ m e =>
      if m = 0 then ⟨l.map (fun _ => 0), 0, 0⟩
      else
        let sc := scaleUp m e q
        let raw := l.map (fun v => intQuot v (decodeF (fmtSpec 2) sc))
        let cl := raw.map (fun x => max (-(q : Int)) (min q x))
        ⟨cl.map (intCode (fmtBits f)), sc, (raw.filter (fun x => decide (x.natAbs > q))).length⟩
    | _ => ⟨l.map (fun _ => 0), 0x7E00, 0⟩

/-- Quantise one block in a block format. -/
def quantBlock (f : Nat) (l : List Val) : Block := if isMx f then quantMx f l else quantInt f l

/-- A whole number from its two's complement code. -/
def intOf (w c : Nat) : Int := if c ≥ 2 ^ (w - 1) then (c : Int) - 2 ^ w else c

/-- The unscaled value of a stored element code. -/
def elemVal (f c : Nat) : Val :=
  if f == 0xB then valOf (intOf 8 c) 0 else if f == 0xC then valOf (intOf 4 c) 0 else decodeF (fmtSpec f) c

/-- The value of a block's scale code: E8M0 or FP16 (R84). -/
def scaleVal (f sc : Nat) : Val :=
  if isMx f then (if sc == 0xFF then .nan else .fin false 1 ((sc : Int) - 127)) else decodeF (fmtSpec 2) sc

/-! ## LOG8 (R92) -/

/-- Convert to LOG8. m = round(4 log2 |x|) + 64, ties to even; no tie occurs for a dyadic value. -/
def toLog8 (x : F32) : Nat :=
  match fp32Val x with
  | .nan => 0x80
  | .inf s => 127 + (if s then 0x80 else 0)
  | .fin s m e =>
    if m = 0 then 0
    else
      let m4 := m ^ 4
      let n : Int := (Nat.log2 m4 : Int) + 4 * e        -- floor (log2 |x|^4)
      -- |x|^8 against 2^(2 n + 1)
      let up := decide (m ^ 8 > 2 ^ (2 * Nat.log2 m4 + 1))
      let k : Int := n + (if up then 1 else 0) + 64
      -- a magnitude below 2^(-15.875): |x|^8 below 2^(-127)
      let tiny := decide ((Nat.log2 (m ^ 8) : Int) + 8 * e < -127)
      if tiny then 0 else if k < 1 then 0
      else (if k > 127 then 127 else k.toNat) + (if s then 0x80 else 0)

end Sys2Proof.Machine
end

