-- ==== Sys2Proof/Machine/Attn.lean ====
section
/-! DEFINITION. The arithmetic of a share (R97 to R101, R126, R129, R152 to R158): element values of a half, scores,
weights, passes, the combination of records, and weight entries. -/

namespace Sys2Proof.Machine

/-- Head dimension of a dim code (R114); 0 for an unassigned code. -/
def dimOf : Nat → Nat
  | 0 => 64 | 1 => 96 | 2 => 128 | 3 => 160 | 4 => 192 | 5 => 224 | 6 => 256 | _ => 0

/-- 1/√d rounded to FP32 (R146). -/
def rsqrtDim : Nat → F32
  | 0 => 0x3E000000 | 1 => 0x3DD105EC | 2 => 0x3DB504F3 | 3 => 0x3DA1E89B | 4 => 0x3D93CD3A | 5 => 0x3D88D677
  | _ => 0x3D800000

/-- log2(e) in FP32. -/
def log2e : F32 := 0x3FB8AA3B

/-- Block of a token in a half's format; a format without blocks has one (R86). -/
def blockOf (f t : Nat) : Nat := if isBlockFmt f then t / blockTokens f else 0

/-- Whether a token's element is held in BF16 in the extension (R104). -/
def inOpenBlock (h : Half) (t : Nat) : Bool := isBlockFmt h.fmt && decide (h.closed ≤ t)

/-- The unscaled value of element (c, t), and its block's scale; none where the element needs no scale. -/
def elemOf (h : Half) (t c : Nat) : Val × Option Val :=
  let code := nth (nth h.toks t []) c 0
  if inOpenBlock h t then (decodeF (fmtSpec 1) code, none)
  else if isBlockFmt h.fmt then
    let sc := scaleVal h.fmt (nth (nth h.scales (blockOf h.fmt t) []) c 0)
    (match sc with | .nan => .nan | _ => elemVal h.fmt code, some sc)
  else (elemVal h.fmt code, none)

/-- A query element against a key element: block scales act on the broadcast operand (R99). -/
def scoreProduct (q : Nat) (e : Val × Option Val) : Val :=
  match e.2 with
  | none => mulV (bcastVal q) e.1
  | some sc => mulV (bcastVal (toBcast (mulV (bcastVal q) sc)).code) e.1

/-- Saturations of R97 that scoring one token makes. -/
def scoreSats (q : Nat) (e : Val × Option Val) : Nat :=
  match e.2 with
  | none => 0
  | some sc => if (toBcast (mulV (bcastVal q) sc)).sat then 1 else 0

/-- The products of a row with a token's key. -/
def dotTerms (row : List Nat) (h : Half) (t : Nat) : List Val :=
  (upFrom 0 row.length).map (fun c => scoreProduct (nth row c 0) (elemOf h t c))

/-- The dot product of a row with a token's key, in groups of 32 or 64 products (R98, R166). -/
def dot (group : Nat) (row : List Nat) (h : Half) (t : Nat) : F32 := accumulate group (dotTerms row h t)

/-- The scaled score of a token (R100, R154). -/
def score (c : F32) (group : Nat) (row : List Nat) (h : Half) (t : Nat) : F32 := fmul (dot group row h t) c

/-- Groups of up to 32 tokens in the open block, and within each closed block; ws: tokens with their weights in the broadcast form. -/
def openGroups (h : Half) (ws : List (Nat × Nat)) : List (List (Nat × Nat)) := chunks 32 65 (ws.filter (fun w => inOpenBlock h w.1))

def blockGroups (h : Half) (ws : List (Nat × Nat)) : List (List (Nat × Nat)) :=
  (upFrom 0 2).flatMap (fun b => chunks 32 65 (ws.filter (fun w => blockOf h.fmt w.1 == b && !inOpenBlock h w.1)))

/-- The products of a group of tokens in one channel. -/
def accTerms (h : Half) (c : Nat) (g : List (Nat × Nat)) : List Val := g.map (fun w => mulV (bcastVal w.2) (elemOf h w.1 c).1)

/-- Σ over tokens of weight × value of one channel within one block run: exact groups of up to 32, rounded to FP32,
multiplied by the block's scale (R98, R99). -/
def accChannel (h : Half) (c : Nat) (ws : List (Nat × Nat)) : F32 :=
  let plain := (openGroups h ws).map (fun g => groupSum (accTerms h c g))
  let scaled := (blockGroups h ws).map (fun g =>
    let sum := groupSum (accTerms h c g)
    match g with
    | [] => sum
    | w :: _ => match (elemOf h w.1 c).2 with | some sc => fmul sum (toF32 sc) | none => sum)
  (scaled ++ plain).foldl fadd 0

/-- The group sums of a channel that saturate (R94). -/
def accSats (h : Half) (c : Nat) (ws : List (Nat × Nat)) : Nat :=
  sumNat ((openGroups h ws ++ blockGroups h ws).map (fun g => b2n (groupConv (accTerms h c g)).sat))

/-! ## Coverage and masks -/

/-- What of a query's ticket the mask and the coverage read. -/
structure Mask where
  mode : Nat
  a : Nat
  b : Nat
  bitmap : List Byte
  snap : Nat
  deriving DecidableEq, Repr

/-- One bit of a bitmap (R130). -/
def bitmapBit (l : List Byte) (k : Nat) : Bool := bitB (nth l (k / 8) 0).toNat (k % 8)

def segVisible (gi gj : Nat) : Bool := gi == gj || gi == 0xFFFF || gj == 0xFFFF

/-- Whether token position p with segment gi is visible to a query token with segment gj (R129). -/
def maskVisible (m : Mask) (p gi gj : Nat) : Bool :=
  match m.mode with
  | 0 => true
  | 1 => segVisible gi gj
  | 2 => decide (m.a ≤ p) && decide (p ≤ m.b)
  | 3 => segVisible gi gj && decide (m.a ≤ p) && decide (p ≤ m.b)
  | 4 => decide (m.a ≤ p) && decide (p - m.a ≤ bits m.b 0 24) && bitmapBit m.bitmap (p - m.a)
  | _ => false

/-- The commit step of token t (R123). -/
def tokenStep (sh : Sheet) (t : Nat) : Nat := sh.commitStep - nth sh.ages t 0

/-- Whether a query with snapshot step S covers token t for a query token with segment gj (R126). -/
def covers (m : Mask) (sh : Sheet) (t gj : Nat) : Bool :=
  decide (t < sh.tokenCount) && decide (tokenStep sh t ≤ m.snap)
  && maskVisible m (64 * sh.num + t) (nth sh.segments t 0) gj

/-! ## Records -/

/-- A record over no token (R127, R154). -/
def emptyRec (d contributors : Nat) : Rec :=
  { m := fNegInf, l := 0, o := List.replicate d 0, tokens := 0, contributors := contributors, empty := true }

/-- Combine records of one row in the order given (R156). -/
def combine (d : Nat) (l : List Rec) : Rec :=
  let top := l.foldl (fun a r => fmax a r.m) fNegInf
  let toks := sumNat (l.map Rec.tokens)
  let con := sumNat (l.map Rec.contributors)
  if top == fNegInf then { emptyRec d con with tokens := toks }
  else
    let sc := l.map (fun r => (fexp2 (fsub r.m top), r))
    { m := top,
      l := (sc.map (fun p => fmul p.1 p.2.l)).foldl fadd 0,
      o := (upFrom 0 d).map (fun e => (sc.map (fun p => fmul p.1 (nth p.2.o e 0))).foldl fadd 0),
      tokens := min toks 0xFFFFFFFF, contributors := con, empty := false }

/-- The factor by which the row of a record is scaled when it is combined (R156 step 2, R158 step 2). -/
def rowFactor (l : List Rec) (r : Rec) : F32 :=
  let top := l.foldl (fun a x => fmax a x.m) fNegInf
  if top == fNegInf then 0 else fexp2 (fsub r.m top)

/-- Whether a record holds a NaN or an infinity beyond the empty record's own −∞ (R101). -/
def recNonfinite (r : Rec) : Bool :=
  !r.empty && (fnonfinite r.m || fnonfinite r.l || r.o.any fnonfinite)

/-- Combine rows pairwise: the record lists of several inputs, each one record per row. -/
def combineRows (d rows : Nat) (inputs : List (List Rec)) : List Rec :=
  (upFrom 0 rows).map (fun r => combine d (inputs.map (fun i => nth i r (emptyRec d 0))))

/-- Scale the entries of several inputs by the factors of their rows and keep them side by side (R158 step 2). -/
def scaleWeights (rows : Nat) (inputs : List (List Rec × List WeightEntry)) : List WeightEntry :=
  inputs.flatMap (fun p => p.2.map (fun w =>
    { w with vals := (upFrom 0 rows).map (fun r =>
        fmul (rowFactor (inputs.map (fun q => nth q.1 r (emptyRec 0 0))) (nth p.1 r (emptyRec 0 0))) (nth w.vals r 0)) }))

/-- The sum of an entry's values over rows. -/
def weightSum (w : WeightEntry) : F32 := w.vals.foldl fadd 0

/-- The entry dropped first: smallest sum, ties to the higher Sheet number (R158 step 3). -/
def worstWeight : List WeightEntry → Option WeightEntry
  | [] => none
  | w :: r =>
    match worstWeight r with
    | none => some w
    | some v => if flt (weightSum w) (weightSum v) || (weightSum w == weightSum v && decide (v.sheet < w.sheet)) then some w else some v

/-- Keep at most n entries; the number dropped. -/
def trimWeights (n : Nat) : Nat → List WeightEntry → List WeightEntry × Nat
  | 0, l => (l, 0)
  | fuel + 1, l =>
    if l.length ≤ n then (l, 0)
    else
      match worstWeight l with
      | none => (l, 0)
      | some w =>
        let r := trimWeights n fuel (l.filter (fun v => v.sheet != w.sheet))
        (r.1, r.2 + 1)

/-! ## One pass of a share (R152) -/

/-- One row of a share: its query elements in the broadcast form, and its segment. -/
structure Row where
  q : List Nat
  seg : Nat
  deriving DecidableEq, Repr

/-- The covered tokens of a Sheet for a row, with their scores. group: 32 in an engine, 64 in the score array. -/
def sheetScores (m : Mask) (c : F32) (row : Row) (p : Sheet × Nat) : List (Nat × F32) :=
  ((upFrom 0 64).filter (fun t => covers m p.1 t row.seg)).map (fun t => (t, score c p.2 row.q p.1.kHalf t))

/-- The sums of one engine over its Sheets, for a row with reference maximum top: weight sum, outputs, tokens, and the
weight of each Sheet. -/
def engineSums (d : Nat) (top : F32) (l : List (Sheet × List (Nat × F32))) : Rec × List (Nat × F32) :=
  let per := l.map (fun p =>
    let ws := p.2.map (fun x => (x.1, fexp2 (fsub x.2 top)))
    let bc := ws.map (fun x => (x.1, (toBcast (fp32Val x.2)).code))
    (p.1, (ws.map Prod.snd).foldl fadd 0, (upFrom 0 d).map (fun e => accChannel p.1.vHalf e bc), ws.length))
  ({ m := top, l := (per.map (fun p => p.2.1)).foldl fadd 0,
     o := (upFrom 0 d).map (fun e => (per.map (fun p => nth p.2.2.1 e 0)).foldl fadd 0),
     tokens := sumNat (per.map (fun p => p.2.2.2)), contributors := 1, empty := false },
   per.filterMap (fun p => if p.2.2.2 = 0 then none else some (p.1.num, p.2.1)))

/-- The group sums of a row over its Sheets that saturate, in its dot products and in its V sums at reference maximum top (R94, R98). -/
def rowSats (d : Nat) (m : Mask) (row : Row) (top : F32) (l : List (Sheet × Nat × List (Nat × F32))) : Nat :=
  sumNat (l.map (fun p =>
    let bc := p.2.2.map (fun x => (x.1, (toBcast (fp32Val (fexp2 (fsub x.2 top)))).code))
    sumNat (((upFrom 0 64).filter (fun t => covers m p.1 t row.seg)).map (fun t => groupSats p.2.1 (dotTerms row.q p.1.kHalf t)))
    + sumNat ((upFrom 0 d).map (fun e => accSats p.1.vHalf e bc))))

/-- One row of one pass. The Sheets come with their group size and the engine that took them (R110 fixes no split);
engines' sums are added with no rescaling. -/
def passRow (d : Nat) (m : Mask) (c : F32) (row : Row) (sheets : List (Sheet × Nat × Nat)) : Rec × List (Nat × F32) :=
  let sc := sheets.map (fun p => (p.1, sheetScores m c row (p.1, p.2.1), p.2.2))
  let all := sc.flatMap (fun p => p.2.1.map Prod.snd)
  if all.isEmpty then (emptyRec d 1, [])
  else
    let top := all.foldl fmax fNegInf
    let engines := (sc.map (fun p => p.2.2)).eraseDups
    let sums := engines.map (fun e => engineSums d top ((sc.filter (fun p => p.2.2 == e)).map (fun p => (p.1, p.2.1))))
    ({ m := top, l := (sums.map (fun x => x.1.l)).foldl fadd 0,
       o := (upFrom 0 d).map (fun e => (sums.map (fun x => nth x.1.o e 0)).foldl fadd 0),
       tokens := sumNat (sums.map (fun x => x.1.tokens)), contributors := 1, empty := false },
     sums.flatMap Prod.snd)

/-- The group sums of one pass that saturate. -/
def passSats (d : Nat) (m : Mask) (c : F32) (rows : List Row) (sheets : List (Sheet × Nat × Nat)) : Nat :=
  sumNat (rows.map (fun r =>
    let sc := sheets.map (fun p => (p.1, p.2.1, sheetScores m c r (p.1, p.2.1)))
    rowSats d m r ((sc.flatMap (fun p => p.2.2.map Prod.snd)).foldl fmax fNegInf) sc))

/-- One pass: a record per row, and the weight entries of its Sheets (R158 step 1). -/
def pass (d : Nat) (m : Mask) (c : F32) (rows : List Row) (sheets : List (Sheet × Nat × Nat)) :
    List Rec × List WeightEntry :=
  let rs := rows.map (fun r => passRow d m c r sheets)
  let nums := (rs.flatMap (fun x => x.2.map Prod.fst)).eraseDups
  (rs.map Prod.fst,
   nums.map (fun n => { sheet := n, vals := rs.map (fun x => ((x.2.find? (fun y => y.1 == n)).map Prod.snd).getD 0) }))

/-! ## Conversion of records (R157) -/

/-- FP32 to BF16 and back, with the saturations of R94. -/
def bf16Round (x : F32) : F32 × Nat :=
  let c := convF (fmtSpec 1) (fp32Val x)
  (c.code * 65536, b2n c.sat)

/-- A record's output vector rounded to BF16 for transit or result. -/
def recBf16 (r : Rec) : Rec := { r with o := r.o.map (fun x => (bf16Round x).1) }

def recBf16Sats (r : Rec) : Nat := sumNat (r.o.map (fun x => (bf16Round x).2))

/-- The root's division by the sum; a sum of 0 writes 0 (R157). -/
def recNormalise (r : Rec) : Rec :=
  { r with o := r.o.map (fun x => if (fp32Val r.l) matches .fin _ 0 _ then 0 else fdiv x r.l) }

end Sys2Proof.Machine
end

