-- ==== Sys2Proof/Machine/Kv.lean ====
section
/-! DEFINITION. Sheets, Reams and Quires (R111 to R137): keys, sizes, metadata, the writing of a token, the commit of a
Sheet, and the counts behind the slice objects. -/

namespace Sys2Proof.Machine

/-! ## Keys -/

def reamKey (tenant ream : Nat) : Nat := tenant * 2 ^ 32 + ream
def sheetKey (tenant ream layer head num : Nat) : Nat := ((reamKey tenant ream * 4096 + layer) * 256 + head) * 2 ^ 32 + num
def quireKey (tenant ream layer head num : Nat) : Nat := ((reamKey tenant ream * 4096 + layer) * 256 + head) * 2 ^ 28 + num

/-- The group of a layer and head of a Ream: the part of a key above the number. -/
def groupOf (tenant ream layer head : Nat) : Nat := (reamKey tenant ream * 4096 + layer) * 256 + head

/-- The Quire of a Sheet's key (R116). -/
def quireOfSheet (k : Nat) : Nat := k / 2 ^ 32 * 2 ^ 28 + k % 2 ^ 32 / 16

def keyOfSheet (sh : Sheet) : Nat := sheetKey sh.tenant sh.ream sh.layer sh.head sh.num

/-- The key of a Sheet's Quire. -/
def quireOf (sh : Sheet) : Nat := quireKey sh.tenant sh.ream sh.layer sh.head (sh.num / 16)

/-! ## Sizes (R111, R112) -/

/-- Granules of a half: ⌈d × b / 1,024⌉. -/
def halfGranules (f d : Nat) : Nat := ceilDiv (d * bytesPerChannel f) 1024

/-- Granules of an open-block extension. -/
def extGranules (f d : Nat) : Nat := if isBlockFmt f then (if f == 0xB then d / 8 else d / 16) else 0

/-- HBM bytes of a new Sheet: halves, extensions, metadata and Deckle (R262). -/
def newSheetBytes (kf vf d : Nat) : Nat :=
  1024 * (halfGranules kf d + extGranules kf d + halfGranules vf d + extGranules vf d) + 256 + 128

/-- Granules that a Sheet's extensions hold now. -/
def sheetExt (sh : Sheet) : Nat :=
  let d := dimOf sh.dim
  (if sh.kExt then extGranules sh.kHalf.fmt d else 0) + (if sh.vExt then extGranules sh.vHalf.fmt d else 0)

/-- Bytes of K halves and of V halves of a Sheet with extensions, as it stands. -/
def sheetK (sh : Sheet) : Nat :=
  1024 * (halfGranules sh.kHalf.fmt (dimOf sh.dim) + (if sh.kExt then extGranules sh.kHalf.fmt (dimOf sh.dim) else 0))
def sheetV (sh : Sheet) : Nat :=
  1024 * (halfGranules sh.vHalf.fmt (dimOf sh.dim) + (if sh.vExt then extGranules sh.vHalf.fmt (dimOf sh.dim) else 0))

/-- Space set aside for a new Quire: in the K stack, and in the carrying stack with metadata and Deckles (R185). -/
def quireK (kf d : Nat) : Nat := 16 * 1024 * (halfGranules kf d + extGranules kf d)
def quireV (vf d : Nat) : Nat := 16 * (1024 * (halfGranules vf d + extGranules vf d) + 256 + 128)

/-! ## Metadata (R114, R115) -/

/-- The metadata record as a number, with its crc field as given. -/
def metaWord (sh : Sheet) (crc : Nat) : Nat :=
  packBits ([(192, 0), (64, sh.createdStep), (30, 0), (1, b2n sh.vExt), (1, b2n sh.kExt), (1, b2n sh.segmented),
    (1, b2n (sh.tokenCount == 64)), (7, sh.pending), (7, sh.tokenCount), (4, sh.vHalf.fmt), (4, sh.kHalf.fmt),
    (4, sh.dim), (8, sh.head), (12, sh.layer), (8, sh.tenant), (8, sh.alive), (32, crc), (32, sh.num), (32, sh.ream),
    (64, sh.commitStep)]
    ++ (upFrom 0 64).map (fun t => (8, nth sh.ages t 0)) ++ (upFrom 0 64).map (fun t => (16, nth sh.segments t 0)))

/-- The crc of the record, taken with the field as zero. -/
def metaCrc (sh : Sheet) : Nat := crc32c (toBytes 256 (metaWord sh 0))

/-- One rewrite of the metadata: alive rises by 1 (R115). -/
def rewriteMeta (sh : Sheet) : Sheet := { sh with alive := (sh.alive + 1) % 256 }

/-! ## Deckles and codebooks (R191, R193) -/

def bookKey (t l h : Nat) : Nat := (t * 4096 + l) * 256 + h

/-- The codebook loaded for a tenant, layer and head. -/
def bookFor (s : State) (t l h : Nat) : Option Codebook := tget? s.srch.books (bookKey t l h)

/-- Whether a Deckle of a tenant, layer and head was not built from the codebook that the node holds for it (R195). -/
def staleDeckle (s : State) (t l h : Nat) (d : Deckle) : Bool :=
  match bookFor s t l h with
  | some b => b.crc != d.codebookCrc
  | none => true

/-- The Deckle record of a Sheet as R193 lays it out, its crc field given. -/
def deckleWord (sh : Sheet) (d : Deckle) (crc : Nat) : Nat :=
  packBits ([(32, crc), (8, d.alive), (68, 0), (32, sh.ream), (32, sh.num), (8, sh.head), (12, sh.layer), (8, sh.tenant), (5, 0),
    (3, d.reps), (32, d.codebookCrc), (16, d.maxNorm)]
    ++ (upFrom 0 4).map (fun r => (16, nth d.residual r 0)) ++ [(64, d.firstStep)]
    ++ (upFrom 0 64).map (fun i => (8, nth (nth d.codes (i / 16) []) (i % 16) 0)) ++ (upFrom 0 64).map (fun t => (2, nth d.repOf t 0)))

/-- The 128 bytes of a Deckle record, with its crc. -/
def deckleRecord (sh : Sheet) (d : Deckle) : List Byte :=
  toBytes 128 (deckleWord sh d (crc32c (toBytes 128 (deckleWord sh d 0))))

/-! ## Tokens -/

def newHalf (f : Nat) : Half := { fmt := f, toks := [], closed := 0, scales := [] }

/-- A new Sheet (R118). -/
def newSheet (tenant ream layer head num dim kf vf : Nat) : Sheet :=
  { tenant := tenant, ream := ream, layer := layer, head := head, num := num, dim := dim, tokenCount := 0,
    pending := 0, commitStep := 0, createdStep := 0, alive := 0, segments := List.replicate 64 0,
    ages := List.replicate 64 0, segmented := false, kExt := isBlockFmt kf, vExt := isBlockFmt vf,
    kHalf := newHalf kf, vHalf := newHalf vf, poisoned := false, bankSet := 0 }

/-- Convert a vector of input codes for storage: into the half's own format, or into BF16 while its block is open
(R120 steps 1 to 3). The conversions, with their saturation flags. -/
def convToken (inFmt f : Nat) (v : List Nat) : List Conv :=
  let dst := if isBlockFmt f then fmtSpec 1 else fmtSpec f
  v.map (fun x => convF dst (decodeF (fmtSpec inFmt) x))

/-- Write one token into a half. -/
def putToken (h : Half) (codes : List Nat) : Half := { h with toks := h.toks ++ [codes] }

/-- Write a pending token into a Sheet (R120): K and V, segment number, pending_count. -/
def writeToken (sh : Sheet) (k v : List Nat) (seg : Nat) : Sheet :=
  { sh with kHalf := putToken sh.kHalf k, vHalf := putToken sh.vHalf v,
            segments := setNth sh.segments (sh.tokenCount + sh.pending) seg, pending := sh.pending + 1 }

/-- Take back the last n pending tokens of a half, and of a Sheet (R124, R133, R274). -/
def dropTokens (h : Half) (n : Nat) : Half := { h with toks := h.toks.take (h.toks.length - n) }
def withdraw (sh : Sheet) (n : Nat) : Sheet :=
  rewriteMeta { sh with kHalf := dropTokens sh.kHalf n, vHalf := dropTokens sh.vHalf n, pending := sh.pending - n,
                        segments := sh.segments.mapIdx (fun i g => if sh.tokenCount + sh.pending - n ≤ i then 0 else g) }

/-- Quantise one closed block of a half: tokens t0 to t0 + w - 1, channel by channel (R104, R88 to R90). -/
def closeBlock (h : Half) (t0 w d : Nat) : Half × Nat :=
  let bl := (upFrom 0 d).map (fun c => quantBlock h.fmt ((upFrom t0 w).map (fun t => decodeF (fmtSpec 1) (nth (nth h.toks t []) c 0))))
  ({ h with
      toks := h.toks.mapIdx (fun t x => if t0 ≤ t && t < t0 + w then bl.map (fun b => nth b.codes (t - t0) 0) else x),
      closed := t0 + w,
      scales := h.scales ++ [bl.map Block.scale] },
   sumNat (bl.map Block.sat))

/-- Close every block of a half whose last token is committed (R122 step 4); the clamped and saturated elements. -/
def closeBlocks : Nat → Half → Nat → Nat → Half × Nat
  | 0, h, _, _ => (h, 0)
  | fuel + 1, h, count, d =>
    let w := blockTokens h.fmt
    if isBlockFmt h.fmt && decide (h.closed + w ≤ count) then
      let r := closeBlock h h.closed w d
      let q := closeBlocks fuel r.1 count d
      (q.1, r.2 + q.2)
    else (h, 0)

/-- The commit of a Sheet at the COMMIT of step n (R122); with the elements saturated by its quantisation. -/
def commitSheet (n : Nat) (sh : Sheet) : Sheet × Nat :=
  if sh.pending = 0 then (sh, 0)
  else
    let old := sh.tokenCount
    let cnt := old + sh.pending
    let delta := n - sh.commitStep
    let ages := sh.ages.mapIdx (fun t a => if t < old then min 255 (a + delta) else 0)
    let newSeg := (upFrom old sh.pending).any (fun t => nth sh.segments t 0 != 0)
    let k := closeBlocks 2 sh.kHalf cnt (dimOf sh.dim)
    let v := closeBlocks 2 sh.vHalf cnt (dimOf sh.dim)
    (rewriteMeta { sh with
        tokenCount := cnt, pending := 0, ages := ages, commitStep := n,
        createdStep := if old = 0 then n else sh.createdStep,
        segmented := sh.segmented || newSeg, kHalf := k.1, vHalf := v.1,
        kExt := sh.kExt && decide (k.1.closed < 64), vExt := sh.vExt && decide (v.1.closed < 64) },
     k.2 + v.2)

/-! ## Quire records (R238, R257) -/

/-- One slot of a Quire's record, by its place, with the Sheet that it describes where that exists. -/
def recordSlot (q : Quire) (i : Nat) (sh : Option Sheet) : Nat :=
  let loc : Nat × Nat × Nat :=
    if q.tier ≤ 1 then
      (match sh with | some _ => Config.slotPlace q.place i | none => (0, 0, 0))
    else if i = 0 then (q.region * 2 ^ 28 + q.start, q.kib, 0) else (0, 0, 0)
  packBits [(32, loc.1), (32, loc.2.1), (32, loc.2.2), (8, (sh.map Sheet.alive).getD 0),
    (8, b2n sh.isSome + 2 * b2n (has q.deckled i)), (16, 0)]

/-! ## Looking up -/

/-- The Sheets of a layer and head of a Ream. -/
def sheetsOf (s : State) (g : Nat) : List Sheet :=
  (s.kv.sheets.filter (fun p => p.1 / 2 ^ 32 == g)).map Prod.snd

/-- The next position of a layer and head (R119). -/
def nextPos (s : State) (g : Nat) : Nat :=
  match (sheetsOf s g).getLast? with
  | none => 0
  | some sh => 64 * sh.num + sh.tokenCount + sh.pending

/-- The Sheets of a Quire's key, ascending. -/
def quireSheets (s : State) (qk : Nat) : List (Nat × Sheet) := s.kv.sheets.filter (fun p => quireOfSheet p.1 == qk)

/-- The 256-byte record of a Quire as a number. -/
def quireRecord (s : State) (qk : Nat) (q : Quire) : Nat :=
  packBits ((upFrom 0 16).map (fun i =>
    (128, recordSlot q i (((quireSheets s qk).find? (fun p => p.2.num % 16 == i)).map Prod.snd))))

/-- Whether a Quire is complete: its Sheet 16q + 15 is full (R118). -/
def quireComplete (s : State) (qk : Nat) : Bool :=
  (quireSheets s qk).any (fun p => p.2.num % 16 == 15 && p.2.tokenCount == 64)

/-- Whether a Quire holds pending tokens. -/
def quirePending (s : State) (qk : Nat) : Bool := (quireSheets s qk).any (fun p => decide (0 < p.2.pending))

/-- The Quires of a slice. -/
def sliceQuires (s : State) (sl : Nat) : List (Nat × Quire) := s.kv.quires.filter (fun p => p.2.slice == sl)

/-- The Sheets of a slice, in any tier. -/
def sliceSheets (s : State) (sl : Nat) : List (Nat × Sheet) :=
  s.kv.sheets.filter (fun p => match tget? s.kv.quires (quireOfSheet p.1) with | some q => q.slice == sl | none => false)

/-- Replace a Sheet. -/
def putSheet (s : State) (sh : Sheet) : State := { s with kv := { s.kv with sheets := tset s.kv.sheets (keyOfSheet sh) sh } }

/-- Replace a Quire. -/
def putQuire (s : State) (k : Nat) (q : Quire) : State := { s with kv := { s.kv with quires := tset s.kv.quires k q } }

/-- The slice that holds a Ream's first Quire, by which R137 counts Ream events; 0 where it holds none. -/
def reamSlice (s : State) (tenant ream : Nat) : Nat :=
  match s.kv.quires.find? (fun p => p.2.tenant == tenant && p.2.ream == ream) with
  | some p => p.2.slice
  | none => 0

end Sys2Proof.Machine
end

