-- ==== Sys2Proof/Machine/Space.lean ====
section
/-! DEFINITION. Space of the stacks (R488): holders, free space, taking and freeing, the clearing of freed memory
(R445), and the holdings of tenants (R261, R264). Stack 2 × s scores, stack 2 × s + 1 carries. -/

namespace Sys2Proof.Machine

def scoringStack (sl : Nat) : Nat := 2 * sl
def carryingStack (sl : Nat) : Nat := 2 * sl + 1

/-- Bytes of one stack: 64 GiB (R2). -/
def stackBytes : Nat := 64 * 2 ^ 30

/-- A K part and a rest, as they lie on a stack. -/
def partOn (st sl k v : Nat) (kCar : Bool) : Nat :=
  if st == scoringStack sl then (if kCar then 0 else k)
  else if st == carryingStack sl then v + (if kCar then k else 0) else 0

/-- Bytes that a Quire holds on a stack, its move's destination included. -/
def quireOn (st : Nat) (q : Quire) : Nat :=
  partOn st q.slice q.kShare q.vShare q.kCarrying
  + (match q.move with
     | some m => if m.target == 1 then 0 else partOn st m.slice m.bytesK m.bytesV m.kCarrying
     | none => 0)

/-- Bytes of a stack that its holders have taken. -/
def stackHeld (s : State) (st : Nat) : Nat :=
  sumNat ((s.holds.filter (fun h => h.stack == st)).map Hold.bytes)
  + sumNat (s.kv.quires.map (fun p => quireOn st p.2))
  + sumNat (s.kv.sources.map (fun x => if x.tier == 0 then partOn st x.slice x.bytesK x.bytesV x.kCarrying else 0))

/-- The free space of a stack (R488). -/
def stackFree (s : State) (st : Nat) : Nat := stackBytes - stackHeld s st

/-- The free HBM of a slice, and of the slices in service. -/
def sliceFree (s : State) (sl : Nat) : Nat := stackFree s (scoringStack sl) + stackFree s (carryingStack sl)
def nodeFree (s : State) : Nat := sumNat ((inService s).map (sliceFree s))

/-- Take space of one stack. -/
def takeHold (s : State) (k : HoldKind) (id st bytes : Nat) : State :=
  if bytes = 0 then s else { s with holds := s.holds ++ [{ kind := k, id := id, stack := st, bytes := bytes }] }

/-- Take space in equal parts from the carrying stacks of the slices in service (R488). -/
def takeSpread (s : State) (k : HoldKind) (id bytes : Nat) : State :=
  let l := inService s
  l.foldl (fun t sl => takeHold t k id (carryingStack sl) (ceilDiv bytes l.length)) s

/-- Whether the carrying stacks in service have room for equal parts. -/
def spreadRoom (s : State) (bytes : Nat) : Bool :=
  let l := inService s
  !l.isEmpty && l.all (fun sl => decide (ceilDiv bytes l.length ≤ stackFree s (carryingStack sl)))

/-- Put bytes of a stack under clearing; the id names the clearing (R445). -/
def startClear (s : State) (id st bytes : Nat) : State := takeHold s .clearing id st bytes

/-- Free what a holder has taken: its space goes under clearing. -/
def freeHold (s : State) (k : HoldKind) (id : Nat) : Nat × State :=
  let (cid, s) := newId s
  (cid, { s with holds := s.holds.map (fun h => if h.kind == k && h.id == id then { h with kind := .clearing, id := cid } else h) })

/-- Bytes that a holder has on a stack. -/
def heldOn (s : State) (k : HoldKind) (id st : Nat) : Nat :=
  sumNat ((s.holds.filter (fun h => h.kind == k && h.id == id && h.stack == st)).map Hold.bytes)

/-- Change what a holder has on a stack: it takes what it lacks, and what it no longer needs goes under clearing. -/
def resizeHold (s : State) (k : HoldKind) (id st bytes : Nat) : State :=
  let have_ := heldOn s k id st
  if have_ == bytes then s
  else
    let (cid, s) := newId s
    let s := { s with holds := s.holds.filter (fun h => !(h.kind == k && h.id == id && h.stack == st)) }
    startClear (takeHold s k id st bytes) cid st (have_ - bytes)

/-- MiB under clearing (R449 clear_pending_mib). -/
def clearingMib (s : State) : Nat :=
  ceilDiv (sumNat ((s.holds.filter (fun h => h.kind == .clearing)).map Hold.bytes)) (2 ^ 20)

/-- Put the space of a Quire under clearing. -/
def clearQuireSpace (s : State) (sl k v : Nat) (kCar : Bool) : State :=
  let (cid, s) := newId s
  let s := startClear s cid (if kCar then carryingStack sl else scoringStack sl) k
  startClear s cid (carryingStack sl) v

/-! ## Holdings -/

/-- HBM bytes of one Sheet: halves with extensions, metadata, Deckle place (R261, R262). -/
def sheetHbm (sh : Sheet) : Nat := sheetK sh + sheetV sh + 256 + 128

/-- A tenant's Quires. -/
def tenantQuires (s : State) (t : Nat) : List (Nat × Quire) := s.kv.quires.filter (fun p => p.2.tenant == t)

def sheetSum (s : State) (qk : Nat) (f : Sheet → Nat) : Nat := sumNat ((quireSheets s qk).map (fun p => f p.2))

/-- Bytes that an index reserves (R201): codes and norms, re-rank vectors, and one copy of the codebook and the centroids. -/
def vindexBytes (s : State) (i : Nat) : Nat × Nat × Nat :=
  let c := rd s (K.vindexCapacity i)
  let d := rd s (K.vindexDim i)
  let w := if rd s (K.vindexRerankFormat i) == 3 then 1 else 2
  (c * (rd s (K.vindexSubquantisers i) + 16), if on s (K.vindexRerankStore i) then c * d * w else 0, 512 * d + 2 * d * rd s (K.vindexLists i))

/-- The bytes reserved for the entries, in whole MiB. -/
def vindexEntryBytes (s : State) (i : Nat) : Nat :=
  let (a, b, _) := vindexBytes s i
  ceilDiv (a + b) (2 ^ 20) * 2 ^ 20

/-- The reservation of an index: its entries, the codebook and the centroids. -/
def vindexReserve (s : State) (i : Nat) : Nat := vindexEntryBytes s i + (vindexBytes s i).2.2

/-- Whether the storage of an index is reserved. -/
def vindexHeld (s : State) (i : Nat) : Bool := s.holds.any (fun h => h.kind == .vindex && h.id == i)

/-- Bytes of the vector index reservations, filter handles and extents of a tenant (R201, R208). -/
def tenantHolds (s : State) (t : Nat) : Nat :=
  sumNat (((upFrom 0 128).filter (fun i => vindexHeld s i && rd s (K.vindexTenant i) == t)).map (vindexReserve s))
  + sumNat ((s.holds.filter (fun h => h.kind == .filter && (match tget? s.srch.filters h.id with | some f => f.tenant == t | none => false))).map
      Hold.bytes)
  + sumNat (s.comp.extents.map (fun p => if p.2.state != 0 && p.2.owner == t then p.2.blocks * 65536 else 0))

def holdingHbm (s : State) (t : Nat) : Nat :=
  sumNat ((tenantQuires s t).map (fun p =>
    if p.2.tier == 0 then sheetSum s p.1 sheetHbm else 128 * (quireSheets s p.1).length))
  + tenantHolds s t

def holdingFelt (s : State) (t : Nat) : Nat :=
  sumNat ((tenantQuires s t).map (fun p => if p.2.tier == 1 then sheetSum s p.1 (fun h => sheetK h + sheetV h + 256) else 0))

/-- KiB that a Quire and its move hold in tier 2 or 3. -/
def quireKib (tier : Nat) (q : Quire) : Nat :=
  (if q.tier == tier then q.kib else 0)
  + (match q.move with | some m => if m.target == tier then m.kib else 0 | none => 0)

def holdingVat (s : State) (t : Nat) : Nat := sumNat ((tenantQuires s t).map (fun p => quireKib 2 p.2)) * 1024
def holdingSwap (s : State) (t : Nat) : Nat := sumNat ((tenantQuires s t).map (fun p => quireKib 3 p.2)) * 1024

def mib (n : Nat) : Nat := n * 2 ^ 20

/-- Whether a limited holding exceeds its quota (R261). -/
def overQuotaNow (s : State) (t : Nat) : Bool :=
  decide (mib (rd s (K.hbmQuotaMib t)) < holdingHbm s t + holdingFelt s t)
  || decide (mib (rd s (K.feltQuotaMib t)) < holdingFelt s t)
  || decide (mib (rd s (K.vatQuotaMib t)) < holdingVat s t)

/-- The quota test of a reservation (R262). -/
def quotaAllows (s : State) (t bytes : Nat) : Bool :=
  !overQuotaNow s t && decide (holdingHbm s t + holdingFelt s t + bytes ≤ mib (rd s (K.hbmQuotaMib t)))

/-! ## Vat regions -/

/-- Runs of a Vat region that images of a tier take, start and KiB: Quires homed or moving there, and sources that earlier references
still hold (R258 step 5). -/
def imagesIn (s : State) (v tier : Nat) : List (Nat × Nat) :=
  s.kv.quires.flatMap (fun p =>
    (if p.2.tier == tier && p.2.region == v then [(p.2.start, p.2.kib)] else [])
    ++ (match p.2.move with | some m => if m.target == tier && m.region == v then [(m.start, m.kib)] else [] | none => []))
  ++ s.kv.sources.filterMap (fun x => if x.tier == tier && x.region == v then some (x.start, x.kib) else none)

/-- KiB of Pressed Quires in a Vat region. -/
def regionUsed (s : State) (v : Nat) : Nat := sumNat ((imagesIn s v 2).map Prod.snd)

/-- Whether a region holds a Quire, pressed or swapped. -/
def regionHolds (s : State) (v : Nat) : Bool := !(imagesIn s v 2).isEmpty || !(imagesIn s v 3).isEmpty

/-- The swap areas of enabled tenants in a region, start and KiB. -/
def swapAreas (s : State) (v : Nat) : List (Nat × Nat) :=
  (upFrom 0 256).filterMap (fun t =>
    if on s (K.tenantEnable t) && rd s (K.swapRegion t) == v && rd s (K.swapMib t) != 0
    then some (rd s (K.swapOffsetMib t) * 1024, rd s (K.swapMib t) * 1024) else none)

def regionFreeKib (s : State) (v : Nat) : Nat :=
  if on s (K.vatRegionEnable v) then rd s (K.vatLengthMib v) * 1024 - regionUsed s v - sumNat ((swapAreas s v).map Prod.snd) else 0

/-- A run in order of its start. -/
def insRun (x : Nat × Nat) : List (Nat × Nat) → List (Nat × Nat)
  | [] => [x]
  | y :: r => if x.1 < y.1 then x :: y :: r else y :: insRun x r

/-- The gaps from a place on up to an end, between runs in order of start: start and KiB. -/
def gapsOf (hi : Nat) : Nat → List (Nat × Nat) → List (Nat × Nat)
  | at_, [] => if at_ < hi then [(at_, hi - at_)] else []
  | at_, r :: rest => (if at_ < r.1 then [(at_, min r.1 hi - at_)] else []) ++ gapsOf hi (max at_ (r.1 + r.2)) rest

/-- The start of some KiB between two places, clear of runs: any that fits, chosen by a free value. -/
def fitStart (lo hi kib i : Nat) (runs : List (Nat × Nat)) : Option Nat :=
  let g := (gapsOf hi lo (runs.foldl (fun a r => insRun r a) [])).filter (fun x => decide (kib ≤ x.2))
  let total := sumNat (g.map (fun x => x.2 - kib + 1))
  if total = 0 then none
  else (g.foldl (fun (a : Nat × Option Nat) x =>
    match a.2 with
    | some _ => a
    | none => if a.1 < x.2 - kib + 1 then (0, some (x.1 + a.1)) else (a.1 - (x.2 - kib + 1), none)) (Config.freeNat i % total, none)).2

/-- The first serving region with room for some KiB, in ascending order, and their start. -/
def vatRoom (s : State) (kib : Nat) : Option (Nat × Nat) :=
  firstSome ((upFrom 0 16).map (fun v =>
    if on s (K.vatRegionEnable v) && rd s (K.vatState v) == 1 then
      (fitStart 0 (rd s (K.vatLengthMib v) * 1024) kib s.free (imagesIn s v 2 ++ imagesIn s v 3 ++ swapAreas s v)).map (fun x => (v, x))
    else none))

/-- The start of some KiB in a tenant's swap area (R256). -/
def swapRoom (s : State) (t kib : Nat) : Option Nat :=
  let r := rd s (K.swapRegion t)
  let lo := rd s (K.swapOffsetMib t) * 1024
  if decide (r < 16) && rd s (K.vatState r) == 1 then
    fitStart lo (lo + rd s (K.swapMib t) * 1024) kib s.free (imagesIn s r 2 ++ imagesIn s r 3)
  else none

/-! ## Felt -/

def feltBlock : Nat := 2 ^ 20

/-- The shared pool of a slice: the blocks that no enable owns and that are not retired (R53). -/
def feltPool (s : State) (sl : Nat) : Nat := (freeFelt s sl).length * feltBlock

/-- Felt of the shared pool that shares hold now. -/
def feltTaken (s : State) (sl : Nat) : Nat :=
  sumNat ((s.att.shares.filter (fun x => x.slice == sl)).map Share.felt)

/-- Felt home room of a slice: blocks claimed by felt_home_enable less the Quires homed or moving there. -/
def feltHomeFree (s : State) (sl : Nat) : Nat :=
  ((upFrom 0 48).filter (fun b => rd s (K.feltBlockOwner sl b) == K.feltHomeEnable)).length * feltBlock
  - sumNat ((sliceQuires s sl).map (fun p =>
      (if p.2.tier == 1 then sheetSum s p.1 (fun h => sheetK h + sheetV h + 256) else 0)
      + (match p.2.move with | some m => if m.target == 1 then m.bytesK + m.bytesV else 0 | none => 0)))
  - sumNat (s.kv.sources.map (fun x => if x.tier == 1 && x.slice == sl then x.bytesK + x.bytesV else 0))

/-! ## Room for a Quire (R184, R185) -/

/-- Where a slice puts the K halves of a new Quire: carrying or not, or no room. -/
def placeIn (s : State) (sl k v : Nat) : Option Bool :=
  if rd s (K.sliceDuty sl) == 1 then none
  else
    let mode := gv s K.kPlacement
    let sc := stackFree s (scoringStack sl) - mib (gv s K.scoringReserveMib)
    let ca := stackFree s (carryingStack sl)
    if mode != 1 && decide (k ≤ sc) && decide (v ≤ ca) then some false
    else if mode == 2 then none
    else if decide (k + v ≤ ca) && !(mode == 0 && decide (k ≤ sc)) then some true
    else none

/-- The slice of a new Quire and where its K halves go (R184). entry: whether a slice has room for its entry and record (R248). -/
def placeQuire (s : State) (entry : Nat → Bool) (ream layer head q k v : Nat) : Option (Nat × Bool) :=
  let l := inService s
  let n := l.length
  if n = 0 then none
  else
    let i := (ream + layer + head + q) % n
    firstSome ((upFrom 0 n).map (fun j =>
      let sl := nth l ((i + j) % n) 0
      if entry sl then (placeIn s sl k v).map (fun b => (sl, b)) else none))

end Sys2Proof.Machine
end

