-- ==== Sys2Proof/Machine/Mem.lean ====
section
/-! DEFINITION. Host-visible memory (R286 to R291, R354, R356): the DPA space, which blocks are mapped and where, reads
and writes by the node and by the host, bias and poison. A cleared byte reads 0x00 (R445). -/

namespace Sys2Proof.Machine

/-- One byte of the DPA space; an unlisted address reads as cleared memory. -/
def Mem.get (m : List Host.Cell) (a : Nat) : Byte := tget m a 0

/-- Write one byte, keeping the canonical form. -/
def Mem.set (m : List Host.Cell) (a : Nat) (b : Byte) : List Host.Cell := tsetD m a b 0

/-- Bytes a, a + 1, .. of the DPA space. -/
def Mem.read (m : List Host.Cell) (a n : Nat) : List Byte := (upFrom a n).map (Mem.get m)

/-- Write bytes from an address on. -/
def Mem.write : List Host.Cell → Nat → List Byte → List Host.Cell
  | m, _, [] => m
  | m, a, b :: r => Mem.write (Mem.set m a b) (a + 1) r

/-- The canonical form of the memory: addresses strictly rising, and no entry 0x00. -/
def Mem.wf (m : List Host.Cell) : Bool := twf m && m.all (fun c => c.2 != 0)

/-- The bytes of a block range cleared. -/
def Mem.clear (m : List Host.Cell) (a n : Nat) : List Host.Cell := m.filter (fun c => decide (c.1 < a) || decide (a + n ≤ c.1))

def setCells (s : State) (m : List Host.Cell) : State := { s with mem := { s.mem with cells := m } }

def blockBytes : Nat := 65536

/-- The mapping that holds a DPA. -/
def mapAt (s : State) (dpa : Nat) : Option Mapped :=
  s.mem.maps.find? (fun m => decide (m.base ≤ dpa) && decide (dpa < m.base + m.blocks * blockBytes))

/-- Whether a DPA is mapped and serves: a run that is being unmapped still serves until its snoops are answered (R290). -/
def mappedAt (s : State) (dpa : Nat) : Bool := (mapAt s dpa).isSome

/-- The stack of a mapped DPA (R354: slice 0xF spreads block b over the slices, b mod their count). -/
def stackOf (m : Mapped) (dpa : Nat) : Nat :=
  let b := (dpa - m.base) / blockBytes
  let sl := if m.slice == 0xF then nth m.slices (b % (max 1 m.slices.length)) 0 else m.slice
  if m.stackKind == 1 then scoringStack sl else carryingStack sl

/-- Whether a block is in host bias. -/
def inHostBias (s : State) (dpa : Nat) : Bool := has s.mem.hostBias (dpa / blockBytes)

/-- Whether a line is poisoned, by itself or with its block (R383). -/
def linePoisoned (s : State) (dpa : Nat) : Bool := has s.mem.poison (dpa / 64) || has s.mem.poisonBlocks (dpa / blockBytes)

/-- The count of a stack's line table. -/
def linesObj (st : Nat) : Nat := if st % 2 == 0 then K.poisonLinesScoring (st / 2) else K.poisonLinesCarrying (st / 2)

/-- A poisoned line leaves its table. -/
def cleanLine (s : State) (line : Nat) : State :=
  let k := match mapAt s (line * 64) with | some m => linesObj (stackOf m (line * 64)) | none => linesObj 0
  wr { s with mem := { s.mem with poison := without s.mem.poison line } } k (rd s k - 1)

/-- A block leaves its table. -/
def cleanBlock (s : State) (b : Nat) : State :=
  let k := K.poisonBlocksUsed (match mapAt s (b * blockBytes) with | some m => stackOf m (b * blockBytes) / 2 | none => 0)
  wr { s with mem := { s.mem with poisonBlocks := without s.mem.poisonBlocks b } } k (rd s k - 1)

/-- The poison of a slice's stacks is cleared with its lines (R383, R445). -/
def clearPoison (s : State) (sl : Nat) : State :=
  let elsewhere (dpa : Nat) : Bool := match mapAt s dpa with | some m => stackOf m dpa / 2 != sl | none => false
  let s := { s with rel := { s.rel with plines := s.rel.plines.filter (fun p => p.1 / 2 != sl),
                                        pblocks := s.rel.pblocks.filter (fun p => p.1 / 2 != sl) },
                    mem := { s.mem with poison := s.mem.poison.filter (fun l => elsewhere (l * 64)),
                                        poisonBlocks := s.mem.poisonBlocks.filter (fun b => elsewhere (b * blockBytes)) } }
  wr (wr (wr s (K.poisonLinesScoring sl) 0) (K.poisonLinesCarrying sl) 0) (K.poisonBlocksUsed sl) 0

/-- Lines that are written whole are noted, and their poison is cleared (R383). -/
def wroteLines (s : State) (ls : List Nat) : State :=
  (s.mem.poison.filter (has ls)).foldl cleanLine
    { s with mem := { s.mem with wroteAt := s.tm.ec, wrote := (if s.mem.wroteAt == s.tm.ec then s.mem.wrote else []) ++ ls } }

/-- Whether a line has been written whole in this ec. -/
def justWritten (s : State) (line : Nat) : Bool := s.mem.wroteAt == s.tm.ec && has s.mem.wrote line

/-- Blocks that a run lays on each stack, counted without walking the run. -/
def runOn (m : Mapped) (st : Nat) : Nat :=
  if m.slice == 0xF then
    let n := max 1 m.slices.length
    sumNat ((upFrom 0 n).map (fun i =>
      let sl := nth m.slices i 0
      if st == (if m.stackKind == 1 then scoringStack sl else carryingStack sl) then (m.blocks + n - 1 - i) / n else 0))
  else if st == (if m.stackKind == 1 then scoringStack m.slice else carryingStack m.slice) then m.blocks else 0

/-- Whether every stack of a run has room for it. -/
def runRoom (s : State) (m : Mapped) : Bool :=
  (upFrom 0 8).all (fun st => runOn m st == 0 || decide (runOn m st * blockBytes ≤ stackFree s st))

/-- Take the space and map the run, by counts. -/
def mapBlocks (s : State) (m : Mapped) (k : HoldKind) (id : Nat) : State :=
  let s := (upFrom 0 8).foldl (fun t st => takeHold t k id st (runOn m st * blockBytes)) s
  { s with mem := { s.mem with maps := s.mem.maps ++ [m] } }

/-- Unmap a run: its bytes are cleared before reuse, its bias bits and poison go. -/
def unmapRun (s : State) (m : Mapped) : State :=
  let n := m.blocks * blockBytes
  let s := (s.mem.poison.filter (fun l => decide (m.base / 64 ≤ l) && decide (l < (m.base + n) / 64))).foldl cleanLine s
  let s := (s.mem.poisonBlocks.filter (fun b => decide (m.base / blockBytes ≤ b) && decide (b < m.base / blockBytes + m.blocks))).foldl cleanBlock s
  { s with mem := { s.mem with
      maps := s.mem.maps.filter (fun x => !(x == m)), cells := Mem.clear s.mem.cells m.base n,
      hostBias := s.mem.hostBias.filter (fun b => decide (b < m.base / blockBytes) || decide (m.base / blockBytes + m.blocks ≤ b)) } }

/-- The 64-byte lines that a range touches, by number. -/
def linesOf (a n : Nat) : List Nat := if n = 0 then [] else upFrom (a / 64) ((a + n - 1) / 64 - a / 64 + 1)

/-- Whether the CXL link is up. -/
def linkUp (s : State) : Bool := rd s K.cxlModeNow != 0

/-- One line as the node reads it, and whether it is poisoned (R288, R289): a host-bias line is asked from the host first, and what the host
returns is used; else the node's own memory. -/
def nodeLine (s : State) (line : Nat) : State × List Byte × Bool :=
  let own := (Mem.read s.mem.cells (line * 64) 64, linePoisoned s (line * 64))
  if inHostBias s (line * 64) then
    let s := bump s K.hostBiasLinesRead 1
    if !linkUp s then (s, own)
    else
      let (i, s) := fresh (emit s (.rdCurr line))
      match Config.hostLine i line with
      | some l => (s, padBytes 64 l, false)
      | none => (s, own)
  else (s, own)

/-- A node read of a range: the bytes, and whether a line of it is poisoned. -/
def nodeRead (s : State) (a n : Nat) : State × List Byte × Bool :=
  let r := (linesOf a n).foldl (fun (x : State × List Byte × Bool) l =>
    let (t, b, bad) := nodeLine x.1 l
    (t, x.2.1 ++ b, x.2.2 || bad)) (s, [], false)
  (r.1, (r.2.1.drop (a % 64)).take n, r.2.2)

/-- The lines that lie wholly in a range. -/
def wholeLines (a n : Nat) : List Nat := (linesOf a n).filter (fun l => decide (a ≤ l * 64) && decide (l * 64 + 64 ≤ a + n))

/-- A node write (R288): ownership of each host-bias line is taken first. -/
def nodeWrite (s : State) (a : Nat) (data : List Byte) : State :=
  let s := (linesOf a data.length).foldl (fun t l => if inHostBias t (l * 64) && linkUp t then emit t (.own l) else t) s
  wroteLines (setCells s (Mem.write s.mem.cells a data)) (wholeLines a data.length)

/-- The DPA of a host physical address (R287). -/
def hpaToDpa (s : State) (hpa : Nat) : Option Nat :=
  firstSome (s.host.hdm.map (fun p =>
    if p.2.commit && decide (p.2.hpa ≤ hpa) && decide (hpa < p.2.hpa + p.2.size) then some (hpa - p.2.hpa + p.2.dpa) else none))

end Sys2Proof.Machine
end

