-- ==== Sys2Proof/Machine/Wire.lean ====
section
/-! DEFINITION. What a link carries (R315 to R318): control blocks, and the flits of a packet with their trailers. -/

namespace Sys2Proof.Machine

/-! ## Control blocks (R316) -/

/-- CRC-32C over bits [255:32] of a block: its bytes 4 to 31. -/
def blockCrc (w : Nat) : Nat := crc32c ((toBytes 32 w).drop 4)

/-- A block of a type whose crc field is set. -/
def sealBlock (w : Nat) : Nat := w + blockCrc w

/-- Whether a block is of a type and its CRC passes. -/
def blockOk (type w : Nat) : Bool := bits w 248 8 == type && bits w 0 32 == blockCrc w

/-- A TIME block as the link carries it. -/
def timeBlockWord (b : TimeBlock) : Nat :=
  sealBlock (packBits [(32, 0), (64, 0), (32, b.leadTerm), (16, b.node), (32, b.turnaroundPs), (64, b.ht), (8, b.hops), (8, 0x01)])

/-- The fields of a TIME block. -/
def timeBlockFrom (w : Nat) : TimeBlock :=
  { hops := bits w 240 8, ht := bits w 176 64, turnaroundPs := bits w 144 32, node := bits w 128 16, leadTerm := bits w 96 32 }

/-- A LINK block as the link carries it. -/
def linkBlockWord (b : LinkBlock) : Nat :=
  sealBlock (packBits [(32, 0), (148, 0), (4, b.widthOffer), (8, b.goodLanes), (32, b.herdId), (8, b.link), (16, b.node), (8, 0x02)])

/-- The fields of a LINK block. -/
def linkBlockFrom (w : Nat) : LinkBlock :=
  { node := bits w 232 16, link := bits w 224 8, herdId := bits w 192 32, goodLanes := bits w 184 8, widthOffer := bits w 180 4 }

/-! ## Flits (R317, R318) -/

/-- Even parity of the 64 bits of a word. -/
def parity64 (w : Nat) : Nat := (upFrom 0 64).foldl (fun a i => a ^^^ bits w i 1) 0

/-- The parity field of a flit's 248 bytes: bit i for 64-bit word i. -/
def flitParity (body : List Byte) : Nat :=
  sumNat ((upFrom 0 31).map (fun i => parity64 (ofBytes ((body.drop (8 * i)).take 8)) * 2 ^ i))

/-- The trailer of a flit; bad: its crc is inverted. -/
def trailer (body : List Byte) (last bad : Bool) : List Byte :=
  let c := crc32c body
  toBytes 8 (packBits [(31, flitParity body), (1, b2n last), (32, if bad then c ^^^ 0xFFFFFFFF else c)])

/-- Whether a flit's crc and parity hold. -/
def flitOk (f : List Byte) : Bool :=
  let body := f.take 248
  let t := ofBytes (f.drop 248)
  f.length == 256 && bits t 32 32 == crc32c body && bits t 0 31 == flitParity body

/-- Whether a flit says that it is its packet's last. -/
def flitLast (f : List Byte) : Bool := bitB (ofBytes (f.drop 248)) 31

/-- A packet's header (R318). -/
def headerWord (p : Packet) : Nat :=
  packBits [(72, 0), (7, p.hopsLeft), (1, b2n p.ce), (40, p.remoteOffset), (32, p.key), (24, p.offset), (24, p.lengthM1), (16, p.msgId),
    (4, p.kind), (4, p.vl), (16, p.src), (16, p.dst)]

/-- Payload bytes of a packet of a message: min(960, length_m1 + 1 - offset). -/
def packetBytes (lengthM1 offset : Nat) : Nat := min 960 (lengthM1 + 1 - offset)

/-- Flits that a header and n bytes of payload need. -/
def flitsFor (n : Nat) : Nat := ceilDiv (32 + n) 248

/-- The flits of a packet. Bytes of a last flit after the payload are free values. A packet whose crc was found wrong on the way
carries its last flit with the crc inverted (R317). -/
def packetFlits (p : Packet) : List (List Byte) :=
  let all := toBytes 32 (headerWord p) ++ p.payload
  let body := all ++ (upFrom 0 (248 * p.flits - all.length)).map Config.flitPad
  (upFrom 0 p.flits).map (fun i =>
    let b := (body.drop (248 * i)).take 248
    b ++ trailer b (i + 1 == flitsFor (packetBytes p.lengthM1 p.offset)) (!p.intact && i + 1 == p.flits))

/-- The packet that flits spell. -/
def packetFrom (l : List (List Byte)) (intact : Bool) : Packet :=
  let body := l.flatMap (fun f => f.take 248)
  let h := ofBytes (body.take 32)
  { dst := bits h 240 16, src := bits h 224 16, vl := bits h 220 4, kind := bits h 216 4, msgId := bits h 200 16, lengthM1 := bits h 176 24,
    offset := bits h 152 24, key := bits h 120 32, remoteOffset := bits h 80 40, ce := bitB h 79, hopsLeft := bits h 72 7,
    flits := l.length, intact := intact, payload := (body.drop 32).take (packetBytes (bits h 176 24) (bits h 152 24)) }

/-- Whether the flits end where their trailers say: last in the last flit alone. -/
def framed (l : List (List Byte)) : Bool :=
  match l.reverse with
  | [] => false
  | f :: r => flitLast f && r.all (fun g => !flitLast g)

end Sys2Proof.Machine
end

