-- ==== Sys2Proof/Machine/Time.lean ====
section
/-! DEFINITION. Herd Time (R59 to R68): time symbols, the choice of the upstream link, the time states, the Lead's
sources, and the passing of one engine clock. -/

namespace Sys2Proof.Machine

/-- The outcome type of every meaning. -/
abbrev Outc := Host.Outcome State Fault Refusal

/-! ## Entries (R72) -/

def enPhase (e : Nat) : Nat := bits e 37 27
def enAction (e : Nat) : Nat := bits e 33 4
def enClass (e : Nat) : Nat := bits e 30 3
def enParam (e : Nat) : Nat := bits e 22 8
def enRepeat (e : Nat) : Nat := bits e 12 10
def enInterval (e : Nat) : Nat := bits e 0 12

/-- The last occurrence of an entry, ns from the step's start. -/
def enLast (e : Nat) : Nat := enPhase e + enRepeat e * enInterval e * 10

/-- Key of entry k (1 to 64) of table sl. -/
def entryKey (sl k : Nat) : Nat := keyOf (0x1210 + sl) k

/-- The entries of a table as written, entry 1 first. -/
def tableOf (s : State) (sl : Nat) : List Nat := (upFrom 1 64).map (fun k => rd s (entryKey sl k))

/-- The entries that govern the running table (R34). -/
def tableGov (s : State) (sl : Nat) : List Nat := (upFrom 1 64).map (fun k => gv s (entryKey sl k))

/-- How many occurrences of an entry have fallen due at a phase (R72). -/
def dueCount (e phase : Nat) : Nat :=
  if phase < enPhase e then 0
  else if enInterval e = 0 then 1
  else min (enRepeat e + 1) ((phase - enPhase e) / (enInterval e * 10) + 1)

/-- Phase of the step that runs, ns. -/
def phaseNow (s : State) : Nat := now s - s.tm.stepStart

/-- Account as past, without a run and without an overrun, for the occurrences that fell due while the schedules stood still in
ACQUIRING or LOST (R64). DESIGN CHOICE (log entry 122): none of them runs late, and none counts as skipped under R76, since no
occurrence was running. -/
def skipMissed (s : State) : State :=
  { s with sch := { s.sch with done := s.sch.running.foldl (fun d sl =>
      (((upFrom 0 64).zip (tableGov s sl)).filter (fun p => enAction p.2 != 0)).foldl (fun d p =>
        tset d (sl * 64 + p.1) (max (tget d (sl * 64 + p.1) 0) (dueCount p.2 (phaseNow s)))) d) s.sch.done } }

/-! ## Time symbols -/

/-- Picoseconds of a number of engine clocks. -/
def ecPs (n : Nat) : Nat := n * 10000 / 33

/-- Links in state 0x2 (up): the trained links. -/
def upLinks (s : State) : List Nat := (upFrom 0 36).filter (fun l => rd s (K.linkState l) == 2)

/-- Whether the node takes Herd Time from its links: a member or spare whose herd_enable reads 1 (R65). -/
def followsLinks (s : State) : Bool := on s K.herdEnable && (rd s K.herdRole == 2 || rd s K.herdRole == 3) && !isLead s

/-- Whether the node holds Herd Time that it may pass on (R60). -/
def passesTime (s : State) : Bool := htRuns s && s.tm.held && rd s K.herdRole != 0

/-- Whether the node is the Lead, from which hops are counted. -/
def leads (s : State) : Bool := rd s K.herdRole == 1 || isLead s

/-- The hop count that the node sends (R60): 0 at the Lead. -/
def ownHops (s : State) : Nat := if leads s then 0 else rd s K.htHops

/-- The TIME block that a link sends (R60, R316). -/
def timeBlockOf (s : State) (link : Nat) : TimeBlock :=
  let turn := match tget? s.tm.linkRx link with | some e => ecPs (s.tm.ec - e) % 2 ^ 32 | none => 0
  if passesTime s then
    { hops := ownHops s, ht := htNs s, turnaroundPs := turn, node := myNode s, leadTerm := rd s K.leadTerm }
  else
    { hops := 0xFF, ht := localNs s % 2 ^ 63 + 2 ^ 63, turnaroundPs := turn, node := myNode s,
      leadTerm := rd s K.leadTerm }

/-- The ecs of the last symbols sent on a link, with one sent now. -/
def sentEcs (s : State) (link : Nat) : List Nat := (s.tm.ec :: tget s.tm.linkTx link []).take 4

/-- TIME_SYMBOL_SEND (R60): every trained link sends symbols, whatever the node's role and state. -/
def execTimeSymbolSend (link : Nat) (s : State) : Outc :=
  if rd s (K.linkState link) == 2 && decide (link < 36) then
    let s := emit s (.control link (timeBlockWord (timeBlockOf s link)))
    .next { s with tm := { s.tm with linkTx := tset s.tm.linkTx link (sentEcs s link) } }
  else .next s

/-- The upstream link (R61): lowest received hop count, then lowest link number, among trained links. -/
def upstreamOf (s : State) : Option (Nat × Nat) :=
  let c := (upLinks s).filterMap (fun l =>
    match tget? s.tm.linkHops l with | some h => if h == 0xFF then none else some (h, l) | none => none)
  c.foldl (fun a x => match a with
    | none => some x
    | some y => if x.1 < y.1 then some x else some y) none

/-- Correct Herd Time by an offset in ns (R63): forward at once, backward only by slewing. -/
def correctTime (s : State) (off : Int) : State :=
  if 0 ≤ off then { s with tm := { s.tm with ht := s.tm.ht + off.toNat * 33, slewFwd := 0, slewBack := 0 } }
  else { s with tm := { s.tm with slewFwd := 0, slewBack := (-off).toNat * 33 } }

/-- Slew both ways, as LOCKED does (R64). -/
def slewTime (s : State) (off : Int) : State :=
  if 0 ≤ off then { s with tm := { s.tm with slewFwd := off.toNat * 33, slewBack := 0 } }
  else { s with tm := { s.tm with slewFwd := 0, slewBack := (-off).toNat * 33 } }

def setLockRun (s : State) (n : Nat) : State := { s with tm := { s.tm with lockRun := n } }

/-- Whether an offset lies within ±20 ns (R62). -/
def within20 (off : Int) : Bool := decide (-20 ≤ off) && decide (off ≤ 20)

/-- A symbol of the upstream link moves the time state (R63, R64). -/
def followSymbol (s : State) (value : Nat) : State :=
  if !s.tm.held then
    let s := { s with tm := { s.tm with ht := value * 33, held := true, lockRun := 0, slewFwd := 0, slewBack := 0 } }
    wr s K.htState 1
  else
    let off : Int := (value : Int) - (htNs s : Int)
    match rd s K.htState with
    | 1 =>
      if within20 off then
        if 64 ≤ s.tm.lockRun + 1 then skipMissed (wr (setLockRun s 0) K.htState 2) else setLockRun s (s.tm.lockRun + 1)
      else setLockRun (correctTime s off) 0
    | 2 => if within20 off then slewTime s off else wr (setLockRun (correctTime s off) 0) K.htState 1
    | 3 => if within20 off then wr s K.htState 2 else wr (setLockRun (correctTime s off) 0) K.htState 1
    | _ => wr (setLockRun (correctTime s off) 0) K.htState 1

/-- The ec of the symbol that a symbol with a turnaround answers: the newest one sent no later than the turnaround ago.
DEDUCED (log entry 121): a later one is still on its way. A turnaround of 0 answers none. -/
def answeredEc (s : State) (link turn : Nat) : Option Nat :=
  if turn == 0 then none else (tget s.tm.linkTx link []).find? (fun e => decide (turn ≤ ecPs (s.tm.ec - e)))

/-- The link's one-way delay in ps: half of the loop delay of the exchanged pair less the far end's turnaround (R61); the
delay known so far where the symbol answers none of those sent. -/
def oneWayPs (s : State) (link turn : Nat) : Nat :=
  match answeredEc s link turn with
  | some e => (ecPs (s.tm.ec - e) - turn) / 2
  | none => rd s (K.oneWayDelayPs link)

/-- Whether the node is in service at start-up's end (R452). -/
def startServes (s : State) : Bool :=
  (rd s K.herdRole == 1 && on s K.htSourceEnable) || has [2, 3, 5] (rd s K.membershipState)
  || (rd s K.herdRole == 3 && rd s K.membershipState == 7)

/-- Start states 0x3 and 0x4 follow the node's place in the Herd (R452). -/
def settleStart (s : State) : State :=
  if has [3, 4] (rd s K.nodeStartState) then wr s K.nodeStartState (if startServes s then 4 else 3) else s

/-- Send JOIN_REQUEST (R456 step 2). -/
def sendJoin (s : State) : State :=
  let r : JoinReq :=
    { src := if myNode s == 0xFFFF then 0xFFFE else myNode s, unitId := rd s K.unitId, herdId := rd s K.herdId, role := rd s K.herdRole,
      spareGroup := rd s K.spareGroup, slices := sumNat ((inService s).map (fun i => 2 ^ i)) }
  let s := bump s K.joinAttempts 1
  mgmt { s with herd := { s.herd with joinSent := true, joinAt := s.tm.ec } } (leadNode s) (.joinRequest r)

/-- A joining node that is LOCKED and has not asked yet asks. -/
def joinWhenLocked (s : State) : State :=
  if rd s K.membershipState == 1 && rd s K.htState == 2 && !s.herd.joinSent && myNode s == 0xFFFF then sendJoin s else s

/-- TIME_SYMBOL (R61 to R64, R456): a block whose CRC fails is discarded (R316). -/
def execTimeSymbol (link block : Nat) (s : State) : Outc :=
  let b := timeBlockFrom block
  if !blockOk 0x01 block || rd s (K.linkState link) != 2 || decide (36 ≤ link) then .next s
  else
    let d := oneWayPs s link b.turnaroundPs
    let s := wr s (K.oneWayDelayPs link) (d % 2 ^ 32)
    let s := { s with tm := { s.tm with linkRx := tset s.tm.linkRx link s.tm.ec,
                                        linkHops := tset s.tm.linkHops link b.hops } }
    if b.hops == 0xFF || !followsLinks s then .next s
    else
      let s := { s with tm := { s.tm with symAt := s.tm.ec } }
      match upstreamOf s with
      | none => .next s
      | some (h, l) =>
        let s := wr (wr s K.htHops (h + 1)) K.htUpstreamLink l
        if l == link then .next (joinWhenLocked (followSymbol s (b.ht + d / 1000))) else .next s

/-- HT_SYMBOL_TIMEOUT (R63): no symbol for 4,000 ns takes a LOCKED node that follows its links to HOLDOVER. -/
def execHtSymbolTimeout (s : State) : Outc :=
  if followsLinks s && rd s K.htState == 2 && passed s s.tm.symAt 4000 then
    .next { wr s K.htState 3 with tm := { s.tm with holdAt := s.tm.ec } }
  else .next s

/-- HT_LOST (R63, R64, R487): a Lead never reports LOST (R67). -/
def execHtLost (s : State) : Outc :=
  if followsLinks s && rd s K.htState == 3 && passed s s.tm.holdAt (gv s K.htHoldoverNs) then
    .next (event (wr s K.htState 4) 0x12 1 nodeSlice 2
      (packBits [(8, rd s K.htUpstreamLink), (8, rd s K.htHops)]))
  else .next s

/-- Whether the node is a Lead on HT_REF whose reference enable reads 1 (R66, R67), or a deputy that has taken over. -/
def onRef (s : State) : Bool :=
  rd s K.htSource == 2 && on s K.htRefEnable && (on s K.htSourceEnable || (isLead s && rd s K.herdRole == 2))

/-- HT_REF_EDGE (R66, R67). -/
def execHtRefEdge (s : State) : Outc :=
  if !onRef s then .next s
  else
    let s := { s with tm := { s.tm with refAt := s.tm.ec, refSeen := true } }
    if !s.tm.held then
      let v := gv s K.htRefSeconds * 1000000000
      .next (wr { s with tm := { s.tm with ht := v * 33, held := true, refHt := v, slewFwd := 0, slewBack := 0 } } K.htState 2)
    else
      let n := htNs s
      let sec := ((n + 500000000) / 1000000000) * 1000000000
      let s := slewTime s ((sec : Int) - (n : Int))
      .next (wr { s with tm := { s.tm with refHt := n } } K.htState 2)

/-- HT_REF_MISSING (R66, R67, R487). -/
def execHtRefMissing (s : State) : Outc :=
  if onRef s && s.tm.refSeen && rd s K.htState == 2 && passed s s.tm.refAt 1100000000 then
    .next (event (wr s K.htState 3) 0x12 2 nodeSlice 1 s.tm.refHt)
  else .next s

/-- One engine clock of Herd Time: 10 units of 1/33 ns, with at most one unit in 2,000 clocks slewed (50 ppm, R63). -/
def tickTime (t : TimeSt) : TimeSt :=
  let t := { t with ec := t.ec + 1 }
  if !t.held then t
  else if t.ec % 2000 == 0 && 0 < t.slewFwd then { t with ht := t.ht + 11, slewFwd := t.slewFwd - 1 }
  else if t.ec % 2000 == 0 && 0 < t.slewBack then { t with ht := t.ht + 9, slewBack := t.slewBack - 1 }
  else { t with ht := t.ht + 10 }

/-- One engine clock: time passes, and a commit of the store that ran ends (R36). -/
def clock (s : State) : State := endCommit { s with tm := tickTime s.tm }

end Sys2Proof.Machine
end

