-- ==== Sys2Proof/Machine/Sched.lean ====
section
/-! DEFINITION. Schedule tables (R72 to R76): entries, occurrences, the check of a table, spans and the length of
the next step. -/

namespace Sys2Proof.Machine

/-! ## The check of a table (R75) -/

/-- The reference length of R75. -/
def refLength (s : State) : Nat :=
  if rd s K.currentStep != 0 then
    match s.tm.next with
    | some a => if a.step == rd s K.currentStep + 1 then a.start - s.tm.stepStart
                else if s.tm.prevLen = 0 then rd s K.stepLengthNs else s.tm.prevLen
    | none => if s.tm.prevLen = 0 then rd s K.stepLengthNs else s.tm.prevLen
  else rd s K.stepLengthNs

/-- Keys of the used entries, with the entry. -/
def usedEntries (sl : Nat) (t : List Nat) : List (Nat × Nat) :=
  ((upFrom 1 64).zip t).filterMap (fun p => if enAction p.2 = 0 then none else some (entryKey sl p.1, p.2))

/-- The first entry out of place: a used one after an unused one, or out of ascending phase. -/
def outOfPlace (sl : Nat) : List Nat → Nat → Nat → Bool → Option Nat
  | [], _, _, _ => none
  | e :: r, k, last, gap =>
    if enAction e = 0 then outOfPlace sl r (k + 1) last true
    else if gap || decide (enPhase e < last) then some (entryKey sl k)
    else outOfPlace sl r (k + 1) (enPhase e) false

/-- Occurrences of a pair of actions (of a class where cl is given), as (time, entry order, is the open action, key). -/
def pairOccs (l : List (Nat × Nat)) (op cl : Nat) (anyClass : Bool) : List (Nat × Nat × Bool × Nat) :=
  (l.filter (fun p => (enAction p.2 == op || enAction p.2 == op + 1) && (anyClass || enClass p.2 == cl))).flatMap
    (fun p => (upFrom 0 (enRepeat p.2 + 1)).map (fun j =>
      (enPhase p.2 + j * enInterval p.2 * 10, p.1, enAction p.2 == op, p.1)))

/-- Insert an occurrence in order of time, then of entry. -/
def insOcc (x : Nat × Nat × Bool × Nat) : List (Nat × Nat × Bool × Nat) → List (Nat × Nat × Bool × Nat)
  | [] => [x]
  | y :: r => if x.1 < y.1 || (x.1 == y.1 && x.2.1 < y.2.1) then x :: y :: r else y :: insOcc x r

/-- The first entry out of alternation, open first. -/
def alternates : List (Nat × Nat × Bool × Nat) → Bool → Option Nat
  | [], _ => none
  | x :: r, wantOpen => if x.2.2.1 == wantOpen then alternates r (!wantOpen) else some x.2.2.2

/-- The alternation test of one pair of actions. -/
def alternation (l : List (Nat × Nat)) (op cl : Nat) (anyClass : Bool) : Option Nat :=
  alternates ((pairOccs l op cl anyClass).foldl (fun a x => insOcc x a) []) true

/-- Fail with a reason at an optional key. -/
def failAt (k : Option Nat) (reason : Nat) : Fail := k.map (fun k => (reason, k))

/-- Whether a SWEEP's param names a slot area enabled and swept by this slice (R75, R309). -/
def sweepAreaOk (s : State) (sl a : Nat) : Bool :=
  decide (a < 64) && on s (K.slotAreaEnable a) && rd s (K.areaSlice a) == sl

/-- The check of schedule_enable of a slice over its table as written (R75). claims: also the resource tests. -/
def scheduleCheck (s : State) (sl : Nat) (claims : Bool) : List Fail :=
  let t := tableOf s sl
  let u := usedEntries sl t
  let commits := u.filter (fun p => enAction p.2 == 4)
  let bad := u.find? (fun p => decide (7 < enAction p.2) || (enInterval p.2 == 0 && decide (0 < enRepeat p.2))
    || (enAction p.2 == 1 && !sweepAreaOk s sl (enParam p.2)))
  let limit := refLength s - rd s K.stepGuardNs
  [ failIf (rd s K.herdRole == 0) 0x06 K.herdRole,
    failIf (rd s K.herdRole != 0 && rd s K.htState == 0) 0x06 K.htState,
    failAt (bad.map Prod.fst) 0x01,
    failAt (outOfPlace sl t 1 0 false) 0x0D,
    (match commits with
     | [] => some (0x0D, entryKey sl 0)
     | [c] => if enRepeat c.2 > 0 then some (0x0D, c.1) else none
     | c :: d :: _ => if enRepeat c.2 > 0 then some (0x0D, c.1) else some (0x0D, d.1)),
    failAt (alternation u 6 0 true) 0x0D,
    failAt ((u.find? (fun p => decide (limit ≤ enLast p.2))).map Prod.fst) 0x0D ]
  ++ (upFrom 0 8).map (fun c => failAt (alternation u 2 c false) 0x0D)
  ++ (if claims then claimFail s (K.claim1220 sl) else [])

/-! ## Span and step length -/

/-- The value of schedule_span_ns: latest occurrence over the enabled tables as written, plus the guard (R82). -/
def spanOf (s : State) : Nat :=
  let l := ((upFrom 0 4).filter (fun sl => on s (K.scheduleEnable sl))).flatMap
    (fun sl => (usedEntries sl (tableOf s sl)).map (fun p => enLast p.2))
  if l.isEmpty then 0 else maxNat l + rd s K.stepGuardNs

/-- Recompute the span, and report it at once where it changed (R70). -/
def updateSpan (s : State) : State :=
  let v := spanOf s % 2 ^ 32
  if v == rd s K.scheduleSpanNs then s
  else
    let s := wr s K.scheduleSpanNs v
    if isLead s then { s with herd := { s.herd with spans := tset s.herd.spans (myNode s) v } }
    else if rd s K.membershipState != 0 && myNode s != 0xFFFF then mgmt s (leadNode s) (.span v) else s

/-- L of R70 and R71: the length that the Lead gives the step that runs. -/
def stepLen (s : State) : Nat :=
  let spans := (s.herd.spans.filter (fun p => s.herd.map.any (fun e => e.node == p.1))).map Prod.snd
  min (gv s K.stepMaxNs) (max (gv s K.stepLengthNs) (max (rd s K.scheduleSpanNs) (maxNat spans))
    + s.herd.stalls * gv s K.stepExtendNs)

/-! ## Occurrences -/

/-- The phase of the occurrence of entry k that runs next; none where all have run. -/
def nextPhase (s : State) (sl k : Nat) : Option Nat :=
  let e := gv s (entryKey sl k)
  let n := tget s.sch.done (sl * 64 + (k - 1)) 0
  if enAction e == 0 || decide (enRepeat e < n) then none else some (enPhase e + n * enInterval e * 10)

/-- Whether the occurrences of the same phase in earlier entries have run (R76). -/
def earlierRan (s : State) (sl k : Nat) : Bool :=
  (upFrom 1 (k - 1)).all (fun j => nextPhase s sl j != nextPhase s sl k)

/-- The entry of a running table that an occurrence command names, if an occurrence of it has fallen due and has not
run, and those of its phase in earlier entries have: schedules run in LOCKED and HOLDOVER (R64, R72, R73, R74, R76). -/
def dueEntry (s : State) (sl k action : Nat) : Option Nat :=
  let e := gv s (entryKey sl k)
  if htRuns s && has s.sch.running sl && on s (K.scheduleEnable sl) && decide (1 ≤ k) && decide (k ≤ 64)
    && enAction e == action && decide (s.tm.stepStart ≤ now s) && earlierRan s sl k
    && decide (tget s.sch.done (sl * 64 + (k - 1)) 0 < dueCount e (phaseNow s))
  then some e else none

/-- Account for an occurrence that runs: those that fell due while it was running are skipped and counted (R76). -/
def takeOccurrence (s : State) (sl k e : Nat) : State :=
  let i := sl * 64 + (k - 1)
  let due := dueCount e (phaseNow s)
  let skipped := due - tget s.sch.done i 0 - 1
  bump { s with sch := { s.sch with done := tset s.sch.done i due } } (K.sweepOverrunCount sl) skipped

/-- Whether the governing table of a slice has an entry that opens or closes a class's gate (R74). DESIGN CHOICE (log entry
123): a table written while it runs gates by its old entries until phase 0, as it runs them (R34, R75); one enabled before
its first phase 0 gates by the entries that govern then. -/
def classGated (s : State) (sl c : Nat) : Bool :=
  (tableGov s sl).any (fun e => (enAction e == 2 || enAction e == 3) && enClass e == c)

/-- Whether the gate of a class in a slice is open (R74). -/
def gateOpen (s : State) (sl c : Nat) : Bool :=
  on s (K.scheduleEnable sl) &&
  (if classGated s sl c then has s.sch.running sl && tget s.sch.gates (sl * 8 + c) false else true)

end Sys2Proof.Machine
end

