-- ==== Sys2Proof/Machine/Tickets.lean ====
section
/-! DEFINITION. Tickets: the holding tests of R143 and R359, deadlines (R77 to R81), and completions (R298 to R302,
R304). -/

namespace Sys2Proof.Machine

/-! ## Holdings of extents -/

/-- Rights that a tenant holds now in an extent: bit 1 write, bit 0 read; none of a draining grant. -/
def extentRights (e : Extent) (t : Nat) : Nat :=
  if e.state != 1 then 0
  else
    ((upFrom 0 8).zip e.grants).foldl (fun a p =>
      if gValid p.2 && gTenant p.2 == t && !e.drains.any (fun d => d.grant == p.1 && d.rights == 3 && d.tenant == t)
      then a ||| gRights p.2 else a) 0

/-- Whether a tenant's grant counts as held at all. -/
def extentHeld (e : Extent) (t : Nat) : Bool :=
  e.state == 1 && ((upFrom 0 8).zip e.grants).any (fun p =>
    gValid p.2 && gTenant p.2 == t && !e.drains.any (fun d => d.grant == p.1 && d.rights == 3 && d.tenant == t))

/-- Whether a holding of the tenant drains, for some of the rights wanted. -/
def extentDraining (e : Extent) (t want : Nat) : Bool :=
  (e.state == 2 && e.grants.any (fun g => gValid g && gTenant g == t))
  || e.drains.any (fun d => d.tenant == t && d.rights &&& want != 0)

/-- The extent in which a range wholly lies. -/
def extentOf (s : State) (a n : Nat) : Option (Nat × Extent) :=
  s.comp.extents.find? (fun p => p.2.state != 0 && p.2.state != 3 && decide (p.2.base ≤ a)
    && decide (a + n ≤ p.2.base + p.2.blocks * blockBytes))

/-- The test of an area of a ticket (R143, R359): 0 where it may be used. want: 1 read, 2 write. -/
def areaTest (s : State) (t a n align want : Nat) : Nat :=
  if a % align != 0 || n == 0 then St.bounds
  else
    match extentOf s a n with
    | none => St.bounds
    | some (_, e) =>
      if !extentHeld e t then (if extentDraining e t 3 then St.revoked else St.bounds)
      else if extentRights e t &&& want == want then St.ok
      else if extentDraining e t want then St.revoked
      else St.rights

/-- Whether an area admitted before is still held, or its drain has not ended (R359 step 3). -/
def areaAlive (s : State) (t a n want : Nat) : Bool :=
  match extentOf s a n with
  | none => false
  | some (_, e) => (extentHeld e t && extentRights e t &&& want == want) || extentDraining e t want

/-! ## Deadlines -/

/-- Deadline that a ticket gets at its admission (R79); none where it has passed. -/
def deadlineOf (s : State) (field : Nat) : Option Nat :=
  let h := gv s K.deadlineHorizonNs
  if field = 0 then some (now s + h)
  else if field ≤ now s then none
  else if now s + h < field then some (now s + h)
  else some field

/-- The sorted list with one deadline more. -/
def insDl (x : Nat × Nat × Nat) : List (Nat × Nat × Nat) → List (Nat × Nat × Nat)
  | [] => [x]
  | y :: r => if x.2.1 < y.2.1 then x :: y :: r else y :: insDl x r

/-- Arm a deadline of a work in a slice's deadline unit (R77, R78). -/
def armDl (s : State) (sl d id : Nat) : State :=
  if on s K.deadlineEnable then { s with att := { s.att with dls := insDl (sl, d, id) s.att.dls } } else s

/-- Take a work's deadline off the lists. -/
def dropDl (s : State) (id : Nat) : State :=
  { s with att := { s.att with dls := s.att.dls.filter (fun x => x.2.2 != id) } }

/-- Deadlines that a slice's list holds; 8,192 fill it. -/
def dlCount (s : State) (sl : Nat) : Nat := (s.att.dls.filter (fun x => x.1 == sl)).length

def dlFull (s : State) (sl : Nat) : Bool := decide (8192 ≤ dlCount s sl)

/-- The comparator cycle of a Herd Time in units of 1/33 ns (R77). -/
def cycleOf (units : Nat) : Nat := units / 40

/-- Whether a result that arrives now is LATE for a deadline that has not fired (R81): at or after it, or within the comparator
cycle in which it fires. -/
def lateFor (s : State) (d : Nat) : Bool := decide (cycleOf (d * 33) ≤ cycleOf s.tm.ht)

/-! ## Completions -/

/-- The bytes that a completion takes in its window (R298). -/
def completionBytes (type gapMax : Nat) : Nat := if type = 1 then ceilDiv (32 + 32 * gapMax) 64 * 64 else 64

/-- Whether a completion_addr is valid for an area (R298). -/
def completionAddrOk (s : State) (area type addr gapMax : Nat) : Bool :=
  addr % 64 == 0 && decide (64 ≤ addr) && decide (addr + completionBytes type gapMax ≤ rd s (K.cqLength area))

/-- The reset generation of an area. -/
def areaGen (s : State) (area : Nat) : Nat := tget s.host.gens area 0

/-- The bytes of a gap record (R228). -/
def gapBytes (g : Gap) : List Byte := toBytes 32 (gapWord g)

/-- The lines of a completion (R300): those that follow the first line are written before it, each filled with zeros. -/
def writeCompletion (s : State) (addr record : Nat) (gaps : List Gap) : State :=
  let io := rd s K.completionPath == 1
  let rest := chunks 2 (gaps.length + 1) (gaps.drop 1)
  let s := ((upFrom 1 rest.length).zip rest).foldl (fun t p =>
    emit t (.completionLine (addr + 64 * p.1) (padBytes 64 (p.2.flatMap gapBytes)) io)) s
  emit s (.completion addr record (gaps.take 1) io)

/-- Issue the completion write of a swept ticket, or drop it where the link is down or a reset has come between
(R302, R304). -/
def issueWrite (s : State) (tk : Tk) (record : Nat) (gaps : List Gap) : State :=
  let base := rd s (K.cqBase tk.area)
  let addr := if tk.stray then base else base + tkAddr tk.raw
  if !linkUp s || areaGen s tk.area != tk.gen then bump s K.completionWriteErrors 1
  else
    let s := writeCompletion s addr record gaps
    let w : CWrite := { area := tk.area, addr := addr, record := record, gaps := gaps, attempts := 1 }
    { s with host := { s.host with writes := tset s.host.writes tk.id w } }

/-- Complete a ticket with every field given: a swept one by its completion write, one from a fabric peer by a message
to its sender (R139, R150). A ticket whose deadline action has been taken discards the result (R80, R301). -/
def completeAs (s : State) (tk : Tk) (status count commitStep : Nat) (gaps : List Gap) (late : Bool) : State :=
  if has s.att.dead tk.id then
    bump { s with att := { s.att with dead := without s.att.dead tk.id } } K.lateDiscardCount 1
  else
    let s := dropDl s tk.id
    let s := if late then bump s K.lateCount 1 else s
    let r := completionRecord (now s % 2 ^ 64) commitStep count (tkId tk.raw) status late tk.cause (tkAlive tk.raw)
      tk.area tk.slot (tkType tk.raw)
    if tk.fabric then mgmt s tk.src (.completion r []) else issueWrite s tk r gaps

/-- Write a result area, where it is still held (R359 step 3); a fabric ticket's result goes back with its completion.
none: the holding's drain has ended. -/
def putResult (s : State) (tk : Tk) (addr : Nat) (data : List Byte) : Option State :=
  if tk.fabric || data.isEmpty then some s
  else if areaAlive s (tkTenant tk.raw) addr data.length 2 then some (nodeWrite s addr data)
  else none

/-- Complete a ticket; its result is LATE where it comes at or after the deadline, which has not fired (R81). An append
is never LATE (R150), nor is a completion with 0x20. -/
def complete (s : State) (tk : Tk) (status count commitStep : Nat) : State :=
  completeAs s tk status count commitStep []
    (status != St.deadline && tkType tk.raw != 2 && lateFor s tk.deadline && tk.deadline != 0)

/-- Complete a ticket that has a result: written first, or the ticket completes with 0x22 (R359 step 3). -/
def completeResult (s : State) (tk : Tk) (addr : Nat) (data : List Byte) (status count : Nat) : State :=
  match putResult s tk addr data with
  | none => complete (bump s K.revokedCompletions 1) tk St.revoked 0 0
  | some s =>
    if tk.fabric then
      let n := s.outbox.length
      let s := complete s tk status count 0
      { s with outbox := s.outbox.mapIdx (fun i p => if n ≤ i then
          (match p.body with | .completion r _ => { p with body := .completion r data } | _ => p) else p) }
    else complete s tk status count 0

/-- Complete a ticket that an admission check refuses (R142). -/
def refuse (s : State) (tk : Tk) (code : Nat) : State :=
  completeAs (bump s K.admissionRefusedCount 1) tk code 0 0 [] false

/-- The same for a check that a revoked holding fails (R359 step 2). -/
def refuseArea (s : State) (tk : Tk) (code : Nat) : State :=
  refuse (if code == St.revoked then bump s K.revokedCompletions 1 else s) tk code

/-- The deadline action of a ticket (R80, R301): 0x20 is written, and a result that comes later is discarded. -/
def expire (s : State) (tk : Tk) (resultComes : Bool) : State :=
  let s := completeAs s tk St.deadline 0 0 [] false
  if resultComes then { s with att := { s.att with dead := addNew s.att.dead tk.id } } else s

/-! ## The resolving slice (R489) -/

def curStep (s : State) : Nat := rd s K.currentStep

/-- The previous epoch while its window runs (R373, R375): before phase 0 of step N + W; 0 for none. -/
def prevEpoch (s : State) : Nat := if curStep s < rd s K.drainEndStep then rd s K.mapEpochPrevious else 0

/-- The port die of a link. -/
def dieOf (link : Nat) : Nat := link / 9

def resolvingSlice (s : State) (link : Nat) : Nat :=
  let d := dieOf link
  if rd s (K.sliceState d) == 1 then d else (inService s).headD d

/-! ## The epoch test (R374) -/

def epochOk (s : State) (e : Nat) : Bool :=
  e == rd s K.mapEpoch || (e == prevEpoch s && prevEpoch s != 0)
  || (match s.tm.next with | some a => a.epoch == e && e != 0 | none => false)

/-! ## Header checks 1 to 4 (R142) -/

/-- Checks 1 and 2 for a ticket bound to a tenant (none: not bound by its path). -/
def headerCheck (s : State) (raw : Nat) (bound : Option Nat) : Option Nat :=
  if !tkAssigned raw || tkVersion raw != 1 || !tkReservedOk raw then some St.bounds
  else if bound.any (fun b => b != tkTenant raw) || !on s (K.tenantEnable (tkTenant raw)) then some St.tenant
  else none

/-- Take a ticket off the queue of taken tickets: the head, where its type is the one that runs. -/
def takeHead (s : State) (type : Nat) : Option (Tk × State) :=
  match s.att.taken with
  | [] => none
  | t :: r => if tkType t.raw == type then some (t, { s with att := { s.att with taken := r } }) else none

end Sys2Proof.Machine
end

