-- ==== Sys2Proof/Machine/Directory.lean ====
section
/-! DEFINITION. The associative directory (R234 to R255, R489): entries, matching and precedence, banks and the ordered
insert, hot and backing directories, resolution of tickets, route tables, and the window. -/

namespace Sys2Proof.Machine

/-! ## Keys and fields (R235, R237, R252) -/

def ekind (k : Nat) : Nat := bits k 93 3
def etenant (k : Nat) : Nat := bits k 85 8
/-- The group: kind, tenant, ream_id, layer and head. -/
def egroup (k : Nat) : Nat := bits k 33 63
def equire (k : Nat) : Nat := bits k 5 28

def dirKey (kind tenant ream layer head quire : Nat) : Nat :=
  packBits [(5, 0), (28, quire), (8, head), (12, layer), (32, ream), (8, tenant), (3, kind)]

def fullCare : Nat := 2 ^ 96 - 32
def groupCare : Nat := 2 ^ 96 - 2 ^ 33
def reamMask : Nat := 2 ^ 96 - 2 ^ 53

def ones (w m : Nat) : Bool := w &&& m == m

def isWide (e : Ent) : Bool := !ones e.care groupCare

def routeNode (d : Nat) : Nat := bits d 40 16
def routeEpoch (d : Nat) : Nat := bits d 24 16
def linkMask (d : Nat) : Nat := bits d 20 36
def linkEpoch (d : Nat) : Nat := bits d 4 16
def reamHome (d : Nat) : Nat := bits d 40 16

/-- Data of a REAM entry. -/
def reamData (home layers heads dim : Nat) (retired : Bool) : Nat :=
  packBits [(15, 0), (1, b2n retired), (4, dim), (8, heads - 1), (12, layers - 1), (16, home)]

/-- Data of a QUIRE entry, from the Quire it names. -/
def quireData (q : Quire) : Nat :=
  packBits [(16, 0), (32, q.record), (3, 0), (2, if q.move.isSome then 1 else 0),
    (1, b2n q.kCarrying), (2, q.tier)]

/-! ## Matching (R236, R239) -/

def matchesKey (kind key mask : Nat) (e : Ent) : Bool :=
  ekind e.key == kind && kind != 0 && ((e.key ^^^ key) &&& e.care &&& mask) % 2 ^ 93 == 0

/-- Insert an entry after those of its priority or higher. -/
def insPrio (e : Ent) : List Ent → List Ent
  | [] => [e]
  | x :: r => if x.prio < e.prio then e :: x :: r else x :: insPrio e r

/-- The matches of a directory, in descending priority. -/
def dirMatches (s : State) (dir kind key mask : Nat) : List Ent :=
  (s.dirs.filter (fun e => e.dir == dir && matchesKey kind key mask e)).foldl (fun l e => insPrio e l) []

/-- Whether the patterns of two entries can both match one point key. -/
def overlaps (a b : Ent) : Bool := ((a.key ^^^ b.key) &&& a.care &&& b.care) % 2 ^ 93 == 0

/-! ## Banks (R241, R242) -/

def hashedBank (g : Nat) : Nat := crc32c (toBytes 8 g) % 56

def slotsOf (l : List Ent) (dir bank : Nat) : List (Nat × Nat) :=
  l.filterMap (fun e => match e.place with
    | some p => if e.dir == dir && p / 4096 == bank then some (p % 4096, e.prio) else none
    | none => none)

def bankSlots (dir : Nat) : Nat := if dir < 0x10 then 4096 else 1024

/-- The free slot that an insert at pos uses: in its segment, else in the nearest segment that has one; with the ec of
the shift. -/
def freeSlot (occ : List Nat) (pos size : Nat) : Option (Nat × Nat) :=
  let seg := min pos (size - 1) / 64
  let inSeg (g : Nat) : Option Nat :=
    match (upFrom (max pos (g * 64)) (g * 64 + 64 - max pos (g * 64))).find? (fun i => !has occ i) with
    | some i => some i
    | none => ((upFrom (g * 64) (min pos (g * 64 + 64) - g * 64)).reverse).find? (fun i => !has occ i)
  match inSeg seg with
  | some i => some (i, 1)
  | none =>
    firstSome ((upFrom 1 (size / 64)).flatMap (fun d =>
      [ if seg + d < size / 64 then (inSeg (seg + d)).map (fun i => (i, d)) else none,
        if d ≤ seg then (inSeg (seg - d)).map (fun i => (i, d)) else none ]))

/-- Insert into a bank in descending priority (R242): the entries, and the ec of the shift. -/
def bankInsert (l : List Ent) (e : Ent) (bank : Nat) : Option (List Ent × Nat) :=
  let sl := slotsOf l e.dir bank
  let size := bankSlots e.dir
  let pos := maxNat ((sl.filter (fun p => decide (e.prio ≤ p.2))).map (fun p => p.1 + 1))
  match freeSlot (sl.map Prod.fst) pos size with
  | none => none
  | some (f, c) =>
    let base := bank * 4096
    let l := l.map (fun x => match x.place with
      | some p =>
        if x.dir == e.dir && p / 4096 == bank then
          if pos ≤ f && pos ≤ p % 4096 && p % 4096 < f then { x with place := some (p + 1) }
          else if f < pos && f < p % 4096 && p % 4096 < pos then { x with place := some (p - 1) }
          else x
        else x
      | none => x)
    some (l ++ [{ e with place := some (base + (if pos ≤ f then pos else pos - 1)) }], c)

/-- Insert into the first of several banks that has a free slot. -/
def banksInsert (l : List Ent) (e : Ent) (banks : List Nat) : Option (List Ent × Nat) :=
  firstSome (banks.map (bankInsert l e))

def openBanks : List Nat := upFrom 56 8

def bankFree (l : List Ent) (dir bank : Nat) : Nat := bankSlots dir - (slotsOf l dir bank).length

/-- Entries of a group in a directory. -/
def groupEnts (l : List Ent) (dir g : Nat) : List Ent :=
  l.filter (fun e => e.dir == dir && !isWide e && egroup e.key == g)

def notGroup (l : List Ent) (dir g : Nat) : List Ent :=
  l.filter (fun e => !(e.dir == dir && !isWide e && egroup e.key == g))

/-- Put a whole group into one bank list, entry by entry. -/
def putAll (l : List Ent) (banks : List Nat) : List Ent → Nat → Option (List Ent × Nat)
  | [], c => some (l, c)
  | e :: r, c =>
    match banksInsert l e banks with
    | none => none
    | some (m, d) => putAll m banks r (c + d)

/-- Place a group: its hashed bank where the whole group fits, else the open banks (R241). -/
def placeGroup (l : List Ent) (g : List Ent) : Option (List Ent × Nat) :=
  match g with
  | [] => some (l, 0)
  | e :: _ =>
    let b := hashedBank (egroup e.key)
    if g.length ≤ bankFree l e.dir b then putAll l [b] g 0
    else putAll l openBanks g 0

def setDirs (s : State) (l : List Ent) : State := { s with dirs := l }

/-- Add one entry to a directory; none where neither the hot nor the backing directory takes it (R242, R245, R248). -/
def dirPut (s : State) (e : Ent) : Option State :=
  let sl := e.dir % 4
  if 0x10 ≤ e.dir then (banksInsert s.dirs { e with backed := false } (upFrom 0 4)).map (fun r => setDirs s r.1)
  else if isWide e then
    (banksInsert s.dirs { e with backed := false } openBanks).map (fun r => bump (setDirs s r.1) (K.dirShiftCycles sl) r.2)
  else
    let e := { e with backed := true, searched := curStep s }
    let g := egroup e.key
    let mates := groupEnts s.dirs e.dir g
    let cold := !mates.isEmpty && mates.all (fun m => m.place.isNone)
    if cold then some (setDirs s (s.dirs ++ [{ e with place := none }]))
    else
      let here := mates.filterMap (fun m => m.place.map (fun p => p / 4096))
      let banks := if here.any (fun b => decide (56 ≤ b)) then openBanks else [hashedBank g]
      match banksInsert s.dirs e banks with
      | some r => some (bump (setDirs s r.1) (K.dirShiftCycles sl) r.2)
      | none =>
        let group := mates ++ [e]
        match putAll (notGroup s.dirs e.dir g) openBanks group 0 with
        | some r => some (bump (setDirs s r.1) (K.dirShiftCycles sl) r.2)
        | none => some (setDirs s (notGroup s.dirs e.dir g ++ group.map (fun x => { x with place := none })))

/-- Bytes of a slice's backing region that are taken: 32 for each entry of a group, 256 for each Quire record (R238, R248). -/
def backingUsed (s : State) (sl : Nat) : Nat :=
  32 * (s.dirs.filter (fun e => e.dir == sl && e.backed)).length + 256 * (sliceQuires s sl).length

/-- Whether the backing directory of a slice takes one Quire more: its entry and its record. -/
def backingRoom (s : State) (sl : Nat) : Bool := decide (backingUsed s sl + 288 ≤ s.dirTaken * 2 ^ 20)

/-- Whether it takes one entry more. -/
def entryRoom (s : State) (sl : Nat) : Bool := decide (backingUsed s sl + 32 ≤ s.dirTaken * 2 ^ 20)

/-- Remove the entries of a directory that a test names. -/
def dirDrop (s : State) (p : Ent → Bool) : State := setDirs s (s.dirs.filter (fun e => !p e))

/-- The slices whose directories hold copies of ROUTE and REAM entries (R489): not one that READMIT brings back from RETIRED, before it
has taken its copies. -/
def copySlices (s : State) : List Nat := (upFrom 0 4).filter (fun sl => rd s (K.sliceState sl) != 4 && !has s.sec.fromRetired sl)

/-! ## Hot and backing (R246) -/

/-- The group searched least recently that may be evicted; of those of one step, the one that stands first in the list, whose entries move to
its end when they are searched. -/
def coldest (s : State) (sl : Nat) : Option Nat :=
  let hot := s.dirs.filter (fun e => e.dir == sl && !isWide e && e.place.isSome
    && decide (e.searched + gv s K.dirHotHoldSteps < curStep s))
  (hot.foldl (fun (a : Option Ent) e => match a with
    | none => some e
    | some b => if e.searched < b.searched then some e else some b) none).map (fun e => egroup e.key)

/-- Install a cold group, evicting where the hot directory lacks room. -/
def installGroup : Nat → State → Nat → Nat → State
  | 0, s, _, _ => s
  | fuel + 1, s, sl, g =>
    let mates := groupEnts s.dirs sl g
    match placeGroup (notGroup s.dirs sl g) mates with
    | some r => bump (setDirs s r.1) (K.dirShiftCycles sl) r.2
    | none =>
      match coldest s sl with
      | none => s
      | some v =>
        installGroup fuel (setDirs s (s.dirs.map (fun e =>
          if e.dir == sl && !isWide e && egroup e.key == v then { e with place := none } else e))) sl g

/-- Account for one search of a slice's directory, and bring in its group where it is cold (R241, R246). -/
def dirAccount (s : State) (sl kind key mask : Nat) : State :=
  let grouped := ones mask groupCare
  let s := bump (bump s (K.dirSearches sl) 1) (K.dirBanksActivated sl) (if grouped then 9 else 64)
  if !grouped then s
  else
    let g := egroup (key % 2 ^ 93 + kind * 2 ^ 93)
    let mates := groupEnts s.dirs sl g
    let s := if !mates.isEmpty && mates.all (fun m => m.place.isNone)
      then installGroup (s.dirs.length + 1) (bump s (K.dirHotMisses sl) 1) sl g else s
    setDirs s (notGroup s.dirs sl g ++ (groupEnts s.dirs sl g).map (fun e => { e with searched := curStep s }))

/-! ## Resolution (R249, R250) -/

/-- The largest aligned power-of-two block at a that stays within b. -/
def blockAt : Nat → Nat → Nat → Nat → Nat
  | 0, _, _, w => w
  | fuel + 1, a, b, w => if a % 2 ^ (w + 1) == 0 && decide (a + 2 ^ (w + 1) ≤ b + 1) then blockAt fuel a b (w + 1) else w

/-- The cover of a to b by aligned blocks: base and log size. -/
def coverOf : Nat → Nat → Nat → List (Nat × Nat)
  | 0, _, _ => []
  | fuel + 1, a, b =>
    if b < a then []
    else
      let w := blockAt 28 a b 0
      (a, w) :: coverOf fuel (a + 2 ^ w) b

/-- The range of Quires of a query (R249 step 1). -/
def quireRange (r : Nat) : Nat × Nat :=
  (qFirst r / 16, if qLast r == 0xFFFFFFFF then 0x0FFFFFFF else qLast r / 16)

/-- Nodes named by the winners over a block whose low w quire bits are free; entries in descending priority. -/
def routeWinners : Nat → List Ent → List Nat
  | _, [] => []
  | 0, e :: _ => [routeNode e.data]
  | w + 1, e :: r =>
    if e.care / 32 % 2 ^ (w + 1) == 0 then [routeNode e.data]
    else if (e :: r).all (fun x => !bitB x.care (5 + w)) then routeWinners w (e :: r)
    else
      let ok (b : Bool) (x : Ent) : Bool := !bitB x.care (5 + w) || bitB x.key (5 + w) == b
      routeWinners w ((e :: r).filter (ok false)) ++ routeWinners w ((e :: r).filter (ok true))

/-- The home node that a slice's directory names for a Ream (R250). -/
def homeOf (s : State) (sl tenant ream : Nat) : State × Option Nat :=
  let key := dirKey 3 tenant ream 0 0 0
  (dirAccount s sl 3 key reamMask, ((dirMatches s sl 3 key reamMask).head?).map (fun e => reamHome e.data))

/-- Whether an entry, fully cared in ream_id, makes this node the home of a Ream (R250). -/
def namesOwn (s : State) (tenant ream : Nat) (e : Ent) : Bool :=
  decide (e.dir < 4) && ekind e.key == 3 && etenant e.key == tenant && bits e.key 53 32 == ream && bits e.care 53 32 == 2 ^ 32 - 1
  && reamHome e.data == myNode s

/-- The Ream that a REAM entry describes (R237). -/
def entryReam (tenant ream : Nat) (e : Ent) : Ream :=
  { tenant := tenant, id := ream, layers := bits e.data 28 12 + 1, heads := bits e.data 20 8 + 1, dim := bits e.data 16 4, retired := 0,
    retiredSet := bitB e.data 15, preempted := false, sealed := false, reclaimed := false }

/-- The Ream that exists on this node as its home (R250): one that it created or took over, or one for which an entry fully cared in ream_id
stands. -/
def knownReam (s : State) (tenant ream : Nat) : Option Ream :=
  match tget? s.kv.reams (reamKey tenant ream) with
  | some m => some m
  | none => (s.dirs.find? (namesOwn s tenant ream)).map (entryReam tenant ream)

/-- Change the record of a Ream that exists here. -/
def setReam (s : State) (tenant ream : Nat) (f : Ream → Ream) : State :=
  match knownReam s tenant ream with
  | some m => { s with kv := { s.kv with reams := tset s.kv.reams (reamKey tenant ream) (f m) } }
  | none => s

/-- The contributing nodes of a query (R249), for an epoch. -/
def contributors (s : State) (sl epoch : Nat) (r : Nat) : State × List Nat :=
  let (a, b) := quireRange r
  let blocks := coverOf 64 a b
  let key (q : Nat) := dirKey 2 (tkTenant r) (bReam r) (qLayer r) (qHead r) q
  let s1 := blocks.foldl (fun t p => dirAccount t sl 2 (key p.1) (2 ^ 96 - 2 ^ (5 + p.2))) s
  let nodes := blocks.flatMap (fun p =>
    routeWinners p.2 ((dirMatches s sl 2 (key p.1) (2 ^ 96 - 2 ^ (5 + p.2))).filter (fun e =>
      routeEpoch e.data == 0 || routeEpoch e.data == epoch)))
  if nodes.isEmpty then
    let (s2, h) := homeOf s1 sl (tkTenant r) (bReam r)
    (s2, h.toList)
  else (s1, nodes.eraseDups)

/-- Whether a link may carry a lane (R336). -/
def laneLink (s : State) (vl l : Nat) : Bool := rd s (K.linkState l) == 2 && (vl == 8 || rd s (K.sliceState (l / 9)) == 1)

/-- The link of a message (R253): its die's route table, trained links only, then the hash of sender and message ID. A lookup
for lane 0x8 leaves the class open. -/
def routeLink (s : State) (die tenant dst vl sender msgId : Nat) : Option Nat :=
  let key := packBits [(66, 0), (3, vl % 8), (16, dst), (8, tenant), (3, 6)]
  let ok (e : Ent) : Bool := linkEpoch e.data == 0 || linkEpoch e.data == rd s K.mapEpoch
    || (linkEpoch e.data == prevEpoch s && prevEpoch s != 0)
  let masks := (dirMatches s (0x10 + die) 6 key (2 ^ 96 - (if vl == 8 then 2 ^ 69 else 2 ^ 66))).filterMap (fun e =>
    if ok e then
      let l := (upFrom 0 36).filter (fun k => laneLink s vl k && bitB (linkMask e.data) k)
      if l.isEmpty then none else some l
    else none)
  match masks with
  | [] => none
  | l :: _ => some (nth l (crc32c (toBytes 2 sender ++ toBytes 2 msgId) % l.length) 0)

/-! ## The window (R254) -/

def windowEnt (s : State) (dir : Nat) : Ent :=
  let w := rd s K.dirWindowEntry
  { dir := dir, key := bits w 160 96, care := bits w 64 96, prio := bits w 56 8, data := bits w 0 56, place := none,
    backed := false, searched := curStep s }

def entWord (e : Ent) (data : Nat) : Nat := packBits [(56, data), (8, e.prio), (96, e.care), (96, e.key)]

/-- The data of an entry as a FIND shows it. -/
def entData (s : State) (e : Ent) : Nat :=
  if ekind e.key == 1 then
    match tget? s.kv.quires (quireKey (etenant e.key) (bits e.key 53 32) (bits e.key 41 12) (bits e.key 33 8) (equire e.key)) with
    | some q => quireData q
    | none => e.data
  else e.data

def kindAllowed (dir kind : Nat) : Bool :=
  if dir < 4 then kind == 1 || kind == 2 || kind == 3 else decide (0x10 ≤ dir) && decide (dir < 0x14) && kind == 6

/-- Directories that an INSERT or REMOVE through a target changes (R489). -/
def windowDirs (s : State) (dir : Nat) : List Nat := if dir < 4 then copySlices s else [dir]

def setPos (s : State) (p : Option Nat) : State := wr s K.dirWindowPosition (p.getD 0xFFFFFFFF)

/-- FIND: same key, care and kind. -/
def windowFind (s : State) : State × Res :=
  let t := rd s K.dirWindowTarget
  let e := windowEnt s t
  if !kindAllowed t (ekind e.key) then (s, .refused 0x01 0x4400 7)
  else
    match (s.dirs.filter (fun x => x.dir == t && x.key == e.key && x.care == e.care)).foldl (fun l x => insPrio x l) [] with
    | [] => (setPos s none, .done)
    | x :: _ => (setPos (wr s K.dirWindowEntry (entWord x (entData s x))) x.place, .done)

/-- Whether an epoch may stand in an entry that is inserted (R254, R375). -/
def windowEpochOk (s : State) (kind data : Nat) : Bool :=
  let e := if kind == 2 then routeEpoch data else if kind == 6 then linkEpoch data else 0
  e == 0 || e == rd s K.mapEpoch || (prevEpoch s != 0 && e == prevEpoch s)

/-- Reserved key and data bits zero, and no reserved key bit cared (R235, R237, R252). -/
def windowReservedOk (kind key care data : Nat) : Bool :=
  if kind == 6 then bits key 0 66 == 0 && bits care 0 66 == 0 && bits data 0 4 == 0
  else bits key 0 5 == 0 && bits care 0 5 == 0
    && (if kind == 2 then bits data 0 24 == 0 else bits data 0 15 == 0)

/-- Put an entry into every directory of a list, or into none. -/
def putEach (s : State) (e : Ent) : List Nat → Option State
  | [] => some s
  | d :: r =>
    match dirPut s { e with dir := d } with
    | none => none
    | some t => putEach t e r

/-- INSERT. -/
def windowInsert (s : State) : State × Res :=
  let t := rd s K.dirWindowTarget
  let e := windowEnt s t
  let kind := ekind e.key
  let dirs := windowDirs s t
  if kind == 1 || !kindAllowed t kind || e.prio == 0xFF || (kind != 6 && bits e.care 85 8 != 0xFF)
    || !windowReservedOk kind e.key e.care e.data then (s, .refused 0x01 0x4400 7)
  else if (kind != 6 || bits e.care 85 8 == 0xFF) && !on s (K.tenantEnable (etenant e.key)) then (s, .refused 0x08 0x4400 7)
  else if s.dirs.any (fun x => has dirs x.dir && ekind x.key == kind && x.prio == e.prio && overlaps x e) then (s, .refused 0x02 0x4400 7)
  else if !windowEpochOk s kind e.data then (s, .refused 0x0A 0x4400 7)
  else if kind != 6 && !isWide e && !dirs.all (entryRoom s) then (s, .refused 0x04 0x4400 7)
  else
    match putEach s e dirs with
    | none => (s, .refused 0x04 0x4400 7)
    | some s' =>
      (setPos s' (((s'.dirs.find? (fun x => x.dir == t && x.key == e.key && x.care == e.care && x.prio == e.prio)).map Ent.place).join), .done)

/-- REMOVE. -/
def windowRemove (s : State) : State × Res :=
  let t := rd s K.dirWindowTarget
  let e := windowEnt s t
  let kind := ekind e.key
  if kind == 1 || !kindAllowed t kind || e.prio == 0xFF then (s, .refused 0x01 0x4400 7)
  else
    let found := s.dirs.filter (fun x => x.dir == t && x.key == e.key && x.care == e.care)
    match (found.filter (fun x => x.prio != 0xFF)).foldl (fun l x => insPrio x l) [] with
    | [] => if found.isEmpty then (setPos s none, .done) else (s, .refused 0x01 0x4400 7)
    | x :: _ =>
      let dirs := windowDirs s t
      (setPos (dirDrop s (fun y => has dirs y.dir && y.key == x.key && y.care == x.care && y.prio == x.prio)) x.place, .done)

/-- A write of dir_window_op. -/
def hDirWindowOp : Handler := fun s _ p =>
  match ofBytes p with
  | 1 => windowFind s
  | 2 => windowInsert s
  | 3 => windowRemove s
  | _ => (s, .refused 0x01 0x4400 7)


/-- DIR_WINDOW_FIND. -/
def execDirWindowFind (w : WReq) (s : State) : Outc := .next (rowWrite s w 0x4400 7 0 [1] hDirWindowOp)

/-- DIR_WINDOW_INSERT. -/
def execDirWindowInsert (w : WReq) (s : State) : Outc := .next (rowWrite s w 0x4400 7 0 [2] hDirWindowOp)

/-- DIR_WINDOW_REMOVE. -/
def execDirWindowRemove (w : WReq) (s : State) : Outc := .next (rowWrite s w 0x4400 7 0 [3] hDirWindowOp)

/-! ## Entries that the node makes itself (R240) -/

/-- The QUIRE entry of a Quire, in the directory of its slice. -/
def makeQuireEntry (s : State) (q : Quire) : State :=
  (dirPut s { dir := q.slice, key := dirKey 1 q.tenant q.ream q.layer q.head q.num, care := fullCare, prio := 0xFF,
              data := quireData q, place := none, backed := true, searched := curStep s }).getD s

def dropQuireEntry (s : State) (q : Quire) : State :=
  dirDrop s (fun e => e.dir == q.slice && e.key == dirKey 1 q.tenant q.ream q.layer q.head q.num && e.prio == 0xFF)

/-- The REAM entry of a Ream, in every directory that is not RETIRED (R489). -/
def makeReamEntry (s : State) (r : Ream) : State :=
  (putEach s { dir := 0, key := dirKey 3 r.tenant r.id 0 0 0, care := fullCare, prio := 0xFF,
               data := reamData (myNode s) r.layers r.heads r.dim r.retiredSet, place := none, backed := true,
               searched := curStep s } (copySlices s)).getD s

/-- Remove a Ream's entries on its home node (R135). -/
def dropReamEntry (s : State) (tenant ream : Nat) : State :=
  dirDrop s (fun e => (decide (e.dir < 4) && e.key == dirKey 3 tenant ream 0 0 0 && e.prio == 0xFF) || namesOwn s tenant ream e)

/-- Mark a Ream's entries retired (R133). -/
def retireReamEntry (s : State) (r : Ream) : State :=
  setDirs s (s.dirs.map (fun e => if namesOwn s r.tenant r.id e
    then { e with data := reamData (myNode s) r.layers r.heads r.dim true } else e))

/-- The maintenance of holes (R243): each bank keeps its entries in order and spreads them over its segments. -/
def spreadBank (holes : Nat) (l : List Ent) (dir bank : Nat) : List Ent :=
  let per := 64 - holes
  let cnt := (slotsOf l dir bank).length
  let width := max per (ceilDiv cnt 64)
  l.map (fun e => match e.place with
    | some p =>
      if e.dir == dir && p / 4096 == bank then
        let rank := ((slotsOf l dir bank).filter (fun q => decide (q.1 < p % 4096))).length
        { e with place := some (bank * 4096 + rank / width * 64 + rank % width) }
      else e
    | none => e)

/-- Spread the banks of a slice whose segments have fewer free slots than dir_segment_holes asks. -/
def spreadSlice (s : State) (sl : Nat) : State :=
  let holes := gv s K.dirSegmentHoles
  (upFrom 0 64).foldl (fun t b =>
    let sg := slotsOf t.dirs sl b
    if (upFrom 0 64).any (fun g => decide (64 - holes < (sg.filter (fun q => q.1 / 64 == g)).length))
    then setDirs t (spreadBank holes t.dirs sl b) else t) s

end Sys2Proof.Machine
end

