-- ==== Sys2Proof/Machine/Press.lean ====
section
/-! DEFINITION. The bytes of a half (R87, R111, R112), and pressing and unpressing (R268 to R271). -/

namespace Sys2Proof.Machine

/-! ## The bytes of a Sheet -/

/-- Bits of one element. -/
def elemWidth : Nat → Nat
  | 1 | 2 => 16
  | 3 | 4 | 8 | 0xB => 8
  | 5 | 6 | 9 => 6
  | _ => 4

/-- Numbers of one width side by side, as bytes. -/
def packWidth (w : Nat) (l : List Nat) : List Byte :=
  (chunks 8 (l.length + 1) l).flatMap (fun c => toBytes (ceilDiv (w * c.length) 8) (packBits (c.map (fun x => (w, x)))))

/-- The element area of a half: element (c, t) at index 64 × c + t; a token of the open block lies in the extension. -/
def elemCodes (h : Half) (d : Nat) : List Nat :=
  (upFrom 0 d).flatMap (fun c => (upFrom 0 64).map (fun t => if inOpenBlock h t then 0 else nth (nth h.toks t []) c 0))

/-- The scale area of a half. -/
def scaleBytes (h : Half) (d : Nat) : List Byte :=
  if !isBlockFmt h.fmt then []
  else
    (upFrom 0 d).flatMap (fun c =>
      if h.fmt == 0xB then toBytes 2 (nth (nth h.scales 0 []) c 0)
      else if h.fmt == 0xC then toBytes 2 (nth (nth h.scales 0 []) c 0) ++ toBytes 2 (nth (nth h.scales 1 []) c 0)
      else toBytes 1 (nth (nth h.scales 0 []) c 0) ++ toBytes 1 (nth (nth h.scales 1 []) c 0))

/-- A half's granules. -/
def halfBytes (h : Half) (d : Nat) : List Byte :=
  padBytes (1024 * halfGranules h.fmt d) (packWidth (elemWidth h.fmt) (elemCodes h d) ++ scaleBytes h d)

/-- A half's extension granules. -/
def extBytes (h : Half) (d : Nat) (held : Bool) : List Byte :=
  if !held then []
  else padBytes (1024 * extGranules h.fmt d)
    (packWidth 16 ((upFrom 0 d).flatMap (fun c => (upFrom h.closed (blockTokens h.fmt)).map (fun t => nth (nth h.toks t []) c 0))))

def metaBytes (sh : Sheet) : List Byte := toBytes 256 (metaWord sh (metaCrc sh))

/-! ## Blocks of a source (R269) -/

/-- A block: its bytes, its table, and the bits of an element with those of its raw part (none in byte mode). -/
structure SrcBlock where
  data : List Byte
  table : Nat
  split : Option (Nat × Nat)
  deriving DecidableEq, Repr

/-- Bits of an element and of its raw part, for the formats that split. -/
def splitOf : Nat → Option (Nat × Nat)
  | 1 => some (16, 7) | 2 => some (16, 10) | 3 => some (8, 3) | 8 => some (8, 3) | 4 => some (8, 2) | _ => none

def byteBlocks (l : List Byte) : List SrcBlock :=
  (chunks 1024 (l.length + 1) l).map (fun c => { data := c, table := 2, split := none })

/-- Blocks of a half: those of the element area may split. -/
def halfBlocks (h : Half) (d table : Nat) : List SrcBlock :=
  let area := 64 * d * elemWidth h.fmt / 8 / 1024
  (byteBlocks (halfBytes h d)).mapIdx (fun i b =>
    match splitOf h.fmt with
    | some p => if i < area then { b with table := table, split := some p } else b
    | none => b)

/-- The source of a Quire, block by block; metadata records four to a block. -/
def quireBlocks (l : List Sheet) : List SrcBlock :=
  byteBlocks (l.flatMap metaBytes)
  ++ l.flatMap (fun sh =>
    let d := dimOf sh.dim
    halfBlocks sh.kHalf d 0 ++ byteBlocks (extBytes sh.kHalf d sh.kExt)
    ++ halfBlocks sh.vHalf d 1 ++ byteBlocks (extBytes sh.vHalf d sh.vExt))

/-- The first block of each Sheet, after the metadata blocks. -/
def sheetFirstBlocks (l : List Sheet) : List Nat :=
  let m := ceilDiv (256 * l.length) 1024
  (l.foldl (fun (a : List Nat × Nat) sh => (a.1 ++ [a.2], a.2 + (sheetK sh + sheetV sh) / 1024)) ([], m)).1

/-- The symbols of a block with their raw bits. -/
def symbolsOf (b : SrcBlock) : List (Nat × Nat) :=
  match b.split with
  | none => b.data.map (fun x => (x.toNat, 0))
  | some (w, r) => (chunks (w / 8) (b.data.length + 1) b.data).map (fun e => let n := ofBytes e; (n / 2 ^ r, n % 2 ^ r))

/-! ## Codes (R270; RFC 1951 section 3.2.2) -/

/-- Symbol counts of one table over the source. -/
def countSyms (l : List Nat) : List (Nat × Nat) := (l.foldl (fun t x => tset t x (tget t x 0 + 1)) ([] : Tbl Nat))

/-- A parcel of symbols, with the sum of their counts, in order of that sum. -/
def insParcel (x : Nat × List Nat) : List (Nat × List Nat) → List (Nat × List Nat)
  | [] => [x]
  | y :: r => if x.1 < y.1 then x :: y :: r else y :: insParcel x r

/-- The parcels of a list joined two by two; an odd last one is dropped. -/
def pairParcels : List (Nat × List Nat) → List (Nat × List Nat)
  | a :: b :: r => (a.1 + b.1, a.2 ++ b.2) :: pairParcels r
  | _ => []

/-- Rounds of package-merge: the single symbols, with the joined parcels of the round before. -/
def mergeParcels (single : List (Nat × List Nat)) : Nat → List (Nat × List Nat)
  | 0 => []
  | n + 1 => (pairParcels (mergeParcels single n)).foldl (fun l x => insParcel x l) single

/-- Lengths of an optimal code of at most 15 bits: the length of a symbol is the number of parcels, among the first 2 × n - 2 of the last
round, that hold it. A single symbol takes 1 bit. -/
def huffmanLengths (cnt : List (Nat × Nat)) : List Nat :=
  let single := cnt.foldl (fun l c => insParcel (c.2, [c.1]) l) []
  if single.length < 2 then (upFrom 0 512).map (fun x => b2n (cnt.any (fun c => c.1 == x)))
  else
    let syms := ((mergeParcels single 15).take (2 * single.length - 2)).flatMap Prod.snd
    (upFrom 0 512).map (fun x => (syms.filter (fun y => y == x)).length)

/-- Bits that a source takes under some lengths. -/
def codedBits (cnt : List (Nat × Nat)) (l : List Nat) : Nat := sumNat (cnt.map (fun c => c.2 * nth l c.1 0))

/-- Lengths of the 512 symbols (R270): those of a length-limited Huffman code. Several may be as short as one another: the unit's own
lengths are taken where they form a prefix code of at most 15 bits of exactly the symbols present, and no code of at most 15 bits is
shorter. -/
def lengthsOf (cnt : List (Nat × Nat)) : List Nat :=
  let best := huffmanLengths cnt
  let l := (upFrom 0 512).map (Config.codeLengths cnt)
  let kraft := sumNat (l.map (fun n => if n = 0 then 0 else 2 ^ (15 - n)))
  if l.all (fun n => decide (n ≤ 15)) && decide (kraft ≤ 2 ^ 15)
    && (upFrom 0 512).all (fun x => decide (0 < nth l x 0) == cnt.any (fun c => c.1 == x))
    && decide (codedBits cnt l = codedBits cnt best) then l
  else best

/-- The first code of each length. -/
def firstCodes (l : List Nat) : Nat → Nat → Nat → List Nat
  | 0, _, _ => []
  | fuel + 1, bits, code =>
    let code := (code + (l.filter (fun n => n == bits && decide (0 < bits))).length) * 2
    code :: firstCodes l fuel (bits + 1) code

/-- The canonical codes: length and code of each symbol. -/
def canonical (l : List Nat) : List (Nat × Nat) :=
  let first := firstCodes l 15 0 0
  (l.foldl (fun (a : List (Nat × Nat) × List Nat) n =>
    if n = 0 then (a.1 ++ [(0, 0)], a.2)
    else (a.1 ++ [(n, nth a.2 (n - 1) 0)], setNth a.2 (n - 1) (nth a.2 (n - 1) 0 + 1))) ([], first)).1

/-- The bits of a number, most significant first, as RFC 1951 packs a code. -/
def msbBits (n v : Nat) : List Bool := ((upFrom 0 n).reverse).map (fun i => v.testBit i)

/-- The bits of a number, least significant first. -/
def lsbBits (n v : Nat) : List Bool := (upFrom 0 n).map (fun i => v.testBit i)

/-- Bits packed least significant first, filled with 0 to a byte. -/
def bitsToBytes (l : List Bool) : List Byte :=
  (chunks 8 (l.length + 1) l).map (fun c => BitVec.ofNat 8 (packBits (c.map (fun b => (1, b2n b)))))

/-- One coded block; raw where coding does not shorten it. -/
def codeBlock (codes : List (List (Nat × Nat))) (on_ : Bool) (b : SrcBlock) : List Byte × Bool :=
  let cs := nth codes b.table []
  let syms := symbolsOf b
  let coded := bitsToBytes (syms.flatMap (fun x => let c := nth cs x.1 (0, 0); msbBits c.1 c.2))
    ++ (match b.split with | none => [] | some (_, r) => bitsToBytes (syms.flatMap (fun x => lsbBits r x.2)))
  if on_ && decide (coded.length < b.data.length) then (coded, false) else (b.data, true)

/-! ## The pressed form (R268) -/

/-- What a header names. -/
structure PressHead where
  firsts : List Nat
  ream : Nat
  quire : Nat
  tenant : Nat
  layer : Nat
  head : Nat
  sheets : Nat
  dim : Nat
  deriving DecidableEq, Repr

def pressHeader (h : PressHead) (crc length blocks source : Nat) : List Byte :=
  toBytes 64 (packBits ([(8, 1), (3, 0), (32, source), (4, h.dim), (5, h.sheets), (8, h.head), (12, h.layer),
    (8, h.tenant), (16, blocks), (32, length), (32, h.quire), (32, h.ream), (64, crc)]
    ++ (upFrom 0 16).map (fun i => (16, nth h.firsts i 0))))

def pressTables (ls : List (List Nat)) : List Byte := ls.flatMap (fun l => packWidth 4 l)

/-- Press a source: the bytes, and how many blocks are raw. -/
def pressBytes (on_ : Bool) (h : PressHead) (src : List SrcBlock) : List Byte × Nat :=
  let counts (t : Nat) := if on_ then countSyms ((src.filter (fun b => b.table == t)).flatMap (fun b => (symbolsOf b).map Prod.fst)) else []
  let ls := (upFrom 0 3).map (fun t => lengthsOf (counts t))
  let codes := ls.map canonical
  let bl := src.map (codeBlock codes on_)
  let ends := (bl.foldl (fun (a : List Nat × Nat) b => (a.1 ++ [a.2 + b.1.length], a.2 + b.1.length)) ([], 0)).1
  let index := ((src.zip bl).zip ends).flatMap (fun p =>
    toBytes 8 (packBits [(31, p.2), (1, b2n p.1.2.2), (32, crc32c p.1.1.data)]))
  let body := pressTables ls ++ index ++ bl.flatMap Prod.fst
  let length := 64 + body.length
  let source := sumNat (src.map (fun b => b.data.length))
  let crc := crc64 0 (pressHeader h 0 length src.length source ++ body)
  (pressHeader h crc length src.length source ++ body, (bl.filter Prod.snd).length)

/-- Decode one symbol: the codes, the bits left. -/
def decodeSym (codes : List (Nat × Nat)) : Nat → Nat → Nat → List Bool → Option (Nat × List Bool)
  | 0, _, _, _ => none
  | _, _, _, [] => none
  | fuel + 1, n, v, b :: r =>
    let v := v * 2 + b2n b
    let n := n + 1
    match codes.findIdx? (fun c => c.1 == n && c.2 == v) with
    | some s => some (s, r)
    | none => decodeSym codes fuel n v r

/-- Decode a block of byte mode to a number of bytes. -/
def decodeBytes (codes : List (Nat × Nat)) : Nat → List Bool → Option (List Byte)
  | 0, _ => some []
  | k + 1, l =>
    match decodeSym codes 15 0 0 l with
    | none => none
    | some (s, r) => (decodeBytes codes k r).map (fun t => BitVec.ofNat 8 s :: t)

/-- Unpress a range in byte mode (R271, R278): none where a check fails. -/
def unpressBytes (l : List Byte) : Option (List Byte) :=
  let hd := ofBytes (l.take 64)
  let length := bits hd 96 32
  let blocks := bits hd 80 16
  let source := bits hd 11 32
  if bits hd 0 8 != 1 || decide (l.length < length) || decide (length < 832 + 8 * blocks) then none
  else if crc64 0 (toBytes 64 (hd - bits hd 192 64 * 2 ^ 192) ++ (l.drop 64).take (length - 64)) != bits hd 192 64 then none
  else
    let tbl := (((l.drop (64 + 512)).take 256).flatMap (fun b => [b.toNat % 16, b.toNat / 16]))
    let codes := canonical tbl
    let idx (j : Nat) := ofBytes ((l.drop (832 + 8 * j)).take 8)
    let area := (l.drop (832 + 8 * blocks)).take (length - 832 - 8 * blocks)
    (upFrom 0 blocks).foldl (fun (a : Option (List Byte)) j =>
      match a with
      | none => none
      | some out =>
        let from_ := if j = 0 then 0 else bits (idx (j - 1)) 0 31
        let bytes := (area.drop from_).take (bits (idx j) 0 31 - from_)
        let n := min 1024 (source - out.length)
        let dec := if bitB (idx j) 31 then some bytes else decodeBytes codes n (bytes.flatMap (fun b => lsbBits 8 b.toNat))
        match dec with
        | none => none
        | some d => if d.length == n && crc32c d == bits (idx j) 32 32 then some (out ++ d) else none) (some [])

end Sys2Proof.Machine
end

