-- ==== Sys2Proof/Machine/Moves.lean ====
section
/-! DEFINITION. Moves of Quires between tiers (R256 to R260): starting, switching, failing, the freeing of sources, and
the shares that wait (R160, R272). -/

namespace Sys2Proof.Machine

/-! ## References -/

/-- Shares that hold a reference on a Sheet of a Quire. -/
def quireRefs (s : State) (qk : Nat) : List Nat :=
  (s.att.shares.filter (fun x => x.refs.any (fun k => quireOfSheet k == qk))).map Share.id

/-- The formats that a Quire's space is sized by: those of its first Sheet. -/
def quireFmts (l : List Sheet) : Nat × Nat × Nat :=
  match l with
  | [] => (3, 3, 0)
  | sh :: _ => (sh.kHalf.fmt, sh.vHalf.fmt, dimOf sh.dim)

/-- HBM space of a whole Quire (R258 step 1): its Sheets as they stand, and the places of those still to come. -/
def quireSpace (s : State) (qk : Nat) : Nat × Nat :=
  let l := (quireSheets s qk).map Prod.snd
  let (kf, vf, d) := quireFmts l
  let miss := 16 - l.length
  (sumNat (l.map sheetK) + miss * 1024 * (halfGranules kf d + extGranules kf d),
   sumNat (l.map (fun h => sheetV h + 256)) + miss * (1024 * (halfGranules vf d + extGranules vf d) + 256))

/-- Bytes of a Quire as they lie in Felt or in a swap image: its Sheets only. -/
def quireImageBytes (s : State) (qk : Nat) : Nat := sheetSum s qk (fun h => sheetK h + sheetV h + 256)

/-- The Pressed Quire (R268 to R270), and its raw blocks. -/
def pressQuire (s : State) (qk : Nat) (q : Quire) : List Byte × Nat :=
  let l := (quireSheets s qk).map Prod.snd
  pressBytes (on s K.pressEnable)
    { firsts := sheetFirstBlocks l, ream := q.ream, quire := q.num, tenant := q.tenant, layer := q.layer, head := q.head,
      sheets := l.length, dim := (l.headD (newSheet 0 0 0 0 0 0 3 3)).dim } (quireBlocks l)

def deckleBytes : Nat := 16 * 128

/-- The move that takes a Quire to a target, where there is room (R258 step 1, R263). sl: destination slice. -/
def planMove (s : State) (qk : Nat) (q : Quire) (target sl tk : Nat) : Option Move :=
  let m : Move := { target := target, restarts := 0, region := 0, kib := 0, start := 0, tk := tk, slice := sl, bytesK := 0, bytesV := 0,
                    kCarrying := false }
  let (k, v) := quireSpace s qk
  match target with
  | 0 => (placeIn s sl k v).map (fun c => { m with bytesK := k, bytesV := v, kCarrying := c })
  | 1 =>
    let n := quireImageBytes s qk
    if on s K.feltHomeEnable && decide (n ≤ feltHomeFree s sl) then some { m with bytesK := 0, bytesV := n } else none
  | 2 =>
    let kib := ceilDiv (pressQuire s qk q).1.length 1024
    (vatRoom s kib).map (fun r => { m with region := r.1, kib := kib, start := r.2 })
  | 3 =>
    let kib := ceilDiv (quireImageBytes s qk) 1024
    (swapRoom s q.tenant kib).map (fun x => { m with region := rd s (K.swapRegion q.tenant), kib := kib, start := x })
  | 4 =>
    if q.kCarrying && decide (k + mib (gv s K.scoringReserveMib) ≤ stackFree s (scoringStack q.slice))
    then some { m with bytesK := k } else none
  | _ =>
    -- a Quire outside HBM and Felt leaves its data where it is (R463)
    if !backingRoom s sl then none
    else if 2 ≤ q.tier then (placeIn s sl 0 deckleBytes).map (fun _ => { m with bytesV := deckleBytes, kCarrying := true })
    else (placeIn s sl k (v + deckleBytes)).map (fun c => { m with bytesK := k, bytesV := v + deckleBytes, kCarrying := c })

def setMove (s : State) (qk : Nat) (q : Quire) (m : Option Move) : State := putQuire s qk { q with move := m }

/-- Whether a Quire is where a target takes it. -/
def inTarget (q : Quire) (target sl : Nat) : Bool :=
  match target with
  | 4 => !q.kCarrying
  | 0 | 1 | 2 | 3 => q.tier == target
  | _ => q.slice == sl

/-- Whether some Quire of the node may be demoted (R266). -/
def demotable (s : State) (p : Nat × Quire) : Bool :=
  p.2.tier == 0 && p.2.move.isNone && !p.2.departing && quireComplete s p.1 && !quirePending s p.1
  && !has s.kv.preempted (reamKey p.2.tenant p.2.ream)

def vatSpare (s : State) (t kib : Nat) : Bool := decide (holdingVat s t + kib * 1024 ≤ mib (rd s (K.vatQuotaMib t)))

/-- KiB that a Quire takes in the Vat (R271). -/
def pressKib (s : State) (p : Nat × Quire) : Nat := ceilDiv (pressQuire s p.1 p.2).1.length 1024

/-- The candidates of R266: their tenant has Vat quota to spare for them. -/
def demoteCandidates (s : State) : List (Nat × Quire) :=
  s.kv.quires.filter (fun p => demotable s p && vatSpare s p.2.tenant (pressKib s p))

/-- Whether a demotion runs. -/
def demotionRuns (s : State) : Bool := s.kv.quires.any (fun p => match p.2.move with | some m => m.target == 2 && p.2.tier == 0 | none => false)

/-- Whether a wait for room can end (R263): the Vat is enabled, and some Quire is a candidate for demotion or is being demoted. -/
def roomMayCome (s : State) : Bool := on s K.vatEnable && (demotionRuns s || !(demoteCandidates s).isEmpty)

/-! ## Waiting shares (R160, R272) -/

/-- The stall cause of a Quire's tier. -/
def tierCause (s : State) (q : Quire) : Nat :=
  if q.tier == 3 then 3 else if q.tier == 2 then (if rd s (K.vatKind q.region) == 2 then 2 else 1) else 4

/-- Count a wait that begins (R272). -/
def countStall (s : State) (t cause : Nat) : State :=
  bump s (if cause == 3 then K.stallsSwap t else if cause == 4 then K.stallsRoom t else K.stallsVat t) 1

/-- The longest wait of a ticket. -/
def longer (tk : Tk) (cause ns : Nat) : Tk := if tk.cause = 0 ∨ tk.waitNs < ns then { tk with cause := cause, waitNs := ns } else tk

def ecNs (n : Nat) : Nat := n * 10 / 33

/-- End the wait of a parked share: it goes ahead of all that have not been parked (R160 step 3). -/
def requeue (l : List Share) (x : Share) : List Share :=
  let x := { x with stage := .queued, wants := [], felt := 0 }
  let rest := l.filter (fun y => y.id != x.id)
  rest.takeWhile (fun y => y.wasParked || y.stage != .queued) ++ [x] ++ rest.dropWhile (fun y => y.wasParked || y.stage != .queued)

/-- The wait of a parked share ends: its time counts, and the longest wait of a query on its entry node names its cause (R272). -/
def endPark (s : State) (x : Share) (cause : Nat) : State :=
  let ns := ecNs (s.tm.ec - x.parkAt)
  let s := bump s (K.stallNs (match s.ctxs.find? (fun c => c.work == x.ctx) with | some c => tkTenant c.tk.raw | none => 0)) ns
  { s with att := { s.att with shares := requeue s.att.shares x },
           ctxs := s.ctxs.map (fun c => if c.work == x.ctx && c.root then { c with tk := longer c.tk cause ns } else c) }

/-- A Quire that was asked for has come, or will not come: the shares that wanted it go on (R160 steps 3 and 4). -/
def quireArrived (s : State) (qk cause : Nat) (failed : Bool) : State :=
  let waiting := s.att.shares.filter (fun x => x.stage == .parked && has x.wants qk)
  waiting.foldl (fun t x =>
    let lost := if failed then (x.sheets.filter (fun k => quireOfSheet k == qk)).map (fun k => (k, St.tierFault)) else []
    let x := { x with wants := without x.wants qk, missing := x.missing ++ lost,
                      sheets := if failed then x.sheets.filter (fun k => quireOfSheet k != qk) else x.sheets }
    if x.wants.isEmpty then endPark t x cause
    else { t with att := { t.att with shares := t.att.shares.map (fun y => if y.id == x.id then x else y) } }) s

/-! ## Starting -/

/-- Whether a Vat region is reached by unordered I/O (R303). -/
def pooled (s : State) (region : Nat) : Bool := rd s (K.vatKind region) == 2

/-- A write into Vat or swap space. -/
def vatWrite (s : State) (region start kib : Nat) : State :=
  emit s (.vatWrite (rd s (K.vatBase region) + start * 1024) (kib * 1024) (pooled s region))

/-- A read from Vat or swap space. -/
def vatRead (s : State) (region start kib : Nat) : State :=
  emit s (.vatRead (rd s (K.vatBase region) + start * 1024) (kib * 1024) (pooled s region))

/-- Start a move where there is room; none where there is none. -/
def startMove (s : State) (qk : Nat) (q : Quire) (target sl tk : Nat) : Option State :=
  (planMove s qk q target sl tk).map (fun m => setMove (fresh s).2 qk q (some m))

/-- A move of a Quire has ended: the MOVE tickets that wait for it, and have no move to their tier still queued, wait for it no longer
(R278). -/
def moveTicketDone (s : State) (qk : Nat) (noRoom : Bool) : State :=
  { s with kv := { s.kv with moveTks := s.kv.moveTks.map (fun t =>
      if has t.left qk && !s.kv.queuedMoves.any (fun p => p.1 == qk && p.2 == t.target) then { t with left := without t.left qk, noRoom := t.noRoom || noRoom } else t) } }

/-- The Quires of a MOVE ticket now in its target tier. -/
def movedCount (s : State) (t : MoveTk) : Nat :=
  t.moved + (t.quires.filter (fun k => match tget? s.kv.quires k with | some q => q.tier == t.target | none => false)).length

/-- Whether a Quire of a MOVE ticket is not in its target tier. -/
def elsewhere (s : State) (t : MoveTk) : Bool :=
  t.quires.any (fun k => match tget? s.kv.quires k with | some q => q.tier != t.target | none => false)

/-- Complete the MOVE tickets that have nothing left. -/
def settleMoves (s : State) : State :=
  let done := s.kv.moveTks.filter (fun t => t.left.isEmpty && t.remote.isEmpty)
  let s := { s with kv := { s.kv with moveTks := s.kv.moveTks.filter (fun t => !(t.left.isEmpty && t.remote.isEmpty)) } }
  done.foldl (fun u t =>
    complete u t.tk (if t.quota then St.quota else if t.noRoom || elsewhere u t then St.short else St.ok) (movedCount u t) 0) s

/-- Whether an append writes into a Quire, or its tail Sheet lies there (R119, R121). -/
def appendTouches (r : Nat) (q : Quire) : Bool :=
  tkTenant r == q.tenant && bReam r == q.ream && decide (aLayerFirst r ≤ q.layer) && decide (q.layer < aLayerFirst r + aLayerCount r)
  && decide (aHeadFirst r ≤ q.head) && decide (q.head < aHeadFirst r + aHeadCount r)
  && decide ((aPos r - 1) / 1024 ≤ q.num) && decide (q.num ≤ (aPos r + aTokens r - 1) / 1024)

/-- End the wait of an append that stalls (R272): its time counts, and the longest wait names the cause. -/
def endWait (s : State) (a : App) : State × App :=
  if a.wait = 1 ∨ a.wait = 2 then
    let ns := ecNs (s.tm.ec - a.waitAt)
    (bump s (K.stallNs (tkTenant a.tk.raw)) ns, { a with wait := 0, tk := longer a.tk a.cause ns })
  else (s, { a with wait := 0 })

/-- The appends that wait for a Quire complete with 0x31 (R260). -/
def failWaiting (s : State) (q : Quire) : State :=
  let mine (a : App) : Bool := a.wait == 1 && appendTouches a.tk.raw q
  let l := s.att.appends.filter mine
  l.foldl (fun t a => let (t, a) := endWait t a; completeAs t a.tk St.tierFault 0 0 [] false)
    { s with att := { s.att with appends := s.att.appends.filter (fun a => !mine a) } }

/-- Effects of a failed move (R260). -/
def moveFailed (s : State) (qk : Nat) (q : Quire) (target : Nat) : State :=
  let s := event (bump s K.moveFailures 1) 0x50 1 q.slice 1 (packBits [(28, q.num), (4, target), (32, q.ream), (8, q.tenant), (12, q.layer), (8, q.head)])
  if target == 0 then failWaiting (quireArrived (bump s (K.tierFaults q.tenant) 1) qk (tierCause s q) true) q else s

/-- A move finds no destination space: an error that each of its restarts meets again, so that it fails (R260); a swap that finds no
room is counted as such (R274). -/
def moveNoRoom (s : State) (qk : Nat) (q : Quire) (target restarts : Nat) : State :=
  if target == 3 then bump s (K.swapNoRoom q.tenant) 1
  else settleMoves (moveTicketDone (moveFailed (bump s K.moveRestarts (rd s K.moveRetryLimit - restarts)) qk q target) qk true)

/-- Ask for a move of a Quire to a tier (R259): joins a move to the same place, waits behind another, starts where there
is room, waits for room, or fails for want of it. -/
def askMove (s : State) (qk target tk : Nat) : State :=
  match tget? s.kv.quires qk with
  | none => s
  | some q =>
    let later := { s with kv := { s.kv with queuedMoves := s.kv.queuedMoves ++ [(qk, target)] } }
    match q.move with
    | some m => if m.target == target then s else later
    | none =>
      if inTarget q target q.slice then s
      else
        match startMove s qk q target q.slice tk with
        | some s' => s'
        | none => if target ≤ 1 && roomMayCome s then later else moveNoRoom s qk q target 0

/-! ## Lost ranges (R401) -/

/-- Add a lost range: 65,536 at most, and then one range for the whole Ream. -/
def addLost (s : State) (r : LostRange) : State :=
  let l := s.rel.lost
  let same (x y : LostRange) : Bool := x.tenant == y.tenant && x.ream == y.ream
  let whole (y : LostRange) : List LostRange :=
    l.filter (fun x => !same x y) ++ [{ y with layer := 0xFFF, head := 0xFF, sheetFirst := 0, sheetLast := 0xFFFFFFFF }]
  let l := if l.any (fun x => x == r) then l
    else if l.length < 65536 then l ++ [r]
    else if l.any (same r) then whole r
    else match l.find? (fun y => decide (1 < (l.filter (same y)).length)) with
      | some y => whole y ++ [r]
      | none => l
  { s with rel := { s.rel with lost := l } }

/-- The lost range of one Quire. -/
def quireLost (q : Quire) : LostRange :=
  { tenant := q.tenant, ream := q.ream, layer := q.layer, head := q.head, sheetFirst := 16 * q.num, sheetLast := 16 * q.num + 15 }

/-! ## Freeing a source (R258 step 5, R445) -/

/-- Free the space that a source held. -/
def freeSource (s : State) (x : Source) : State :=
  match x.tier with
  | 0 => clearQuireSpace s x.slice x.bytesK x.bytesV x.kCarrying
  | 1 => bump s K.feltClears 1
  | _ => vatWrite s x.region x.start x.kib

/-- Release the references of a share. -/
def releaseRefs (s : State) (share : Nat) : State :=
  { s with kv := { s.kv with sources := s.kv.sources.map (fun x => { x with shares := without x.shares share }) },
           att := { s.att with shares := s.att.shares.map (fun y => if y.id == share then { y with refs := [] } else y) } }

/-- Free the sources of a Quire that no earlier reference holds any longer. -/
def freeSources (s : State) (qk : Nat) : State :=
  let mine (x : Source) : Bool := x.quire == qk && x.shares.isEmpty
  (s.kv.sources.filter mine).foldl freeSource { s with kv := { s.kv with sources := s.kv.sources.filter (fun x => !mine x) } }

/-! ## The switch (R258 step 4) -/

/-- The Quire after its move, and what it leaves at its source. -/
def switched (q : Quire) (m : Move) : Quire × Source :=
  let src : Source :=
    { quire := quireKey q.tenant q.ream q.layer q.head q.num, slice := q.slice, tier := q.tier,
      bytesK := q.kShare, bytesV := q.vShare - deckleBytes, kCarrying := q.kCarrying, region := q.region, kib := q.kib, start := q.start, shares := [] }
  match m.target with
  | 0 => ({ q with tier := 0, kShare := m.bytesK, vShare := m.bytesV + deckleBytes, kCarrying := m.kCarrying, region := 0,
                   kib := 0, vatPoison := false, move := none }, src)
  | 1 => ({ q with tier := 1, kShare := 0, vShare := deckleBytes, region := 0, kib := 0, move := none }, src)
  | 2 => ({ q with tier := 2, kShare := 0, vShare := deckleBytes, region := m.region, kib := m.kib, start := m.start, move := none }, src)
  | 3 => ({ q with tier := 3, kShare := 0, vShare := deckleBytes, region := m.region, kib := m.kib, start := m.start, move := none }, src)
  | 4 => ({ q with kCarrying := false, kShare := m.bytesK, move := none }, { src with bytesV := 0 })
  | 7 => ({ q with move := none }, { src with bytesK := 0, bytesV := 0, tier := 1, kib := 0 })
  | _ => ({ q with slice := m.slice, tier := if q.tier == 1 then 0 else q.tier, kShare := m.bytesK, vShare := m.bytesV,
                   kCarrying := m.kCarrying, move := none },
          { src with tier := 0, bytesK := if q.tier == 0 then q.kShare else 0, bytesV := q.vShare, kib := 0 })

/-- Count a switch (R188, R280). -/
def countSwitch (s : State) (qk : Nat) (q : Quire) (m : Move) : State :=
  match m.target with
  | 0 => if q.tier == 2 then bump s K.quiresFaultedIn 1 else s
  | 2 =>
    let p := pressQuire s qk q
    bump (bump (bump (bump s K.quiresDemoted 1) K.bytesPressedSource (quireImageBytes s qk)) K.bytesPressedOut p.1.length) K.rawBlocks p.2
  | 4 => bump s (K.quiresRebalanced q.slice) 1
  | 5 => bump s (K.salvageQuires q.slice) 1
  | _ => s

/-- Run the next queued move of a Quire, if it is then not in that tier (R259). -/
def nextQueued (s : State) (qk : Nat) : State :=
  match s.kv.queuedMoves.find? (fun p => p.1 == qk) with
  | none => s
  | some p =>
    askMove { s with kv := { s.kv with queuedMoves := s.kv.queuedMoves.filter (fun x => !(x == p)) } } qk p.2 0

/-- Queue the rebuild of a Quire's Deckles whose codebook the node does not hold (R195). -/
def rebuildStale (s : State) (qk : Nat) : State :=
  let l := (s.kv.deckles.filter (fun p => quireOfSheet p.1 == qk && !has s.kv.builds p.1 && (match tget? s.kv.sheets p.1 with
    | some sh => staleDeckle s sh.tenant sh.layer sh.head p.2 | none => false))).map Prod.fst
  { s with kv := { s.kv with builds := s.kv.builds ++ l } }

/-- Switch a Quire's entry to its new place; its source stays until no earlier reference holds it. -/
def switchMove (s : State) (qk : Nat) (q : Quire) (m : Move) : State :=
  let cause := tierCause s q
  let s := countSwitch s qk q m
  let (i, s) := fresh s
  let (q', src) := switched q m
  let q' := { q' with place := i }
  let refs := quireRefs s qk
  let moved := decide (q'.slice ≠ q.slice)
  let s := if moved then dropQuireEntry s q else s
  let s := putQuire s qk q'
  let s := if moved then rebuildStale (makeQuireEntry s q') qk else s
  let s := if 2 ≤ q.tier ∧ q.tier ≠ q'.tier then vatRead s q.region q.start q.kib else s
  let s := if m.target == 2 || m.target == 3 then vatWrite s m.region m.start m.kib else s
  let s := { s with kv := { s.kv with sources := s.kv.sources ++ [{ src with shares := refs }] } }
  let s := if q'.tier ≤ 1 then quireArrived s qk cause false else s
  nextQueued (settleMoves (moveTicketDone s qk false)) qk

/-- Abandon a move before its switch: its copy is freed. -/
def dropMove (s : State) (qk : Nat) (q : Quire) : State :=
  match q.move with
  | none => s
  | some m =>
    let s := setMove s qk q none
    if m.target == 1 || m.target == 2 || m.target == 3 then s
    else clearQuireSpace s m.slice m.bytesK m.bytesV m.kCarrying

/-- The append rule of R259: a move to the Vat is abandoned; a move that waited behind it runs. -/
def abandonMove (s : State) (qk : Nat) (q : Quire) : State :=
  nextQueued (settleMoves (moveTicketDone (bump (dropMove s qk q) K.movesAbandoned 1) qk true)) qk

/-- An error meets a move (R260): it starts again, or fails after move_retry_limit restarts. -/
def errorMove (s : State) (qk : Nat) (q : Quire) (m : Move) : State :=
  if m.restarts < rd s K.moveRetryLimit then
    let s := bump (dropMove s qk q) K.moveRestarts 1
    match planMove s qk { q with move := none } m.target m.slice m.tk with
    | some m' => setMove (fresh s).2 qk q (some { m' with restarts := m.restarts + 1 })
    | none => nextQueued (moveNoRoom s qk { q with move := none } m.target (m.restarts + 1)) qk
  else
    let s := moveFailed (dropMove s qk q) qk q m.target
    nextQueued (settleMoves (moveTicketDone s qk true)) qk

/-- Moves that wait for room are tried again (R263): those of Quires with no move running. -/
def retryRoom (s : State) : State :=
  s.kv.queuedMoves.foldl (fun t p =>
    match tget? t.kv.quires p.1 with
    | none => { t with kv := { t.kv with queuedMoves := t.kv.queuedMoves.filter (fun x => x.1 != p.1) } }
    | some q => if q.move.isSome then t else nextQueued t p.1) s

end Sys2Proof.Machine
end

