-- ==== Sys2Proof/Machine/Appends.lean ====
section
/-! DEFINITION. Appends and retirement on the home node: formats (R102, R106), admission (R117 to R121, R149, R262, R263),
withdrawal, retirement and reclamation (R133 to R136). -/

namespace Sys2Proof.Machine

/-! ## Formats (R102, R106) -/

def ruleField (r : Nat) (k : Bool) : Nat := if k then bits r 20 4 else bits r 16 4

def ruleMatches (s : State) (r t layer : Nat) (k : Bool) : Bool :=
  bitB r 63 && (bitB r 62 || (bits r 54 8 == t && on s (K.tenantEnable t))) && decide (bits r 36 12 ≤ layer)
  && decide (layer ≤ bits r 24 12) && ruleField r k != 0

/-- Subindex of format rule n (1 to 16): 0x4001:n. -/
def ruleKey (n : Nat) : Nat := keyOf 0x4001 n

/-- The format of a half of a new Sheet. -/
def formatFor (s : State) (t layer : Nat) (k : Bool) : Nat :=
  let dflt := gv s (if k then K.defaultKFormat else K.defaultVFormat)
  if !on s K.formatRulesEnable then dflt
  else
    match ((upFrom 1 16).map (fun n => gv s (ruleKey n))).find? (fun r => ruleMatches s r t layer k) with
    | some r => ruleField r k
    | none => dflt

/-! ## What an append addresses -/

/-- The layer and head pairs of an append, in ascending order. -/
def appendPairs (r : Nat) : List (Nat × Nat) :=
  (upFrom (aLayerFirst r) (aLayerCount r)).flatMap (fun l => (upFrom (aHeadFirst r) (aHeadCount r)).map (fun h => (l, h)))

/-- The Sheet numbers that its tokens lie in. -/
def appendSheets (r : Nat) : List Nat :=
  upFrom (aPos r / 64) ((aPos r + aTokens r - 1) / 64 - aPos r / 64 + 1)

/-- Fields outside their ranges (R149), as the ticket alone shows. -/
def appendFieldsBad (r : Nat) : Bool :=
  aTokens r == 0 || decide (64 < aTokens r) || aHeadCount r == 0 || decide (256 < aHeadCount r)
  || decide (255 < aHeadFirst r) || aLayerCount r == 0 || decide (4096 < aLayerCount r) || decide (4095 < aLayerFirst r)
  || decide (2 ^ 38 - 1 < aPos r + aTokens r - 1) || dimOf (aDim r) == 0

/-- Counts and dimension that do not fit the Ream. -/
def outsideReam (r layers heads dim : Nat) : Bool :=
  decide (layers < aLayerFirst r + aLayerCount r) || decide (heads < aHeadFirst r + aHeadCount r) || dim != aDim r

/-- Whether an append's positions meet a lost range (R401). -/
def appendLost (s : State) (r : Nat) : Bool :=
  s.rel.lost.any (fun x => x.tenant == tkTenant r && x.ream == bReam r
    && (x.layer == 0xFFF || (decide (aLayerFirst r ≤ x.layer) && decide (x.layer < aLayerFirst r + aLayerCount r)))
    && (x.head == 0xFF || (decide (aHeadFirst r ≤ x.head) && decide (x.head < aHeadFirst r + aHeadCount r)))
    && decide (x.sheetFirst ≤ (aPos r + aTokens r - 1) / 64) && decide (aPos r / 64 ≤ x.sheetLast))

/-! ## Space for new Sheets (R118, R184, R185, R262, R263) -/

/-- Result of a reservation: the state with Sheets made, or no room. -/
def addSheet (s : State) (r d layer head num : Nat) : Option State :=
  let t := tkTenant r
  let ream := bReam r
  let kf := formatFor s t layer true
  let vf := formatFor s t layer false
  let qk := quireKey t ream layer head (num / 16)
  let (i, s) := fresh s
  let sh := { newSheet t ream layer head num (aDim r) kf vf with bankSet := Config.freeNat i % 64 }
  match tget? s.kv.quires qk with
  | some q =>
    -- a later Sheet uses its own share, and takes what it needs beyond it (R185)
    let l := (quireSheets s qk).map Prod.snd
    let (kf0, vf0, d0) := quireFmts l
    let moreK := 1024 * (halfGranules kf d + extGranules kf d) - 1024 * (halfGranules kf0 d0 + extGranules kf0 d0)
    let moreV := 1024 * (halfGranules vf d + extGranules vf d) - 1024 * (halfGranules vf0 d0 + extGranules vf0 d0)
    let st := if q.kCarrying then carryingStack q.slice else scoringStack q.slice
    if q.tier == 1 && decide (feltHomeFree s q.slice < sheetK sh + sheetV sh + 256) then none
    else if q.tier == 0 && (decide (stackFree s st < moreK) || decide (stackFree s (carryingStack q.slice) < moreV + (if q.kCarrying then moreK else 0))) then none
    else
      let q := if q.tier == 0 then { q with kShare := q.kShare + moreK, vShare := q.vShare + moreV } else q
      some (putSheet (putQuire s qk q) sh)
  | none =>
    let k := quireK kf d
    let v := quireV vf d
    match placeQuire s (backingRoom s) ream layer head (num / 16) k v with
    | none => none
    | some (sl, car) =>
      let (i, s) := fresh s
      let q : Quire :=
        { tenant := t, ream := ream, layer := layer, head := head, num := num / 16, slice := sl, tier := 0,
          kCarrying := car, tookIn := false, departing := false, record := Config.freeNat i % 2 ^ 32, touch := curStep s,
          kShare := k, vShare := v, region := 0, kib := 0, start := 0, vatPoison := false, move := none, place := i,
          deckled := [] }
      some (putSheet (makeQuireEntry (putQuire s qk q) q) sh)

def addSheets (r d : Nat) : State → List (Nat × Nat × Nat) → Option State
  | s, [] => some s
  | s, (l, h, n) :: rest =>
    match addSheet s r d l h n with
    | none => none
    | some t => addSheets r d t rest

/-- The Sheets that an append creates: layer, head and number. -/
def newSheetsOf (s : State) (r : Nat) : List (Nat × Nat × Nat) :=
  (appendPairs r).flatMap (fun p => ((appendSheets r).filter (fun n =>
    (tget? s.kv.sheets (sheetKey (tkTenant r) (bReam r) p.1 p.2 n)).isNone)).map (fun n => (p.1, p.2, n)))

/-- Bytes that R262 reserves for them. -/
def reservation (s : State) (r d : Nat) (l : List (Nat × Nat × Nat)) : Nat :=
  sumNat (l.map (fun x => newSheetBytes (formatFor s (tkTenant r) x.1 true) (formatFor s (tkTenant r) x.1 false) d))

/-! ## Writing the tokens (R120) -/

/-- Codes of one vector of the payload. -/
def vecAt (payload : List Byte) (off d w : Nat) : List Nat := (chunks w (d + 1) ((payload.drop off).take (d * w))).map ofBytes

/-- Write one token into its Sheet, counting saturated and non-finite inputs (R94). -/
def writeOne (s : State) (r d : Nat) (payload : List Byte) (li hi ti : Nat) (p : Nat × Nat) : State :=
  let w := inWidth (tkInFmt r)
  let off := 128 + ((li * aHeadCount r + hi) * aTokens r + ti) * 2 * d * w
  let kv := vecAt payload off d w
  let vv := vecAt payload (off + d * w) d w
  let pos := aPos r + ti
  match tget? s.kv.sheets (sheetKey (tkTenant r) (bReam r) p.1 p.2 (pos / 64)) with
  | none => s
  | some sh =>
    let f := inSpec (tkInFmt r)
    let kc := convToken f sh.kHalf.fmt kv
    let vc := convToken f sh.vHalf.fmt vv
    let bad := ((kv ++ vv).filter (fun x => (decodeF (fmtSpec f) x).nonfinite)).length
    let sat := ((kc ++ vc).filter Conv.sat).length
    let seg := ofBytes ((payload.drop (2 * ti)).take 2)
    bump (bump (putSheet s (writeToken sh (kc.map Conv.code) (vc.map Conv.code) seg)) K.nonfiniteInputCount bad) K.saturationCount sat

def writeAll (s : State) (r d : Nat) (payload : List Byte) : State :=
  (upFrom 0 (aLayerCount r)).foldl (fun s li => (upFrom 0 (aHeadCount r)).foldl (fun s hi =>
    (upFrom 0 (aTokens r)).foldl (fun s ti => writeOne s r d payload li hi ti (aLayerFirst r + li, aHeadFirst r + hi)) s) s) s

/-- One rewrite of the metadata of every Sheet written (R115), and the touch step of their Quires (R265). -/
def touchSheets (s : State) (writes : List (Nat × Nat)) : State :=
  writes.foldl (fun s w =>
    let s := { s with kv := { s.kv with sheets := tmod s.kv.sheets w.1 rewriteMeta } }
    { s with kv := { s.kv with quires := tmod s.kv.quires (quireOfSheet w.1) (fun q => { q with touch := curStep s }) } }) s


/-- Sheets written, with the tokens of each. -/
def writesOf (r : Nat) : List (Nat × Nat) :=
  (appendPairs r).flatMap (fun p => (appendSheets r).map (fun n =>
    (sheetKey (tkTenant r) (bReam r) p.1 p.2 n,
     ((upFrom (aPos r) (aTokens r)).filter (fun q => q / 64 == n)).length)))

/-! ## Admission (R120) -/

/-- End of an append before its admission. -/
def failAppend (s : State) (app : App) (status count pos : Nat) : State :=
  let s := { s with att := { s.att with appends := s.att.appends.filter (fun a => a.tk.id != app.tk.id) } }
  let (s, app) := endWait s app
  completeAs s app.tk status count pos [] false

/-- Let an append wait: 1 for its tail Sheet, 2 for room (R121, R263), 3 behind an earlier append of its Ream (R120), which is no stall. -/
def waitAppend (s : State) (app : App) (wait cause : Nat) : State :=
  let again := s.att.appends.any (fun a => a.tk.id == app.tk.id && a.wait == wait)
  let (s, app) := if again then (s, app) else endWait s app
  let s := if again || wait == 3 then s else countStall s (tkTenant app.tk.raw) cause
  let app := if again then app else { app with wait := wait, waitAt := s.tm.ec, cause := cause }
  let rest := s.att.appends
  if rest.any (fun a => a.tk.id == app.tk.id) then
    { s with att := { s.att with appends := rest.map (fun a => if a.tk.id == app.tk.id then app else a) } }
  else { s with att := { s.att with appends := rest ++ [app] } }

/-- The first pair whose next position differs (R119). -/
def firstConflict (s : State) (r : Nat) : Option Nat :=
  firstSome ((appendPairs r).map (fun p =>
    let n := nextPos s (groupOf (tkTenant r) (bReam r) p.1 p.2)
    if n == aPos r then none else some n))

/-- The Quires that the append's Sheets lie in, where they exist. -/
def appendQuires (s : State) (r : Nat) : List (Nat × Quire) :=
  ((appendPairs r).flatMap (fun p => (appendSheets r).filterMap (fun n =>
    let k := quireKey (tkTenant r) (bReam r) p.1 p.2 (n / 16)
    (tget? s.kv.quires k).map (fun q => (k, q))))).eraseDups

/-- The Quires of the append's tail Sheets (R119). -/
def tailQuires (s : State) (r : Nat) : List (Nat × Quire) :=
  ((appendPairs r).filterMap (fun p =>
    match (sheetsOf s (groupOf (tkTenant r) (bReam r) p.1 p.2)).getLast? with
    | some sh => (tget? s.kv.quires (quireOf sh)).map (fun q => (quireOf sh, q))
    | none => none)).eraseDups

/-- What a Quire's move asks of an append (R121, R259): nothing, or a wait. -/
def moveWait (s : State) (qk : Nat) (w : Option Nat) : Option Nat :=
  match tget? s.kv.quires qk with
  | none => w
  | some q =>
    match q.move with
    | none => w
    | some m => if m.target == 2 || m.target == 3 then w else some (w.getD (tierCause s q))

/-- Settle the moves that the append meets (R121, R259) in the Quires that it writes, and fault in its tail Sheets: the state, and
whether it must wait, with the cause. -/
def appendMoves (s : State) (l tails : List (Nat × Quire)) : State × Option Nat :=
  let (s, w) := ((l ++ tails).eraseDups).foldl (fun (a : State × Option Nat) p =>
    if 2 ≤ p.2.tier then (askMove a.1 p.1 0 0, some (tierCause a.1 p.2)) else a) (s, none)
  l.foldl (fun (a : State × Option Nat) p =>
    let (s, w) := a
    if 2 ≤ p.2.tier then (s, w)
    else
      let s := if p.2.move.any (fun m => m.target == 2) then abandonMove s p.1 p.2 else s
      (s, moveWait s p.1 w)) (s, w)

/-- The counts behind R137, by slice of the Ream. -/
def reamCount (s : State) (f : Nat → Nat) (t ream : Nat) : State := bump s (f (reamSlice s t ream)) 1

/-- Whether an earlier append of the same Ream has not ended its admission (R120). -/
def behindAppend (s : State) (app : App) : Bool :=
  (s.att.appends.takeWhile (fun a => a.tk.id != app.tk.id)).any (fun a =>
    a.wait != 0 && tkTenant a.tk.raw == tkTenant app.tk.raw && bReam a.tk.raw == bReam app.tk.raw)

/-- Take an append's tokens in (R120): its Sheets are there, and its admission ends. -/
def enterAppend (s : State) (app : App) (r d : Nat) : State :=
  let (s, app) := endWait s app
  let writes := writesOf r
  let s := touchSheets (writeAll s r d app.payload) writes
  let app := { app with writes := writes }
  let s := dropDl s app.tk.id
  let rest := s.att.appends.filter (fun a => a.tk.id != app.tk.id)
  { s with att := { s.att with appends := rest ++ [app] } }

/-- Whether an append names counts or a dimension outside its Ream, or, where it creates one, outside the ranges (R117, R149). -/
def appendOutside (s : State) (r : Nat) : Bool :=
  let (layers, heads, dim) := match knownReam s (tkTenant r) (bReam r) with
    | some m => (m.layers, m.heads, m.dim)
    | none => (aLayers r, aHeads r, aDim r)
  layers == 0 || decide (4096 < layers) || heads == 0 || decide (256 < heads) || outsideReam r layers heads dim

/-- The first outcome that ends an append at its home, if one does: its Ream is retired (R134), its range lost (R401), its Ream pre-empted
(R275) or sealed (R368), or its position wrong (R119). DESIGN CHOICE (log entry 131): the manual gives 0x26 no order against 0x23, 0x24
and 0x12. -/
def appendFails (s : State) (r : Nat) : Option Nat :=
  let m := knownReam s (tkTenant r) (bReam r)
  if m.any Ream.retiredSet then some St.revoked
  else if appendLost s r then some St.stateLost
  else if has s.kv.preempted (reamKey (tkTenant r) (bReam r)) then some St.preempted
  else if m.any Ream.sealed then some St.rights
  else if (firstConflict s r).isSome then some St.versionConflict
  else if (writesOf r).any (fun x => match tget? s.kv.sheets x.1 with | some sh => sh.poisoned | none => false) then some St.poisoned
  else if !(newSheetsOf s r).isEmpty && !quotaAllows s (tkTenant r) (reservation s r (dimOf (aDim r)) (newSheetsOf s r)) then some St.quota
  else none

/-- End an append with an outcome of appendFails, counted. -/
def endAppend (s : State) (app : App) (c : Nat) : State :=
  let t := tkTenant app.tk.raw
  let ream := bReam app.tk.raw
  if c == St.revoked then failAppend (reamCount s K.appendsRevoked t ream) app c 0 0
  else if c == St.versionConflict then
    let n := (firstConflict s app.tk.raw).getD 0
    failAppend (bump (reamCount s K.appendPositionConflicts t ream) K.admissionRefusedCount 1) app c (n % 2 ^ 32) n
  else if c == St.quota then failAppend (bump s (K.quotaRefusals t) 1) app c 0 0
  else failAppend s app c 0 0

/-- The Ream that an append creates at position 0 (R117); one that a window entry stands for gets its record. -/
def reamFor (s : State) (r : Nat) : State :=
  match knownReam s (tkTenant r) (bReam r) with
  | some _ => setReam s (tkTenant r) (bReam r) id
  | none =>
    let m : Ream := { tenant := tkTenant r, id := bReam r, layers := aLayers r, heads := aHeads r, dim := aDim r, retired := 0,
                      retiredSet := false, preempted := false, sealed := false, reclaimed := false }
    makeReamEntry { s with kv := { s.kv with reams := tset s.kv.reams (reamKey (tkTenant r) (bReam r)) m } } m

/-- Make the Sheets and the Ream of an append, where there is room. DESIGN CHOICE (log entry 135): a REAM entry that finds no room in a
backing region gives the node no room, as a QUIRE entry does (R248). -/
def makeRoom (s : State) (r : Nat) : Option State :=
  match addSheets r (dimOf (aDim r)) s (newSheetsOf s r) with
  | none => none
  | some t => if (knownReam s (tkTenant r) (bReam r)).isSome || (copySlices t).all (entryRoom t) then some (reamFor t r) else none

/-- Admit an append on its home node, or complete it with its failure, or let it wait. -/
def admitAppend (s : State) (app : App) : State :=
  let r := app.tk.raw
  if behindAppend s app then waitAppend s app 3 0
  else if appendOutside s r then failAppend (bump s K.admissionRefusedCount 1) app St.bounds 0 0
  else
    match appendFails s r with
    | some c => endAppend s app c
    | none =>
      match appendMoves s (appendQuires s r) (tailQuires s r) with
      | (s, some cause) => waitAppend s app 1 cause
      | (s, none) =>
        match makeRoom s r with
        | none =>
          if roomMayCome s then waitAppend s app 2 4
          else failAppend (bump s K.roomRefusals 1) app St.quota 0 0
        | some s' => enterAppend s' app r (dimOf (aDim r))

/-- Try the appends that wait, in admission order. -/
def retryAppends (s : State) : State :=
  (s.att.appends.filter (fun a => a.wait != 0)).foldl (fun t a =>
    match t.att.appends.find? (fun x => x.tk.id == a.tk.id && x.wait != 0) with
    | some x => admitAppend t x
    | none => t) s

/-! ## Withdrawal -/

/-- Take back the tokens that an append wrote (R124, R133, R274): they are the last ones pending, for an append is withdrawn with all
that were admitted to its Ream after it. DESIGN CHOICE (log entry 133): a Sheet that it created stays, empty, and is its group's tail
Sheet, from which the next position is counted. -/
def withdrawAppend (s : State) (a : App) : State :=
  a.writes.foldl (fun t w => { t with kv := { t.kv with sheets := tmod t.kv.sheets w.1 (fun sh => withdraw sh w.2) } }) s

/-- Withdraw every pending append of a Ream, each completing with a status; those committed or already withdrawn are
not in the list. -/
def withdrawReam (s : State) (t ream status : Nat) : State :=
  let l := s.att.appends.filter (fun a => tkTenant a.tk.raw == t && bReam a.tk.raw == ream)
  let s := { s with att := { s.att with appends := s.att.appends.filter (fun a => !(tkTenant a.tk.raw == t && bReam a.tk.raw == ream)) } }
  l.reverse.foldl (fun u a =>
    let (u, a) := endWait (withdrawAppend u a) a
    let u := if status == St.revoked then reamCount u K.appendsRevoked t ream else u
    completeAs u a.tk status 0 0 [] false) s

/-! ## Retirement and reclamation -/

/-- Retire a Ream at the COMMIT of step n (R133). -/
def retireReam (s : State) (n t ream : Nat) (m : Ream) : State :=
  let s := withdrawReam s t ream St.revoked
  let m := { m with retired := n, retiredSet := true }
  let s := { s with kv := { s.kv with
      reams := tset s.kv.reams (reamKey t ream) m } }
  retireReamEntry s m

/-- The snapshot age limit of a tenant, within 1 to 255 (R125). -/
def ageLimit (s : State) (t : Nat) : Nat := max 1 (min 255 (rd s (K.snapshotAgeLimit t)))

/-- Whether some share holds a reference to a Sheet of a Ream. -/
def reamReferenced (s : State) (t ream : Nat) : Bool :=
  s.att.shares.any (fun x => x.refs.any (fun k => k / 2 ^ 52 == reamKey t ream))

/-- Free a Quire with its Sheets and Deckles in every tier. -/
def freeQuire (s : State) (qk : Nat) (q : Quire) : State :=
  let s := settleMoves (moveTicketDone (dropMove s qk q) qk false)
  let s := dropQuireEntry s q
  let s := clearQuireSpace s q.slice q.kShare q.vShare q.kCarrying
  let s := if q.tier == 1 then bump s K.feltClears 1
    else if 2 ≤ q.tier then vatWrite s q.region q.start q.kib else s
  { s with kv := { s.kv with
      quires := terase s.kv.quires qk,
      sheets := s.kv.sheets.filter (fun p => quireOfSheet p.1 != qk),
      deckles := s.kv.deckles.filter (fun p => quireOfSheet p.1 != qk),
      builds := s.kv.builds.filter (fun k => quireOfSheet k != qk),
      queuedMoves := s.kv.queuedMoves.filter (fun p => p.1 != qk) } }

/-- Reclaim a Ream (R135): Sheets, extensions, Quires, directory entries; its ID stays known until the next phase 0
(R136), and its lost ranges are cleared through the Lead (R401). -/
def reclaimReam (s : State) (t ream : Nat) (m : Ream) : State :=
  let slice := reamSlice s t ream
  let qs := s.kv.quires.filter (fun p => p.2.tenant == t && p.2.ream == ream)
  let s := qs.foldl (fun u p => freeQuire u p.1 p.2) s
  let s := dropReamEntry s t ream
  let s := { s with kv := { s.kv with reams := tset s.kv.reams (reamKey t ream) { m with reclaimed := true },
                                      preempted := without s.kv.preempted (reamKey t ream) } }
  let s := bump s (K.reamsReclaimed slice) 1
  mgmt s (leadNode s) (.lostRangeClear t ream)

/-- Whether a move of a Quire of a Ream runs (R259). -/
def reamMoves (s : State) (t ream : Nat) : Bool := s.kv.quires.any (fun p => p.2.tenant == t && p.2.ream == ream && p.2.move.isSome)

/-- The Reams that a COMMIT of step n reclaims (R135); a move that runs ends first (R259). -/
def reclaimAll (s : State) (n : Nat) : State :=
  (s.kv.reams.filter (fun p => p.2.retiredSet && !p.2.reclaimed && decide (p.2.retired + ageLimit s p.2.tenant ≤ n)
    && !reamMoves s p.2.tenant p.2.id && !reamReferenced s p.2.tenant p.2.id)).foldl (fun u p => reclaimReam u p.2.tenant p.2.id p.2) s

end Sys2Proof.Machine
end

