-- ==== Sys2Proof/Machine/Search.lean ====
section
/-! DEFINITION. Deckles and their building (R191 to R195), selection (R196 to R198), vector indexes, filters and SEARCH
tickets (R200 to R214). -/

namespace Sys2Proof.Machine

/-! ## Vectors -/

/-- The inner product of a query in the broadcast form with exact values, in groups (R97, R98). -/
def qDot (group : Nat) (q : List Nat) (c : List Val) : F32 :=
  accumulate group ((q.zip c).map (fun p => mulV (bcastVal p.1) p.2))

/-- The squares of some FP32 values, each exact. -/
def squares (a : List F32) : List Val := a.map (fun x => mulV (fp32Val x) (fp32Val x))

/-- The differences of two vectors in FP32. -/
def diffs (a b : List F32) : List F32 := (a.zip b).map (fun p => fsub p.1 p.2)

/-- Squared L2 distance (R190, R206, R210): the squares are exact, and each group of them is summed exactly (R98). -/
def sqDist (group : Nat) (a b : List F32) : F32 := accumulate group (squares (diffs a b))

/-- The square of a norm. -/
def sqNorm (a : List F32) : F32 := accumulate 64 (squares a)

/-- The values of codes of a format as FP32. -/
def toF32s (f : Nat) (l : List Nat) : List F32 := l.map (fun c => toF32 (decodeF (fmtSpec f) c))

/-- A query's elements in the broadcast form. -/
def bcastQuery (f : Nat) (l : List Nat) : List Nat := l.map (fun c => (toBcast (decodeF (fmtSpec f) c)).code)

/-- Elements in the broadcast form as FP32, which holds each exactly. -/
def bcastF32s (q : List Nat) : List F32 := q.map (fun c => toF32 (bcastVal c))

/-- A value rounded toward +∞ to FP16. -/
def upFp16 (x : F32) : Nat :=
  match fp32Val x with
  | .fin _ 0 _ => 0
  | .fin _ m e => scaleUp m e 1
  | .inf _ => 0x7C00
  | .nan => 0x7E00

def fp16F32 (c : Nat) : F32 := toF32 (decodeF (fmtSpec 2) c)

/-- The decoded keys of a Sheet, token by token. -/
def keysOf (sh : Sheet) : List (List F32) :=
  (upFrom 0 64).map (fun t => (upFrom 0 (dimOf sh.dim)).map (fun c =>
    let e := elemOf sh.kHalf t c
    match e.2 with | some sc => toF32 (mulV e.1 sc) | none => toF32 e.1))

/-! ## Deckles (R194) -/

/-- Centroid c of sub-quantiser u: m elements. -/
def centroid (b : Codebook) (u c : Nat) : List F32 :=
  let m := dimOf b.dim / 16
  toF32s b.fmt (((b.codes.drop ((u * 256 + c) * m))).take m)

/-- The index of the least value, ties to the lowest. -/
def argMin (l : List F32) : Nat :=
  (l.foldl (fun (a : Nat × Nat × Option F32) x =>
    match a.2.2 with
    | none => (a.1 + 1, a.1, some x)
    | some y => if flt x y then (a.1 + 1, a.1, some x) else (a.1 + 1, a.2.1, some y)) (0, 0, none)).2.1

/-- The index of the greatest value, ties to the lowest. -/
def argMax (l : List F32) : Nat :=
  (l.foldl (fun (a : Nat × Nat × Option F32) x =>
    match a.2.2 with
    | none => (a.1 + 1, a.1, some x)
    | some y => if flt y x then (a.1 + 1, a.1, some x) else (a.1 + 1, a.2.1, some y)) (0, 0, none)).2.1

/-- Further seeds: the token farthest from its nearest seed, until P seeds or no distance is left. -/
def seeds (ks : List (List F32)) : Nat → List Nat → List Nat
  | 0, l => l
  | fuel + 1, l =>
    let near := ks.map (fun k => (l.map (fun i => sqDist 64 k (nth ks i []))).foldl (fun a b => if flt b a then b else a) fPosInf)
    let i := argMax near
    if flt 0 (nth near i 0) then seeds ks fuel (l ++ [i]) else l

/-- The Deckle of a full Sheet. -/
def buildDeckle (s : State) (sh : Sheet) : Deckle :=
  let ks := keysOf sh
  let norms := ks.map sqNorm
  let maxNorm := upFp16 (fsqrt (nth norms (argMax norms) 0))
  let none_ : Deckle := { reps := 0, repOf := List.replicate 64 0, codes := [], residual := [], maxNorm := maxNorm,
                          codebookCrc := 0, firstStep := sh.createdStep, alive := sh.alive, poisoned := false }
  match bookFor s sh.tenant sh.layer sh.head with
  | none => none_
  | some b =>
    if b.dim != sh.dim then none_
    else
      let m := dimOf b.dim / 16
      let sd := seeds ks (gv s K.deckleReps - 1) [argMax norms]
      let repOf := ks.map (fun k => argMin (sd.map (fun i => sqDist 64 k (nth ks i []))))
      let reps := (upFrom 0 sd.length).map (fun r =>
        let mine := ((ks.zip repOf).filter (fun p => p.2 == r)).map Prod.fst
        let n := roundFp32 (.fin false mine.length 0)
        (upFrom 0 (dimOf b.dim)).map (fun e => fdiv ((mine.map (fun k => nth k e 0)).foldl fadd 0) n))
      let codes := reps.map (fun v => (upFrom 0 16).map (fun u =>
        argMin ((upFrom 0 256).map (fun c => sqDist 64 ((v.drop (u * m)).take m) (centroid b u c)))))
      let dec := codes.map (fun cs => (upFrom 0 16).flatMap (fun u => centroid b u (nth cs u 0)))
      let res := (upFrom 0 sd.length).map (fun r =>
        let l := ((ks.zip repOf).filter (fun p => p.2 == r)).map (fun p => fsqrt (sqDist 64 p.1 (nth dec r [])))
        upFp16 (nth l (argMax l) 0))
      { none_ with reps := sd.length, repOf := repOf, codes := codes, residual := res, codebookCrc := b.crc }

/-! ## Selection (R196 to R198) -/

/-- Whether a position passes the masks that selection reads: range and bitmap, no segments. -/
def posPasses (m : Mask) (p : Nat) : Bool :=
  match m.mode with
  | 2 | 3 => decide (m.a ≤ p) && decide (p ≤ m.b)
  | 4 => decide (m.a ≤ p) && decide (p - m.a ≤ bits m.b 0 24) && bitmapBit m.bitmap (p - m.a)
  | _ => true

/-- Whether a Sheet is forced: not full, or with no Deckle, or a poisoned one (R193, R197). -/
def forcedSheet (s : State) (k : Nat) (sh : Sheet) : Bool :=
  sh.tokenCount != 64 || (match tget? s.kv.deckles k with | some d => d.poisoned | none => true)

/-- Representatives left after masking. -/
def freeReps (m : Mask) (sh : Sheet) (d : Deckle) : List Nat :=
  (upFrom 0 d.reps).filter (fun r => (upFrom 0 64).any (fun t => nth d.repOf t 0 == r && posPasses m (64 * sh.num + t)))

/-- Whether a Sheet is a candidate (R197 steps 1 and 2). -/
def candidate (s : State) (m : Mask) (k : Nat) (sh : Sheet) : Bool :=
  if forcedSheet s k sh then true
  else
    match tget? s.kv.deckles k with
    | none => true
    | some d =>
      decide (d.firstStep ≤ m.snap)
      && (upFrom 0 64).any (fun t => posPasses m (64 * sh.num + t))
      && (d.reps == 0 || !(freeReps m sh d).isEmpty)

/-- The selection score (R196). rows: broadcast elements and norm of each row. -/
def selScore (s : State) (m : Mask) (rows : List (List Nat × F32)) (sh : Sheet) (d : Deckle) : F32 :=
  let lam := gv s K.deckleSlack
  let best (l : List F32) : F32 := l.foldl (fun a b => if flt a b then b else a) fNegInf
  match bookFor s sh.tenant sh.layer sh.head with
  | some b =>
    if d.reps != 0 && d.codebookCrc == b.crc then
      let mm := dimOf b.dim / 16
      best (rows.flatMap (fun q => (freeReps m sh d).map (fun r =>
        let sum := ((upFrom 0 16).map (fun u =>
          groupSum (((q.1.drop (u * mm)).take mm).zip (centroid b u (nth (nth d.codes r []) u 0)) |>.map (fun p =>
            mulV (bcastVal p.1) (fp32Val p.2))))).foldl fadd 0
        fadd sum (fmul (fmul lam q.2) (fp16F32 (nth d.residual r 0))))))
    else best (rows.map (fun q => fmul (fmul lam q.2) (fp16F32 d.maxNorm)))
  | none => best (rows.map (fun q => fmul (fmul lam q.2) (fp16F32 d.maxNorm)))

/-- Insert by descending score, ties to the higher Sheet number. -/
def insScore (x : F32 × Nat) : List (F32 × Nat) → List (F32 × Nat)
  | [] => [x]
  | y :: r => if flt y.1 x.1 || (!flt x.1 y.1 && decide (y.2 < x.2)) then x :: y :: r else y :: insScore x r

/-- Norm of a row, from its elements in the broadcast form (R190). -/
def rowNorm (q : List Nat) : F32 := fsqrt (sqNorm (bcastF32s q))

/-- The entries of the distance tables of a selection that saturate (R94): a table for each row and each codebook of the candidates. -/
def tableSats (s : State) (rows : List (List Nat × F32)) (held : List (Nat × Sheet)) : Nat :=
  sumNat ((held.filterMap (fun p => bookFor s p.2.tenant p.2.layer p.2.head)).eraseDups.map (fun b =>
    let m := dimOf b.dim / 16
    sumNat (rows.flatMap (fun q => (upFrom 0 16).flatMap (fun u => (upFrom 0 256).map (fun c =>
      groupSats 64 ((((q.1.drop (u * m)).take m).zip (centroid b u c)).map (fun p => mulV (bcastVal p.1) (fp32Val p.2)))))))))

/-- Sparse selection over the Sheets held (R197, R198): the Sheets chosen. -/
def selectSheets (s : State) (m : Mask) (topK : Nat) (rows : List (List Nat × F32)) (held : List (Nat × Sheet)) :
    State × List Nat :=
  let s := bump s K.selectionsRun 1
  let c := held.filter (fun p => candidate s m p.1 p.2)
  if !on s K.deckleEnable then
    (bump s K.recencySelections 1, ((c.map Prod.fst).reverse).take topK)
  else
    let s := bump s K.saturationCount (tableSats s rows (c.filter (fun p => !forcedSheet s p.1 p.2)))
    let forced := ((c.filter (fun p => forcedSheet s p.1 p.2)).map Prod.fst).reverse
    let rest := (c.filter (fun p => !forcedSheet s p.1 p.2)).foldl (fun l p =>
      match tget? s.kv.deckles p.1 with
      | some d => insScore (selScore s m rows p.2 d, p.1) l
      | none => l) []
    (bump s K.forcedOverflowCount (forced.length - topK),
     forced.take topK ++ (rest.map Prod.snd).take (topK - min topK forced.length))

/-! ## Vector indexes -/

def vM (s : State) (i : Nat) : Nat := rd s (K.vindexSubquantisers i)
def vDim (s : State) (i : Nat) : Nat := rd s (K.vindexDim i)
def vLists (s : State) (i : Nat) : Nat := rd s (K.vindexLists i)

def indexItems (s : State) (i : Nat) : List Item := s.srch.items.filter (fun x => x.index == i)

/-- Entries that vindex_entries counts: committed, and not yet reclaimed. -/
def committedItems (s : State) (i : Nat) : List Item := (indexItems s i).filter (fun x => x.add != 0)

/-- Bit 0: codebook loaded; bit 1: every coarse centroid loaded. -/
def loadState (s : State) (i : Nat) : Nat :=
  b2n (tget? s.srch.codebooks i).isSome
  + 2 * b2n ((s.srch.centroids.filter (fun p => p.1 / 65536 == i)).length == vLists s i)

/-- The slice that holds a list (R201). -/
def listSlice (s : State) (i l : Nat) : Nat :=
  let sl := tget s.srch.listSlices i []
  nth sl (l % max 1 sl.length) 0

def centroidOf (s : State) (i l : Nat) : List F32 :=
  match tget? s.srch.centroids (i * 65536 + l) with
  | some (f, c) => toF32s f c
  | none => []

/-- Centroid c of sub-quantiser u of an index codebook. -/
def subCentroid (s : State) (i u c : Nat) : List F32 :=
  let m := vDim s i / max 1 (vM s i)
  match tget? s.srch.codebooks i with
  | some (f, l) => toF32s f ((l.drop ((u * 256 + c) * m)).take m)
  | none => []

def isL2 (s : State) (i : Nat) : Bool := rd s (K.vindexMetric i) == 1

/-- The list of an item (R206 step 1). -/
def assignList (s : State) (i : Nat) (x : List F32) : Nat :=
  if isL2 s i then argMin ((upFrom 0 (vLists s i)).map (fun l => sqDist 64 x (centroidOf s i l)))
  else argMax ((upFrom 0 (vLists s i)).map (fun l =>
    accumulate 64 ((x.zip (centroidOf s i l)).map (fun p => mulV (fp32Val p.1) (fp32Val p.2)))))

/-- The exact products behind the list choice of an item. -/
def assignTerms (s : State) (i : Nat) (x c : List F32) : List Val :=
  if isL2 s i then squares (diffs x c) else (x.zip c).map (fun p => mulV (fp32Val p.1) (fp32Val p.2))

/-- The group sums that saturate as an item is encoded (R94). -/
def encodeSats (s : State) (i : Nat) (x : List F32) : Nat :=
  let m := vDim s i / max 1 (vM s i)
  let res := diffs x (centroidOf s i (assignList s i x))
  groupSats 64 (squares x) + sumNat ((upFrom 0 (vLists s i)).map (fun l => groupSats 64 (assignTerms s i x (centroidOf s i l))))
  + sumNat ((upFrom 0 (vM s i)).flatMap (fun u => (upFrom 0 256).map (fun c =>
      groupSats 64 (squares (diffs ((res.drop (u * m)).take m) (subCentroid s i u c))))))

/-- Encode one item (R206). -/
def encodeItem (s : State) (i f item : Nat) (v : List Nat) : Item × Nat × Nat :=
  let x := toF32s f v
  let l := assignList s i x
  let m := vDim s i / max 1 (vM s i)
  let res := diffs x (centroidOf s i l)
  let code := (upFrom 0 (vM s i)).map (fun u =>
    argMin ((upFrom 0 256).map (fun c => sqDist 64 ((res.drop (u * m)).take m) (subCentroid s i u c))))
  let conv := if on s (K.vindexRerankStore i)
    then v.map (fun c => convF (fmtSpec (rd s (K.vindexRerankFormat i))) (decodeF (fmtSpec f) c)) else []
  ({ index := i, item := item, list := l, code := code, norm := sqNorm x, vec := conv.map Conv.code, add := 0, del := 0,
     delPending := false, poisoned := false },
   (conv.filter Conv.sat).length + encodeSats s i x, (v.filter (fun c => (decodeF (fmtSpec f) c).nonfinite)).length)

/-! ## Filters (R208, R209) -/

def filterBit (b : Tbl Byte) (j : Nat) : Bool := bitB (tget b (j / 8) 0).toNat (j % 8)

def filterBytes (s : State) (i : Nat) : Nat :=
  (2 * (inService s).length + 1) * (ceilDiv (ceilDiv (rd s (K.vindexCapacity i)) 8) 65536 * 65536)

/-! ## SEARCH tickets: checks 5 to 8 -/

/-- Payload bytes that an operation carries (R204). -/
def searchPayload (s : State) (r : Nat) : Nat :=
  let i := hIndex r
  let w := inWidth (tkInFmt r)
  match hOp r with
  | 1 => vDim s i * w
  | 2 => hSpan r * vDim s i * w
  | 4 => ceilDiv (hSpan r) 8
  | 6 => (match hPart r with
    | 0 => 256 * vDim s i * w
    | 1 => hSpan r * vDim s i * w
    | _ => 256 * dimOf (hDim r) * w)
  | _ => 0

def searchBitmap (r : Nat) : Nat := if hOp r == 1 && bitB (hFilter r) 0 then ceilDiv (hSpan r) 8 else 0

/-- Whether an operation names a Deckle codebook, and so neither index nor target. -/
def namesBook (r : Nat) : Bool := hPart r == 2 && (hOp r == 6 || hOp r == 7)

/-- Check 5 for a SEARCH ticket on the node that holds the index (R203, R204, R208). -/
def searchFieldsBad (s : State) (r : Nat) : Bool :=
  let i := hIndex r
  let cap := rd s (K.vindexCapacity i)
  if hOp r == 0 || decide (7 < hOp r) then true
  else if hOp r == 7 && hPart r != 2 then true
  else if namesBook r then dimOf (hDim r) == 0 || (hOp r == 6 && tkInFmt r != 1 && tkInFmt r != 2)
  else if decide (127 < i) || !on s (K.vindexEnable i) then true
  else
    let range := decide (hFirst r + hSpan r ≤ cap)
    match hOp r with
    | 1 =>
      let p := if hProbes r = 0 then rd s (K.vindexDefaultProbes i) else hProbes r
      hK r == 0 || decide (4096 < hK r) || decide (vLists s i < p)
      || (hProbesMax r != 0 && (decide (hProbesMax r < p) || decide (vLists s i < hProbesMax r)))
      || (hRerank r != 0 && (decide (hRerank r < hK r) || decide (16384 < hRerank r)))
      || (bitB (hFilter r) 0 && !range) || loadState s i != 3
      || (bitB (hFilter r) 1 && (match tget? s.srch.filters (hHandle r) with
          | some f => f.tenant != tkTenant r || f.index != i
          | none => true))
    | 2 => decide (4096 < hSpan r) || !range || loadState s i != 3
    | 3 => !range
    | 4 => hFirst r % 8 != 0 || !range || hHandle r == 0 || decide (4095 < hHandle r)
    | 5 => hHandle r == 0 || (tget? s.srch.filters (hHandle r)).isNone
    | _ => hPart r == 3 || (tkInFmt r != 1 && tkInFmt r != 2)
           || (hPart r == 1 && decide (vLists s i < hFirst r + hSpan r))

/-- Tests of payload, bitmap and result areas of a swept ticket (check 8), and of the whole's size (R144). -/
def searchAreas (s : State) (r : Nat) : Nat :=
  let t := tkTenant r
  let n := searchPayload s r
  let b := searchBitmap r
  let c1 := if n = 0 then 0 else areaTest s t (hPayload r) n 64 1
  let c2 := if b = 0 then 0 else areaTest s t (hBitmap r) b 64 1
  let c3 := if hOp r == 1 then areaTest s t (hResult r) (32 + 8 * hK r) 32 2 else 0
  if c1 != 0 then c1 else if c2 != 0 then c2 else if c3 != 0 then c3
  else if mib (rd s K.ticketPayloadMaxMib) < 128 + n + b then St.bounds else 0

/-- Check 7 for a search: the snapshot step (R125, R207). -/
def snapOf (s : State) (t slice field : Nat) : State × Option Nat :=
  let n := curStep s
  if field = 0 then (s, some (n - 1))
  else if n ≤ field then (bump s (K.snapshotClampedCount slice) 1, some (n - 1))
  else if field + ageLimit s t < n then (bump s (K.snapshotTooOldCount slice) 1, none)
  else (s, some field)

/-- The bytes of a ticket's payload and bitmap: read here, or carried with a fabric ticket (R143). -/
def fetchParts (s : State) (tk : Tk) (pa pn ba bn : Nat) : State × List Byte × List Byte :=
  if tk.fabric then (s, tk.data.take pn, (tk.data.drop pn).take bn)
  else
    let (s, p, _) := if pn = 0 then (s, [], false) else nodeRead s pa pn
    let (s, b, _) := if bn = 0 then (s, [], false) else nodeRead s ba bn
    (s, p, b)

/-- Whether a line of a swept ticket's payload or bitmap, as it is read, is poisoned (R382). -/
def partsPoisoned (s : State) (tk : Tk) (pa pn ba bn : Nat) : Bool :=
  let p := if pn = 0 then (s, [], false) else nodeRead s pa pn
  !tk.fabric && (p.2.2 || (bn != 0 && (nodeRead p.1 ba bn).2.2))

/-- Elements of a payload. -/
def elemsOf (w : Nat) (l : List Byte) : List Nat := (chunks w (l.length + 1) l).map ofBytes

/-- Whether a ticket is an append to a Ream whose home has moved away from this node in the epoch (R376 step 5). -/
def handedOver (s : State) (raw : Nat) : Bool :=
  tkType raw == 2 && s.comp.handoffs.any (fun h => h.source && decide (4 ≤ h.phase) && h.order.homeMoves && h.order.tenant == tkTenant raw
    && h.order.ream == bReam raw)

/-- The ticket of a forwarded copy (R141, R374, R376): the run class; from the entry node, and for an append of a Ream
handed over, the current map epoch. -/
def forwardRaw (s : State) (tk : Tk) : Nat :=
  let raw := tk.raw
  let raw := raw - bits raw 64 3 * 2 ^ 64 + tk.cls * 2 ^ 64
  let raw := if tk.fabric && !handedOver s raw then raw else raw - bits raw 80 16 * 2 ^ 80 + rd s K.mapEpoch * 2 ^ 80
  let raw := raw - tkCrc raw
  raw + crc32c (toBytes 128 raw)

/-- Send a ticket on to another node, whose completion comes back (R150, R203). -/
def forwardTicket (s : State) (tk : Tk) (dst : Nat) (parts : List Byte) : State :=
  let s := { s with att := { s.att with fwd := s.att.fwd ++ [tk] } }
  post s dst tk.cls (.ticket (toBytes 128 (forwardRaw s tk) ++ parts))

/-- Check 7 of a SEARCH operation: only a search names a snapshot step. -/
def snapTest (s : State) (op : Nat) (tk : Tk) : State × Bool :=
  if op == 1 then (let r := snapOf s (tkTenant tk.raw) tk.slice (hSnap tk.raw); (r.1, r.2.isSome)) else (s, true)

/-- The snapshot step that a search takes, its field having passed check 7 (R125). -/
def searchSnap (s : State) (field : Nat) : Nat := if field = 0 || decide (curStep s ≤ field) then curStep s - 1 else field

/-- The front of every SEARCH operation: head of the queue with this op, checks 5, 7 and 8, forwarding; then run. -/
def searchFront (op : Nat) (s : State) (run : State → Tk → List Byte → List Byte → State) : Outc :=
  match takeHead s 5 with
  | none => .next s
  | some (tk, s1) =>
    let r := tk.raw
    if hOp r != op && !(op == 1 && (hOp r == 0 || decide (7 < hOp r))) then .next s
    else
      let remote := !tk.fabric && hTarget r != 0 && hTarget r != myNode s1 && !namesBook r
      if remote then
        let pn := searchPayload s1 r
        let bn := searchBitmap r
        let c := searchAreas s1 r
        if c != 0 then .next (refuseArea s1 tk c)
        else if partsPoisoned s1 tk (hPayload r) pn (hBitmap r) bn then .next (complete s1 tk St.poisoned 0 0)
        else
          let (s2, p, b) := fetchParts s1 tk (hPayload r) pn (hBitmap r) bn
          .next (forwardTicket s2 tk (hTarget r) (p ++ b))
      else if !namesBook r && decide (hIndex r ≤ 127) && rd s1 (K.vindexTenant (hIndex r)) != tkTenant r then .next (refuse s1 tk St.tenant)
      else if hOp r == 4 && (match tget? s1.srch.filters (hHandle r) with | some f => f.tenant != tkTenant r | none => false) then
        .next (refuse s1 tk St.tenant)
      else if searchFieldsBad s1 r then .next (refuse s1 tk St.bounds)
      else
        let (s1, fresh_) := snapTest s1 op tk
        if !fresh_ then .next (refuse s1 tk St.staleEpoch) else
        let c := if tk.fabric then b2n (tk.data.length != searchPayload s1 r + searchBitmap r) * St.bounds else searchAreas s1 r
        if c != 0 then .next (refuseArea s1 tk c)
        else if partsPoisoned s1 tk (hPayload r) (searchPayload s1 r) (hBitmap r) (searchBitmap r) then .next (complete s1 tk St.poisoned 0 0)
        else
          let (s2, p, b) := fetchParts s1 tk (hPayload r) (searchPayload s1 r) (hBitmap r) (searchBitmap r)
          .next (run s2 tk p b)

/-! ## SEARCH (R210 to R214) -/

/-- One scored entry. -/
abbrev Hit := F32 × Nat × Item

/-- Whether a is better than b for a metric, ties to the lower item number. -/
def better (l2 : Bool) (a b : Hit) : Bool :=
  if l2 then flt a.1 b.1 || (!flt b.1 a.1 && decide (a.2.1 < b.2.1))
  else flt b.1 a.1 || (!flt a.1 b.1 && decide (a.2.1 < b.2.1))

def insHit (l2 : Bool) (x : Hit) : List Hit → List Hit
  | [] => [x]
  | y :: r => if better l2 x y then x :: y :: r else y :: insHit l2 x r

/-- Lists in order, best first, ties to the lower number (R210 step 1). -/
def orderLists (s : State) (i : Nat) (q : List Nat) (qf : List F32) : List (F32 × Nat) :=
  let l2 := isL2 s i
  (upFrom 0 (vLists s i)).foldl (fun l n =>
    let c := centroidOf s i n
    let a := if l2 then sqDist 64 qf c else qDot 64 q (c.map fp32Val)
    let rec ins : List (F32 × Nat) → List (F32 × Nat)
      | [] => [(a, n)]
      | y :: r => if (if l2 then flt a y.1 else flt y.1 a) then (a, n) :: y :: r else y :: ins r
    ins l) []

/-- State of a scan: hits in order, entries scored, entries skipped, lists scanned, poison met, scores that are no number. -/
structure Scan where
  hits : List Hit
  scored : Nat
  skipped : Nat
  lists : Nat
  poison : Bool
  bad : Nat
  deriving DecidableEq, Repr

/-- Whether a filter mode passes an item (R209). -/
def itemAllowed (s : State) (r item : Nat) (bitmap : List Byte) : Bool :=
  (!bitB (hFilter r) 0 || (decide (hFirst r ≤ item) && decide (item < hFirst r + hSpan r) && bitmapBit bitmap (item - hFirst r)))
  && (!bitB (hFilter r) 1 || (match tget? s.srch.filters (hHandle r) with | some f => filterBit f.current item | none => false))

/-- Scan one list (R210 step 3). -/
def scanList (s : State) (r snap : Nat) (q : List Nat) (qf : List F32) (bitmap : List Byte) (sc : Scan) (ls : F32 × Nat) : Scan :=
  let i := hIndex r
  let l2 := isL2 s i
  let m := vDim s i / max 1 (vM s i)
  let dot := if l2 then qDot 64 q ((centroidOf s i ls.2).map fp32Val) else ls.1
  ((indexItems s i).filter (fun x => x.list == ls.2 && x.add != 0)).foldl (fun a x =>
    if x.poisoned then { a with poison := true }
    else if !(itemAllowed s r x.item bitmap && decide (x.add ≤ snap) && (x.del == 0 || decide (snap < x.del))) then
      { a with skipped := a.skipped + 1 }
    else
      let t := ((upFrom 0 (vM s i)).map (fun u => groupSum ((((q.drop (u * m)).take m).zip (subCentroid s i u (nth x.code u 0))).map
        (fun p => mulV (bcastVal p.1) (fp32Val p.2))))).foldl fadd 0
      let v := fadd dot t
      let a' := if l2 then fadd (fsub (sqNorm qf) (fmul 0x40000000 v)) x.norm else v
      { a with hits := insHit l2 (a', x.item, x) a.hits, scored := a.scored + 1, bad := a.bad + b2n (fnonfinite a') })
    { sc with lists := sc.lists + 1 }

/-- Scan further lists until k entries are held or probes_max lists have been scanned (R210 step 5). -/
def scanMore (s : State) (r snap : Nat) (q : List Nat) (qf : List F32) (bitmap : List Byte) (probes limit : Nat) :
    List (F32 × Nat) → Scan → Scan
  | [], sc => sc
  | l :: rest, sc =>
    if sc.lists < probes || (decide (sc.hits.length < hK r) && decide (sc.lists < limit)) then
      scanMore s r snap q qf bitmap probes limit rest (scanList s r snap q qf bitmap sc l)
    else sc

/-- The result area of a search (R213). -/
def searchResult (s : State) (r : Nat) (hits : List Hit) (sc : Scan) (reranked : Bool) : List Byte :=
  toBytes 32 (packBits [(32, tkId r), (16, hits.length), (16, 0), (32, sc.scored), (32, sc.skipped), (16, sc.lists),
    (1, b2n (hLog8 r)), (1, b2n (isL2 s (hIndex r))), (1, b2n reranked), (1, sc.lists / 65536)])
  ++ hits.flatMap (fun h => toBytes 4 h.2.1 ++ toBytes 4 (if hLog8 r then toLog8 h.1 else h.1))

/-- The score units' group where the array of an entry's slice is in service, else the engines' (R210 step 6). -/
def rerankGroup (s : State) (i : Nat) (x : Item) : Nat := if rd s (K.scoreArrayState (listSlice s i x.list)) == 0 then 64 else 32

/-- The exact products behind the score of a vector, by the metric of an index. -/
def scoreTerms (s : State) (i : Nat) (q : List Nat) (qf : List F32) (v : List F32) : List Val :=
  if isL2 s i then squares (diffs qf v) else (q.zip v).map (fun p => mulV (bcastVal p.1) (fp32Val p.2))

/-- The score of an entry against its re-rank vector. -/
def rerankScore (s : State) (i : Nat) (q : List Nat) (qf : List F32) (x : Item) : F32 :=
  accumulate (rerankGroup s i x) (scoreTerms s i q qf (toF32s (rd s (K.vindexRerankFormat i)) x.vec))

def rerankSats (s : State) (i : Nat) (q : List Nat) (qf : List F32) (x : Item) : Nat :=
  groupSats (rerankGroup s i x) (scoreTerms s i q qf (toF32s (rd s (K.vindexRerankFormat i)) x.vec))

/-- The group sums of a search that saturate (R94), in its coarse scores and its distance table. -/
def searchSats (s : State) (i : Nat) (q : List Nat) (qf : List F32) : Nat :=
  let m := vDim s i / max 1 (vM s i)
  sumNat ((upFrom 0 (vLists s i)).map (fun l => groupSats 64 (scoreTerms s i q qf (centroidOf s i l))))
  + sumNat ((upFrom 0 (vM s i)).flatMap (fun u => (upFrom 0 256).map (fun c =>
      groupSats 64 ((((q.drop (u * m)).take m).zip (subCentroid s i u c)).map (fun p => mulV (bcastVal p.1) (fp32Val p.2))))))

def runSearch (s : State) (tk : Tk) (payload bitmap : List Byte) : State :=
  let r := tk.raw
  let i := hIndex r
  let snap := searchSnap s (hSnap r)
  let elems := elemsOf (inWidth (tkInFmt r)) payload
  let f := inSpec (tkInFmt r)
  let q := bcastQuery f elems
  let qf := bcastF32s q
  let s := bump s K.nonfiniteInputCount (elems.filter (fun c => (decodeF (fmtSpec f) c).nonfinite)).length
  let s := bump s K.saturationCount (elems.filter (fun c => (toBcast (decodeF (fmtSpec f) c)).sat)).length
  let l2 := isL2 s i
  let probes := if hProbes r = 0 then rd s (K.vindexDefaultProbes i) else hProbes r
  let limit := if hProbesMax r = 0 then probes else hProbesMax r
  let sc := scanMore s r snap q qf bitmap probes limit (orderLists s i q qf)
    { hits := [], scored := 0, skipped := 0, lists := 0, poison := false, bad := 0 }
  let best := sc.hits.take (max (hK r) (hRerank r))
  let re := decide (0 < hRerank r) && on s (K.vindexRerankStore i)
  let ranked := if re then best.foldl (fun l h => insHit l2 (rerankScore s i q qf h.2.2, h.2.1, h.2.2) l) [] else best
  let top := ranked.take (hK r)
  let s := bump s K.nonfiniteResultCount (sc.bad + (if re then (ranked.filter (fun h => fnonfinite h.1)).length else 0))
  let s := bump s K.saturationCount (searchSats s i q qf + (if re then sumNat (best.map (fun h => rerankSats s i q qf h.2.2)) else 0))
  let status := if sc.poison then St.poisoned else if top.length < hK r then St.short else St.ok
  let s := bump s K.searchesCompleted 1
  let s := if status == St.short then bump s K.searchesShort 1 else s
  completeResult s tk (hResult r) (searchResult s r top sc re) status top.length

/-- SEARCH, with the refusal of an unassigned operation (R204). -/
def execSearch (s : State) : Outc := searchFront 1 s runSearch

/-! ## INSERT and DELETE (R205) -/

/-- Whether an item counts as live for admission: its own or a pending insert, with no pending delete. -/
def itemTaken (x : Item) : Bool := x.del == 0 && !x.delPending

def runInsert (s : State) (tk : Tk) (payload _b : List Byte) : State :=
  let r := tk.raw
  let i := hIndex r
  let w := inWidth (tkInFmt r)
  let n := hSpan r
  let nums := upFrom (hFirst r) n
  match nums.find? (fun j => (indexItems s i).any (fun x => x.item == j && itemTaken x)) with
  | some j => complete s tk St.versionConflict j 0
  | none =>
    if rd s (K.vindexCapacity i) < (indexItems s i).length + n then complete s tk St.quota 0 0
    else
      let d := vDim s i
      let vs := chunks d (n + 1) (elemsOf w payload)
      let s := (nums.zip vs).foldl (fun u p =>
        let (x, sat, bad) := encodeItem u i (inSpec (tkInFmt r)) p.1 p.2
        bump (bump { u with srch := { u.srch with items := u.srch.items ++ [x] } } K.saturationCount sat) K.nonfiniteInputCount bad) s
      { s with srch := { s.srch with pend := s.srch.pend ++ [(tk, n)] } }

/-- INSERT. -/
def execInsert (s : State) : Outc := searchFront 2 s runInsert

def runDelete (s : State) (tk : Tk) (_p _b : List Byte) : State :=
  let r := tk.raw
  let hit (x : Item) : Bool := x.index == hIndex r && itemTaken x && x.add != 0
    && decide (hFirst r ≤ x.item) && decide (x.item < hFirst r + hSpan r)
  let n := (s.srch.items.filter hit).length
  { s with srch := { s.srch with items := s.srch.items.map (fun x => if hit x then { x with delPending := true } else x),
                                 pend := s.srch.pend ++ [(tk, n)] } }

/-- DELETE. -/
def execDelete (s : State) : Outc := searchFront 3 s runDelete

/-! ## Filters (R208) -/

/-- Write n bits from bit first into a bitmap. -/
def storeBits (b : Tbl Byte) (first n : Nat) (p : List Byte) : Tbl Byte :=
  (upFrom 0 (ceilDiv n 8)).foldl (fun t k =>
    let keep := if n < 8 * (k + 1) then 2 ^ (n % 8) else 256
    let old := (tget t (first / 8 + k) 0).toNat
    let new := (nth p k 0).toNat
    tsetD t (first / 8 + k) (BitVec.ofNat 8 (old / keep * keep + new % keep)) 0) b

def runFilterStore (s : State) (tk : Tk) (payload _b : List Byte) : State :=
  let r := tk.raw
  let i := hIndex r
  let h := hHandle r
  match tget? s.srch.filters h with
  | some f =>
    if f.index != i then refuse s tk St.bounds
    else
      let f := { f with pend := some (storeBits (f.pend.getD f.current) (hFirst r) (hSpan r) payload) }
      complete { s with srch := { s.srch with filters := tset s.srch.filters h f } } tk St.ok (hSpan r) 0
  | none =>
    let n := filterBytes s i
    let per := ceilDiv (ceilDiv (rd s (K.vindexCapacity i)) 8) 65536 * 65536
    let sl := inService s
    let room := sl.all (fun x => decide (2 * per ≤ stackFree s (scoringStack x))) && !sl.isEmpty
      && decide (3 * per ≤ stackFree s (scoringStack (sl.headD 0)))
    if !quotaAllows s (tkTenant r) n || !room then complete s tk St.quota 0 0
    else
      let s := sl.foldl (fun u x => takeHold u .filter h (scoringStack x) (2 * per)) s
      let s := takeHold s .filter h (scoringStack (sl.headD 0)) per
      let f : Filter := { tenant := tkTenant r, index := i, current := [], previous := [],
                          pend := some (storeBits [] (hFirst r) (hSpan r) payload), dropping := false }
      complete { s with srch := { s.srch with filters := tset s.srch.filters h f } } tk St.ok (hSpan r) 0

/-- FILTER_STORE. -/
def execFilterStore (s : State) : Outc := searchFront 4 s runFilterStore

def runFilterDrop (s : State) (tk : Tk) (_p _b : List Byte) : State :=
  let r := tk.raw
  match tget? s.srch.filters (hHandle r) with
  | none => refuse s tk St.bounds
  | some f =>
    if f.tenant != tkTenant r then refuse s tk St.tenant
    else complete { s with srch := { s.srch with filters := tset s.srch.filters (hHandle r) { f with dropping := true } } } tk St.ok 0 0

/-- FILTER_DROP. -/
def execFilterDrop (s : State) : Outc := searchFront 5 s runFilterDrop

/-! ## Codebooks (R192, R204) -/

def runLoadCodebook (s : State) (tk : Tk) (payload _b : List Byte) : State :=
  let r := tk.raw
  let i := hIndex r
  let f := tkInFmt r
  let codes := elemsOf 2 payload
  match hPart r with
  | 2 =>
    let k := bookKey (tkTenant r) (hLayer r) (hHead r)
    if (tget? s.srch.books k).isSome then complete s tk St.versionConflict 0 0
    else if 4096 ≤ s.srch.books.length then complete s tk St.quota 0 0
    else
      let b : Codebook := { tenant := tkTenant r, layer := hLayer r, head := hHead r, dim := hDim r, fmt := f, codes := codes,
                            crc := crc32c payload }
      let s := (inService s).foldl (fun u x => takeHold u .codebook k (carryingStack x) (512 * dimOf (hDim r))) s
      complete { s with srch := { s.srch with books := tset s.srch.books k b } } tk St.ok codes.length 0
  | 1 =>
    let d := vDim s i
    let vs := chunks d (hSpan r + 1) codes
    let c := ((upFrom (hFirst r) (hSpan r)).zip vs).foldl (fun t p => tset t (i * 65536 + p.1) (f, p.2)) s.srch.centroids
    complete { s with srch := { s.srch with centroids := c } } tk St.ok codes.length 0
  | _ =>
    if !(committedItems s i).isEmpty then complete s tk St.versionConflict 0 0
    else complete { s with srch := { s.srch with codebooks := tset s.srch.codebooks i (f, codes) } } tk St.ok codes.length 0

/-- LOAD_CODEBOOK. -/
def execLoadCodebook (s : State) : Outc := searchFront 6 s runLoadCodebook

/-- Whether a Deckle of the node was built from a codebook (R192). -/
def bookInUse (s : State) (b : Codebook) : Bool :=
  s.kv.deckles.any (fun p => p.2.reps != 0 && p.2.codebookCrc == b.crc
    && match tget? s.kv.sheets p.1 with | some sh => sh.tenant == b.tenant && sh.layer == b.layer && sh.head == b.head | none => false)

def runDropCodebook (s : State) (tk : Tk) (_p _b : List Byte) : State :=
  let r := tk.raw
  let k := bookKey (tkTenant r) (hLayer r) (hHead r)
  match tget? s.srch.books k with
  | none => complete s tk St.ok 0 0
  | some b =>
    if bookInUse s b then complete s tk St.versionConflict 0 0
    else
      let (_, s) := freeHold s .codebook k
      complete { s with srch := { s.srch with books := terase s.srch.books k } } tk St.ok 0 0

/-- DROP_CODEBOOK. -/
def execDropCodebook (s : State) : Outc := searchFront 7 s runDropCodebook

/-! ## The COMMIT of indexes and filters (R205, R207, R208) -/

/-- Commit the pending inserts, deletes and filter stores of step n, and reclaim deleted entries. -/
def commitSearch (s : State) (n : Nat) : State :=
  let items := s.srch.items.map (fun x =>
    let x := if x.add = 0 then { x with add := n } else x
    if x.delPending then { x with del := n, delPending := false } else x)
  let kept := items.filter (fun x => !(x.del != 0 && decide (x.del + ageLimit s (rd s (K.vindexTenant x.index)) ≤ n)))
  let done := s.srch.pend
  let dropped := (s.srch.filters.filter (fun p => p.2.dropping)).map Prod.fst
  let filters := (s.srch.filters.filter (fun p => !p.2.dropping)).map (fun p =>
    match p.2.pend with
    | some b => (p.1, { p.2 with current := b, previous := p.2.current, pend := none })
    | none => p)
  let s := { s with srch := { s.srch with items := kept, pend := [], filters := filters } }
  let s := dropped.foldl (fun u h => (freeHold u .filter h).2) s
  done.foldl (fun u p => complete u p.1 St.ok p.2 n) s

/-- The bytes that an index takes from one stack (R201): its lists on the slices in service, with the codebook and the centroids copied to each;
codes and norms in the carrying stack, re-rank vectors in the scoring stack. -/
def vindexOn (s : State) (i st : Nat) : Nat :=
  let l := inService s
  let (_, b, c) := vindexBytes s i
  if !has l (st / 2) then 0
  else if st % 2 == 0 then ceilDiv b l.length else ceilDiv (vindexEntryBytes s i - b) l.length + c

/-- Whether the slices in service have room for an index, with what it already has there. -/
def vindexRoom (s : State) (i : Nat) : Bool :=
  !(inService s).isEmpty && (upFrom 0 8).all (fun st => decide (vindexOn s i st ≤ stackFree s st + heldOn s .vindex i st))

/-- Reserve an index's storage on the slices in service, its lists in turn (R201). -/
def startIndex (i : Nat) (s : State) : State :=
  let s := { s with srch := { s.srch with listSlices := tset s.srch.listSlices i (inService s) } }
  (upFrom 0 8).foldl (fun t st => resizeHold t .vindex i st (vindexOn s i st)) s

/-- Whether a slice holds lists of an index. -/
def holdsLists (s : State) (sl i : Nat) : Bool := has (tget s.srch.listSlices i []) sl

/-- Move the lists that a slice holds of an index to the slices in service, where they have room (R463 item 5). -/
def moveLists (s : State) (sl i : Nat) : State := if holdsLists s sl i && vindexRoom s i then startIndex i s else s

/-- A slice that comes back takes its copy of every Deckle codebook (R191). -/
def copyBooks (s : State) (sl : Nat) : State :=
  s.srch.books.foldl (fun t p => resizeHold t .codebook p.1 (carryingStack sl) (512 * dimOf p.2.dim)) s

/-- Revoke what an index disabled still owes, and free what it holds (R202). -/
def freeIndex (s : State) (i : Nat) : State :=
  let l := s.srch.pend.filter (fun p => hIndex p.1.raw == i)
  let hs := (s.srch.filters.filter (fun p => p.2.index == i)).map Prod.fst
  let s := { s with srch := { s.srch with
      pend := s.srch.pend.filter (fun p => hIndex p.1.raw != i),
      items := s.srch.items.filter (fun x => x.index != i),
      codebooks := terase s.srch.codebooks i,
      centroids := s.srch.centroids.filter (fun p => p.1 / 65536 != i),
      listSlices := terase s.srch.listSlices i,
      filters := s.srch.filters.filter (fun p => p.2.index != i) } }
  let s := hs.foldl (fun u h => (freeHold u .filter h).2) s
  let s := (freeHold s .vindex i).2
  l.foldl (fun u p => complete u p.1 St.revoked 0 0) s

end Sys2Proof.Machine
end

