-- ==== Sys2Proof/Machine/Merge.lean ====
section
/-! DEFINITION. Merge trees and merge contexts (R217 to R233), the admission of queries (R142, R145 to R147, R150, R222,
R223), the split of a query by slice (R150 step 4, R401), and the closing of a merge (R225 to R230). -/

namespace Sys2Proof.Machine

/-! ## Tree entries (R220, R221) -/

def treeOf (e : Nat) : Tree :=
  { id := teId e, members := teMembers e, children := teChildren e, parent := teParent e, epoch := teEpoch e,
    childCount := teCount e, depth := teDepth e, contributes := teContributes e, stepBound := teStepBound e }

/-- An entry as the window shows it: 208 bytes. -/
def treeWord (t : Tree) : Nat :=
  packBits ([(67, 0), (1, 1), (1, b2n t.stepBound), (1, b2n t.contributes), (2, t.depth), (8, t.childCount), (16, t.id),
    (16, t.epoch), (16, t.parent)] ++ (upFrom 0 32).map (fun k => (16, nth t.children k 0xFFFF)) ++ [(1024, t.members)])

/-- What the window shows where no entry is held. -/
def treeBlank : Nat :=
  packBits ([(112, 0), (16, 0xFFFF)] ++ (upFrom 0 32).map (fun _ => (16, 0xFFFF)))

/-- Children that an entry names. -/
def childrenOf (t : Tree) : List Nat := t.children.filter (fun c => c != 0xFFFF)

/-- Whether a map epoch is the current one, or the previous one within its drain window (R221, R375). -/
def mapEpochOk (s : State) (e : Nat) : Bool :=
  e == rd s K.mapEpoch || (prevEpoch s != 0 && e == prevEpoch s)

/-- The tests of R221 up to OUT_OF_RANGE. -/
def treeRangeBad (s : State) (e : Nat) : Bool :=
  let t := treeOf e
  let ch := childrenOf t
  t.id != rd s K.treeSelect || bits e 0 67 != 0
  || (t.depth == 0 && t.parent != 0xFFFF) || (t.depth != 0 && (t.parent == 0xFFFF || t.parent == 0))
  || has ch 0 || has ch (myNode s) || ch.eraseDups.length != ch.length || t.childCount != ch.length
  || (t.depth == 3 && t.childCount != 0) || (t.childCount == 0 && !t.contributes)
  || (t.depth != 0 && t.members != 0) || t.members % 2 == 1

/-- A write of tree_entry (R220, R221). -/
def hTreeEntry : Handler := fun s _ p =>
  let e := ofBytes p
  let sel := rd s K.treeSelect
  if !teValid e then ({ s with trees := terase s.trees sel }, .done)
  else if treeRangeBad s e then (s, .refused 0x01 0x4300 0x11)
  else if !mapEpochOk s (teEpoch e) then (s, .refused 0x0A 0x4300 0x11)
  else if (tget? s.trees sel).isNone && decide (4096 ≤ s.trees.length) then (s, .refused 0x04 0x4300 0x11)
  else ({ s with trees := tset s.trees sel (treeOf e) }, .done)

/-- TREE_ENTRY_WRITE. -/
def execTreeEntryWrite (w : WReq) (payload : List Byte) (s : State) : Outc :=
  .next (rowWrite s w 0x4300 0x11 0 payload hTreeEntry)

/-! ## Contexts (R217, R218) -/

def cDim (c : Ctx) : Nat := dimOf (qDim c.tk.raw)
def cRows (c : Ctx) : Nat := qRows c.tk.raw

/-- Row store that a context takes. -/
def ctxBytes (c : Ctx) : Nat := cRows c * (32 + 4 * cDim c) * (if c.tree.contributes then 2 else 1)

def dieCtxs (s : State) (die unit : Nat) : List Ctx := s.ctxs.filter (fun x => x.place / 64 == die * 16 + unit)

/-- The place of a context on one die: the lowest-numbered unit with a free context and room, and its lowest free context. -/
def placeOnDie (s : State) (c : Ctx) (die : Nat) : Option Nat :=
  if rd s (K.sliceState die) != 1 then none
  else
    firstSome ((upFrom 0 16).map (fun u =>
      let l := dieCtxs s die u
      if decide (l.length < 64) && decide (sumNat (l.map ctxBytes) + ctxBytes c ≤ 2 * 2 ^ 20) then
        ((upFrom 0 64).find? (fun n => !l.any (fun x => x.place % 64 == n))).map (fun n => die * 1024 + u * 64 + n)
      else none))

/-- The place of a context: on its own die, else on the first that has room. -/
def ctxPlace (s : State) (c : Ctx) : Option Nat :=
  if !on s K.mergeEnable then none
  else firstSome ((c.tk.die :: upFrom 0 4).map (placeOnDie s c))

/-- The merge deadline (R225). -/
def mergeDeadlineOf (s : State) (c : Ctx) : Nat := c.tk.deadline - (c.depth + 1) * gv s K.mergeLevelMarginNs

def putCtx (s : State) (c : Ctx) : State :=
  { s with ctxs := s.ctxs.map (fun x => if x.work == c.work then c else x) }

def ctxOf (s : State) (work : Nat) : Option Ctx := s.ctxs.find? (fun c => c.work == work && !c.closed)

/-! ## Gaps (R228) -/

/-- A gap over the ticket's whole range, of a whole node. -/
def rangeGap (raw cause node : Nat) : Gap :=
  { cause := cause, node := node, slice := 7, ream := bReam raw, layer := qLayer raw, head := qHead raw,
    sheetFirst := qFirst raw, sheetLast := qLast raw, ticketId := tkId raw, more := false }

/-- Runs of consecutive numbers, first and last. -/
def runsOf : List Nat → List (Nat × Nat)
  | [] => []
  | a :: r =>
    match runsOf r with
    | [] => [(a, a)]
    | (b, c) :: t => if a + 1 == b then (a, c) :: t else (a, a) :: (b, c) :: t

/-- Gaps by run of Sheet numbers of one slice. -/
def runGaps (s : State) (raw cause slice : Nat) (nums : List Nat) : List Gap :=
  (runsOf nums).map (fun p => { rangeGap raw cause (myNode s) with slice := slice, sheetFirst := p.1, sheetLast := p.2 })

/-- Add own gaps to a context, counted (R230). -/
def addGaps (s : State) (c : Ctx) (l : List Gap) : State × Ctx :=
  (bump s K.gapsEmitted l.length, { c with gaps := c.gaps ++ l })

/-- The gaps that leave: at most n, with more set in the last one kept when some are dropped. -/
def trimGaps (n : Nat) (l : List Gap) : List Gap :=
  if l.length ≤ n then l else (l.take n).mapIdx (fun i g => if i + 1 == n then { g with more := true } else g)

/-! ## Folding (R219, R226) -/

/-- Records that become non-finite in a combination though no input was (R101). -/
def newNonfinite (out : List Rec) (inputs : List (List Rec)) : Nat :=
  ((upFrom 0 out.length).filter (fun r =>
    recNonfinite (nth out r (emptyRec 0 0)) && !inputs.any (fun i => recNonfinite (nth i r (emptyRec 0 0))))).length

/-- Keep at most weights_max entries (R158 step 3). -/
def keepWeights (raw : Nat) (l : List WeightEntry) (dropped : Nat) : List WeightEntry × Nat :=
  let r := trimWeights (qWeights raw) l.length l
  (r.1, dropped + r.2)

/-- Fold one input into a context's accumulators. -/
def foldInput (s : State) (c : Ctx) (recs : List Rec) (wts : List WeightEntry) (dropped : Nat) : State × Ctx :=
  if c.acc.isEmpty then
    let k := keepWeights c.tk.raw (c.wts ++ wts) (c.wtDropped + dropped)
    (s, { c with acc := recs, wts := k.1, wtDropped := k.2, inputs := c.inputs + 1 })
  else
    let out := combineRows (cDim c) (cRows c) [c.acc, recs]
    let w := scaleWeights (cRows c) [(c.acc, c.wts), (recs, wts)]
    let k := keepWeights c.tk.raw w (c.wtDropped + dropped)
    (bump s K.nonfiniteResultCount (newNonfinite out [c.acc, recs]),
     { c with acc := out, wts := k.1, wtDropped := k.2, inputs := c.inputs + 1 })

/-- An input that completes at or after the merge deadline, or in the comparator cycle in which it fires, is late (R81, R226). -/
def markLate (s : State) (c : Ctx) : Ctx :=
  let c := { c with inputAt := s.tm.ht, late := c.late || c.closing.isSome }
  if s.att.dls.any (fun x => x.2.2 == c.work && lateFor s x.2.1) then { c with late := true } else c

/-- Whether every expected input is folded. -/
def ctxFull (c : Ctx) : Bool :=
  (!c.tree.contributes || c.ownDone) && (childrenOf c.tree).all (fun n => has c.slots n)

/-! ## Leaving (R157, R224, R229, R230) -/

/-- The set that a node sends to its parent. -/
def setOf (s : State) (c : Ctx) : RecSet :=
  let all := c.gaps ++ c.setGaps
  let recs := if c.acc.isEmpty then List.replicate (cRows c) (emptyRec (cDim c) 0) else c.acc
  { ticketId := tkId c.tk.raw, treeId := qTree c.tk.raw, sender := myNode s, epoch := rd s K.mapEpoch, rows := cRows c,
    status := setStatus (all.map Gap.cause ++ c.setStatus), late := c.late,
    recs := if qTransit c.tk.raw then recs.map recBf16 else recs, gaps := trimGaps c.tk.gapMax all, weights := c.wts,
    weightDropped := c.wtDropped }

def insWeight (w : WeightEntry) : List WeightEntry → List WeightEntry
  | [] => [w]
  | x :: r => if w.sheet < x.sheet then w :: x :: r else x :: insWeight w r

/-- The weight area that the root writes (R158 step 4). -/
def weightBytes (raw : Nat) (recs : List Rec) (wts : List WeightEntry) (dropped : Nat) : List Byte :=
  let l := wts.foldl (fun a w => insWeight w a) []
  let log := qLog8 raw
  toBytes 32 (packBits [(32, tkId raw), (32, l.length), (32, dropped), (8, if log then 0xE else 0)])
  ++ l.flatMap (fun w =>
    let v := (upFrom 0 (qRows raw)).map (fun r => fdiv (nth w.vals r 0) (nth recs r (emptyRec 0 0)).l)
    let b := v.flatMap (fun x => if log then toBytes 1 (toLog8 x) else toBytes 4 x)
    toBytes 8 w.sheet ++ padBytes (ceilDiv b.length 8 * 8) b)

/-- The result area of a query (R155, R157, R158). -/
def queryResult (c : Ctx) (recs : List Rec) : List Byte :=
  let r := c.tk.raw
  let recs1 := if qNormalise r then recs.map recNormalise else recs
  let recs2 := if qOutBf16 r then recs1.map recBf16 else recs1
  ((upFrom 0 (qRows r)).zip recs2).flatMap (fun p =>
    recBytes p.2 (qOutBf16 r) (qNormalise r) (p.1 / qHeads r) (p.1 % qHeads r) (qTree r) (tkId r))
  ++ (if qExport r then weightBytes r recs c.wts c.wtDropped else [])

/-- Write the result and the completion at the root (R227, R229). -/
def rootClose (s : State) (c : Ctx) : State :=
  let all := c.gaps ++ c.setGaps
  let kept := trimGaps c.tk.gapMax all
  if c.inputs = 0 then completeAs s c.tk St.deadline kept.length 0 kept false
  else
    let recs := (if c.acc.isEmpty then List.replicate (cRows c) (emptyRec (cDim c) 0) else c.acc).map (fun x =>
      if x.contributors = 0 then emptyRec (cDim c) 0 else x)
    let norm := if qNormalise c.tk.raw then recs.map recNormalise else recs
    let s := if qOutBf16 c.tk.raw then bump s K.saturationCount (sumNat (norm.map recBf16Sats)) else s
    match putResult s c.tk (qResult c.tk.raw) (queryResult c recs) with
    | none => completeAs (bump s K.revokedCompletions 1) c.tk St.revoked 0 0 [] false
    | some s => completeAs s c.tk (gapStatus (all.map Gap.cause ++ c.setStatus)) kept.length 0 kept c.late

/-- A context is closed: its deadline goes, and sets that still come for it are late (R224). -/
def noteClosed (s : State) (c : Ctx) : State :=
  let s := dropDl s c.work
  let other (x : Nat × Nat × List Nat) : Bool := !(x.1 == qTree c.tk.raw && x.2.1 == tkId c.tk.raw)
  { s with att := { s.att with doneWork := s.att.doneWork.filter other ++ [(qTree c.tk.raw, tkId c.tk.raw, childrenOf c.tree)] } }

/-- Release a context: its place is free again. -/
def releaseCtx (s : State) (c : Ctx) : State :=
  { noteClosed s c with ctxs := s.ctxs.filter (fun x => x.work != c.work) }

/-- Dropped gaps that are not counted yet: own gaps were counted as they were added (R230). -/
def dropCount (c : Ctx) : Nat := (c.gaps ++ c.setGaps).length - c.tk.gapMax - (c.gaps.length - c.tk.gapMax)

/-- Send what a context holds. At the root it is released with the completion; elsewhere when its set has left (R219). -/
def leaveCtx (s : State) (c : Ctx) : State :=
  let s := bump s K.gapsEmitted (dropCount c)
  if c.root then rootClose (releaseCtx s c) c
  else if c.inputs = 0 then releaseCtx s c
  else
    let s := putCtx (noteClosed s c) { c with closed := true }
    let s := if qTransit c.tk.raw then bump s K.saturationCount (sumNat (c.acc.map recBf16Sats)) else s
    let s := if c.tree.contributes && c.ownDone then bump s K.recordsEmitted (cRows c) else s
    postFor s (tkTenant c.tk.raw) c.tree.parent c.tk.cls (.set (setOf s c) (qHeads c.tk.raw) (qTransit c.tk.raw))

/-- Close a context whose last expected input is folded (R225, event 1); otherwise store it. One that a MERGE_CLOSE closes does so
when the comparator cycle ends. -/
def settleCtx (s : State) (c : Ctx) : State :=
  if ctxFull c && c.closing.isNone then leaveCtx (bump (putCtx s c) K.mergesCompleted 1) c else putCtx s c

/-! ## Abandoning shares (R161) -/

/-- A share leaves its scoring stack: its plan and its query context go; the context stays while a burst of the share runs. -/
def leaveArray (t : StackSt) (x : Share) : StackSt :=
  { t with planned := if x.stage == .stream then [] else t.planned,
           ctxs := if (match t.burst with | some b => b.share == x.id | none => false) then t.ctxs else t.ctxs.filter (fun q => q.share != x.id) }

/-- Drop a share: its Felt, references and place go; what its bursts still return is discarded. -/
def dropShare (s : State) (x : Share) : State :=
  let s := releaseRefs s x.id
  let s := if x.stage == .stream then bump s (K.streamBusyNs x.slice) (ecNs (s.tm.ec - x.streamAt)) else s
  { s with att := { s.att with shares := s.att.shares.filter (fun y => y.id != x.id) },
           arrays := s.arrays.mapIdx (fun i t => if i == x.slice then leaveArray t x else t) }

/-- Abandon the shares of a query. -/
def abandonShares (s : State) (work : Nat) : State :=
  (s.att.shares.filter (fun x => x.ctx == work)).foldl (fun t x => dropShare (bump t (K.deadlineAborts x.slice) 1) x) s

/-- A close under event 2 or 3 of R225 (R227). -/
def closeCtx (s : State) (c : Ctx) : State :=
  let missing := (childrenOf c.tree).filter (fun n => !has c.slots n)
  let (s, c) := addGaps s c (missing.map (fun n => rangeGap c.tk.raw St.deadline n))
  if c.tree.contributes && !c.ownDone then
    let (s, c) := addGaps s c [rangeGap c.tk.raw St.deadline (myNode s)]
    let s := abandonShares s c.work
    leaveCtx s { c with own := [], ownWts := [], ownDropped := 0 }
  else leaveCtx s c

/-! ## Deadlines that fire (R77, R81, R226) -/

/-- Whether a pending deadline of some work fires: its comparator cycle has passed, so that an arrival of the same cycle
has won; it is among the earliest that the slice's comparators hold; and fewer than that number have fired in this cycle. -/
def deadlineFires (s : State) (work : Nat) : Option Nat :=
  match s.att.dls.find? (fun x => x.2.2 == work) with
  | none => none
  | some x =>
    let n := ownedComparators s x.1 K.deadlineEnable
    let firedNow := if s.att.fireCyc == cycleOf s.tm.ht then tget s.att.fired x.1 0 else 0
    let mine := (s.att.dls.filter (fun y => y.1 == x.1)).take (n - firedNow)
    if decide (cycleOf (x.2.1 * 33) < cycleOf s.tm.ht) && decide (firedNow < n) && mine.any (fun y => y.2.2 == work)
    then some x.1 else none

/-- Count a deadline that fires in this comparator cycle, and take it off the list. -/
def takeFire (s : State) (slice work : Nat) : State :=
  let cyc := cycleOf s.tm.ht
  let fired := if s.att.fireCyc == cyc then s.att.fired else []
  dropDl { s with att := { s.att with fireCyc := cyc, fired := tset fired slice (tget fired slice 0 + 1) } } work

/-- MERGE_DEADLINE (R225 event 2, R227). -/
def execMergeDeadline (ctx : Nat) (s : State) : Outc :=
  match ctxOf s ctx, deadlineFires s ctx with
  | some c, some sl => .next (closeCtx (bump (takeFire s sl ctx) K.mergesClosedPartial 1) c)
  | _, _ => .next s

/-- A MERGE_CLOSE meets a context: it closes when the comparator cycle ends, and an input of that cycle, before or after, makes the
set late (R226). -/
def closeWith (s : State) (c : Ctx) : Ctx :=
  let hit := decide (0 < c.inputs) && cycleOf c.inputAt == cycleOf s.tm.ht
  { c with closing := some (cycleOf s.tm.ht), late := c.late || hit }

/-- The contexts that a MERGE_CLOSE closes, once its comparator cycle has ended (R225 event 3). -/
def closeDue (s : State) : State :=
  (s.ctxs.filter (fun c => !c.closed && c.closing.any (fun k => k != cycleOf s.tm.ht))).foldl
    (fun t c => closeCtx (bump t K.mergeCloseForced 1) c) s

/-- MERGE_CLOSE (R225 event 3): contexts of the class on port die s whose entries are step-bound. -/
def execMergeClose (slice entry : Nat) (s : State) : Outc :=
  match dueEntry s slice entry 5 with
  | none => .next s
  | some e =>
    let s := takeOccurrence s slice entry e
    .next { s with ctxs := s.ctxs.map (fun c =>
      if c.place / 1024 == slice && c.tree.stepBound && c.tk.cls == enClass e && !c.closed && c.closing.isNone then closeWith s c else c) }

/-! ## The node's own part -/

/-- The query's mask and snapshot. -/
def maskOf (c : Ctx) : Mask :=
  { mode := qMask c.tk.raw, a := qMaskA c.tk.raw, b := qMaskB c.tk.raw, bitmap := c.bitmap, snap := c.snap }

/-- Element codes of row i of a payload (R147). -/
def rowCodes (raw : Nat) (payload : List Byte) (i : Nat) : List Nat :=
  let d := dimOf (qDim raw)
  let w := inWidth (tkInFmt raw)
  elemsOf w ((payload.drop (32 + i * d * w)).take (d * w))

/-- The rows of a query: broadcast elements and segment. -/
def rowsOf (raw : Nat) (payload : List Byte) : List Row :=
  (upFrom 0 (qRows raw)).map (fun i =>
    { q := bcastQuery (inSpec (tkInFmt raw)) (rowCodes raw payload i),
      seg := ofBytes ((payload.drop (2 * (i / qHeads raw))).take 2) })

/-- The factor of the scores: the scale, or 1/√d, times log2(e) (R100, R146). -/
def scoreFactor (raw : Nat) : F32 :=
  fmul (match fp32Val (qScale raw) with | .fin _ 0 _ => rsqrtDim (qDim raw) | _ => qScale raw) log2e

/-- Whether a share of the query reads a Quire (R251, R376): not one that a handoff is still copying in, not a departing
one in the current epoch, not one taken in by a handoff in the previous epoch. -/
def quireVisible (s : State) (epoch : Nat) (q : Quire) : Bool :=
  let prev := epoch == rd s K.mapEpochPrevious && epoch != rd s K.mapEpoch
  !(match q.move with | some m => m.target == 7 | none => false) && (if prev then !q.tookIn else !q.departing)

/-- The Sheets of a query's range that the node holds, ascending (R126 item 3, R146). DESIGN CHOICE (log entry 134): item 3 is applied
where the Ream is homed; the manual names no message that tells another contributing node the retire step. -/
def heldSheets (s : State) (c : Ctx) : List (Nat × Sheet) :=
  let r := c.tk.raw
  let g := groupOf (tkTenant r) (bReam r) (qLayer r) (qHead r)
  let gone := match knownReam s (tkTenant r) (bReam r) with
    | some m => m.retiredSet && decide (m.retired ≤ c.snap)
    | none => false
  if gone then []
  else s.kv.sheets.filter (fun p => p.1 / 2 ^ 32 == g && decide (qFirst r ≤ p.2.num) && decide (p.2.num ≤ qLast r)
    && (match tget? s.kv.quires (quireOfSheet p.1) with | some q => quireVisible s c.epoch q | none => false))

/-- The slice whose share takes a Quire: its own while that takes new shares; otherwise the one that a salvage or an
evacuation takes it to, or the lowest in service (R389 item 4, R463 item 1). -/
def shareSlice (s : State) (q : Quire) : Nat :=
  if rd s (K.sliceState q.slice) == 1 then q.slice
  else
    match q.move with
    | some m => if m.target == 5 || m.target == 6 then m.slice else (inService s).headD q.slice
    | none => (inService s).headD q.slice

/-- Overlaps of a query's range with lost ranges (R401). -/
def lostGaps (s : State) (c : Ctx) : List Gap :=
  let r := c.tk.raw
  (s.rel.lost.filter (fun x => x.tenant == tkTenant r && x.ream == bReam r && (x.layer == 0xFFF || x.layer == qLayer r)
    && (x.head == 0xFF || x.head == qHead r) && decide (x.sheetFirst ≤ qLast r) && decide (qFirst r ≤ x.sheetLast))).map
    (fun x => { rangeGap r St.stateLost (myNode s) with sheetFirst := max x.sheetFirst (qFirst r), sheetLast := min x.sheetLast (qLast r) })

def newShare (id ctx slice : Nat) (sheets : List Nat) : Share :=
  { id := id, ctx := ctx, slice := slice, sheets := sheets, refs := [], meta_ := [], stage := .queued, wasParked := false,
    pass := 0, felt := 0, inStack := [], kRead := [], acc := [], wts := [], missing := [], parkAt := 0, streamAt := 0, wants := [] }

/-- Queue a share in a slice: its id. -/
def addShare (s : State) (work sl : Nat) (sheets : List Nat) : State × Nat :=
  let (i, s) := newId s
  (bump { s with att := { s.att with shares := s.att.shares ++ [newShare i work sl sheets] } } (K.sharesAdmitted sl) 1, i)

/-- Fold the own accumulator into the context (R219). -/
def foldOwn (s : State) (c : Ctx) : State :=
  let own := if c.own.isEmpty then List.replicate (cRows c) (emptyRec (cDim c) 1) else c.own
  let (s, c) := foldInput s (markLate s { c with ownDone := true }) own c.ownWts c.ownDropped
  settleCtx s { c with own := [], ownWts := [], ownDropped := 0 }

/-- The QUIRE searches of a query: one for each block of its range, in each slice (R251). -/
def searchQuires (s : State) (c : Ctx) : State :=
  let r := c.tk.raw
  let (a, b) := quireRange r
  (copySlices s).foldl (fun t sl => (coverOf 64 a b).foldl (fun u p =>
    dirAccount u sl 1 (dirKey 1 (tkTenant r) (bReam r) (qLayer r) (qHead r) p.1) (2 ^ 96 - 2 ^ (5 + p.2))) t) s

/-- Start the node's own part of a query: lost ranges, selection, and one share for each slice (R150 steps 3 and 4). -/
def startShares (s : State) (c : Ctx) : State :=
  if !c.tree.contributes then settleCtx s c
  else
    let r := c.tk.raw
    let f := inSpec (tkInFmt r)
    let elems := (upFrom 0 (qRows r)).flatMap (rowCodes r c.payload)
    let s := bump s K.nonfiniteInputCount (elems.filter (fun x => (decodeF (fmtSpec f) x).nonfinite)).length
    let s := bump s K.saturationCount (elems.filter (fun x => (toBcast (decodeF (fmtSpec f) x)).sat)).length
    let (s, c) := addGaps s c (lostGaps s c)
    let s := searchQuires s c
    let held := heldSheets s c
    let (s, chosen) :=
      if qSparse r then
        selectSheets s (maskOf c) (if qTopK r = 0 then gv s K.defaultTopK else qTopK r)
          ((upFrom 0 (qRows r)).map (fun i => (bcastQuery f (rowCodes r c.payload i), rowNorm (bcastQuery f (rowCodes r c.payload i))))) held
      else (s, held.map Prod.fst)
    let slices := (upFrom 0 4).map (fun sl => (sl, (held.map Prod.fst).filter (fun k => has chosen k
      && (match tget? s.kv.quires (quireOfSheet k) with | some q => shareSlice s q == sl | none => false))))
    let slices := slices.filter (fun p => !p.2.isEmpty)
    if has s.kv.preempted (reamKey (tkTenant r) (bReam r)) then
      let (s, c) := addGaps s c (slices.flatMap (fun p => runGaps s r St.preempted p.1 (p.2.map (fun k => k % 2 ^ 32))))
      foldOwn s c
    else if slices.isEmpty then foldOwn s c
    else
      let (s, ids) := slices.foldl (fun (a : State × List Nat) p => let (t, i) := addShare a.1 c.work p.1 p.2; (t, a.2 ++ [i])) (s, [])
      putCtx s { c with ownOut := ids }

/-! ## Opening (R218) -/

/-- Open a context at its place: the merge deadline is armed, the query goes to the children, and the own part starts. -/
def openCtx (s : State) (c : Ctx) (place : Nat) : State :=
  let tk := if c.root then c.tk else { c.tk with gapMax := gv s K.gapRecordsMax }
  let c := { c with place := place, tk := tk }
  let s := armDl (dropDl s c.work) tk.slice (mergeDeadlineOf s c) c.work
  let s := { s with ctxs := s.ctxs ++ [c] }
  let whole := toBytes 128 (forwardRaw s tk) ++ c.payload ++ c.bitmap
  let s := (childrenOf c.tree).foldl (fun t n => post t n tk.cls (.ticket whole)) s
  startShares s c

/-- Open a context, or let the query wait for one. -/
def openOrWait (s : State) (c : Ctx) : State :=
  match ctxPlace s c with
  | some p => openCtx s c p
  | none => bump { s with ctxWait := s.ctxWait ++ [c] } K.mergeWaits 1

/-- MERGE_CONTEXT_OPEN (R218): the first query that waits and finds room. -/
def execMergeContextOpen (s : State) : Outc :=
  match s.ctxWait.find? (fun c => (ctxPlace s c).isSome) with
  | none => .next s
  | some c =>
    match ctxPlace s c with
    | none => .next s
    | some p => .next (openCtx { s with ctxWait := s.ctxWait.filter (fun x => x.work != c.work) } c p)

/-- A query's context before it opens. -/
def newCtx (tk : Tk) (root : Bool) (t : Tree) (payload bitmap : List Byte) (snap epoch : Nat) : Ctx :=
  { work := tk.id, tk := tk, root := root, tree := t, depth := t.depth, place := 0, inputAt := 0, payload := payload,
    bitmap := bitmap, snap := snap, slots := [], acc := [], own := [], ownWts := [], ownDropped := 0, ownOut := [],
    ownDone := false, inputs := 0, gaps := [], setGaps := [], setStatus := [], wts := [], wtDropped := 0, late := false,
    epoch := epoch, closing := none, closed := false }

/-! ## QUERY (R142, R150, R222) -/

/-- Check 5 of a query, but for the tree (R146, R129). -/
def queryFieldsBad (s : State) (r : Nat) : Bool :=
  decide (qLast r < qFirst r) || decide (gv s K.maxQueryRows < qRows r)
  || (if qSparse r then decide (1024 < qTopK r) else qTopK r != 0)
  || (match fp32Val (qScale r) with | .fin _ 0 _ => false | .fin neg _ _ => neg | _ => true)
  || decide (4 < qMask r) || (qMask r == 4 && bits (qMaskB r) 24 16 != 0) || dimOf (qDim r) == 0
  || (if qExport r then qWeights r == 0 else qLog8 r || qWeights r != 0)

/-- Bytes of the result area (R155, R158). -/
def resultBytes (r : Nat) : Nat :=
  let d := dimOf (qDim r)
  qRows r * (32 + (if qOutBf16 r then 2 else 4) * d)
  + (if qExport r then 32 + qWeights r * (8 + ceilDiv (qRows r * (if qLog8 r then 1 else 4)) 8 * 8) else 0)

/-- Check 8 of a query. -/
def queryAreas (s : State) (r : Nat) : Nat :=
  let t := tkTenant r
  let n := queryPayload r (dimOf (qDim r))
  let b := bitmapBytes r
  let c1 := areaTest s t (qPayload r) n 64 1
  let c2 := if b = 0 then 0 else areaTest s t (qMaskAddr r) b 64 1
  let c3 := areaTest s t (qResult r) (resultBytes r) 32 2
  if c1 != 0 then c1 else if c2 != 0 then c2 else if c3 != 0 then c3
  else if mib (rd s K.ticketPayloadMaxMib) < 128 + n + b then St.bounds else 0

/-- Check 9 of a query (R117, R127, R250): the Ream is unknown, or the layer, head or dimension is outside it. -/
def reamCheck (s : State) (sl r : Nat) : State × Bool :=
  let (s, h) := homeOf s sl (tkTenant r) (bReam r)
  match h with
  | none => (s, true)
  | some h =>
    if h == myNode s then
      match knownReam s (tkTenant r) (bReam r) with
      | none => (s, true)
      | some m => (s, decide (m.layers ≤ qLayer r) || decide (m.heads ≤ qHead r) || m.dim != qDim r)
    else
      match (dirMatches s sl 3 (dirKey 3 (tkTenant r) (bReam r) 0 0 0) reamMask).head? with
      | none => (s, true)
      | some e =>
        let exact := ones e.care (bits reamMask 53 43 * 2 ^ 53)
        (s, exact && (decide (bits e.data 28 12 < qLayer r) || decide (bits e.data 20 8 < qHead r) || bits e.data 16 4 != qDim r))

/-- The slice whose counters a query's refusals and clamps go to: that of its Ream's first Quire, else that of the ticket (R137). -/
def querySlice (s : State) (tk : Tk) : Nat :=
  if s.kv.quires.any (fun p => p.2.tenant == tkTenant tk.raw && p.2.ream == bReam tk.raw) then reamSlice s (tkTenant tk.raw) (bReam tk.raw)
  else tk.slice

/-- Admit a query at its entry node, after checks 1 to 4. -/
def admitQuery (s : State) (tk : Tk) : State :=
  let r := tk.raw
  match tget? s.trees (qTree r) with
  | none => refuse s tk St.bounds
  | some t =>
    if t.depth != 0 || queryFieldsBad s r then refuse s tk St.bounds
    else if qMask r == 4 && tkTenant r != 0 && !on s (K.maskBitmapGrant (tkTenant r)) then
      refuse (bump s (K.maskRightsRefused (querySlice s tk)) 1) tk St.rights
    else
      match snapOf s (tkTenant r) (querySlice s tk) (qSnap r) with
      | (s, none) => refuse s tk St.staleEpoch
      | (s, some snap) =>
        let c := queryAreas s r
        if c != 0 then refuseArea s tk c
        else
          let (s, bad) := reamCheck s tk.slice r
          if bad then refuse s tk St.bounds
          else if partsPoisoned s tk (qPayload r) (queryPayload r (dimOf (qDim r))) (qMaskAddr r) (bitmapBytes r) then
            complete s tk St.poisoned 0 0
          else
            let (s, payload, bitmap) := fetchParts s tk (qPayload r) (queryPayload r (dimOf (qDim r))) (qMaskAddr r) (bitmapBytes r)
            let e := rd s K.mapEpoch
            let (s, nodes) := contributors s tk.slice e r
            let out := nodes.filter (fun n => !bitB t.members n)
            let c := newCtx tk true t payload bitmap snap e
            let (s, c) := addGaps s c (out.map (fun n => rangeGap r St.bounds n))
            openOrWait s c

/-- QUERY (R150): the query at the head of the tickets taken. -/
def execQuery (s : State) : Outc :=
  match takeHead s 1 with
  | none => .next s
  | some (tk, s) => .next (admitQuery s tk)

/-! ## QUERY_FORWARD_ARRIVE (R223) -/

/-- The refusal set of a forwarded query. -/
def refusalSet (s : State) (raw cause : Nat) : RecSet :=
  { ticketId := tkId raw, treeId := qTree raw, sender := myNode s, epoch := rd s K.mapEpoch, rows := 0, status := setStatus [cause],
    late := false, recs := [], gaps := [rangeGap raw cause (myNode s)], weights := [], weightDropped := 0 }

/-- Refuse a forwarded query. -/
def refuseForward (s : State) (src cls raw cause : Nat) : State :=
  postFor (bump (bump s K.forwardRefusals 1) K.gapsEmitted 1) (tkTenant raw) src cls (.set (refusalSet s raw cause) 1 false)

/-- The first check that a forwarded query fails, by R142 and R223, with whether it is a check of R142: 1 to 3, the
deadline, the fields and the tree, the mask's right, the snapshot and the size of the whole. -/
def forwardFail (s : State) (tk : Tk) : Option (Nat × Bool) :=
  let r := tk.raw
  match headerCheck s r (some tk.area) with
  | some c => some (c, true)
  | none =>
    if !epochOk s (tkEpoch r) then some (St.staleEpoch, true)
    else if tkDeadline r != 0 && decide (tkDeadline r ≤ now s) then some (St.deadline, true)
    else if queryFieldsBad s r then some (St.bounds, true)
    else if (match tget? s.trees (qTree r) with | none => true | some t => t.parent != tk.src || t.depth != tk.depth + 1) then some (St.bounds, false)
    else if qMask r == 4 && tkTenant r != 0 && !on s (K.maskBitmapGrant (tkTenant r)) then some (St.rights, true)
    else none

/-- Take a forwarded query that no gate holds: its checks, then its context. -/
def takeForward (s : State) (tk : Tk) : State :=
  let r := tk.raw
  let n := queryPayload r (dimOf (qDim r))
  let no (s : State) (c : Nat) : State := refuseForward (bump s K.admissionRefusedCount 1) tk.src tk.cls r c
  let s := dropDl s tk.id
  match forwardFail s tk with
  | some (c, counted) =>
    let s := if c == St.staleEpoch then bump s K.staleEpochRefusals 1 else if c == St.rights then bump s (K.maskRightsRefused (querySlice s tk)) 1 else s
    if counted then no s c else refuseForward s tk.src tk.cls r c
  | none =>
    match snapOf s (tkTenant r) (querySlice s tk) (qSnap r) with
    | (s, none) => no s St.staleEpoch
    | (s, some snap) =>
      if mib (rd s K.ticketPayloadMaxMib) < 128 + tk.data.length || tk.data.length != n + bitmapBytes r then no s St.bounds
      else
        match tget? s.trees (qTree r) with
        | none => refuseForward s tk.src tk.cls r St.bounds
        | some t =>
          openOrWait (armDl s tk.slice tk.deadline tk.id)
            (newCtx tk false t (tk.data.take n) (tk.data.drop n) snap (tkEpoch r))

/-! ## SET (R219, R224) -/

/-- SET: a complete set from a child. -/
def execSet (src : Nat) (m : RecSet) (s : State) : Outc :=
  let mine (c : Ctx) : Bool := tkId c.tk.raw == m.ticketId && qTree c.tk.raw == m.treeId && has (childrenOf c.tree) src
    && !has c.slots src && !c.closed
  match s.ctxs.find? mine with
  | none =>
    if s.att.doneWork.any (fun x => x.1 == m.treeId && x.2.1 == m.ticketId && has x.2.2 src) then .next (bump s K.lateDiscardCount 1)
    else .next (bump s K.orphanSets 1)
  | some c =>
    let c := markLate s { c with slots := c.slots ++ [src], setGaps := c.setGaps ++ m.gaps, late := c.late || m.late,
                                 setStatus := if m.status = 0 then c.setStatus else c.setStatus ++ [m.status] }
    if m.rows = 0 then .next (settleCtx s { c with inputs := c.inputs + 1 })
    else
      let (s, c) := foldInput s c m.recs m.weights m.weightDropped
      .next (settleCtx s c)

end Sys2Proof.Machine
end

