-- ==== Sys2Proof/Machine/Budget.lean ====
section
/-! DEFINITION. The budget arbiter (R409 to R413): windows, floors, requests and grants; and what the throttle holds back
(R415). -/

namespace Sys2Proof.Machine

/-- The number of the window that runs (R409). -/
def windowNow (s : State) : Nat := (if s.tm.held then htNs s else localNs s) / 1000

def stackHolder (st : Nat) : Nat := 4 + st
def nodeHolder : Nat := 16

/-- The slice whose power model covers a holder. -/
def holderSlice (h : Nat) : Nat := if h < 4 then h else if h < 12 then (h - 4) / 2 else if h < 16 then h - 12 else 0

/-- The coefficients of a slice's model. -/
def modelOf (s : State) (sl : Nat) : List F32 :=
  [rd s (K.calTempC sl), rd s (K.calLoadW sl), rd s (K.eMacPj sl), rd s (K.eGranuleNj sl), rd s (K.leakW sl)]

/-- The guard band of a slice in permille (R418, R424). -/
def guardBand (s : State) (sl : Nat) : Nat :=
  if !s.pow.started then 500 else if rd s (K.modelState sl) == 0 then 0 else rd s K.powerGuardPermille

def guarded (s : State) (h n : Nat) : Nat := ceilDiv (n * (1000 + guardBand s (holderSlice h))) 1000

/-- The floor of a holder (R410). -/
def floorOf (s : State) (h : Nat) : Nat := guarded s h (Config.modelFloor h (modelOf s (holderSlice h)))

/-- The watts that a request of a holder names. -/
def requestOf (s : State) (h cls : Nat) : Nat := guarded s h (Config.modelRequest h cls (modelOf s (holderSlice h)))

/-- Whether a grant of this class covers a holder in the window that runs. -/
def hasBudget (s : State) (h cls : Nat) : Bool :=
  s.pow.grants.any (fun g => g.holder == h && g.cls == cls && decide (g.first ≤ windowNow s) && decide (windowNow s < g.first + g.span))

/-- Make a request. -/
def request (s : State) (h cls span : Nat) : State :=
  let (i, s) := newId s
  let r : Budget := { holder := h, cls := cls, first := windowNow s + 1, span := span, watts := requestOf s h cls,
                      madeIn := windowNow s, waited := false, no := i, used := false }
  { s with pow := { s.pow with reqs := s.pow.reqs ++ [r] } }

/-- Make a request, unless the holder has one of its class waiting, or granted. -/
def askBudget (s : State) (h cls span : Nat) : State :=
  if hasBudget s h cls || s.pow.reqs.any (fun r => r.holder == h && r.cls == cls) then s else request s h cls span

/-- The window that runs so many ns from now. -/
def windowIn (s : State) (ns : Nat) : Nat := ((if s.tm.held then htNs s else localNs s) + ns) / 1000

/-- Whether a foreground grant is still unused and covers every window from now to so many ns from now (R410). -/
def freshGrant (s : State) (h ns : Nat) (g : Budget) : Bool :=
  g.holder == h && g.cls == 1 && !g.used && decide (g.first ≤ windowNow s) && decide (windowIn s ns < g.first + g.span)

/-- Whether a burst or a stream stage of a holder may start: each takes a grant of its own (R173, R410). -/
def hasGrant (s : State) (h ns : Nat) : Bool := s.pow.grants.any (freshGrant s h ns)

/-- Use the first grant that covers it. -/
def useGrant (s : State) (h ns : Nat) : State :=
  match s.pow.grants.find? (freshGrant s h ns) with
  | none => s
  | some g => { s with pow := { s.pow with grants := s.pow.grants.map (fun x => if x.no == g.no then { x with used := true } else x) } }

/-- Request for a burst or a stream stage that has no grant, unless a request of the holder waits or a grant is still to come. -/
def askGrant (s : State) (h ns span : Nat) : State :=
  if hasGrant s h ns || s.pow.reqs.any (fun r => r.holder == h && r.cls == 1)
      || s.pow.grants.any (fun g => g.holder == h && g.cls == 1 && !g.used && decide (windowNow s < g.first)) then s
  else request s h 1 span

/-! ## Averages over 1 ms (R417, R418) -/

/-- A whole number as FP32, and the quotient of two. -/
def f32Nat (n : Nat) : F32 := roundFp32 (.fin false n 0)
def f32Div (a b : Nat) : F32 := roundFp32 (divV (.fin false a 0) (.fin false b 0))

/-- The mean of up to 100 readings of 10 µs, each a sum of so many sensors. -/
def meanOf (l : List Nat) (per : Nat) : F32 := f32Div (sumNat l) (max 1 (l.length * per))

/-- The mean die temperature and the load of a slice over 1 ms. -/
def meanTemp (s : State) (sl : Nat) : F32 := meanOf (tget s.pow.tempAvg sl []) 4
def meanLoad (s : State) (sl : Nat) : F32 := meanOf (tget s.pow.loadAvg sl []) 1

/-- Whether two values differ by more than a whole number. -/
def differ (a b : F32) (n : Nat) : Bool :=
  let d := fsub a b % 2 ^ 31
  decide (d ≤ 0x7F800000) && decide (f32Nat n < d)

/-- Whether the throttle defers background work (R415). -/
def deferred (s : State) : Bool := decide (1 ≤ s.pow.slow)

/-- Whether sweeps and ports take tickets (R415 level 4). -/
def ticketsHeld (s : State) : Bool := decide (4 ≤ s.pow.slow)

/-- The longest burst that the throttle allows (R415), within burst_max_ns. -/
def burstLimit (s : State) : Nat :=
  let m := rd s K.burstMaxNs
  if 3 ≤ s.pow.slow then min m 128 else if s.pow.slow == 2 then min m 256 else m

end Sys2Proof.Machine
end

