-- ==== Sys2Proof/Machine/Shares.lean ====
section
/-! DEFINITION. Shares inside a slice (R151 to R153, R158, R160, R169): metadata, parking, Felt, the stream stage, passes
and the slice record; and the bursts and refreshes of the scoring stack (R165 to R173). -/

namespace Sys2Proof.Machine

/-! ## Looking up -/

def putShare (s : State) (x : Share) : State :=
  { s with att := { s.att with shares := s.att.shares.map (fun y => if y.id == x.id then x else y) } }

def sliceShares (s : State) (sl : Nat) : List Share := s.att.shares.filter (fun x => x.slice == sl)

def parkedNow (s : State) (sl : Nat) : Nat := ((sliceShares s sl).filter (fun x => x.stage == .parked)).length

def stackSt (s : State) (sl : Nat) : StackSt := nth s.arrays sl StackSt.reset

def putStack (s : State) (sl : Nat) (t : StackSt) : State := { s with arrays := setNth s.arrays sl t }

/-- Whether the score array of a slice is used (R187, R189). -/
def arrayOn (s : State) (sl : Nat) : Bool := on s K.scoringEnable && rd s (K.scoreArrayState sl) == 0

/-! ## Passes (R152, R153) -/

/-- Sheets of a pass. -/
def passSize (rows : Nat) : Nat := min 256 (16384 / max 1 rows)

def passCount (rows n : Nat) : Nat := max 1 (ceilDiv n (passSize rows))

def passSheets (x : Share) (rows : Nat) : List Nat := (x.sheets.drop (x.pass * passSize rows)).take (passSize rows)

/-- MAC per ec and engine for a format (Time and throughput). -/
def engineRate (f : Nat) : Nat := if f == 3 || f == 4 || f == 8 || f == 0xB then 256 else if f == 1 || f == 2 then 128 else 512

/-- Stack clocks of one K half in the score units (R167). -/
def scoreClocks (rows f d : Nat) : Nat := max (ceilDiv (rows * 64 * d) 4096) (ceilDiv (halfGranules f d * 1024) 2000)

/-- Where a K half of a pass lies: in the scoring stack, for either path; there, but for the pins only; in the carrying stack; in Felt. -/
inductive KPlace where
  | either | pins | carrying | felt
  deriving DecidableEq, Repr

/-- The projected ends of the paths of a score phase: the score units, the pins of the two stacks, and the engines. -/
structure Ends where
  su : Nat
  pins : Nat
  carry : Nat
  eng : Nat
  deriving DecidableEq, Repr

/-- The split of a pass between the score units and the engines (R153), in ascending order: those that the score units take. An engine
half starts when it has been read and the engines have done the halves before it. All times are in units of
1 / (8 × 33 × 512 × E) ns. -/
def splitPass (e rows : Nat) : List (Nat × Sheet × KPlace) → Ends → List Nat
  | [], _ => []
  | (k, sh, p) :: r, t =>
    let d := dimOf sh.dim
    let f := sh.kHalf.fmt
    let read := halfGranules f d * 4 * 33 * 512 * e
    let work := rows * 64 * d * 80 * (512 / engineRate f)
    let onPins : Ends := { t with pins := t.pins + read, eng := max t.eng (t.pins + read) + work }
    match p with
    | .either =>
      let a := t.su + scoreClocks rows f d * 5 * 33 * 512 * e
      if a ≤ onPins.eng then k :: splitPass e rows r { t with su := a } else splitPass e rows r onPins
    | .pins => splitPass e rows r onPins
    | .carrying => splitPass e rows r { t with carry := t.carry + read, eng := max t.eng (t.carry + read) + work }
    | .felt => splitPass e rows r { t with eng := t.eng + work }

/-- The metadata copy of a Sheet of a share (R126). -/
def copyOf (x : Share) (k : Nat) : Sheet := (x.meta_.find? (fun sh => keyOfSheet sh == k)).getD (newSheet 0 0 0 0 0 0 3 3)

def homedInFelt (s : State) (k : Nat) : Bool := match tget? s.kv.quires (quireOfSheet k) with | some q => q.tier == 1 | none => false

/-- Whether a Sheet's K half lies in the scoring stack. -/
def kInScoring (s : State) (k : Nat) : Bool :=
  match tget? s.kv.quires (quireOfSheet k) with | some q => q.tier == 0 && !q.kCarrying | none => false

/-- Whether one burst can hold a half (R168, R170, R176). -/
def fitsBurst (s : State) (rows : Nat) (sh : Sheet) : Bool :=
  decide (scoreClocks rows sh.kHalf.fmt (dimOf sh.dim) * 5 ≤ burstLimit s * 8)

/-- Where the K half of a Sheet of a share lies; a half that no burst can hold takes the pins. -/
def kPlace (s : State) (x : Share) (rows k : Nat) : KPlace :=
  if homedInFelt s k then .felt
  else if !kInScoring s k then .carrying
  else if fitsBurst s rows (copyOf x k) then .either else .pins

/-- The Sheets of the current pass that the score units take. -/
def planPass (s : State) (x : Share) (rows : Nat) : List Nat :=
  if !arrayOn s x.slice then []
  else splitPass (max 1 (rd s (K.enginesInService x.slice))) rows
    ((passSheets x rows).map (fun k => (k, copyOf x k, kPlace s x rows k))) ⟨0, 0, 0, 0⟩

/-- Whether the slice has an engine left (R9): without one its shares wait. -/
def hasEngines (s : State) (sl : Nat) : Bool := rd s (K.enginesInService sl) != 0

/-- The windows that a share's stream stage is requested for: those of its engine time, K and V, and one more for the part windows at its
ends; 8 at most (R410). DEDUCED (log entry 128). -/
def streamSpan (s : State) (x : Share) (rows : Nat) : Nat :=
  let e := max 1 (rd s (K.enginesInService x.slice))
  let ec := sumNat (x.sheets.map (fun k =>
    let sh := copyOf x k
    ceilDiv (rows * 64 * dimOf sh.dim) (e * engineRate sh.kHalf.fmt) + ceilDiv (rows * 64 * dimOf sh.dim) (e * engineRate sh.vHalf.fmt)))
  min 8 (ecNs ec / 1000 + 2)

/-- Felt bytes of a pass: its scores and every half that it stages (R151 stage 3). -/
def passFelt (s : State) (x : Share) (rows : Nat) (inStack : List Nat) : Nat :=
  let l := passSheets x rows
  rows * 64 * 4 * l.length
  + sumNat (l.map (fun k =>
      if homedInFelt s k then 0
      else sheetV (copyOf x k) + (if has inStack k then 0 else sheetK (copyOf x k))))

/-- Allocate the Felt of a share's current pass and plan it; none where the pool cannot give it. -/
def takePass (s : State) (x : Share) (rows : Nat) : Option Share :=
  let plan := planPass s x rows
  let n := max 1 (passFelt s x rows plan)
  if n ≤ feltPool s x.slice - feltTaken s x.slice then some { x with felt := n, inStack := plan } else none

/-- Whether a query context of the stack holds a share's rows. -/
def ctxLoaded (t : StackSt) (x : Share) : Bool := t.ctxs.any (fun q => q.share == x.id)

/-- Load the rows of staged shares into free query contexts, of which a scoring stack has two (R169). -/
def loadContexts (s : State) (sl : Nat) : State :=
  if !arrayOn s sl then s
  else
    (sliceShares s sl).foldl (fun t x =>
      match ctxOf t x.ctx with
      | none => t
      | some c =>
        let st := stackSt t sl
        if (x.stage == .staged || (x.stage == .stream && !st.planned.isEmpty)) && !ctxLoaded st x && decide (st.ctxs.length < 2) then
          let rows := (rowsOf c.tk.raw c.payload).map Row.q
          putStack t sl { st with ctxs := st.ctxs ++ [{ share := x.id, rows := rows, maxima := rows.map (fun _ => fNegInf) }] }
        else t) s

/-! ## SHARE_DISPATCH (R151 stages 1 to 3, R160) -/

/-- The share that the slice takes next: the first that is queued, or that waits for a parking place when one is free. -/
def nextShare (s : State) (sl : Nat) : Option Share :=
  (sliceShares s sl).find? (fun x => x.stage == .queued
    || (x.stage == .waitPark && decide (parkedNow s sl < rd s K.parkedLimit)))

/-- Shares in stages 2 and 3 (R151). -/
def placesUsed (s : State) (sl : Nat) : Nat := ((sliceShares s sl).filter (fun x => x.stage == .staged)).length

/-- Quires of a share that are outside HBM and Felt, or in another slice (R12): not yet salvaged or evacuated (R391, R463). -/
def absentQuires (s : State) (x : Share) : List Nat :=
  ((x.sheets.map quireOfSheet).eraseDups).filter (fun qk => match tget? s.kv.quires qk with
    | some q => decide (2 ≤ q.tier) || q.slice != x.slice
    | none => false)

/-- Sheets of a share whose Quires lie in another slice that takes shares, by slice: their part of the query is that slice's (R12). -/
def strays (s : State) (x : Share) : List (Nat × List Nat) :=
  ((upFrom 0 4).filter (fun sl => sl != x.slice && rd s (K.sliceState sl) == 1)).filterMap (fun sl =>
    let l := x.sheets.filter (fun k => match tget? s.kv.quires (quireOfSheet k) with | some q => q.slice == sl | none => false)
    if l.isEmpty then none else some (sl, l))

/-- Hand a share's strays to shares of their own slices: the state, the context, and what is left of the share. -/
def handStrays (s : State) (c : Ctx) (x : Share) : State × Ctx × Share :=
  (strays s x).foldl (fun (a : State × Ctx × Share) p =>
    let (t, i) := addShare a.1 c.work p.1 p.2
    let t := { t with att := { t.att with shares := t.att.shares.map (fun y => if y.id == i then { y with wasParked := x.wasParked } else y) } }
    let c := { a.2.1 with ownOut := a.2.1.ownOut ++ [i] }
    (putCtx t c, c, { a.2.2 with sheets := a.2.2.sheets.filter (fun k => !has p.2 k) })) (s, c, x)

/-- The last step in which a share referenced its Quires (R265). -/
def touchQuires (s : State) (x : Share) : State :=
  { s with kv := { s.kv with quires := s.kv.quires.map (fun p =>
      if x.sheets.any (fun k => quireOfSheet k == p.1) then (p.1, { p.2 with touch := curStep s }) else p) } }

/-- The stall causes of absent Quires, each once. -/
def stallCauses (s : State) (absent : List Nat) : List Nat :=
  (absent.filterMap (fun qk => (tget? s.kv.quires qk).map (tierCause s))).eraseDups

/-- Park a share and ask for its Quires (R160, R272). The wait counts once for each cause among its Quires: DEDUCED (log entry 129). -/
def parkShare (s : State) (x : Share) (absent : List Nat) : State :=
  let tenant := (tget? s.kv.quires (absent.headD 0)).elim 0 Quire.tenant
  let s := touchQuires ((stallCauses s absent).foldl (fun t cause => countStall t tenant cause) s) x
  let x := { x with stage := .parked, wasParked := true, wants := absent, parkAt := s.tm.ec, felt := 0, refs := x.sheets }
  let s := bump (putShare s x) (K.sharesParked x.slice) 1
  (absent.filter (fun qk => match tget? s.kv.quires qk with | some q => decide (2 ≤ q.tier) | none => false)).foldl (fun t qk => askMove t qk 0 0) s

/-- The share without its poisoned Sheets, which are left out with their cause (R115). -/
def dropPoisoned (s : State) (x : Share) : Share :=
  let here := x.sheets.filterMap (fun k => (tget? s.kv.sheets k).map (fun sh => (k, sh)))
  let bad := (here.filter (fun p => p.2.poisoned)).map Prod.fst
  { x with sheets := (here.filter (fun p => !p.2.poisoned)).map Prod.fst,
           missing := x.missing ++ bad.map (fun k => (k, St.poisoned)),
           meta_ := (here.filter (fun p => !p.2.poisoned)).map Prod.snd }

/-- Stage a share whose Quires are all here: references and touches, its Felt, its budget and its context. -/
def stageShare (s : State) (slice : Nat) (c : Ctx) (x : Share) : State :=
  let x := { x with stage := .staged, refs := x.sheets, pass := 0, acc := [], wts := [] }
  let s := touchQuires s x
  let n := streamSpan s x (cRows c)
  let s := request (request s slice 1 n) (stackHolder (carryingStack slice)) 1 n
  loadContexts (putShare s ((takePass s x (cRows c)).getD x)) slice

/-- SHARE_DISPATCH: the metadata stage of the next share, then its Felt. -/
def execShareDispatch (slice : Nat) (s : State) : Outc :=
  if 16 ≤ placesUsed s slice then .next s
  else
    match nextShare s slice with
    | none => .next s
    | some x =>
      match ctxOf s x.ctx with
      | none => .next (dropShare s x)
      | some c =>
        let (s, c, y) := handStrays s c x
        if y.sheets.isEmpty && !x.sheets.isEmpty then .next (dropShare (putCtx s { c with ownOut := without c.ownOut x.id }) x)
        else
          let y := dropPoisoned s y
          let absent := absentQuires s y
          if absent.isEmpty then .next (stageShare s slice c y)
          else if rd s K.parkedLimit ≤ parkedNow s slice then .next (putShare s { y with meta_ := x.meta_, stage := .waitPark })
          else .next (parkShare s { y with meta_ := x.meta_ } absent)

/-- Whether every Quire of a share is in HBM or Felt, in its slice or in another that takes shares. -/
def quiresHere (s : State) (x : Share) : Bool :=
  (absentQuires s x).all (fun qk => match tget? s.kv.quires qk with
    | some q => decide (q.tier ≤ 1) && rd s (K.sliceState q.slice) == 1
    | none => true)

/-- SHARE_RESUME (R160 step 3): a parked share whose Quires have all come re-enters the queue, and its wait ends (R272). -/
def execShareResume (slice : Nat) (s : State) : Outc :=
  match (sliceShares s slice).find? (fun x => x.stage == .parked && quiresHere s x) with
  | none => .next s
  | some x => .next (endPark s x ((stallCauses s x.wants).headD 4))

/-! ## SHARE_STREAM_START (R151) -/

/-- A refresh slot lasts at most 560 ns (R171). -/
def slotsNow (s : State) (t : StackSt) : List Nat := (t.slots.filter (fun p => !passed s p.2 560)).map Prod.fst

/-- Whether a stack is free for the next share (R172): no burst runs, and the refresh slots begun at the last burst's end have ended. -/
def stackReady (s : State) (sl : Nat) : Bool :=
  let t := stackSt s sl
  t.burst.isNone && !t.slots.any (fun p => p.2 == t.lastEnd && !passed s p.2 560)

/-- Give a share's query context back after its last SCX (R169): in its last pass, with nothing left to command. -/
def endSequence (t : StackSt) (x : Share) (rows : Nat) : StackSt :=
  if t.planned.isEmpty && t.burst.isNone && decide (passCount rows x.sheets.length ≤ x.pass + 1) then
    { t with ctxs := t.ctxs.filter (fun q => q.share != x.id) }
  else t

/-- Start a pass: its in-stack halves are planned; a share without any in its last pass needs its context no longer. -/
def startPass (s : State) (x : Share) (rows : Nat) : State :=
  let s := putShare s x
  loadContexts (putStack s x.slice (endSequence { stackSt s x.slice with planned := x.inStack } x rows)) x.slice

/-- SHARE_STREAM_START: the first staged share, once the stage is free, its Felt and context are there, and the slice and
its carrying stack have their grants. -/
def execShareStreamStart (slice : Nat) (s : State) : Outc :=
  if (sliceShares s slice).any (fun x => x.stage == .stream) || !stackReady s slice || !hasEngines s slice then .next s
  else
    match (sliceShares s slice).find? (fun x => x.stage == .staged) with
    | none => .next s
    | some x =>
      match ctxOf s x.ctx with
      | none => .next (dropShare s x)
      | some c =>
        let v := stackHolder (carryingStack slice)
        if !(hasGrant s slice 0 && hasGrant s v 0) then
          let n := streamSpan s x (cRows c)
          .next (askGrant (askGrant s slice 0 n) v 0 n)
        else
          let s := loadContexts s slice
          if arrayOn s slice && !ctxLoaded (stackSt s slice) x then .next s
          else
            match if x.felt != 0 then some x else takePass s x (cRows c) with
            | none => .next s
            | some x => .next (startPass (useGrant (useGrant s slice 0) v 0) { x with stage := .stream, streamAt := s.tm.ec } (cRows c))

/-! ## The arithmetic of a pass -/

/-- Saturations of query elements under the scales of a Sheet's closed K blocks (R97). -/
def scaleSats (rows : List Row) (sh : Sheet) : Nat :=
  if !isBlockFmt sh.kHalf.fmt then 0
  else sumNat (rows.map (fun r => sumNat ((upFrom 0 sh.kHalf.scales.length).map (fun b =>
    ((upFrom 0 r.q.length).filter (fun c =>
      (toBcast (mulV (bcastVal (nth r.q c 0)) (scaleVal sh.kHalf.fmt (nth (nth sh.kHalf.scales b []) c 0)))).sat)).length))))

/-- A Sheet as a pass reads it: its coverage from the metadata copy (R126), its blocks in the form that the node holds, or, for a half
that a burst has read, in the form held then (R105, R176). -/
def readNow (s : State) (x : Share) (k : Nat) : Sheet :=
  let sh := copyOf x k
  match tget? s.kv.sheets k with
  | none => sh
  | some l => { sh with kHalf := (tget? x.kRead k).getD l.kHalf, vHalf := l.vHalf }

/-- A share without the Sheets of its pass that have been poisoned since: they are named as gaps (R115). -/
def dropBad (s : State) (x : Share) (l : List Nat) : Share :=
  let bad := l.filter (fun k => match tget? s.kv.sheets k with | some sh => sh.poisoned | none => false)
  { x with missing := x.missing ++ bad.map (fun k => (k, St.poisoned)) }

/-- Finish the pass that a share runs: its records and weights join what it carries, and its Felt is released (R152). -/
def finishPass (s : State) (c : Ctx) (x : Share) : State × Share :=
  let rows := rowsOf c.tk.raw c.payload
  let m := maskOf c
  let fac := scoreFactor c.tk.raw
  let all := passSheets x (cRows c)
  let x := dropBad s x all
  let l := all.filter (fun k => !has (x.missing.map Prod.fst) k)
  let e := max 1 (rd s (K.enginesInService x.slice))
  let (s, sheets) := l.foldl (fun (a : State × List (Sheet × Nat × Nat)) k =>
    let (i, t) := fresh a.1
    (t, a.2 ++ [(readNow s x k, if has x.inStack k then 64 else 32, Config.freeNat i % e)])) (s, [])
  let (recs, wts) := pass (cDim c) m fac rows sheets
  let scores := sumNat (rows.map (fun r => sumNat (sheets.map (fun p =>
    ((sheetScores m fac r (p.1, p.2.1)).filter (fun y => fnonfinite y.2)).length))))
  let s := bump s K.saturationCount (sumNat (sheets.map (fun p => scaleSats rows p.1)) + passSats (cDim c) m fac rows sheets)
  let s := bump s K.nonfiniteResultCount (scores + (recs.filter recNonfinite).length)
  let s := bump s (K.halvesScoredOverPins x.slice) (l.filter (fun k => kInScoring s k && !has x.inStack k)).length
  let wts := if qExport c.tk.raw then wts else []
  let s := bump s (K.passesRun x.slice) 1
  if x.pass = 0 then (s, { x with acc := recs, wts := wts, felt := 0, pass := 1, inStack := [], kRead := [] })
  else
    let out := (combineRows (cDim c) (cRows c) [x.acc, recs]).map (fun r => { r with contributors := 1 })
    (bump s K.nonfiniteResultCount (newNonfinite out [x.acc, recs]),
     { x with acc := out, wts := scaleWeights (cRows c) [(x.acc, x.wts), (recs, wts)], felt := 0, pass := x.pass + 1, inStack := [], kRead := [] })

/-- Whether a share's pass can end: its slice has an engine, and the score units have done with it. -/
def passScored (s : State) (x : Share) : Bool :=
  hasEngines s x.slice && (stackSt s x.slice).planned.isEmpty && !(match (stackSt s x.slice).burst with | some b => b.share == x.id | none => false)

/-- End the pass that runs, if its scores are in; the share and the state after it. -/
def endPass (s : State) (c : Ctx) (x : Share) : State × Share :=
  if x.felt != 0 && passScored s x then
    let (s, x) := finishPass s c x
    (putShare s x, x)
  else (s, x)

/-- PASS_START (R152): the next pass of the share in the stream stage. -/
def execPassStart (slice : Nat) (s : State) : Outc :=
  match (sliceShares s slice).find? (fun x => x.stage == .stream) with
  | none => .next s
  | some x =>
    match ctxOf s x.ctx with
    | none => .next (dropShare s x)
    | some c =>
      if passCount (cRows c) x.sheets.length ≤ x.pass + (if x.felt = 0 then 0 else 1) then .next s
      else
        let (s, x) := endPass s c x
        if x.felt != 0 then .next s
        else
          match takePass s x (cRows c) with
          | none => .next s
          | some x => .next (startPass s x (cRows c))

/-! ## SHARE_RECORD (R154, R158, R219) -/

/-- Gaps of the Sheets that a share left out: by cause, by run (R228). -/
def missingGaps (s : State) (raw : Nat) (x : Share) : List Gap :=
  ((x.missing.map Prod.snd).eraseDups).flatMap (fun cause =>
    runGaps s raw cause x.slice (((upFrom 0 x.missing.length).filterMap (fun i =>
      let p := nth x.missing i (0, 0)
      if p.2 == cause then some (p.1 % 2 ^ 32) else none)).foldl (fun l n => (l.filter (fun a => decide (a < n))) ++ n :: l.filter (fun a => decide (n < a))) []))

/-- Deliver a slice's record to the own accumulator, which is folded when it was the last. -/
def deliver (s : State) (c : Ctx) (x : Share) : State :=
  let (s, c) := addGaps s c (missingGaps s c.tk.raw x)
  let (s, c) :=
    if c.own.isEmpty then
      let k := keepWeights c.tk.raw x.wts c.ownDropped
      (s, { c with own := x.acc, ownWts := k.1, ownDropped := k.2 })
    else
      let out := (combineRows (cDim c) (cRows c) [c.own, x.acc]).map (fun r => { r with contributors := 1 })
      let k := keepWeights c.tk.raw (scaleWeights (cRows c) [(c.own, c.ownWts), (x.acc, x.wts)]) c.ownDropped
      (bump s K.nonfiniteResultCount (newNonfinite out [c.own, x.acc]), { c with own := out, ownWts := k.1, ownDropped := k.2 })
  let c := { c with ownOut := without c.ownOut x.id }
  if c.ownOut.isEmpty then foldOwn s c else putCtx s c

/-- SHARE_RECORD: the share in the stream stage has done its last pass. -/
def execShareRecord (slice : Nat) (s : State) : Outc :=
  match (sliceShares s slice).find? (fun x => x.stage == .stream) with
  | none => .next s
  | some x =>
    match ctxOf s x.ctx with
    | none => .next (dropShare s x)
    | some c =>
      let (s, x) := if x.pass + 1 == passCount (cRows c) x.sheets.length then endPass s c x else (s, x)
      if x.pass < passCount (cRows c) x.sheets.length then .next s
      else
        .next (loadContexts (dropShare (deliver s c x) x) slice)

/-! ## Bursts (R170 to R173) -/

/-- The refresh balance of a bank set (R171). An idle set is pulled in to +1, at reset too: DESIGN CHOICE (log entry 130). -/
def balanceOf (t : StackSt) (b : Nat) : Int := tget t.balance b 1

/-- The bank set of a DPA's line in a scoring stack. -/
def dpaBank (sl dpa : Nat) : Nat := Config.bankSet (scoringStack sl) (dpa / 64) % 64

/-- Whether the running burst owns a bank set. -/
def bankOwned (t : StackSt) (b : Nat) : Bool := match t.burst with | some u => has u.banks b | none => false

/-- Whether a host access waits for a bank set. -/
def bankWaited (sl : Nat) (t : StackSt) (b : Nat) : Bool :=
  t.readWait.any (fun r => dpaBank sl r.2.1 == b) || t.writeBuf.any (fun w => dpaBank sl w.1 == b)

/-- Whether a burst may own a bank set now: its balance leaves room for the one refresh that can fall due (R171 item 4), no refresh
slot runs in it, and no host access waits for it (R172 step 2, R175). -/
def bankReady (s : State) (sl : Nat) (t : StackSt) (b : Nat) : Bool :=
  decide (0 ≤ balanceOf t b) && !has (slotsNow s t) b && !bankWaited sl t b

/-- The halves of the next burst: from the front of the plan, while their time stays within the limit. -/
def burstRun (s : State) (t : StackSt) (x : Share) (rows : Nat) : List Nat → Nat → List Nat
  | [], _ => []
  | k :: r, used =>
    let sh := copyOf x k
    let u := used + scoreClocks rows sh.kHalf.fmt (dimOf sh.dim)
    if bankReady s x.slice t sh.bankSet && (decide (u * 5 ≤ burstLimit s * 8)) then k :: burstRun s t x rows r u else []

def clocksOf (x : Share) (rows : Nat) (l : List Nat) : Nat :=
  sumNat (l.map (fun k => scoreClocks rows (copyOf x k).kHalf.fmt (dimOf (copyOf x k).dim)))

/-! ## Host accesses that wait (R172, R174, R175) -/

/-- Serve a host read that waited: host physical address, DPA, ec of arrival, writes held before it. -/
def serveRead (s : State) (sl : Nat) (r : Nat × Nat × Nat × Nat) : State :=
  let w := ecNs (s.tm.ec - r.2.2.1)
  let s := wr s (K.hostReadWaitMaxNs sl) (max (rd s (K.hostReadWaitMaxNs sl)) w)
  emit s (.memData r.1 (Mem.read s.mem.cells r.2.1 64) (linePoisoned s r.2.1))

/-- A host write of one line reaches DRAM: a whole-line write clears the line's poison (R383). -/
def lineWrite (s : State) (dpa : Nat) (data : List Byte) : State :=
  wroteLines (setCells s (Mem.write s.mem.cells dpa data)) (wholeLines dpa data.length)

/-- Whether a host access of a line waits: a burst owns its bank set, or an earlier access of the set still waits. -/
def mustWait (s : State) (sl dpa : Nat) : Bool :=
  let t := stackSt s sl
  bankOwned t (dpaBank sl dpa) || bankWaited sl t (dpaBank sl dpa)

/-- A host write to a line of a scoring stack (R175): held where it must wait, itself waiting where the buffer is full. -/
def hostWriteLine (s : State) (sl hpa dpa : Nat) (data : List Byte) : State :=
  let t := stackSt s sl
  if 256 ≤ t.writeBuf.length then putStack s sl { t with writeWait := t.writeWait ++ [(hpa, dpa, data)] }
  else if mustWait s sl dpa then
    emit (bump (putStack s sl { t with writeBuf := t.writeBuf ++ [(dpa, data)] }) (K.hostWritesHeld sl) 1) (.memDone hpa)
  else emit (lineWrite s dpa data) (.memDone hpa)

/-- Serve the waiting host accesses in arrival order: held write i after the reads before which at most i writes were held. -/
def serveWaiting (sl : Nat) : State → List (Nat × List Byte) → Nat → List (Nat × Nat × Nat × Nat) → State
  | s, [], _, reads => reads.foldl (fun u r => serveRead u sl r) s
  | s, w :: ws, i, reads =>
    let s := (reads.filter (fun r => decide (r.2.2.2 ≤ i))).foldl (fun u r => serveRead u sl r) s
    serveWaiting sl (lineWrite s w.1 w.2) ws (i + 1) (reads.filter (fun r => decide (i < r.2.2.2)))

/-- Serve the host accesses of a stack whose bank sets no burst owns and no refresh slot holds (R172 step 2), in arrival order; then
take the writes that waited for buffer space. -/
def serveStack (sl : Nat) (s : State) : State :=
  let t := stackSt s sl
  let mine (a : Nat) : Bool := !bankOwned t (dpaBank sl a) && !has (slotsNow s t) (dpaBank sl a)
  if !(t.writeBuf.any (fun w => mine w.1) || t.readWait.any (fun r => mine r.2.1)) then s
  else
    let s := serveWaiting sl s (t.writeBuf.filter (fun w => mine w.1)) 0 (t.readWait.filter (fun r => mine r.2.1))
    let s := { s with fences := s.fences.map (fun f => { f with writes := f.writes.filter (fun w => !(w.1 == sl && mine w.2)) }) }
    let t' := { t with writeBuf := t.writeBuf.filter (fun w => !mine w.1), readWait := t.readWait.filter (fun r => !mine r.2.1), writeWait := [] }
    t.writeWait.foldl (fun u w => hostWriteLine u sl w.1 w.2.1 w.2.2) (putStack s sl t')

/-- The same for every stack. -/
def serveHosts (s : State) : State := (upFrom 0 4).foldl (fun t sl => serveStack sl t) s

/-! ## Refreshes and bursts -/

/-- Begin refreshes of bank sets: to a balance, with a slot each. Those issued at a balance of −1 are postponed ones (R188). -/
def refresh (s : State) (sl : Nat) (sets : List Nat) (level : Nat → Int) : State :=
  let t := stackSt s sl
  let late := (sets.filter (fun b => decide (balanceOf t b ≤ -1))).length
  bump (putStack s sl { t with balance := sets.foldl (fun bl b => tset bl b (level b)) t.balance,
                               slots := t.slots.filter (fun p => !passed s p.2 560) ++ sets.map (fun b => (b, s.tm.ec)) })
    (K.refreshPostponed sl) late

/-- Bank sets that are pulled in now (R171 item 2): listed below +1, which no burst owns or is about to own, no refresh slot holds and
no host access waits for. -/
def idleSets (s : State) (sl : Nat) : List Nat :=
  let t := stackSt s sl
  let next := (sliceShares s sl).flatMap (fun x => if x.stage == .stream then t.planned.map (fun k => (copyOf x k).bankSet) else [])
  (tkeys t.balance).filter (fun b => decide (balanceOf t b < 1) && !bankOwned t b && !has next b && !has (slotsNow s t) b && !bankWaited sl t b)

/-- Pull in the refreshes of idle bank sets. -/
def pullIn (s : State) (sl : Nat) : State :=
  let l := idleSets s sl
  if l.isEmpty then s else refresh s sl l (fun _ => 1)

/-- BURST_START: a planned burst that a grant of its own covers (R173). -/
def execBurstStart (slice : Nat) (s : State) : Outc :=
  let s := serveStack slice s
  let t := stackSt s slice
  if t.burst.isSome || t.planned.isEmpty || !arrayOn s slice then .next s
  else
    match (sliceShares s slice).find? (fun x => x.stage == .stream) with
    | none => .next s
    | some x =>
      match ctxOf s x.ctx with
      | none => .next (dropShare s x)
      | some c =>
        if !fitsBurst s (cRows c) (copyOf x (t.planned.headD 0)) then
          -- the throttle has shortened bursts since the plan: the half goes to an engine
          let x := { x with inStack := without x.inStack (t.planned.headD 0) }
          .next (putShare (putStack s slice (endSequence { t with planned := t.planned.drop 1 } x (cRows c))) x)
        else
          let s := loadContexts s slice
          let t := stackSt s slice
          let run := if ctxLoaded t x then burstRun s t x (cRows c) t.planned 0 else []
          let ns := ceilDiv (clocksOf x (cRows c) run * 5) 8
          let h := stackHolder (scoringStack slice)
          if run.isEmpty then .next s
          else if !hasGrant s h ns then .next (askGrant s h ns 2)
          else
            let b : Burst := { share := x.id, sheets := run, banks := (run.map (fun k => (copyOf x k).bankSet)).eraseDups,
                               startEc := s.tm.ec, plannedNs := ns }
            let x := { x with kRead := run.foldl (fun m k => tset m k (readNow s x k).kHalf) x.kRead }
            .next (bump (putStack (putShare (useGrant s h ns) x) slice { t with burst := some b, planned := t.planned.drop run.length })
              (K.burstsIssued slice) 1)

/-- The maxima of a query context after a burst's scores (R166 step 5): dot products of visible tokens; −∞ for the others. -/
def burstMaxima (c : Ctx) (x : Share) (l : List Nat) (q : QCtx) : QCtx :=
  let segs := (rowsOf c.tk.raw c.payload).map Row.seg
  { q with maxima := (upFrom 0 q.rows.length).map (fun r =>
      l.foldl (fun m k =>
        let sh := copyOf x k
        let h := (tget? x.kRead k).getD sh.kHalf
        ((upFrom 0 64).filter (fun t => covers (maskOf c) sh t (nth segs r 0))).foldl (fun m t => fmax m (dot 64 (nth q.rows r []) h t)) m)
        (nth q.maxima r fNegInf)) }

/-- The query contexts at a burst's end: the burst's share takes its maxima; it keeps its context until its last SCX. -/
def endBurst (s : State) (sl : Nat) (b : Burst) (t : StackSt) : StackSt :=
  let t := { t with burst := none, lastEnd := s.tm.ec }
  match s.att.shares.find? (fun x => x.id == b.share && x.slice == sl) with
  | none => { t with ctxs := t.ctxs.filter (fun q => q.share != b.share) }
  | some x =>
    match ctxOf s x.ctx with
    | none => t
    | some c => endSequence { t with ctxs := t.ctxs.map (fun q => if q.share == b.share then burstMaxima c x b.sheets q else q) } x (cRows c)

/-- BURST_END (R172): the refreshes due, then the waiting host accesses of bank sets out of refresh; the next burst is a command of its
own. Sets that stay idle are pulled in. -/
def execBurstEnd (slice : Nat) (s : State) : Outc :=
  let t := stackSt s slice
  match t.burst with
  | none => .next s
  | some b =>
    if !passed s b.startEc b.plannedNs then .next s
    else
      let late := b.banks.filter (fun k => decide (balanceOf t k ≤ -1))
      let s := bump (bump s (K.halvesScoredInStack slice) b.sheets.length) (K.refreshAtBoundary slice) late.length
      let s := putStack s slice (endBurst s slice b t)
      let s := refresh s slice late (fun k => balanceOf t k + 1)
      .next (loadContexts (pullIn (serveStack slice s) slice) slice)

/-- The refresh interval of a scoring stack: halved above 85 °C (R171). -/
def refreshNs (s : State) (sl : Nat) : Nat := if 85 < nth s.pow.hbmNow (scoringStack sl) 0 then 1950 else 3900

/-- REFRESH_DUE (R171): a refresh falls due; a bank set that nothing holds is pulled in again. -/
def execRefreshDue (slice bankSet : Nat) (s : State) : Outc :=
  let t := stackSt s slice
  if decide (64 ≤ bankSet) || decide (4 ≤ slice) || !passed s (tget t.due bankSet 0) (refreshNs s slice) then .next s
  else
    let t := { t with due := tset t.due bankSet s.tm.ec, balance := tset t.balance bankSet (balanceOf t bankSet - 1) }
    .next (pullIn (serveStack slice (putStack s slice t)) slice)

/-! ## The array stops (R187, R189) -/

/-- What was planned for the scoring stack of a slice and is not commanded yet goes to engines; the query contexts go. With a failed
array so does what its burst was reading. -/
def unplan (s : State) (sl : Nat) (failed : Bool) : State :=
  let t := stackSt s sl
  let kept := if failed then [] else match t.burst with | some b => b.sheets | none => []
  let s := { s with att := { s.att with shares := s.att.shares.map (fun x =>
      if x.slice != sl then x
      else if x.stage == .stream then
        { x with inStack := x.inStack.filter (fun k => !has t.planned k && (!failed || (tget? x.kRead k).isSome && !(match t.burst with | some b => has b.sheets k | none => false))) }
      else if x.inStack.isEmpty then x
      else { x with inStack := [], felt := 0 }) } }
  let t := { t with planned := [], burst := if failed then none else t.burst }
  putStack s sl { t with ctxs := if kept.isEmpty then [] else t.ctxs }

end Sys2Proof.Machine
end

