-- ==== Sys2Proof/Machine/Clock.lean ====
section
/-! DEFINITION. What the passing of one engine clock does (log entry 1). -/

namespace Sys2Proof.Machine

/-- The passing of one engine clock, which is what a step does on an empty queue: a commit of the store ends (R36), host accesses whose
bank sets have come out of refresh are served (R172), and merges close whose MERGE_CLOSE fell in a comparator cycle gone by (R226). -/
def tick (s : State) : State := closeDue (serveHosts (clock s))

end Sys2Proof.Machine
end

