-- ==== Sys2Proof/Machine/Arrive.lean ====
section
/-! DEFINITION. How tickets are taken: sweeps (R76, R294 to R298), arrival from the fabric and the gates (R74, R142, R144),
the admission of APPEND and RETIRE (R120, R133, R150), and the deadlines of tickets (R80, R301). -/

namespace Sys2Proof.Machine

/-! ## Which tickets are taken now -/

/-- Whether the node's role takes a type (R16, R18, R21): a Lead no query, append or search ticket; a deputy that has taken the
Lead role, and a spare that does not stand in, none. DESIGN CHOICE (log entry 124): such a ticket stays in its slot, or is held
at its port. -/
def roleTakes (s : State) (type : Nat) : Bool :=
  if rd s K.herdRole == 3 then rd s K.membershipState == 5
  else if leads s then rd s K.herdRole != 2 && !has [0x01, 0x02, 0x05] type
  else true

/-- Whether the enables that take a type read 1 (R78, R163, R180, R216, R233, R255, R278, R365). -/
def typeTaken (s : State) (type : Nat) : Bool :=
  on s K.deadlineEnable && roleTakes s type &&
  (match type with
   | 0x01 => on s K.attentionEnable && on s K.mergeEnable && on s K.directoryEnable
   | 0x02 | 0x03 => on s K.attentionEnable && on s K.directoryEnable
   | 0x05 => on s K.searchEnable && on s K.directoryEnable
   | 0x09 => on s K.vatEnable
   | 0x0A | 0x0B | 0x0C | 0x0D => on s K.extentEnable
   | _ => true)

/-- Whether the node takes tickets at all: throttle level 4 and a missing composition map hold them (R415, R373). -/
def takesTickets (s : State) : Bool := !ticketsHeld s && !s.herd.mapWait

/-- Whether appends to a Ream are held for a handoff of its home (R376 step 3). -/
def handoffHolds (s : State) (raw : Nat) : Bool :=
  tkType raw == 2 && s.comp.handoffs.any (fun h => h.source && h.order.homeMoves && h.order.tenant == tkTenant raw
    && h.order.ream == bReam raw && h.holdFrom != 0 && decide (h.holdFrom ≤ curStep s))

/-! ## Admission after the header -/

/-- Put a ticket that passed checks 1 to 4 on the queue of taken tickets. -/
def enqueue (s : State) (tk : Tk) : State := { s with att := { s.att with taken := s.att.taken ++ [tk] } }

/-- Checks 1 to 4 of R142, and the queue. bound: the tenant that the ticket's path binds. -/
def admitHeader (s : State) (tk : Tk) (bound : Nat) : State :=
  match headerCheck s tk.raw (some bound) with
  | some c => refuse s tk c
  | none =>
    if tk.fabric && !epochOk s (tkEpoch tk.raw) then refuse (bump s K.staleEpochRefusals 1) tk St.staleEpoch
    else
      match deadlineOf s (tkDeadline tk.raw) with
      | none => refuse s tk St.deadline
      | some d => enqueue (armDl s tk.slice d tk.id) { tk with deadline := d }

/-! ## SWEEP (R76, R294 to R296) -/

/-- Base of an area, of its alive table entry and of a slot (R291). -/
def areaBase (s : State) (a : Nat) : Nat := rd s (K.areaDpa a)
def slotDpa (s : State) (a k : Nat) : Nat := areaBase s a + 4096 + 128 * k

def readNum (s : State) (dpa n : Nat) : Nat := ofBytes (Mem.read s.mem.cells dpa n)

def writeNum (s : State) (dpa n v : Nat) : State := setCells s (Mem.write s.mem.cells dpa (toBytes n v))

/-- Whether IDE allows a sweep to take tickets (R295). -/
def ideOk (s : State) : Bool := !on s K.ideRequired || bitB (rd s K.ideState) 1

/-- Take the ticket of a slot (R295): e_k, the alive table, taken_total, then its checks. -/
def takeSlot (s : State) (sl a k cls raw : Nat) : State :=
  let base := areaBase s a
  let e := (readNum s (base + 64 + k) 1 + 1) % 256
  let s := writeNum s (base + 64 + k) 1 e
  let s := writeNum s (base + 24) 8 (readNum s (base + 24) 8 + 1)
  let s := bump s (K.areaTaken a) 1
  let (i, s) := newId s
  let gm := gv s K.gapRecordsMax
  let tk : Tk := { id := i, raw := raw, cls := cls, slice := sl, die := sl, area := a, slot := k, fabric := false, src := 0, depth := 0,
                   at_ := now s, step := curStep s, deadline := 0, gapMax := gm, gen := areaGen s a, stray := false, data := [],
                   cause := 0, waitNs := 0 }
  if !completionAddrOk s a (tkType raw) (tkAddr raw) gm then
    completeAs (bump s (K.areaStrayCompletions a) 1) { tk with stray := true } St.bounds 0 0 [] false
  else admitHeader s tk (rd s (K.areaTenant a))

/-- Whether sweeps of a slice may take tickets now (R13, R295, R304, R415, R373): a slice takes them in IN_SERVICE only. -/
def sweepTakes (s : State) (sl : Nat) : Bool := linkUp s && ideOk s && takesTickets s && rd s (K.sliceState sl) == 1

/-- Read one slot: a complete ticket is taken unless something leaves it in its slot (R294, R295). -/
def sweepSlot (sl a cls : Nat) (s : State) (k : Nat) : State :=
  let raw := readNum s (slotDpa s a k) 128
  if tkType raw == 0 then s
  else if !tkCrcOk raw then bump s (K.areaCrcFailures a) 1
  else if tkAlive raw != readNum s (areaBase s a + 64 + k) 1 then bump s (K.areaAliveMismatch a) 1
  else if !sweepTakes s sl || !typeTaken s (tkType raw) || dlFull s sl then s
  else takeSlot s sl a k cls raw

/-- One sweep of an area, and its header. -/
def sweepArea (s : State) (sl a cls : Nat) : State :=
  let base := areaBase s a
  let began := now s
  let s := (upFrom 0 (rd s (K.areaSlots a))).foldl (sweepSlot sl a cls) s
  let s := writeNum s (base + 16) 8 (readNum s (base + 16) 8 + 1)
  let s := writeNum s (base + 8) 8 began
  writeNum s base 8 (curStep s)

/-- SWEEP. -/
def execSweep (slice entry : Nat) (s : State) : Outc :=
  match dueEntry s slice entry 1 with
  | none => .next s
  | some e =>
    let s := takeOccurrence s slice entry e
    if sweepAreaOk s slice (enParam e) then .next (sweepArea s slice (enParam e) (enClass e)) else .next s

/-! ## Fabric arrival (R74, R144) -/

/-- Whether the deadline list has a place for a ticket from the fabric: its own, or a free one (R77). DESIGN CHOICE (log entry
125): a ticket that finds the list full is held at its port, unguarded, until a place is free. -/
def dlRoom (s : State) (tk : Tk) : Bool := s.att.dls.any (fun d => d.2.2 == tk.id) || !dlFull s tk.slice

/-- Whether a held ticket may be admitted now. -/
def heldOk (s : State) (h : HeldTk) : Bool :=
  takesTickets s && typeTaken s (tkType h.tk.raw) && !handoffHolds s h.tk.raw
  && (!h.tk.fabric || (gateOpen s (dieOf h.link) h.tk.cls && dlRoom s h.tk))

/-- Admit a ticket on port arrival: a query against the node's tree entry, any other through its header checks. -/
def admitFabric (s : State) (tk : Tk) : State :=
  if tkType tk.raw == 1 then takeForward s tk else admitHeader (dropDl s tk.id) tk tk.area

/-- Admit the held tickets that nothing holds any longer, in arrival order (R74). -/
def releaseHeld (s : State) : State :=
  s.att.held.foldl (fun t h =>
    if heldOk t h then
      let t := { t with att := { t.att with held := t.att.held.filter (fun x => x.tk.id != h.tk.id) } }
      if h.tk.fabric then admitFabric t h.tk else enqueue t h.tk
    else t) s

/-- Hold a ticket; it keeps its deadline. -/
def hold (s : State) (tk : Tk) (link : Nat) : State :=
  { s with att := { s.att with held := s.att.held ++ [{ tk := tk, link := link }] } }

/-- A gathered whole arrives (R144): held, or admitted. The field area holds the tenant of its access key. -/
def arriveWhole (s : State) (link src vl depth key : Nat) (whole : List Byte) : State :=
  let raw := ofBytes (whole.take 128)
  let (i, s) := newId s
  let tk : Tk := { id := i, raw := raw, cls := tkClass raw, slice := resolvingSlice s link, die := dieOf link, area := key / 2 ^ 24,
                   slot := vl, fabric := true, src := src, depth := depth, at_ := now s, step := curStep s,
                   deadline := (deadlineOf s (tkDeadline raw)).getD 0, gapMax := gv s K.gapRecordsMax, gen := 0, stray := false,
                   data := whole.drop 128, cause := 0, waitNs := 0 }
  if heldOk s { tk := tk, link := link } then admitFabric s tk
  else hold (if tk.deadline = 0 || dlFull s tk.slice then s else armDl s tk.slice tk.deadline tk.id) tk link

/-- Parts in order of their offsets. -/
def insPart (p : Nat × List Byte) : List (Nat × List Byte) → List (Nat × List Byte)
  | [] => [p]
  | x :: r => if p.1 < x.1 then p :: x :: r else x :: insPart p r

/-- The message ID of a whole's part at offset 0: the parts have consecutive IDs (R144). -/
def partBase (id offset : Nat) : Nat := (id + 65536 - offset / 16777200 % 65536) % 65536

/-- A whole that a first part opens: it takes space for all of it from the pools (R144 item 2, R328). -/
def openGather (s : State) (link src vl key base whole : Nat) : State × Gather :=
  let (i, s) := newId s
  (takeSpread s .pools i whole,
    { src := src, vl := vl, key := key, link := link, whole := whole, got := 0, parts := [], firstAt := s.tm.ec, base := base, buf := i })

/-- The space of a whole goes back to the pools. -/
def freeGather (s : State) (g : Gather) : State :=
  { s with holds := s.holds.filter (fun h => !(h.kind == .pools && h.id == g.buf)),
           att := { s.att with gathers := s.att.gathers.filter (fun x => x.buf != g.buf) } }

/-- TICKET_MESSAGE (R144): a part of a whole. -/
def execTicketMessage (link src vl depth key whole offset : Nat) (part : WholePart) (s : State) : Outc :=
  let mine (g : Gather) : Bool := g.src == src && g.vl == vl && g.key == key && g.base == partBase part.msgId offset
  let (s, g) := match s.att.gathers.find? mine with | some g => (s, g) | none => openGather s link src vl key (partBase part.msgId offset) whole
  let g' := { g with parts := insPart (offset, part.bytes) g.parts, got := g.got + part.bytes.length }
  let s := { s with att := { s.att with gathers := s.att.gathers.filter (fun x => x.buf != g.buf) ++ [g'] } }
  if g'.got < whole then .next s else .next (arriveWhole (freeGather s g') link src vl depth key (g'.parts.flatMap Prod.snd))

/-- QUERY_FORWARD_ARRIVE (R223): a forwarded query, gathered whole. -/
def execQueryForwardArrive (link src vl depth key : Nat) (whole : List Byte) (s : State) : Outc :=
  if tkType (ofBytes (whole.take 128)) == 1 then .next (arriveWhole s link src vl depth key whole) else .next s

/-- TICKET_WHOLE_TIMEOUT (R144 item 3). -/
def execTicketWholeTimeout (src vl : Nat) (s : State) : Outc :=
  match s.att.gathers.find? (fun g => g.src == src && g.vl == vl && passed s g.firstAt (rd s K.reassemblyTimeoutNs)) with
  | none => .next s
  | some g => .next (freeGather s g)

/-- ADMIT_OPEN (R74). -/
def execAdmitOpen (slice entry : Nat) (s : State) : Outc :=
  match dueEntry s slice entry 2 with
  | none => .next s
  | some e =>
    let s := takeOccurrence s slice entry e
    .next (releaseHeld { s with sch := { s.sch with gates := tset s.sch.gates (slice * 8 + enClass e) true } })

/-- ADMIT_CLOSE (R74). -/
def execAdmitClose (slice entry : Nat) (s : State) : Outc :=
  match dueEntry s slice entry 3 with
  | none => .next s
  | some e =>
    let s := takeOccurrence s slice entry e
    .next { s with sch := { s.sch with gates := tset s.sch.gates (slice * 8 + enClass e) false } }

/-! ## APPEND (R120, R142, R149, R150) -/

/-- Forward a ticket to its Ream's home. An append takes its guard there, and one that a handoff's source passes on
carries the current epoch (R150, R376 step 5). -/
def forwardHome (s : State) (tk : Tk) (home : Nat) (parts : List Byte) : State :=
  let app := tkType tk.raw == 2
  let s := if app then dropDl s tk.id else s
  let raw := if app && tk.fabric then tk.raw - bits tk.raw 80 16 * 2 ^ 80 + rd s K.mapEpoch * 2 ^ 80 else tk.raw
  let s := { s with att := { s.att with fwd := s.att.fwd ++ [tk] } }
  post s home tk.cls (.ticket (toBytes 128 (forwardRaw s { tk with raw := raw }) ++ parts))

/-- Check 8 of an append: its payload area where it was swept, and the size of its whole (R144). -/
def appendAreas (s : State) (tk : Tk) : Nat :=
  let r := tk.raw
  let n := appendPayload r (dimOf (aDim r))
  let c := if tk.fabric then (if tk.data.length != n then St.bounds else 0) else areaTest s (tkTenant r) (aPayload r) n 64 1
  if c != 0 then c else if mib (rd s K.ticketPayloadMaxMib) < 128 + n then St.bounds else 0

/-- An append that reached its home. -/
def newApp (s : State) (tk : Tk) (payload : List Byte) : App :=
  { tk := tk, payload := payload, wait := 0, waitAt := s.tm.ec, cause := 0, reached := curStep s, writes := [] }

/-- APPEND: the append at the head of the tickets taken. -/
def execAppend (s : State) : Outc :=
  match takeHead s 2 with
  | none => .next s
  | some (tk, s) =>
    let r := tk.raw
    if handoffHolds s r then .next (hold s tk 0xFF)
    else if appendFieldsBad r then .next (refuse s tk St.bounds)
    else if (homeOf s tk.slice (tkTenant r) (bReam r)).2 == some (myNode s) && appendOutside s r then .next (refuse s tk St.bounds)
    else
      let c := appendAreas s tk
      if c != 0 then .next (refuseArea s tk c)
      else
        let (s, home) := homeOf s tk.slice (tkTenant r) (bReam r)
        match home with
        | none => .next (refuse s tk St.bounds)
        | some h =>
          if partsPoisoned s tk (aPayload r) (appendPayload r (dimOf (aDim r))) 0 0 then .next (complete s tk St.poisoned 0 0) else
          let (s, payload, _) := fetchParts s tk (aPayload r) (appendPayload r (dimOf (aDim r))) 0 0
          if h != myNode s then .next (forwardHome s tk h payload)
          else .next (admitAppend s (newApp s tk payload))

/-! ## RETIRE (R133) -/

/-- RETIRE: the retire ticket at the head of the tickets taken. -/
def execRetire (s : State) : Outc :=
  match takeHead s 3 with
  | none => .next s
  | some (tk, s) =>
    let r := tk.raw
    let (s, home) := homeOf s tk.slice (tkTenant r) (bReam r)
    match home with
    | none => .next (refuse s tk St.bounds)
    | some h =>
      if h != myNode s then .next (forwardHome s tk h [])
      else
        match knownReam s (tkTenant r) (bReam r) with
        | none => .next (refuse s tk St.bounds)
        | some m =>
          if m.retiredSet || s.att.retires.any (fun x => tkTenant x.raw == tkTenant r && bReam x.raw == bReam r) then
            .next (complete s tk St.revoked 0 0)
          else .next { s with att := { s.att with retires := s.att.retires ++ [tk] } }

/-! ## DEADLINE_FIRE (R80, R301) -/

/-- Whether an id names a ticket of a list. -/
def inTks (l : List Tk) (id : Nat) : Option Tk := l.find? (fun t => t.id == id)

/-- The deadline action of the work that an id names. -/
def deadlineAction (s : State) (id : Nat) : State :=
  match inTks s.att.taken id with
  | some tk => expire { s with att := { s.att with taken := s.att.taken.filter (fun t => t.id != id) } } tk false
  | none =>
  match s.att.held.find? (fun h => h.tk.id == id) with
  | some h =>
    let s := { s with att := { s.att with held := s.att.held.filter (fun x => x.tk.id != id) } }
    if h.tk.fabric && tkType h.tk.raw == 1 then s else expire s h.tk false
  | none =>
  match s.ctxWait.find? (fun c => c.work == id) with
  | some c =>
    let s := { s with ctxWait := s.ctxWait.filter (fun x => x.work != id) }
    if c.root then expire s c.tk false else s
  | none =>
  match s.att.appends.find? (fun a => a.tk.id == id && a.wait != 0) with
  | some a => retryAppends (failAppend s a St.deadline 0 0)
  | none =>
  match s.fences.find? (fun f => f.tk.id == id) with
  | some f => expire { s with fences := s.fences.filter (fun x => x.tk.id != id) } f.tk false
  | none =>
  match s.kv.moveTks.find? (fun m => m.tk.id == id) with
  | some m =>
    let s := { s with kv := { s.kv with moveTks := s.kv.moveTks.filter (fun x => x.tk.id != id) } }
    completeAs s m.tk St.deadline (movedCount s m) 0 [] false
  | none =>
  match s.kv.preTks.find? (fun m => m.tk.id == id) with
  | some m => expire { s with kv := { s.kv with preTks := s.kv.preTks.filter (fun x => x.tk.id != id) } } m.tk false
  | none =>
  match firstSome [inTks s.att.retires id, inTks s.att.seals id, inTks s.att.fwd id, inTks s.comp.asks id,
      inTks (s.srch.pend.map Prod.fst) id, inTks (s.rel.jhold.map Prod.fst) id] with
  | some tk => expire s tk true
  | none => s

/-- DEADLINE_FIRE: a ticket's comparator fires. Open merge contexts have a row of their own. -/
def execDeadlineFire (id : Nat) (s : State) : Outc :=
  if (ctxOf s id).isSome then .next s
  else
    match deadlineFires s id with
    | none => .next s
    | some sl => .next (releaseHeld (deadlineAction (takeFire s sl id) id))

end Sys2Proof.Machine
end

