-- ==== Sys2Proof/Machine/Commit.lean ====
section
/-! DEFINITION. The COMMIT of a step (R122 to R124, R133, R135, R194, R205, R273, R368, R370, R399). -/

namespace Sys2Proof.Machine

/-! ## Tokens for the journal (R399) -/

/-- The tokens that a Sheet commits, with their elements as admission stored them. -/
def journalToks (s : State) (n : Nat) (sh : Sheet) : List JournalTok :=
  let m := knownReam s sh.tenant sh.ream
  (upFrom sh.tokenCount sh.pending).map (fun t =>
    { tenant := sh.tenant, ream := sh.ream, layer := sh.layer, head := sh.head, dim := sh.dim,
      layers := m.elim 0 Ream.layers, heads := m.elim 0 Ream.heads, position := 64 * sh.num + t, segment := nth sh.segments t 0,
      commitStep := n, kFmt := sh.kHalf.fmt, vFmt := sh.vHalf.fmt, k := nth sh.kHalf.toks t [], v := nth sh.vHalf.toks t [],
      kScales := [], vScales := [] })

/-- Committed tokens of the tail Sheets of the Reams homed here, as the journal carries them. -/
def wholeJournal (s : State) : List JournalTok :=
  (s.kv.reams.filter (fun p => !p.2.reclaimed)).flatMap (fun p =>
    let m := p.2
    (upFrom 0 m.layers).flatMap (fun l => (upFrom 0 m.heads).flatMap (fun hd =>
      match (sheetsOf s (groupOf m.tenant m.id l hd)).getLast? with
      | none => []
      | some sh => (upFrom 0 sh.tokenCount).map (fun t =>
          let w := blockTokens sh.kHalf.fmt
          let x := blockTokens sh.vHalf.fmt
          { tenant := m.tenant, ream := m.id, layer := l, head := hd, dim := sh.dim, layers := m.layers, heads := m.heads,
            position := 64 * sh.num + t, segment := nth sh.segments t 0, commitStep := sh.commitStep - nth sh.ages t 0,
            kFmt := sh.kHalf.fmt, vFmt := sh.vHalf.fmt, k := nth sh.kHalf.toks t [], v := nth sh.vHalf.toks t [],
            kScales := if t < sh.kHalf.closed then nth sh.kHalf.scales (t / w) [] else [],
            vScales := if t < sh.vHalf.closed then nth sh.vHalf.scales (t / x) [] else [] }))))

/-- Whether the journal mirrors commits. -/
def journals (s : State) : Bool := on s K.journalEnable && rd s K.journalPartner != 0xFFFF

/-- Where a Ream has been reclaimed, the partner receives the journal without it, which drops its own (R135). -/
def dropJournal (s : State) (before : Tbl Ream) : State :=
  if journals s && before.any (fun p => !p.2.reclaimed && (match tget? s.kv.reams p.1 with | some m => m.reclaimed | none => true))
  then mgmt s (rd s K.journalPartner) (.journalMirror 0 (wholeJournal s)) else s

/-- Tokens that commit without their mirror, while the journal runs or since it was written 0 (R399, R407). -/
def countUnmirrored (s : State) (n : Nat) : State :=
  if on s K.journalEnable || s.rel.jstopped then
    let s := bump s K.journalUnmirroredTokens n
    { s with rel := { s.rel with unmirrored := s.rel.unmirrored + n } }
  else s

/-- The Lead's state as it goes to the deputy at a commit point (R19). -/
def leadImage (s : State) : LeadImage :=
  { epoch := rd s K.mapEpoch, map := s.herd.map, leases := s.comp.leases, shares := s.comp.shares, scores := s.rel.scores,
    step := s.herd.lastAnn, stepStart := s.herd.lastAnnStart, spans := s.herd.spans }

def sendDeputy (s : State) : State :=
  if isLead s && s.herd.deputy != 0xFFFF then mgmt s s.herd.deputy (.deputyState (leadImage s)) else s

/-! ## Sheets -/

/-- Commit one Sheet: its tokens become visible, closed blocks are quantised, and freed extensions return to free space
once cleared. -/
def commitOne (s : State) (n : Nat) (k : Nat) (sh : Sheet) : State :=
  let (sh', sats) := commitSheet n sh
  let s := putSheet s sh'
  let s := bump s K.saturationCount sats
  match tget? s.kv.quires (quireOfSheet k) with
  | none => s
  | some q =>
    let s := bump s (K.appendsCommitted q.slice) sh.pending
    let d := dimOf sh.dim
    let fk := if sh.kExt && !sh'.kExt then 1024 * extGranules sh.kHalf.fmt d else 0
    let fv := if sh.vExt && !sh'.vExt then 1024 * extGranules sh.vHalf.fmt d else 0
    let s := if q.tier == 0 && (fk != 0 || fv != 0) then
        clearQuireSpace (putQuire s (quireOfSheet k) { q with kShare := q.kShare - fk, vShare := q.vShare - fv }) q.slice fk fv q.kCarrying
      else s
    if sh'.tokenCount == 64 && sh.tokenCount != 64 then { s with kv := { s.kv with builds := s.kv.builds ++ [k] } } else s

/-! ## The whole COMMIT -/

/-- Retire a Ream at this COMMIT, if the node holds it and it is not retired yet. -/
def retireAt (s : State) (n t ream : Nat) : State :=
  match knownReam s t ream with
  | some m => if m.retiredSet then s else retireReam s n t ream m
  | none => s

/-- Seal a Ream (R368). -/
def sealReam (s : State) (t ream : Nat) : State :=
  setReam s t ream (fun m => { m with sealed := true })

/-- Ask the Lead about a share ticket (R366). -/
def askLead (s : State) (tk : Tk) (kind object node base : Nat) : State :=
  let m : ShareMsg := { src := myNode s, op := tkType tk.raw, ticketId := tkId tk.raw, tenant := tkTenant tk.raw, shareId := sShare tk.raw,
                        version := sVersion tk.raw, kind := kind, object := object, node := node, base := base }
  mgmt { s with comp := { s.comp with asks := s.comp.asks ++ [tk] } } (leadNode s) (.shareReq m)

/-- A PUBLISH whose Ream has been sealed: back to its entry node, or on to the Lead. -/
def sealedPublish (s : State) (n : Nat) (tk : Tk) : State :=
  if tk.fabric then complete s tk St.ok 0 n
  else askLead s tk 2 (sObject tk.raw) (myNode s) 0

/-- The work of R122 and of the other rules that act at a COMMIT. -/
def doCommit (s : State) (sl : Nat) : State :=
  let n := curStep s
  let retires := s.att.retires
  let s := { s with att := { s.att with retires := [] } }
  let s := retires.foldl (fun t tk => retireAt t n (tkTenant tk.raw) (bReam tk.raw)) s
  let s := s.comp.releases.foldl (fun t p => retireAt t n p.1 p.2) { s with comp := { s.comp with releases := [] } }
  let full := s.kv.sheets.filter (fun p => decide (0 < p.2.pending))
  let toks := full.flatMap (fun p => journalToks s n p.2)
  let s := full.foldl (fun t p => commitOne t n p.1 p.2) s
  let seals := s.att.seals
  let s := { s with att := { s.att with seals := [] } }
  let s := seals.foldl (fun t tk => sealedPublish (sealReam t (tkTenant tk.raw) (sObject tk.raw)) n tk) s
  let done := (s.att.appends.filter (fun a => a.wait = 0)).map App.tk
  let s := { s with att := { s.att with appends := s.att.appends.filter (fun a => a.wait != 0) } }
  let s :=
    if journals s && !toks.isEmpty then
      mgmt { s with rel := { s.rel with jhold := s.rel.jhold ++ done.map (fun t => (t, n)),
                                        jmirrors := s.rel.jmirrors ++ [(n, toks.length, s.tm.ec)] } }
        (rd s K.journalPartner) (.journalMirror n toks)
    else done.foldl (fun t tk => complete t tk St.ok 0 n) (countUnmirrored s toks.length)
  let s := retires.foldl (fun t tk => complete t tk St.ok 0 n) s
  let s := commitSearch s n
  let s := dropJournal (sendDeputy (reclaimAll s n)) s.kv.reams
  { s with sch := { s.sch with commitWait := without s.sch.commitWait sl, commitDone := addNew s.sch.commitDone sl },
           att := { s.att with closing := addNew s.att.closing sl } }

/-- Whether an append that reached the node in this step waits for its tail Sheet (R273). -/
def appendsWaiting (s : State) : Bool := s.att.appends.any (fun a => a.wait == 1 && a.reached == curStep s)

/-- COMMIT. -/
def execCommit (slice entry : Nat) (s : State) : Outc :=
  match dueEntry s slice entry 4 with
  | none => .next s
  | some e =>
    let s := takeOccurrence s slice entry e
    if appendsWaiting s then
      .next { s with sch := { s.sch with commitWait := addNew s.sch.commitWait slice, commitAt := tset s.sch.commitAt slice (now s) } }
    else .next (doCommit s slice)

/-- The COMMITs that waited and wait no longer. -/
def tryCommits (s : State) : State := if appendsWaiting s then s else s.sch.commitWait.foldl doCommit s

/-- TIER_STALL_LIMIT (R273): the COMMITs whose wait has reached the limit go ahead. -/
def execTierStallLimit (s : State) : Outc :=
  .next ((s.sch.commitWait.filter (fun sl => decide (tget s.sch.commitAt sl 0 + gv s K.tierStallLimitNs ≤ now s))).foldl doCommit s)

/-- The Quires of a slice in ascending record order. -/
def byRecord (l : List (Nat × Quire)) : List (Nat × Quire) :=
  l.foldl (fun (a : List (Nat × Quire)) x => a.takeWhile (fun y => decide (y.2.record ≤ x.2.record)) ++ [x] ++ a.dropWhile (fun y => decide (y.2.record ≤ x.2.record))) []

/-- Move a Quire to another slice, in the order of R184: the state, where some slice has room. -/
def moveAway (s : State) (qk : Nat) (q : Quire) (target : Nat) : Option State :=
  let l := (inService s).filter (fun sl => sl != q.slice)
  let n := l.length
  let i := (q.ream + q.layer + q.head + q.num) % max 1 n
  firstSome ((upFrom 0 n).map (fun j => startMove s qk q target (nth l ((i + j) % n) 0) 0))

/-- Start an evacuation move of a Quire, or a demotion where no slice has room (R463 item 2). -/
def evacuateOne (s : State) (p : Nat × Quire) : State :=
  match tget? s.kv.quires p.1 with
  | none => s
  | some q =>
    if q.move.isSome then s
    else
      match moveAway s p.1 q 6 with
      | some t => t
      | none =>
        if on s K.vatEnable && demotable s (p.1, q) && vatSpare s q.tenant (pressKib s (p.1, q)) then (startMove s p.1 q 2 q.slice 0).getD s else s

/-- Evacuate a QUIESCING slice as far as there is room, Quires and index lists; its moves ask for budget as maintenance work (R463). -/
def evacuate (s : State) (sl : Nat) : State :=
  if rd s (K.sliceState sl) != 2 then s
  else
    let s := (byRecord (sliceQuires s sl)).foldl evacuateOne (askBudget s sl 2 8)
    let s := (upFrom 0 128).foldl (fun t i => moveLists t sl i) s
    wr s (K.sliceOpState sl)
      (if (sliceQuires s sl).any (fun p => p.2.move.isNone) || (upFrom 0 128).any (holdsLists s sl) then 2 else 1)

/-- A Quire has moved or room has come: the waiting appends are tried, then the COMMITs that waited for them. -/
def afterMove (s : State) : State := (upFrom 0 4).foldl evacuate (tryCommits (retryAppends s))

/-- APPEND_ROOM_WAIT_END (R263): the appends that wait are tried again, in admission order. -/
def execAppendRoomWaitEnd (s : State) : Outc := .next (afterMove s)

/-! ## A completion that comes back (R139, R150) -/

/-- The completion of a forwarded ticket: its sender's record is written under this node's own header. -/
def takeCompletion (s : State) (record : Nat) (result : List Byte) : State :=
  match s.att.fwd.find? (fun t => tkId t.raw == crTicket record && tkType t.raw == bits record 12 8) with
  | none => s
  | some tk =>
    let s := { s with att := { s.att with fwd := s.att.fwd.filter (fun t => t.id != tk.id) } }
    let tk := { tk with cause := crStall record }
    if tkType tk.raw == 0x0C && crStatus record == St.ok && !tk.fabric then askLead s tk 2 (sObject tk.raw) ((homeOf s tk.slice (tkTenant tk.raw) (sObject tk.raw)).2.getD 0) 0
    else if result.isEmpty then completeAs s tk (crStatus record) (crCount record) (crCommit record) [] (crLate record)
    else completeResult s tk (if tkType tk.raw == 5 then hResult tk.raw else sResult tk.raw) result (crStatus record) (crCount record)

end Sys2Proof.Machine
end

