-- ==== Sys2Proof/Machine/HostMem.lean ====
section
/-! DEFINITION. Accesses of the host to the DPA space (R174, R175, R287, R288, R356), bias and fences (R177 to R182), and
the unmapping of blocks (R290). -/

namespace Sys2Proof.Machine

/-! ## CXL.mem accesses -/

/-- The DPA of a host access that reaches a mapped block, while the port serves CXL.mem. -/
def hostDpa (s : State) (hpa : Nat) : Option Nat :=
  match hpaToDpa s hpa with
  | some d => if on s K.hostPortEnable && mappedAt s d then some d else none
  | none => none

/-- Whether a DPA lies in a PUBLISHED extent (R356). -/
def publishedAt (s : State) (dpa : Nat) : Bool :=
  match extentOf s dpa 1 with | some (_, e) => e.kind == 2 | none => false

/-- The slice of a scoring stack that holds a DPA; none in a carrying stack. -/
def scoringSliceOf (s : State) (dpa : Nat) : Option Nat :=
  match mapAt s dpa with
  | some m => let st := stackOf m dpa; if st % 2 == 0 then some (st / 2) else none
  | none => none

/-- HOST_MEM_READ (R174, R287). -/
def execHostMemRead (hpa : Nat) (s : State) : Outc :=
  if !linkUp s then .next s
  else
    let hpa := hpa / 64 * 64
    match hostDpa s hpa with
    | none => .next (emit (bump s K.hdmUnmappedAccesses 1) (.memData hpa (List.replicate 64 0xFF) true))
    | some d =>
      match scoringSliceOf s d with
      | some sl =>
        if mustWait s sl d then
          let t := stackSt s sl
          .next (bump (putStack s sl { t with readWait := t.readWait ++ [(hpa, d, s.tm.ec, t.writeBuf.length)] }) (K.hostReadsWaited sl) 1)
        else .next (emit s (.memData hpa (Mem.read s.mem.cells d 64) (linePoisoned s d)))
      | none => .next (emit s (.memData hpa (Mem.read s.mem.cells d 64) (linePoisoned s d)))

/-- HOST_MEM_WRITE (R175, R287, R356): at most one line. -/
def execHostMemWrite (hpa : Nat) (data : List Byte) (s : State) : Outc :=
  if !linkUp s then .next s
  else
    match hostDpa s hpa with
    | none => .next (emit (bump s K.hdmUnmappedAccesses 1) (.memDone hpa))
    | some d =>
      let data := data.take (64 - d % 64)
      if publishedAt s d then .next (emit (bump s K.readonlyWritesDiscarded 1) (.memDone hpa))
      else
        match scoringSliceOf s d with
        | some sl => .next (hostWriteLine s sl hpa d data)
        | none => .next (emit (lineWrite s d data) (.memDone hpa))

/-! ## Fence tickets (R179 to R182) -/

/-- Check 8 of a fence ticket (R180). -/
def fenceTest (s : State) (raw : Nat) : Nat :=
  let op := fOp raw
  let unit := if op == 3 then 64 else 65536
  if op == 0 || decide (3 < op) || fLength raw == 0 then St.bounds
  else
    let c := areaTest s (tkTenant raw) (fAddr raw) (fLength raw) 1 (if op == 3 then 1 else 2)
    if c == St.bounds || c == St.revoked then c
    else if fAddr raw % unit != 0 || fLength raw % unit != 0 then St.bounds
    else if c == 0 && op != 3 && publishedAt s (fAddr raw) then St.rights
    else c

/-- The fence ticket at the head of the tickets taken, where its op is the row's. -/
def takeFence (s : State) (p : Nat → Bool) : Option (Tk × State) :=
  match takeHead s 4 with
  | some (tk, t) => if p (fOp tk.raw) then some (tk, t) else none
  | none => none

/-- The blocks of a range. -/
def blocksOf (a n : Nat) : List Nat := upFrom (a / blockBytes) (n / blockBytes)

/-- Set blocks to device bias. -/
def toDevice (s : State) (a n : Nat) : State :=
  let out := s.mem.hostBias.filter (fun b => decide (b < a / blockBytes) || decide (a / blockBytes + n / blockBytes ≤ b))
  { s with mem := { s.mem with hostBias := out } }

/-- Set blocks to host bias. -/
def toHost (s : State) (a n : Nat) : State :=
  { s with mem := { s.mem with hostBias := (blocksOf a n).foldl addNew s.mem.hostBias } }

/-- FLIP_TO_DEVICE (R181). -/
def execFlipToDevice (s : State) : Outc :=
  match takeFence s (fun o => o == 1) with
  | none => .next s
  | some (tk, s) =>
    let c := fenceTest s tk.raw
    if c != 0 then .next (refuseArea s tk c)
    else .next (complete (bump (toDevice s (fAddr tk.raw) (fLength tk.raw)) K.flipsCompleted 1) tk St.ok 0 0)

/-- FLIP_TO_HOST (R181): no burst reads a host-visible block, since bursts read the K halves of Sheets only (R176, R178). -/
def execFlipToHost (s : State) : Outc :=
  match takeFence s (fun o => o == 2) with
  | none => .next s
  | some (tk, s) =>
    let c := fenceTest s tk.raw
    if c != 0 then .next (refuseArea s tk c)
    else .next (complete (bump (toHost s (fAddr tk.raw) (fLength tk.raw)) K.flipsCompleted 1) tk St.ok 0 0)

/-- Held writes of a range, with their slices. -/
def heldWrites (s : State) (a n : Nat) : List (Nat × Nat) :=
  (upFrom 0 4).flatMap (fun sl => ((stackSt s sl).writeBuf.filter (fun w => decide (a ≤ w.1) && decide (w.1 < a + n))).map
    (fun w => (sl, w.1)))

/-- A fence completes where its drain has not revoked its range (R359 step 3). -/
def fenceEnd (s : State) (f : Fence) : State :=
  if areaAlive s (tkTenant f.tk.raw) f.base f.len 1 then complete (bump s K.fencesCompleted 1) f.tk St.ok 0 0
  else complete (bump s K.revokedCompletions 1) f.tk St.revoked 0 0

/-- FENCE, and a fence ticket of an unassigned op (R180, R181). -/
def execFence (s : State) : Outc :=
  match takeFence s (fun o => o != 1 && o != 2) with
  | none => .next s
  | some (tk, s) =>
    let c := fenceTest s tk.raw
    if c != 0 then .next (refuseArea s tk c)
    else
      let f : Fence := { tk := tk, op := 3, base := fAddr tk.raw, len := fLength tk.raw,
                         writes := heldWrites s (fAddr tk.raw) (fLength tk.raw) }
      .next { s with fences := s.fences ++ [f] }

/-- FENCE_DONE (R181): every write that the fence covers has reached DRAM. -/
def execFenceDone (id : Nat) (s : State) : Outc :=
  match s.fences.find? (fun f => f.tk.id == id && f.writes.isEmpty) with
  | none => .next s
  | some f => .next (fenceEnd { s with fences := s.fences.filter (fun x => x.tk.id != id) } f)

/-! ## Unmapping (R286, R290) -/

/-- Lines of a run. -/
def runLines (m : Mapped) : List Nat := upFrom (m.base / 64) (m.blocks * 1024)

/-- The unmapping of a run ends: its memory goes under clearing before any reuse. -/
def finishUnmap (s : State) (m : Mapped) : State :=
  let s := unmapRun s m
  match m.holder with
  | .area a => (freeHold s .area a).2
  | .extent e =>
    let (c, s) := freeHold s .extent e
    { s with comp := { s.comp with extents := tmod s.comp.extents e (fun x => { x with state := 3, clr := c }) } }

/-- Begin the unmapping of a run: an extent's lines are snooped first in CXL 3.1 mode. -/
def beginUnmap (s : State) (m : Mapped) : State :=
  let isExtent := match m.holder with | .extent _ => true | .area _ => false
  if rd s K.cxlModeNow == 2 && isExtent then
    let s := (runLines m).foldl (fun t l => emit t (.snoop l)) s
    { s with mem := { s.mem with
        maps := s.mem.maps.map (fun x => if x == m then { x with unmapping := true } else x),
        snoops := s.mem.snoops ++ runLines m } }
  else finishUnmap s m

/-- HOST_SNOOP_RESPONSE (R290). -/
def execHostSnoopResponse (line : Nat) (s : State) : Outc :=
  if !has s.mem.snoops line then .next s
  else
    let s := { s with mem := { s.mem with snoops := without s.mem.snoops line } }
    match mapAt s (line * 64) with
    | none => .next s
    | some m =>
      if m.unmapping && !s.mem.snoops.any (fun l => decide (m.base / 64 ≤ l) && decide (l < m.base / 64 + m.blocks * 1024))
      then .next (finishUnmap s m) else .next s

end Sys2Proof.Machine
end

