-- ==== Sys2Proof/Machine/Enable.lean ====
section
/-! DEFINITION. Enable objects (R47 to R50): the check, the claim, the start, and the stop of a subsystem. -/

namespace Sys2Proof.Machine

/-- One enable object. covers: the objects of its check set (coversIn: those that
depend on the state); users: the enabled subsystems that depend on it; halts:
what else refuses a write of 0; stop: the stop of admission; stopped: whether the admitted work has ended; close: what is
left to do then. -/
structure Enable where
  key : Nat
  claim : Option Nat := none
  check : State → List Fail
  covers : Nat → Bool := fun _ => false
  coversIn : State → Nat → Bool := fun _ _ => false
  users : State → List Nat := fun _ => []
  halts : State → List Fail := fun _ => []
  start : State → State := fun s => s
  stop : State → State := fun s => s
  stopped : State → Bool := fun _ => true
  close : State → State := fun s => s

/-- The keys of a list that read 1. -/
def onKeys (s : State) (l : List Nat) : List Nat := l.filter (fun k => on s k)

/-- A required enable that reads 0. -/
def needs (s : State) (k : Nat) : Fail := failIf (!on s k) 0x06 k

/-- Objects outside their stated value sets. -/
def inSet (s : State) (k : Nat) : Fail :=
  match lookupObj (k / 256) (k % 256) with
  | some o => failIf (!valsOk o.vals (rd s k)) 0x01 k
  | none => none

/-- The whole check of an enable: its own conditions and its claim. -/
def enableFails (e : Enable) (s : State) : List Fail :=
  e.check s ++ (match e.claim with | some c => claimFail s c | none => [])

/-- The check of a subsystem that is enabled, with a changed value in place: its own claim counts as free (R49, R53). -/
def runningFails (e : Enable) (s : State) : Fail := firstFail (enableFails e (claimRelease s e.key))

/-- Whether an enable is stopping (R50). -/
def isStopping (s : State) (k : Nat) : Bool := s.dq.stopping.any (fun p => p.key == k)

/-- A subsystem has stopped: its claim is released. -/
def enableClosed (e : Enable) (s : State) : State := claimRelease (e.close s) e.key

/-- The resources of an enable's claim are handed out (R53). -/
def enableClaimed (e : Enable) (s : State) : State :=
  match e.claim with | some c => claimTake s c e.key | none => s

/-- What a passing check leads to (R47 step 2): the claim, the enable at 1, the start, and whatever waited for it. -/
def enableStarted (e : Enable) (s : State) : State := releaseHeld (e.start (wr (enableClaimed e s) e.key 1))

/-- A write to an enable (R47, R50). -/
def enableWrite (e : Enable) : Handler := fun s w payload =>
  let v := ofBytes payload
  if isStopping s e.key then (s, .busy)
  else if 1 < v then (s, .refused 0x01 (e.key / 256) (e.key % 256))
  else if b2n (on s e.key) == v then (s, .done)
  else if v == 1 then
    match firstFail (enableFails e s) with
    | some (r, k) => (s, .checkFailed r k)
    | none =>
      (enableStarted e s, .done)
  else
    match firstFail ((e.users s).map (fun k => (some (0x06, k) : Fail))) with
    | some (r, k) => (s, .refused r (k / 256) (k % 256))
    | none =>
      match firstFail (e.halts s) with
      | some (r, k) => (s, .refused r (k / 256) (k % 256))
      | none =>
        let s := e.stop (wr s e.key 0)
        if e.stopped s then (enableClosed e s, .done)
        else ({ s with dq := { s.dq with stopping := s.dq.stopping ++ [{ key := e.key, via := w.via, txn := w.txn }] } }, .later)

/-- The row of an enable: a write to it. -/
def enableRow (e : Enable) (w : WReq) (v : Byte) (s : State) : Outc :=
  .next (rowWrite s w (e.key / 256) (e.key % 256) 0 [v] (enableWrite e))

/-- A subsystem that was stopping has stopped: the write is answered DONE (R50). -/
def stopDone (e : Enable) (s : State) : State :=
  match s.dq.stopping.find? (fun p => p.key == e.key) with
  | none => s
  | some p =>
    if !e.stopped s then s
    else
      let s := enableClosed e { s with dq := { s.dq with stopping := s.dq.stopping.filter (fun q => q.key != e.key) } }
      answer s p.via (respond (rowPdu { via := p.via, txn := p.txn } (e.key / 256) (e.key % 256) 0 []) 0 0 [])

end Sys2Proof.Machine
end

