-- ==== Sys2Proof/Machine/CoreEnables.lean ====
section
/-! DEFINITION. The enables of Herd Time, schedules, deadlines, formats, attention, scoring stacks, the Deckle index,
search, merging and the directory (R67, R68, R75, R78, R108, R163, R189, R202, R216, R233, R255). -/

namespace Sys2Proof.Machine

/-! ## Herd Time (R67, R68) -/

/-- Claim fields of ht_ref_enable that differ from their defaults. -/
def refClaimFails (s : State) : List Fail :=
  (upFrom 0 9).map (fun i => failIf (rd s (K.claim1200 + i) != keyDflt (K.claim1200 + i)) 0x01 (K.claim1200 + i))

def enHtRef : Enable :=
  { key := K.htRefEnable, claim := some K.claim1200,
    check := fun s => failIf (rd s K.htSource != 2) 0x01 K.htSource :: refClaimFails s,
    users := fun s => if rd s K.htSource == 2 then onKeys s [K.htSourceEnable] else [] }

/-- HT_REF_ENABLE. -/
def execHtRefEnable (w : WReq) (v : Byte) (s : State) : Outc := enableRow enHtRef w v s

/-- The time state of a Lead whose source is enabled (R67). -/
def startSource (s : State) : State :=
  if rd s K.htSource == 1 then
    if s.tm.held then wr s K.htState 2
    else wr { s with tm := { s.tm with ht := gv s K.htRefSeconds * 1000000000 * 33, held := true } } K.htState 2
  else if s.tm.held && s.tm.refSeen then wr s K.htState (if passed s s.tm.refAt 1100000000 then 3 else 2)
  else wr s K.htState 1

def enHtSource : Enable :=
  { key := K.htSourceEnable,
    check := fun s => [failIf (rd s K.htSource == 2 && !on s K.htRefEnable) 0x06 K.htRefEnable,
      failIf (rd s K.herdRole != 1) 0x01 K.herdRole, failIf (rd s K.htSource == 0) 0x01 K.htSource],
    users := fun s => if rd s K.herdRole == 1 then onKeys s [K.herdEnable] else [],
    start := fun s => settleStart (startSource s),
    stop := fun s => settleStart (wr s K.htState (if s.tm.held then 3 else 0)) }

/-- HT_SOURCE_ENABLE. -/
def execHtSourceEnable (w : WReq) (v : Byte) (s : State) : Outc := enableRow enHtSource w v s

/-! ## Schedules and deadlines (R74, R75, R78) -/

def enSchedule (sl : Nat) : Enable :=
  { key := K.scheduleEnable sl, claim := some (K.claim1220 sl),
    check := fun s => scheduleCheck s sl false,
    covers := fun k => k / 256 == 0x1210 + sl || k == K.stepGuardNs || k == K.stepLengthNs,
    start := updateSpan,
    stop := fun s => updateSpan { s with sch := { s.sch with running := without s.sch.running sl, maint := without s.sch.maint sl } },
    stopped := fun s => !has s.sch.commitWait sl }

/-- SCHEDULE_ENABLE of a slice. -/
def execScheduleEnable (slice : Nat) (w : WReq) (v : Byte) (s : State) : Outc := enableRow (enSchedule slice) w v s

/-- Claim fields of the deadline units that give a slice no comparator. -/
def dlClaim : Nat := 0x120021

def enDeadline : Enable :=
  { key := K.deadlineEnable, claim := some dlClaim,
    check := fun s => failIf (rd s K.htState != 2 && rd s K.htState != 3) 0x06 K.htState
      :: (upFrom 0 4).map (fun i => failIf (rd s (dlClaim + i) == 0) 0x01 (dlClaim + i)),
    users := fun s => onKeys s [K.attentionEnable, K.searchEnable, K.mergeEnable],
    stopped := fun s => s.att.dls.isEmpty }

/-- DEADLINE_ENABLE. -/
def execDeadlineEnable (w : WReq) (v : Byte) (s : State) : Outc := enableRow enDeadline w v s

/-! ## Formats (R108) -/

/-- Failures of the valid format rules. -/
def ruleFails (s : State) : List Fail :=
  (upFrom 1 16).flatMap (fun n =>
    let r := rd s (ruleKey n)
    if !bitB r 63 then []
    else
      [failIf (bits r 48 6 != 0 || bits r 0 16 != 0 || decide (bits r 24 12 < bits r 36 12) || (bits r 20 4 == 0 && bits r 16 4 == 0))
         0x01 (ruleKey n),
       failIf (decide (0xD ≤ bits r 20 4) || decide (0xD ≤ bits r 16 4)) 0x07 (ruleKey n)])

def enFormatRules : Enable :=
  { key := K.formatRulesEnable, check := ruleFails, covers := fun k => k / 256 == 0x4001 }

/-- FORMAT_RULES_ENABLE. -/
def execFormatRulesEnable (w : WReq) (v : Byte) (s : State) : Outc := enableRow enFormatRules w v s

/-! ## Attention (R163) -/

/-- Abandon a share as R161 does. -/
def abandonShare (s : State) (x : Share) : State := dropShare (bump s (K.deadlineAborts x.slice) 1) x

/-- Whether a share is in the stream stage. -/
def streams (x : Share) : Bool := x.stage == .stream

/-- The slices whose schedule tables are enabled. -/
def tablesOn (s : State) : List Nat := (upFrom 0 4).filter (fun sl => on s (K.scheduleEnable sl))

def enAttention : Enable :=
  { key := K.attentionEnable,
    check := fun s => [needs s K.herdEnable, needs s K.deadlineEnable, needs s K.directoryEnable,
      inSet s K.defaultTopK, inSet s K.maxQueryRows, inSet s K.parkedLimit, inSet s K.ticketPayloadMaxMib],
    covers := fun k => has [K.defaultTopK, K.maxQueryRows, K.parkedLimit, K.ticketPayloadMaxMib] k,
    stop := fun s =>
      let s := (s.att.shares.filter (fun x => !streams x)).foldl abandonShare s
      { s with att := { s.att with closing := [] } },
    stopped := fun s => s.att.shares.isEmpty && !(tablesOn s).isEmpty && (tablesOn s).all (fun sl => has s.att.closing sl) }

/-- ATTENTION_ENABLE. -/
def execAttentionEnable (w : WReq) (v : Byte) (s : State) : Outc := enableRow enAttention w v s

/-! ## Scoring stacks (R189) -/

/-- Halves planned but not commanded go to engines (R153, R189). -/
def toEngines (s : State) : State := (upFrom 0 4).foldl (fun t sl => unplan t sl false) s

def enScoring : Enable :=
  { key := K.scoringEnable,
    check := fun s => [inSet s K.kPlacement, inSet s K.scoringReserveMib, inSet s K.burstMaxNs],
    covers := fun k => has [K.kPlacement, K.scoringReserveMib] k,
    users := fun s => onKeys s [K.rebalanceEnable],
    stop := toEngines,
    stopped := fun s => s.arrays.all (fun t => t.burst.isNone) }

/-- SCORING_ENABLE. -/
def execScoringEnable (w : WReq) (v : Byte) (s : State) : Outc := enableRow enScoring w v s

def enRebalance : Enable :=
  { key := K.rebalanceEnable, check := fun s => [needs s K.scoringEnable, inSet s K.rebalanceQuires],
    covers := fun k => k == K.rebalanceQuires }

/-- REBALANCE_ENABLE. -/
def execRebalanceEnable (w : WReq) (v : Byte) (s : State) : Outc := enableRow enRebalance w v s

/-! ## Deckle index and search (R202, R216) -/

def enDeckle : Enable :=
  { key := K.deckleEnable, check := fun s => [needs s K.herdEnable, inSet s K.deckleReps, inSet s K.deckleSlack],
    covers := fun k => has [K.deckleReps, K.deckleSlack] k }

/-- DECKLE_ENABLE. -/
def execDeckleEnable (w : WReq) (v : Byte) (s : State) : Outc := enableRow enDeckle w v s

def enSearch : Enable :=
  { key := K.searchEnable, check := fun s => [needs s K.herdEnable, needs s K.deadlineEnable, needs s K.directoryEnable],
    users := fun s => onKeys s ((upFrom 0 128).map (fun i => K.vindexEnable i)),
    stopped := fun s => s.srch.pend.isEmpty }

/-- SEARCH_ENABLE. -/
def execSearchEnable (w : WReq) (v : Byte) (s : State) : Outc := enableRow enSearch w v s

def enVindex (i : Nat) : Enable :=
  { key := K.vindexEnable i,
    check := fun s =>
      let m := vM s i
      [needs s K.searchEnable, inSet s (K.vindexDim i), inSet s (K.vindexSubquantisers i), inSet s (K.vindexLists i),
       inSet s (K.vindexCapacity i), inSet s (K.vindexMetric i), inSet s (K.vindexDefaultProbes i),
       failIf (vDim s i % max 1 m != 0 || decide (64 < vDim s i / max 1 m)) 0x01 (K.vindexDim i),
       failIf (decide (vLists s i < rd s (K.vindexDefaultProbes i))) 0x01 (K.vindexDefaultProbes i),
       failIf (rd s (K.vindexRerankFormat i) == 0 || decide (3 < rd s (K.vindexRerankFormat i))) 0x07 (K.vindexRerankFormat i),
       failIf (!on s (K.tenantEnable (rd s (K.vindexTenant i)))) 0x08 (K.vindexTenant i),
       failIf (!on s (K.vindexEnable i) && (!vindexRoom s i || !quotaAllows s (rd s (K.vindexTenant i)) (vindexReserve s i))) 0x03 (K.vindexReservedMib i)],
    covers := fun k => k == K.vindexDefaultProbes i,
    start := startIndex i,
    stop := fun s => freeIndex s i }

/-- VINDEX_ENABLE of an index. -/
def execVindexEnable (index : Nat) (w : WReq) (v : Byte) (s : State) : Outc := enableRow (enVindex index) w v s

/-! ## Merging (R233) -/

def enMerge : Enable :=
  { key := K.mergeEnable,
    check := fun s => [needs s K.herdEnable, needs s K.deadlineEnable, needs s K.directoryEnable,
      inSet s K.mergeLevelMarginNs, inSet s K.gapRecordsMax],
    covers := fun k => has [K.mergeLevelMarginNs, K.gapRecordsMax] k,
    stopped := fun s => s.ctxs.isEmpty }

/-- MERGE_ENABLE. -/
def execMergeEnable (w : WReq) (v : Byte) (s : State) : Outc := enableRow enMerge w v s

/-! ## The directory (R248, R255) -/

/-- The slices that are not RETIRED. -/
def notRetired (s : State) : List Nat := (upFrom 0 4).filter (fun sl => rd s (K.sliceState sl) != 4)

/-- The backing region that a stack already gives. -/
def backingOn (s : State) (st : Nat) : Nat :=
  sumNat ((s.holds.filter (fun h => h.kind == .backing && h.stack == st)).map Hold.bytes)

/-- Take the backing regions, where they are not taken at this size. -/
def takeBacking (s : State) : State :=
  let n := rd s K.dirBackingMib
  (notRetired s).foldl (fun t sl => resizeHold t .backing sl (carryingStack sl) (mib n)) { s with dirTaken := n }

def enDirectory : Enable :=
  { key := K.directoryEnable,
    check := fun s => [needs s K.herdEnable, inSet s K.dirSegmentHoles, inSet s K.dirHotHoldSteps, inSet s K.dirBackingMib,
      failIf ((notRetired s).any (fun sl =>
        decide (stackFree s (carryingStack sl) + backingOn s (carryingStack sl) < mib (rd s K.dirBackingMib)))) 0x03 K.dirBackingMib],
    covers := fun k => has [K.dirSegmentHoles, K.dirHotHoldSteps] k,
    users := fun s => onKeys s [K.attentionEnable, K.searchEnable, K.mergeEnable],
    start := takeBacking }

/-- DIRECTORY_ENABLE. -/
def execDirectoryEnable (w : WReq) (v : Byte) (s : State) : Outc := enableRow enDirectory w v s

end Sys2Proof.Machine
end

