-- ==== Sys2Proof/Machine/Tiers.lean ====
section
/-! DEFINITION. Tier moves as they end (R258 to R260), demotion (R265, R266), pre-emption and resume (R274 to R276), MOVE
and PRESS (R277, R278), Vat regions (R281, R282), rebalancing and the maintenance window (R73, R186, R243). -/

namespace Sys2Proof.Machine

/-! ## Background work (R410, R415) -/

/-- Whether background work of a holder may start now; if not, a request is made for it. -/
def bgReady (s : State) (h : Nat) : Bool := !deferred s && hasBudget s h 3
def bgAsk (s : State) (h : Nat) : State := askBudget s h 3 8

/-- Whether selection or search work waits for the Deckle engines, which goes before builds (R211). -/
def engineWaits (s : State) : Bool :=
  s.att.taken.any (fun t => (tkType t.raw == 5 && hOp t.raw == 1) || (tkType t.raw == 1 && qSparse t.raw))

/-- DECKLE_BUILD (R194): the first queued build of a slice whose K half is in HBM. -/
def execDeckleBuild (slice : Nat) (s : State) : Outc :=
  if !on s K.deckleEnable || engineWaits s then .next s
  else
    match s.kv.builds.find? (fun k => match tget? s.kv.quires (quireOfSheet k) with
      | some q => q.slice == slice && q.tier == 0 | none => false) with
    | none => .next s
    | some k =>
      if !bgReady s slice then .next (bgAsk s slice)
      else
        match tget? s.kv.sheets k with
        | none => .next { s with kv := { s.kv with builds := without s.kv.builds k } }
        | some sh =>
          let quires := tmod s.kv.quires (quireOfSheet k) (fun q => { q with deckled := addNew q.deckled (k % 16) })
          let deckles := tset s.kv.deckles k (buildDeckle s sh)
          .next { s with kv := { s.kv with builds := without s.kv.builds k, deckles := deckles, quires := quires } }

/-! ## Pool leases that drain (R361, R363) -/

/-- Regions under a pool lease. -/
def leaseRegions (s : State) (id : Nat) : List Nat :=
  (upFrom 0 16).filter (fun v => on s (K.vatRegionEnable v) && rd s (K.vatKind v) == 2 && rd s (K.vatLease v) == id)

/-- Drop a lease that its holder gives back. -/
def dropLease (s : State) (id : Nat) (drained : Bool) : State :=
  let s := { s with comp := { s.comp with held := s.comp.held.filter (fun h => h.id != id) } }
  let s := mgmt s (leadNode s) (.poolRelease id drained)
  if rd s K.poolResult % 2 ^ 32 == id then wr s K.poolResultState 0 else s

/-- Give back the leases whose regions have drained. -/
def settleLeases (s : State) : State :=
  (s.comp.held.filter (fun h => h.releasing != 0 && (leaseRegions s h.id).all (fun v => regionUsed s v == 0))).foldl
    (fun t h => dropLease t h.id true) s

/-! ## The end of a move -/

/-- Whether the lease of a pooled region still lets it be accessed (R281, R362, R363). -/
def leaseServes (s : State) (r : Nat) : Bool :=
  s.comp.held.any (fun h => h.id == rd s (K.vatLease r) && !h.failed && (h.releasing != 2 || decide (now s < h.drainEnd)))

/-- Whether a Vat region serves reads. -/
def vatReads (s : State) (r : Nat) : Bool :=
  linkUp s && (rd s (K.vatState r) == 1 || rd s (K.vatState r) == 2)
  && (rd s (K.vatKind r) != 2 || (rd s K.cxlModeNow == 2 && leaseServes s r))

/-- Whether a Vat region serves writes of Quires that come: not while it drains. -/
def vatTakes (s : State) (r : Nat) : Bool := vatReads s r && rd s (K.vatState r) == 1

/-- Whether nothing stands against the switch of a move (R260). -/
def moveOk (s : State) (qk : Nat) (q : Quire) (m : Move) : Bool :=
  (decide (q.tier ≤ 1) || (vatReads s q.region && !q.vatPoison))
  && (if m.target == 2 || m.target == 3 then vatTakes s m.region else true)
  && !(quireSheets s qk).any (fun p => p.2.poisoned && decide (q.tier ≤ 1))

/-- Whether the Vat accesses of a move would end in error: its region cannot be reached (R281, R303, R304). -/
def accessFails (s : State) (q : Quire) (m : Move) : Bool :=
  let out (r : Nat) : Bool := !vatReads s r
  (decide (2 ≤ q.tier) && out q.region) || ((m.target == 2 || m.target == 3) && out m.region)

/-- QUIRE_SOURCE_FREE (R258 step 5): moves and appends that wait for room find the freed Felt homes (R263). -/
def execQuireSourceFree (quireKey : Nat) (s : State) : Outc := .next (settleLeases (afterMove (retryRoom (freeSources s quireKey))))

/-- A Quire is lost: it enters the lost ranges, and what waits for it goes on without it (R391, R401). -/
def loseQuire (s : State) (qk : Nat) (q : Quire) : State :=
  freeQuire (failWaiting (quireArrived (addLost s (quireLost q)) qk (tierCause s q) true) q) qk q

/-- A failed salvage loses the Quire (R391). -/
def endSalvage (s : State) (qk : Nat) : State :=
  match tget? s.kv.quires qk with
  | some q => if q.move.isNone then loseQuire (bump s (K.salvageFailures q.slice) 1) qk q else s
  | none => s

/-- An error of the running move of a Quire, counted against its Vat region where it is an access error (R260). -/
def moveErrorAt (s : State) (quireKey : Nat) (access : Bool) : State :=
  match tget? s.kv.quires quireKey with
  | none => s
  | some q =>
    match q.move with
    | none => s
    | some m =>
      if m.target == 7 then s
      else
        let s := if !access then s
          else if 2 ≤ q.tier then bump s (K.vatErrors q.region) 1
          else if m.target == 2 || m.target == 3 then bump s (K.vatErrors m.region) 1 else s
        let s := errorMove s quireKey q m
        afterMove (if m.target == 5 then endSalvage s quireKey else s)

/-- QUIRE_MOVE_ERROR (R260). -/
def execQuireMoveError (quireKey : Nat) (access : Bool) (s : State) : Outc := .next (moveErrorAt s quireKey access)

/-- Count the Vat accesses of a move that took longer than vat_late_ns in their region (R272). -/
def countLate (s : State) (q : Quire) (m : Move) (times : List Nat) : State :=
  let late := (times.filter (fun t => decide (rd s K.vatLateNs < t))).length
  if 2 ≤ q.tier then bump s (K.vatLateCount q.region) late
  else if m.target == 2 || m.target == 3 then bump s (K.vatLateCount m.region) late else s

/-- QUIRE_MOVE_SWITCH (R258 step 4): the copy has been read back and compared, with the times in ns that its Vat accesses took. Where
something of R260 stands against the switch, the move meets it as an error. -/
def execQuireMoveSwitch (quireKey : Nat) (times : List Nat) (s : State) : Outc :=
  match tget? s.kv.quires quireKey with
  | none => .next s
  | some q =>
    match q.move with
    | none => .next s
    | some m =>
      if m.target == 4 || m.target == 7 then .next s
      else if !moveOk s quireKey q m then .next (moveErrorAt (countLate s q m times) quireKey (accessFails s q m))
      else .next (settleLeases (afterMove (switchMove (countLate s q m times) quireKey q m)))

/-- Every running move that reads or writes the Vat meets an access error. -/
def vatLost (s : State) : State :=
  (s.kv.quires.filter (fun p => match p.2.move with
    | some m => decide (2 ≤ p.2.tier) || m.target == 2 || m.target == 3 | none => false)).foldl (fun t p => moveErrorAt t p.1 true) s

/-! ## Demotion (R265, R266) -/

/-- Whether one Quire goes before another: touch step, Ream, number. -/
def coldBefore (a b : Nat × Quire) : Bool :=
  decide (a.2.touch < b.2.touch) || (a.2.touch == b.2.touch && (decide (a.2.ream < b.2.ream)
    || (a.2.ream == b.2.ream && decide (a.2.num < b.2.num))))

/-- The first Quire of a list in the order of R265. -/
def coldestOf (l : List (Nat × Quire)) : Option (Nat × Quire) :=
  l.foldl (fun a x => match a with | none => some x | some y => if coldBefore x y then some x else some y) none

/-- Bytes of HBM that running demotions will free. -/
def leavingBytes (s : State) (p : Quire → Bool) : Nat :=
  sumNat (s.kv.quires.map (fun x => match x.2.move with
    | some m => if m.target == 2 && x.2.tier == 0 && p x.2 then x.2.kShare + x.2.vShare - deckleBytes else 0
    | none => 0))

/-- Start the demotion of a Quire where its Vat quota has room for it; where no region has room, the move fails (R260). -/
def demote (s : State) (c : Nat × Quire) : State :=
  if !vatSpare s c.2.tenant (pressKib s c) then s
  else (startMove s c.1 c.2 2 c.2.slice 0).getD (moveNoRoom s c.1 c.2 2 0)

/-- Whether a tenant's policy of R265 asks for demotion now. -/
def overDemotes (s : State) (t : Nat) : Bool :=
  on s (K.overQuotaDemote t)
  && decide (mib (rd s (K.hbmQuotaMib t)) + leavingBytes s (fun q => q.tenant == t) < holdingHbm s t + holdingFelt s t)

/-- Whether a fault-in or resume waits for the coder of a slice (R266). -/
def coderBusy (s : State) (sl : Nat) : Bool :=
  s.kv.quires.any (fun p => p.2.slice == sl && decide (2 ≤ p.2.tier) && (match p.2.move with | some m => m.target == 0 | none => false))

/-- The Quire that R265 demotes next for a tenant: none where vat_quota_mib would be exceeded. -/
def overNext (s : State) (t : Nat) : Option (Nat × Quire) :=
  if !overDemotes s t then none
  else (coldestOf (s.kv.quires.filter (fun p => p.2.tenant == t && demotable s p))).filter (fun c => vatSpare s t (pressKib s c))

/-- OVER_QUOTA_DEMOTION (R265). -/
def execOverQuotaDemotion (tenant : Nat) (s : State) : Outc :=
  if !on s K.vatEnable then .next s
  else
    match overNext s tenant with
    | none => .next s
    | some c =>
      if coderBusy s c.2.slice then .next s
      else if bgReady s c.2.slice then .next (demote s c) else .next (bgAsk s c.2.slice)

/-- Free HBM of a slice, with what running demotions will free. -/
def slicePlan (s : State) (sl : Nat) : Nat := sliceFree s sl + leavingBytes s (fun q => q.slice == sl)

/-- DEMOTION_START (R266). -/
def execDemotionStart (slice : Nat) (s : State) : Outc :=
  let free := slicePlan s slice
  let low := decide (free < mib (gv s K.scoringReserveMib + gv s K.vatDemoteLowMib))
  let goes := on s K.vatEnable && decide (slice < 4) && (low || (has s.kv.demoting slice && decide (free < mib (gv s K.vatDemoteHighMib))))
  if !goes then .next { s with kv := { s.kv with demoting := without s.kv.demoting slice } }
  else
    let s := { s with kv := { s.kv with demoting := addNew s.kv.demoting slice } }
    if coderBusy s slice || (upFrom 0 256).any (fun t => (overNext s t).isSome) then .next s
    else
      match coldestOf ((demoteCandidates s).filter (fun p => p.2.slice == slice)) with
      | none => .next s
      | some c => if bgReady s slice then .next (demote s c) else .next (bgAsk s slice)

/-! ## Pre-emption (R274 to R276) -/

/-- Quires of a Ream, in ascending layer, head and number. -/
def reamQuires (s : State) (t ream : Nat) : List (Nat × Quire) := s.kv.quires.filter (fun p => p.2.tenant == t && p.2.ream == ream)

/-- The other nodes that ROUTE entries name for a Ream (R249). -/
def reamNodes (s : State) (sl t ream : Nat) : List Nat :=
  (((dirMatches s sl 2 (dirKey 2 t ream 0 0 0) reamMask).filter (fun e => routeEpoch e.data == 0 || epochOk s (routeEpoch e.data))).map
    (fun e => routeNode e.data)).eraseDups.filter (fun n => n != myNode s)

/-- Abandon a queued or parked share of a pre-empted Ream, with a gap for its Sheets (R274 step 2). -/
def preemptShare (s : State) (x : Share) : State :=
  match ctxOf s x.ctx with
  | none => dropShare s x
  | some c =>
    let (s, c) := addGaps s c (missingGaps s c.tk.raw x ++ runGaps s c.tk.raw St.preempted x.slice (x.sheets.map (fun k => k % 2 ^ 32)))
    let c := { c with ownOut := without c.ownOut x.id }
    let s := dropShare (putCtx s c) x
    if c.ownOut.isEmpty then foldOwn s c else s

/-- Swap one Quire (R274 step 4): the state, and 1 where it will be swapped. -/
def swapQuire (s : State) (p : Nat × Quire) : State × Nat :=
  if 2 ≤ p.2.tier then (s, 0)
  else
    match p.2.move with
    | some m =>
      if m.target == 3 then (s, 1)
      else ({ s with kv := { s.kv with queuedMoves := s.kv.queuedMoves ++ [(p.1, 3)] } }, 1)
    | none =>
      match startMove s p.1 p.2 3 p.2.slice 0 with
      | some s' => (s', 1)
      | none => (bump s (K.swapNoRoom p.2.tenant) 1, 0)

/-- Steps 2 and 4 of R274 on this node: the state, and the Quires that will be swapped. -/
def preemptHere (s : State) (t ream : Nat) : State × Nat :=
  let s := { s with kv := { s.kv with preempted := addNew s.kv.preempted (reamKey t ream) } }
  let s := withdrawReam s t ream St.preempted
  let mine (x : Share) : Bool := !streams x && (match ctxOf s x.ctx with | some c => tkTenant c.tk.raw == t && bReam c.tk.raw == ream | none => false)
  let s := (s.att.shares.filter mine).foldl preemptShare s
  (reamQuires s t ream).foldl (fun (a : State × Nat) p => let (u, n) := swapQuire a.1 p; (u, a.2 + n)) (s, 0)

/-- Check 5 and the tests of R278 on a tier ticket at the Ream's home; 0 where it may run. -/
def tierTest (s : State) (r : Nat) (wantPreempted : Option Bool) : Nat :=
  match knownReam s (tkTenant r) (bReam r) with
  | none => St.bounds
  | some m =>
    if m.retiredSet then St.revoked
    else
      match wantPreempted with
      | some b => if m.preempted == b then 0 else St.bounds
      | none => if m.preempted then St.preempted else 0

/-- Send a tier ticket on to other nodes. -/
def sendOn (s : State) (tk : Tk) (l : List Nat) : State :=
  l.foldl (fun t n => post t n tk.cls (.ticket (toBytes 128 (forwardRaw t tk)))) s

/-- End a tier ticket that its home's tests refuse: 0x22 and 0x24 are outcomes, the rest fail check 5. -/
def tierRefuse (s : State) (tk : Tk) (c : Nat) : State :=
  if c == St.bounds then refuse s tk c else complete s tk c 0 0

def setPreempted (s : State) (t ream : Nat) (b : Bool) : State :=
  setReam s t ream (fun m => { m with preempted := b })

/-- Wait for the acknowledgements of other nodes, or complete. -/
def waitAcks (s : State) (tk : Tk) (nodes : List Nat) (count : Nat) : State :=
  if nodes.isEmpty then complete s tk St.ok count 0
  else { s with kv := { s.kv with preTks := s.kv.preTks ++ [{ tk := tk, waiting := nodes, count := count }] } }

/-- PREEMPT. -/
def execPreempt (s : State) : Outc :=
  match takeHead s 6 with
  | none => .next s
  | some (tk, s) =>
    let r := tk.raw
    let t := tkTenant r
    let (s, home) := homeOf s tk.slice t (bReam r)
    match home with
    | none => .next (refuse s tk St.bounds)
    | some h =>
      if h != myNode s then
        if tk.fabric then
          let (s, n) := preemptHere (dropDl s tk.id) t (bReam r)
          .next (mgmt s tk.src (.preemptAck t (bReam r) n))
        else .next (forwardHome s tk h [])
      else
        let c := if rd s (K.swapMib t) == 0 then St.bounds else tierTest s r (some false)
        if c != 0 then .next (tierRefuse s tk c)
        else
          let others := reamNodes s tk.slice t (bReam r)
          let s := sendOn (setPreempted s t (bReam r) true) tk others
          let (s, n) := preemptHere s t (bReam r)
          .next (waitAcks s tk others n)

/-- An acknowledgement of a PREEMPT or RESUME. -/
def ackPre (s : State) (type src t ream count : Nat) : State :=
  let mine (p : PreTk) : Bool := tkType p.tk.raw == type && tkTenant p.tk.raw == t && bReam p.tk.raw == ream && has p.waiting src
  match s.kv.preTks.find? mine with
  | none => s
  | some p =>
    let p := { p with waiting := without p.waiting src, count := p.count + count }
    let rest := s.kv.preTks.filter (fun x => x.tk.id != p.tk.id)
    if p.waiting.isEmpty then complete { s with kv := { s.kv with preTks := rest } } p.tk St.ok p.count 0
    else { s with kv := { s.kv with preTks := rest ++ [p] } }

/-- PREEMPT_ACK. -/
def execPreemptAck (src tenant ream count : Nat) (s : State) : Outc := .next (ackPre s 6 src tenant ream count)

/-- RESUME_ACK. -/
def execResumeAck (src tenant ream count : Nat) (s : State) : Outc := .next (ackPre s 7 src tenant ream count)

/-- Lift a pre-emption on this node (R276): the state, and the Quires in tier 0x3. -/
def resumeHere (s : State) (t ream : Nat) : State × Nat :=
  let l := reamQuires s t ream
  let s := { s with kv := { s.kv with preempted := without s.kv.preempted (reamKey t ream),
                                      queuedMoves := s.kv.queuedMoves.filter (fun p => !(p.2 == 3 && has (l.map Prod.fst) p.1)) } }
  let back := l.filter (fun p => p.2.tier == 3 || (match p.2.move with | some m => m.target == 3 | none => false))
  (back.foldl (fun u p => askMove u p.1 0 0) s, (l.filter (fun p => p.2.tier == 3)).length)

/-- RESUME. -/
def execResume (s : State) : Outc :=
  match takeHead s 7 with
  | none => .next s
  | some (tk, s) =>
    let r := tk.raw
    let t := tkTenant r
    let (s, home) := homeOf s tk.slice t (bReam r)
    match home with
    | none => .next (refuse s tk St.bounds)
    | some h =>
      if h != myNode s then
        if tk.fabric then
          let (s, n) := resumeHere (dropDl s tk.id) t (bReam r)
          .next (mgmt s tk.src (.resumeAck t (bReam r) n))
        else .next (forwardHome s tk h [])
      else
        let c := tierTest s r (some true)
        if c != 0 then .next (tierRefuse s tk c)
        else
          let others := reamNodes s tk.slice t (bReam r)
          let s := sendOn (setPreempted s t (bReam r) false) tk others
          let (s, n) := resumeHere s t (bReam r)
          .next (waitAcks s tk others n)

/-! ## MOVE (R278) -/

/-- Check 5 of a MOVE. -/
def moveFieldsBad (s : State) (r : Nat) : Bool :=
  decide (2 < mTier r) || (mTier r == 1 && !on s K.feltHomeEnable) || (mTier r == 2 && !on s K.vatEnable) || decide (mLast r < mFirst r)

/-- Whether a quota stands against a MOVE of a Quire: its Felt and Vat quotas (R266, R267), and, while the tenant is over quota, its HBM
quota where the Quire comes from outside HBM and Felt (R264). -/
def moveQuota (s : State) (qk : Nat) (q : Quire) (target : Nat) : Bool :=
  let n := quireImageBytes s qk
  let hbm := overQuotaNow s q.tenant && decide (2 ≤ q.tier)
    && decide (mib (rd s (K.hbmQuotaMib q.tenant)) < holdingHbm s q.tenant + holdingFelt s q.tenant + n)
  match target with
  | 0 => hbm
  | 1 => hbm || decide (mib (rd s (K.feltQuotaMib q.tenant)) < holdingFelt s q.tenant + n)
  | _ => !vatSpare s q.tenant (pressKib s (qk, q))

/-- Ask for the move of one Quire of a MOVE. -/
def moveOne (s : State) (t : MoveTk) (p : Nat × Quire) : State × MoveTk :=
  if p.2.tier == t.target && p.2.move.isNone then (s, t)
  else if t.target == 2 && quirePending s p.1 then (s, { t with noRoom := true })
  else if moveQuota s p.1 p.2 t.target then (s, { t with quota := true })
  else
    let s := askMove s p.1 t.target t.tk.id
    let runs := match tget? s.kv.quires p.1 with | some q => q.move.isSome | none => false
    if runs || s.kv.queuedMoves.any (fun x => x.1 == p.1 && x.2 == t.target) then (s, { t with left := t.left ++ [p.1] })
    else (s, { t with noRoom := true })

/-- A MOVE on this node, with the other nodes that have been asked. -/
def runMove (s : State) (tk : Tk) (others : List Nat) : State :=
  let r := tk.raw
  let l := (reamQuires s (tkTenant r) (bReam r)).filter (fun p => decide (mFirst r ≤ p.2.num) && decide (p.2.num ≤ mLast r) && !p.2.departing)
  let t : MoveTk := { tk := tk, target := mTier r, quires := l.map Prod.fst, left := [], noRoom := false, quota := false,
                      remote := others, moved := 0 }
  let (s, t) := l.foldl (fun (a : State × MoveTk) p => moveOne a.1 a.2 p) (s, t)
  settleMoves { s with kv := { s.kv with moveTks := s.kv.moveTks ++ [t] } }

/-- MOVE. -/
def execMove (s : State) : Outc :=
  match takeHead s 8 with
  | none => .next s
  | some (tk, s) =>
    let r := tk.raw
    if moveFieldsBad s r then .next (refuse s tk St.bounds)
    else
      let (s, home) := homeOf s tk.slice (tkTenant r) (bReam r)
      match home with
      | none => .next (refuse s tk St.bounds)
      | some h =>
        if h != myNode s then
          if tk.fabric then
            .next (if has s.kv.preempted (reamKey (tkTenant r) (bReam r)) then complete s tk St.preempted 0 0 else runMove s tk [])
          else .next (forwardHome s tk h [])
        else
          let c := tierTest s r none
          if c != 0 then .next (tierRefuse s tk c)
          else
            let others := reamNodes s tk.slice (tkTenant r) (bReam r)
            .next (runMove (sendOn s tk others) tk others)

/-- The answer of another node to a MOVE that its home runs: none where no MOVE waits for it. -/
def moveAnswer (s : State) (src record : Nat) : Option State :=
  if bits record 12 8 != 8 then none
  else
    match s.kv.moveTks.find? (fun t => tkId t.tk.raw == crTicket record && has t.remote src) with
    | none => none
    | some t =>
      let t := { t with remote := without t.remote src, moved := t.moved + crCount record,
                        quota := t.quota || crStatus record == St.quota,
                        noRoom := t.noRoom || (crStatus record != St.ok && crStatus record != St.quota) }
      some (settleMoves { s with kv := { s.kv with moveTks := (s.kv.moveTks.filter (fun x => x.tk.id != t.tk.id)) ++ [t] } })

/-! ## PRESS (R277, R278) -/

/-- Check 5 of a PRESS. -/
def pressFieldsBad (r : Nat) : Bool :=
  pOp r == 0 || decide (2 < pOp r) || pSrcLen r == 0 || decide (16777216 < pSrcLen r)
  || (pOp r == 1 && decide (pDstLen r < pSrcLen r + 832 + 8 * ceilDiv (pSrcLen r) 1024))

/-- The header of a Pressed range. -/
def rangeHead (t : Nat) : PressHead :=
  { firsts := [], ream := 0, quire := 0, tenant := t, layer := 0, head := 0, sheets := 0, dim := 0 }

/-- Run a PRESS on its source bytes. -/
def runPress (s : State) (tk : Tk) (data : List Byte) : State :=
  let r := tk.raw
  if pOp r == 1 then
    let (out, raw) := pressBytes (on s K.pressEnable) (rangeHead (tkTenant r)) (byteBlocks data)
    let s := bump (bump (bump s K.rawBlocks raw) K.bytesPressedSource data.length) K.bytesPressedOut out.length
    completeResult s tk (pDst r) out St.ok out.length
  else
    match unpressBytes data with
    | none => complete s tk St.tierFault 0 0
    | some out => if pDstLen r < out.length then complete s tk St.bounds 0 0 else completeResult s tk (pDst r) out St.ok out.length

/-- PRESS. -/
def execPress (s : State) : Outc :=
  match takeHead s 9 with
  | none => .next s
  | some (tk, t) =>
    let r := tk.raw
    let src := areaTest t (tkTenant r) (pSrc r) (pSrcLen r) 64 1
    let dst := areaTest t (tkTenant r) (pDst r) (pDstLen r) 64 2
    if pressFieldsBad r then .next (refuse t tk St.bounds)
    else if src != 0 then .next (refuseArea t tk src)
    else if dst != 0 then .next (refuseArea t tk dst)
    else if !bgReady s tk.slice then .next (bgAsk s tk.slice)
    else
      let (t, data, bad) := nodeRead t (pSrc r) (pSrcLen r)
      if bad then .next (complete t tk St.poisoned 0 0) else .next (runPress t tk data)

/-! ## Vat regions (R281) -/

/-- Drain a region: each Quire held in it moves to another serving region, or to HBM. -/
def drainRegion (s : State) (v : Nat) : State :=
  if rd s (K.vatState v) != 1 then s
  else
    let s := wr s (K.vatState v) 2
    (s.kv.quires.filter (fun p => p.2.tier == 2 && p.2.region == v && p.2.move.isNone)).foldl (fun t p =>
      match startMove t p.1 p.2 2 p.2.slice 0 with
      | some t' => t'
      | none => askMove t p.1 0 0) s

/-- A write of vat_region_drain. -/
def hVatDrain (v : Nat) : Handler := fun s _ p =>
  if 1 < ofBytes p then (s, .refused 0x01 (0x5010 + v) 8)
  else if ofBytes p == 1 then (drainRegion s v, .done) else (s, .done)

/-- VAT_REGION_DRAIN. -/
def execVatRegionDrain (region : Nat) (w : WReq) (v : Byte) (s : State) : Outc :=
  .next (rowWrite s w (0x5010 + region) 8 0 [v] (hVatDrain region))

/-- VAT_REGION_FAIL: errors on every access for 1 ms. -/
def execVatRegionFail (region : Nat) (s : State) : Outc :=
  if rd s (K.vatState region) == 1 || rd s (K.vatState region) == 2 then .next (wr s (K.vatState region) 3) else .next s

/-! ## Enables (R279 to R282) -/

def enVat : Enable :=
  { key := K.vatEnable,
    check := fun s => [needs s K.hostPortEnable, failIf (decide (rd s K.vatDemoteHighMib < rd s K.vatDemoteLowMib)) 0x01 K.vatDemoteLowMib,
      inSet s K.vatDemoteLowMib, inSet s K.vatDemoteHighMib, inSet s K.moveRetryLimit, inSet s K.vatLateNs, inSet s K.tierStallLimitNs],
    covers := fun k => has [K.vatDemoteLowMib, K.vatDemoteHighMib, K.moveRetryLimit, K.vatLateNs, K.tierStallLimitNs] k,
    users := fun s => onKeys s (K.pressEnable :: (upFrom 0 16).map (fun v => K.vatRegionEnable v)) }

/-- VAT_ENABLE. -/
def execVatEnable (w : WReq) (v : Byte) (s : State) : Outc := enableRow enVat w v s

def enPress : Enable := { key := K.pressEnable, check := fun s => [needs s K.vatEnable] }

/-- PRESS_ENABLE. -/
def execPressEnable (w : WReq) (v : Byte) (s : State) : Outc := enableRow enPress w v s

/-- Whether a Quire lies in Felt, or moves there. -/
def inFelt (q : Quire) : Bool := q.tier == 1 || (match q.move with | some m => m.target == 1 | none => false)

def enFeltHome : Enable :=
  { key := K.feltHomeEnable, claim := some K.claim5000, check := fun _ => [],
    stop := fun s => (s.kv.quires.filter (fun p => inFelt p.2)).foldl (fun t p => askMove t p.1 0 0) s,
    stopped := fun s => !s.kv.quires.any (fun p => inFelt p.2) && !s.kv.sources.any (fun x => x.tier == 1) }

/-- FELT_HOME_ENABLE. -/
def execFeltHomeEnable (w : WReq) (v : Byte) (s : State) : Outc := enableRow enFeltHome w v s

/-- Whether two regions meet. -/
def regionsMeet (s : State) (a b : Nat) : Bool :=
  decide (rd s (K.vatBase a) < rd s (K.vatBase b) + mib (rd s (K.vatLengthMib b)))
  && decide (rd s (K.vatBase b) < rd s (K.vatBase a) + mib (rd s (K.vatLengthMib a)))

/-- Whether the node holds a pool lease cleared and not lapsed (R361). -/
def leaseHeld (s : State) (id : Nat) : Bool := s.comp.held.any (fun h => h.id == id && !h.clearing && !h.failed && h.releasing == 0)

/-- Tenants enabled whose swap area lies in a region. -/
def swapTenants (s : State) (v : Nat) : List Nat :=
  (upFrom 0 256).filter (fun t => on s (K.tenantEnable t) && decide (0 < rd s (K.swapMib t)) && rd s (K.swapRegion t) == v)

def enVatRegion (v : Nat) : Enable :=
  { key := K.vatRegionEnable v,
    check := fun s => [needs s K.vatEnable,
      failIf (rd s (K.vatKind v) != 1 && rd s (K.vatKind v) != 2) 0x01 (K.vatKind v),
      failIf (rd s (K.vatBase v) % 2 ^ 20 != 0) 0x01 (K.vatBase v),
      failIf (rd s (K.vatLengthMib v) == 0 || decide (262144 < rd s (K.vatLengthMib v))) 0x01 (K.vatLengthMib v),
      failIf ((upFrom 0 16).any (fun u => u != v && on s (K.vatRegionEnable u) && regionsMeet s u v)) 0x02 (K.vatBase v),
      failIf (rd s (K.vatKind v) == 2 && !leaseHeld s (rd s (K.vatLease v))) 0x0B (K.vatLease v)],
    halts := fun s => [failIf (regionHolds s v || !(swapTenants s v).isEmpty) 0x05 (K.vatFreeMib v)],
    start := fun s => wr s (K.vatState v) 1,
    stop := fun s => wr s (K.vatState v) 0 }

/-- VAT_REGION_ENABLE of a region. -/
def execVatRegionEnable (region : Nat) (w : WReq) (v : Byte) (s : State) : Outc := enableRow (enVatRegion region) w v s

/-- The conditions on a tenant's swap area (R282). -/
def swapFails (s : State) (t : Nat) : List Fail :=
  if rd s (K.swapMib t) == 0 then []
  else
    let r := rd s (K.swapRegion t)
    let o := rd s (K.swapOffsetMib t)
    let n := rd s (K.swapMib t)
    let meets (u : Nat) : Bool := u != t && decide (rd s (K.swapOffsetMib u) < o + n) && decide (o < rd s (K.swapOffsetMib u) + rd s (K.swapMib u))
    [ failIf (decide (16 ≤ r)) 0x06 (K.swapRegion t),
      failIf (decide (r < 16) && !on s (K.vatRegionEnable r)) 0x06 (K.vatRegionEnable r),
      failIf (decide (r < 16) && rd s (K.vatKind r) != 1) 0x06 (K.vatKind r),
      failIf (decide (r < 16) && decide (rd s (K.vatLengthMib r) < o + n)) 0x01 (K.swapOffsetMib t),
      failIf ((swapTenants s r).any meets) 0x02 (K.swapOffsetMib t) ]

def enTenant (t : Nat) : Enable :=
  { key := K.tenantEnable t,
    check := fun s => [inSet s (K.hbmQuotaMib t), inSet s (K.feltQuotaMib t), inSet s (K.vatQuotaMib t)] ++ swapFails s t,
    covers := fun k => has [K.hbmQuotaMib t, K.feltQuotaMib t, K.vatQuotaMib t] k,
    users := fun s => onKeys s (((upFrom 0 128).filter (fun i => rd s (K.vindexTenant i) == t)).map (fun i => K.vindexEnable i)) }

/-- TENANT_ENABLE of a tenant. -/
def execTenantEnable (tenant : Nat) (w : WReq) (v : Byte) (s : State) : Outc := enableRow (enTenant tenant) w v s

/-! ## The maintenance window (R73, R186, R243, R419) -/

/-- The Quires of a slice that rebalancing takes, highest position first. -/
def rebalanceList (s : State) (sl : Nat) : List (Nat × Quire) :=
  let l := (sliceQuires s sl).filter (fun p => p.2.kCarrying && p.2.tier == 0 && p.2.move.isNone && !p.2.departing && quireComplete s p.1)
  (l.foldl (fun (a : List (Nat × Quire)) x => a.takeWhile (fun y => decide (x.2.num ≤ y.2.num)) ++ [x] ++ a.dropWhile (fun y => decide (x.2.num ≤ y.2.num))) []).take
    (rd s K.rebalanceQuires)

/-- Start the rebalance copies of a slice. -/
def rebalance (s : State) (sl : Nat) : State :=
  if !on s K.rebalanceEnable || deferred s then s
  else (rebalanceList s sl).foldl (fun t p => (startMove t p.1 p.2 4 sl 0).getD t) (bgAsk s sl)

/-- The coefficients of a slice's model as a fit writes them, with the temperature and load of the fit (R419). -/
def fittedModel (s : State) (sl n : Nat) : State :=
  let f (i : Nat) := Config.fitCoeff sl n i
  wr (wr (wr (wr (wr s (K.calTempC sl) (f 0)) (K.calLoadW sl) (f 1)) (K.eMacPj sl) (f 2)) (K.eGranuleNj sl) (f 3)) (K.leakW sl) (f 4)

/-- One window of a slice's recalibration (R415, R419, R424). -/
def recalibrate (s : State) (sl : Nat) : State :=
  if rd s (K.modelState sl) == 0 || !on s K.powerEnable || decide (3 ≤ s.pow.slow) then s
  else
    let s := if rd s (K.modelState sl) == 2 then s
      else { s with pow := { s.pow with fitAt := tset s.pow.fitAt sl (meanTemp s sl, meanLoad s sl), fit := terase s.pow.fit sl } }
    let (n, s) := fresh (wr s (K.modelState sl) 2)
    let res := Config.fitResidual sl n
    if res < 30 then
      let k := tget s.pow.fit sl 0 + 1
      if 8 ≤ k then
        let s := fittedModel { s with pow := { s.pow with fit := terase s.pow.fit sl } } sl n
        event (bump (wr s (K.modelState sl) 0) K.recalCount 1) 0x90 5 sl 0 (packBits [(8, sl), (16, res)])
      else { s with pow := { s.pow with fit := tset s.pow.fit sl k } }
    else { s with pow := { s.pow with fit := terase s.pow.fit sl } }

/-- MAINT_CLOSE: copies that have not switched are abandoned. -/
def execMaintClose (slice entry : Nat) (s : State) : Outc :=
  match dueEntry s slice entry 7 with
  | none => .next s
  | some e =>
    let s := takeOccurrence s slice entry e
    let s := { s with sch := { s.sch with maint := without s.sch.maint slice } }
    .next ((sliceQuires s slice).foldl (fun t p => match p.2.move with
      | some m => if m.target == 4 then dropMove t p.1 p.2 else t
      | none => t) s)

/-- QUIRE_REBALANCE_SWITCH (R186 step 2): the copy of a Quire's K halves has been made within the window. -/
def execQuireRebalanceSwitch (quireKey : Nat) (s : State) : Outc :=
  match tget? s.kv.quires quireKey with
  | none => .next s
  | some q =>
    match q.move with
    | none => .next s
    | some m =>
      if m.target != 4 || !has s.sch.maint q.slice then .next s
      else if !bgReady s q.slice then .next (bgAsk s q.slice)
      else .next (afterMove (switchMove s quireKey q m))

end Sys2Proof.Machine
end

