-- ==== Sys2Proof/Machine/Links.lean ====
section
/-! DEFINITION. The physical links (R310 to R316): training, width, flaps and retirement of SerDes lanes, LINK blocks and the
hold on a herd_id mismatch, and the maintenance window (R73). -/

namespace Sys2Proof.Machine

def linkSt (s : State) (l : Nat) : LinkSt := tget s.net.links l LinkSt.reset
def putLink (s : State) (l : Nat) (x : LinkSt) : State := { s with net := { s.net with links := tset s.net.links l x } }

/-- Raise an event of the links (R337). -/
def linkEvent (s : State) (code sev l : Nat) (data : List (Nat × Nat)) : State := event s 0x60 code (dieOf l) sev (packBits data)

/-- Bits of the SerDes lanes that are not retired. -/
def goodLanes (s : State) (l : Nat) : Nat := (255 - rd s (K.lanesRetired l) % 256)

def goodCount (s : State) (l : Nat) : Nat := sumNat ((upFrom 0 8).map (fun n => bits (goodLanes s l) n 1))

/-- The width that the node offers (R312): 0 with no good lane. -/
def widthOffer (s : State) (l : Nat) : Nat :=
  let n := min (goodCount s l) (rd s (K.linkWidthMax l))
  if 8 ≤ n then 8 else if 4 ≤ n then 4 else if 2 ≤ n then 2 else n

/-! ## Down and up -/

/-- Raise LINK_DOWN. -/
def sayDown (s : State) (l cause : Nat) : State :=
  let s := putLink s l { linkSt s l with said := true }
  linkEvent (bump s (K.linkDowns l) 1) 2 1 l [(8, l), (8, cause)]

/-- Take a link to a state other than up. -/
def dropTo (s : State) (l st cause : Nat) : State :=
  let was := rd s (K.linkState l)
  let s := wr (wr s (K.linkState l) st) (K.linkWidthNow l) 0
  if was == 2 || (was == 1 && st == 3 && cause == 3) then sayDown s l cause else s

/-- Begin a training. -/
def train (s : State) (l : Nat) : State :=
  let s := dropTo s l 1 1
  putLink s l { linkSt s l with held := false, trainAt := s.tm.ec, blockAt := none, peerHerd := 0 }

/-- Enter the state up, at the width trained. -/
def goUp (s : State) (l w : Nat) : State :=
  let old := (linkSt s l).width
  let s := putLink s l { linkSt s l with held := false, said := false, width := w }
  let s := wr (wr s (K.linkState l) 2) (K.linkWidthNow l) w
  let s := linkEvent s 1 0 l [(8, l), (8, w)]
  if old != 0 && old != w then linkEvent s 3 1 l [(8, l), (8, old), (8, w)] else s

/-- Whether the two ends hold different nonzero herd_ids (R316). -/
def herdClash (s : State) (l : Nat) : Bool :=
  let p := (linkSt s l).peerHerd
  p != 0 && rd s K.herdId != 0 && p != rd s K.herdId

/-- Hold a trained link, or end its hold. -/
def checkHold (s : State) (l : Nat) : State :=
  let x := linkSt s l
  if herdClash s l then
    if x.held then s
    else
      let s := dropTo s l 3 3
      let s := putLink s l { linkSt s l with held := true }
      linkEvent s 0xA 2 l [(8, l), (32, x.peerHerd)]
  else if x.held then goUp s l x.width else s

/-! ## Training -/

def enLink (l : Nat) : Enable :=
  { key := K.linkEnable l,
    check := fun s => [failIf (decide (2 < rd s (K.linkReach l))) 0x01 (K.linkReach l), inSet s (K.linkWidthMax l)],
    users := fun s => if (upFrom 0 36).any (fun k => k != l && on s (K.linkEnable k)) then [] else onKeys s [K.transportEnable],
    start := fun s => train (putLink s l { linkSt s l with said := false, width := 0 }) l,
    stop := fun s => putLink (dropTo s l 0 0) l { linkSt s l with held := false } }

/-- LINK_ENABLE. -/
def execLinkEnable (link : Nat) (w : WReq) (v : Byte) (s : State) : Outc := enableRow (enLink link) w v s

/-- Whether a link in state 0x3 may train: it is not held and has a good lane (R313). -/
def mayRetry (s : State) (l : Nat) : Bool :=
  decide (l < 36) && on s (K.linkEnable l) && rd s (K.linkState l) == 3 && !(linkSt s l).held && goodCount s l != 0

/-- A link that trains. -/
def trains (s : State) (l : Nat) : Bool := decide (l < 36) && on s (K.linkEnable l) && rd s (K.linkState l) == 1

/-- Every bucket of a link is full again (R345). -/
def fillBuckets (s : State) (l : Nat) : State :=
  { s with net := { s.net with buckets := s.net.buckets.filter (fun b => b.1 / 64 != l) } }

/-- LINK_TRAINED: farOffer is the far end's offer. A link in state 0x3 trains as soon as the far end trains with it (R313). -/
def execLinkTrained (link farOffer : Nat) (s : State) : Outc :=
  let w := min (widthOffer s link) farOffer
  if (trains s link || mayRetry s link) && has [1, 2, 4, 8] w then .next (checkHold (goUp (fillBuckets s link) link w) link) else .next s

/-- LINK_TRAINING_TIMEOUT (R313). signal: the far end's signal was detected. -/
def execLinkTrainingTimeout (link : Nat) (signal : Bool) (s : State) : Outc :=
  let x := linkSt s link
  if trains s link && passed s x.trainAt 100000 then
    let s := wr s (K.linkState link) 3
    let first := !x.said || x.width != 0
    let s := putLink s link { x with width := 0 }
    .next (if first || signal then sayDown s link 2 else s)
  else .next s

/-- LINK_RETRAIN_ATTEMPT (R313): at least once every 1 ms, and so at any moment in between. -/
def execLinkRetrainAttempt (link : Nat) (s : State) : Outc := if mayRetry s link then .next (train s link) else .next s

/-! ## SerDes lanes (R312) -/

/-- The one-minute window of now. -/
def minuteNow (s : State) : Nat := s.tm.ec / 198000000000

/-- Flaps of a SerDes lane in the last 60 one-minute windows. -/
def flapCount (s : State) (l lane : Nat) : Nat :=
  ((linkSt s l).flaps.filter (fun f => f.1 == lane && decide (minuteNow s < f.2 + 60))).length

/-- Retire a lane, and train the link again at once. -/
def retireLane (s : State) (l lane : Nat) : State :=
  let m := rd s (K.lanesRetired l) ||| 2 ^ lane
  let s := linkEvent (wr s (K.lanesRetired l) m) 4 1 l [(8, l), (8, m)]
  train s l

/-- LANE_FLAP. farTraining: a failed training met a far end that trains. A lane lost on a link that is up or held takes it out of
that state, and the link trains again. -/
def execLaneFlap (link lane : Nat) (farTraining : Bool) (s : State) : Outc :=
  let up := rd s (K.linkState link) == 2 || (linkSt s link).held
  if decide (link < 36) && decide (lane < 8) && on s (K.linkEnable link) && bitB (goodLanes s link) lane
      && (up || (rd s (K.linkState link) == 1 && farTraining)) then
    let x := linkSt s link
    let fl := x.flaps.filter (fun f => decide (minuteNow s < f.2 + 60))
    let s := putLink s link { x with flaps := fl ++ [(lane, minuteNow s)] }
    if rd s K.laneFlapLimit ≤ flapCount s link lane then .next (retireLane s link lane)
    else .next (if up then train s link else s)
  else .next s

/-- A write of lane_restore: the lanes return at the next maintenance window. -/
def hLaneRestore (l : Nat) : Handler := fun s _ p =>
  (putLink s l { linkSt s l with restores := (linkSt s l).restores ||| ofBytes p }, .done)

/-- LANE_RESTORE. -/
def execLaneRestore (link : Nat) (w : WReq) (v : Byte) (s : State) : Outc :=
  .next (rowWrite s w (0x6100 + link) 7 0 [v] (hLaneRestore link))

/-- Return the lanes that a link's lane_restore named. -/
def restoreLanes (s : State) (l : Nat) : State :=
  let x := linkSt s l
  let back := rd s (K.lanesRetired l) &&& x.restores
  let s := putLink s l { x with restores := 0 }
  if back == 0 then s
  else
    let s := wr s (K.lanesRetired l) (rd s (K.lanesRetired l) - back)
    if on s (K.linkEnable l) then train s l else s

/-! ## LINK blocks (R316) -/

def linkBlockOf (s : State) (l : Nat) : LinkBlock :=
  { node := myNode s, link := l, herdId := rd s K.herdId, goodLanes := goodLanes s l, widthOffer := widthOffer s l }

/-- LINK_BLOCK_SEND: at each training, and every 1 ms while the link is up or held. -/
def execLinkBlockSend (link : Nat) (s : State) : Outc :=
  let x := linkSt s link
  let due := match x.blockAt with | none => true | some e => passed s e 1000000
  let up := rd s (K.linkState link) == 2 || x.held
  if decide (link < 36) && ((trains s link && x.blockAt.isNone) || (up && due)) then
    let s := emit s (.control link (linkBlockWord (linkBlockOf s link)))
    let s := putLink s link { linkSt s link with blockAt := some s.tm.ec }
    .next (if up then checkHold s link else s)
  else .next s

/-- LINK_BLOCK. A block whose CRC fails is discarded. -/
def execLinkBlock (link block : Nat) (s : State) : Outc :=
  let b := linkBlockFrom block
  let up := rd s (K.linkState link) == 2 || (linkSt s link).held
  if blockOk 0x02 block && decide (link < 36) && (trains s link || up) then
    let s := wr (wr s (K.peerNode link) b.node) (K.peerLink link) b.link
    let s := putLink s link { linkSt s link with peerHerd := b.herdId }
    .next (if up then checkHold s link else s)
  else .next s

/-! ## The maintenance window -/

/-- The links of a slice (R4). -/
def linksOf (sl : Nat) : List Nat := upFrom (9 * sl) 9

end Sys2Proof.Machine
end

