-- ==== Sys2Proof/Machine/Traffic.lean ====
section
/-! DEFINITION. Traffic (R341 to R353): egress queues, counting of length, policing, virtual time, and the choice of the next
packet of a link. -/

namespace Sys2Proof.Machine

def egressOf (s : State) (l : Nat) : Egress := tget s.net.egress l Egress.reset
def putEgress (s : State) (l : Nat) (x : Egress) : State := { s with net := { s.net with egress := tset s.net.egress l x } }

/-! ## Class, group and length (R341, R343, R344) -/

/-- The group of a tenant. -/
def tenantGroup (s : State) (t : Nat) : Nat := bits (gv s (K.tenantGroups (t / 8))) (4 * (t % 8)) 3

/-- The queue of a packet: 8 × class + group, 64 for lane 0x8. -/
def queueNo (s : State) (p : Packet) : Nat := if p.vl == 8 then 64 else 8 * p.vl + tenantGroup s (p.key / 2 ^ 24)

/-- The node's counting mode: 1 PACKETS. -/
def countModeNow (s : State) : Nat := if rd s K.nodeStartState == 4 then 0 else 1

/-- Whether a link counts in packets. -/
def countsPackets (s : State) (l : Nat) : Bool := countModeNow s == 1 || rd s (K.sliceState (dieOf l)) == 0

/-- The charge L of a packet on a link. -/
def charge (s : State) (l : Nat) (p : Packet) : Nat := if countsPackets s l then 1024 else 256 * p.flits

def frameBytes (p : Packet) : Nat := 256 * p.flits

/-! ## Policing (R345 to R347) -/

def bucketKey (l q : Nat) : Nat := l * 64 + q

/-- Depth of a bucket in units of 1/3,300 byte. -/
def bucketDepth (s : State) (q : Nat) : Nat := gv s (K.policeBurstKib (q / 8) (q % 8)) * 1024 * 3300

/-- Tokens of a bucket now. -/
def bucketNow (s : State) (l q : Nat) : Nat :=
  match tget? s.net.buckets (bucketKey l q) with
  | none => bucketDepth s q
  | some (n, e) => min (bucketDepth s q) (n + gv s (K.policeRateMbs (q / 8) (q % 8)) * (s.tm.ec - e))

def setBucket (s : State) (l q n : Nat) : State :=
  { s with net := { s.net with buckets := tset s.net.buckets (bucketKey l q) (n, s.tm.ec) } }

/-- The test of a packet at a link's ingress: the state, and whether it proceeds. -/
def police (s : State) (l : Nat) (p : Packet) : State × Bool :=
  let q := queueNo s p
  if p.vl == 8 || !on s K.trafficEnable || gv s (K.policeRateMbs (q / 8) (q % 8)) == 0 then (s, true)
  else
    let n := bucketNow s l q
    let c := charge s l p * 3300
    if c ≤ n then (setBucket s l q (n - c), true)
    else (bump (bump (bump s (K.policeDropped (q / 8) (q % 8)) 1) (K.linkPoliceDrops l) 1) K.policeDropsTotal 1, false)

/-- Settle the buckets whose rate or depth changes at phase 0 (R347), before the new values govern. -/
def settleBuckets (s : State) : State :=
  let qs := (upFrom 0 64).filter (fun q => (tget? s.dq.gov (K.policeRateMbs (q / 8) (q % 8))).isSome
    || (tget? s.dq.gov (K.policeBurstKib (q / 8) (q % 8))).isSome)
  qs.foldl (fun t q => (upFrom 0 36).foldl (fun u l =>
    setBucket u l q (min (bucketNow u l q) (rd u (K.policeBurstKib (q / 8) (q % 8)) * 1024 * 3300))) t) s

/-! ## Tags (R349, R350) -/

/-- The head packet of a queue. -/
def headOf (x : Egress) (q : Nat) : Option QPkt := x.q.find? (fun p => p.queue == q)

/-- Whether a class has a packet. -/
def classBusy (x : Egress) (c : Nat) : Bool := x.q.any (fun p => p.queue / 8 == c)

/-- The tag of a head with start tag st. -/
def tagFor (s : State) (l q st : Nat) (p : Packet) : GTag :=
  let n := charge s l p
  { s := st, f := st + ceilDiv (n * 1024) (max 1 (gv s (K.groupWeight (q / 8) (q % 8)))), l := n }

/-- Give tags to a queue, and its class, that becomes non-empty with packet p. -/
def wake (s : State) (l q : Nat) (p : Packet) (x : Egress) : Egress :=
  let c := q / 8
  let band := gv s (K.classBand c)
  let x := if (tget? x.gtags q).isSome then x
    else { x with gtags := tset x.gtags q (tagFor s l q (max (tget x.gv c 0) (tget x.gf q 0)) p) }
  if (tget? x.ctags c).isSome then x
  else { x with ctags := tset x.ctags c (max (tget x.cv band 0) (tget x.cf c 0), gv s (K.classWeight c)) }

/-- Tag the heads of all non-empty queues. -/
def wakeAll (s : State) (l : Nat) (x : Egress) : Egress :=
  (upFrom 0 64).foldl (fun a q => match headOf a q with | some h => wake s l q h.pkt a | none => a) x

/-! ## Enqueue (R334, R342) -/

/-- Frame bytes of a lane's queue. -/
def laneBytes (x : Egress) (vl : Nat) : Nat := sumNat ((x.q.filter (fun p => p.pkt.vl == vl)).map (fun p => frameBytes p.pkt))

/-- Frame bytes of the 64 queues. -/
def dataBytes (x : Egress) : Nat := sumNat ((x.q.filter (fun p => p.pkt.vl != 8)).map (fun p => frameBytes p.pkt))

/-- Put a packet in a link's egress, or drop it. -/
def enqueuePkt (s : State) (l : Nat) (p : Packet) : State :=
  let x := egressOf s l
  let n := frameBytes p
  if p.vl != 8 && (decide (2097152 < dataBytes x + n) || decide (rd s K.egressClassLimitKib * 1024 < laneBytes x p.vl + n)) then
    bump (bump s (K.linkOverflowDrops l) 1) K.egressOverflowDrops 1
  else
    let mark := decide (rd s K.ceThresholdKib * 1024 < laneBytes x p.vl)
    let s := if mark then bump s (K.ceMarked l) 1 else s
    let p := if mark then { p with ce := true } else p
    let q := queueNo s p
    let x := if q < 64 && on s K.trafficEnable then wake s l q p x else x
    putEgress s l { x with q := x.q ++ [{ pkt := p, queue := q, at_ := s.tm.ec }] }

/-! ## The choice (R348 to R351) -/

/-- Heads that a choice sees: queues whose head was enqueued before this ec. -/
def seen (s : State) (x : Egress) (q : Nat) : Option QPkt := (headOf x q).filter (fun p => decide (p.at_ < s.tm.ec))

/-- The queue with the smallest key; the first of equal ones. -/
def least (l : List (Nat × Nat)) : Option Nat :=
  (l.foldl (fun (a : Option (Nat × Nat)) x => match a with | none => some x | some y => if x.1 < y.1 then some x else some y) none).map Prod.snd

/-- The group queue that a class would choose. -/
def groupChoice (s : State) (x : Egress) (c : Nat) : Option Nat :=
  least (((upFrom (8 * c) 8).filter (fun q => (seen s x q).isSome)).map (fun q => (((tget? x.gtags q).map GTag.f).getD 0, q)))

/-- The finish tag of a class. -/
def classF (x : Egress) (c q : Nat) : Nat :=
  let (st, w) := tget x.ctags c (0, 1)
  st + ceilDiv (((tget? x.gtags q).map GTag.l).getD 0 * 1024) (max 1 w)

/-- The choice by bands and virtual time: a queue. -/
def tagChoice (s : State) (x : Egress) : Option Nat :=
  let cs := (upFrom 0 8).filterMap (fun c => (groupChoice s x c).map (fun q => (c, q)))
  let band := (cs.map (fun p => gv s (K.classBand p.1))).foldl (fun (a : Option Nat) b => some (match a with | none => b | some y => min y b)) none
  match band with
  | none => none
  | some b => (least ((cs.filter (fun p => gv s (K.classBand p.1) == b)).map (fun p => (classF x p.1 p.2, p.1)))).bind (groupChoice s x)

/-- The choice while traffic_enable reads 0: round over the queues. -/
def roundChoice (s : State) (x : Egress) : Option Nat :=
  (upFrom 0 64).findSome? (fun i => let q := (x.rr + i) % 64; if (seen s x q).isSome then some q else none)

/-- Take the head of a queue off. -/
def popQ : List QPkt → Nat → List QPkt
  | [], _ => []
  | p :: r, q => if p.queue == q then r else p :: popQ r q

/-- The tags after a queue has been chosen. -/
def afterChoice (s : State) (l q : Nat) (x : Egress) : Egress :=
  let c := q / 8
  let f := ((tget? x.gtags q).map GTag.f).getD 0
  let cf := classF x c q
  let x := { x with q := popQ x.q q, gv := tset x.gv c f, gf := tset x.gf q f, cv := tset x.cv (gv s (K.classBand c)) cf,
                    cf := tset x.cf c cf, gtags := terase x.gtags q, ctags := terase x.ctags c }
  let x := match headOf x q with
    | some h => { x with gtags := tset x.gtags q (tagFor s l q f h.pkt) }
    | none => x
  if classBusy x c then { x with ctags := tset x.ctags c (cf, gv s (K.classWeight c)) } else x

/-- Flits of a link's time in 10 us, thousandths: one flit takes 1.28 × 8 / w ns. -/
def linkFlits (w : Nat) : Nat := 10000 * 1000 * w * 100 / (128 * 8)

/-- Whether lane 0x8 is within its share. -/
def mgmtFits (s : State) (l : Nat) (x : Egress) (p : Packet) : Bool :=
  let sent := sumNat ((x.mgmtSent.filter (fun m => decide (s.tm.ec < m.1 + 33000))).map Prod.snd)
  decide ((sent + p.flits) * 1000000 ≤ rd s K.mgmtSharePermille * linkFlits (rd s (K.linkWidthNow l)))

/-- The source number of the node's packets (R457). -/
def ownSrc (s : State) : Nat := if myNode s == 0xFFFF then 0xFFFE else myNode s

/-- The set that a message carries has left the node, or never will: its merge context is released (R219). -/
def setLeft (s : State) (m : SMsg) : State :=
  match m.ctx with
  | none => s
  | some w => { s with ctxs := s.ctxs.filter (fun c => !(c.closed && c.work == w)) }

/-- Note that a packet of this node has been sent (R333); a set leaves with its last packet. -/
def markSent (s : State) (p : Packet) : State :=
  if p.src != ownSrc s || p.kind == 8 || p.kind == 9 then s
  else
    let mine (m : SMsg) : Bool := m.dst == p.dst && m.vl == p.vl && m.id == p.msgId
    let s := { s with net := { s.net with sends := s.net.sends.map (fun m =>
      if mine m
      then { m with pkts := setNth m.pkts (p.offset / 960) { nth m.pkts (p.offset / 960) ⟨none, 0, false, false, false⟩ with sentAt := some s.tm.ec } }
      else m) } }
    (s.net.sends.filter (fun m => mine m && m.pkts.all (fun k => k.sentAt.isSome || k.acked))).foldl setLeft s

/-- Send a packet on a link. -/
def sendPkt (s : State) (l : Nat) (p : Packet) : State :=
  let x := egressOf s l
  let w := max 1 (rd s (K.linkWidthNow l))
  let s := putEgress s l { x with freeAt := max x.freeAt (s.tm.ec * 1000) + p.flits * 33792 / w }
  markSent (emit s (.packet l (packetFlits p))) p

/-- EGRESS_SELECT's choice and sending on a link in state up. No packet of lanes 0x0 to 0x7 begins on a link of a slice that is out
of service (R14, R336). -/
def selectOn (s : State) (l : Nat) : State :=
  let x := egressOf s l
  if rd s (K.linkState l) != 2 || decide (s.tm.ec * 1000 < x.freeAt) then s
  else
    match (seen s x 64).filter (fun h => mgmtFits s l x h.pkt) with
    | some h =>
      let sent := x.mgmtSent.filter (fun m => decide (s.tm.ec < m.1 + 33000))
      sendPkt (putEgress s l { x with q := popQ x.q 64, mgmtSent := sent ++ [(s.tm.ec, h.pkt.flits)] }) l h.pkt
    | none =>
      if !laneLink s 0 l then s else
      match if on s K.trafficEnable then tagChoice s x else roundChoice s x with
      | none => s
      | some q =>
        match headOf x q with
        | none => s
        | some h =>
          let s := bump s (K.chargedBytes (q / 8) (q % 8)) (charge s l h.pkt)
          let x := if on s K.trafficEnable then afterChoice s l q x else { x with q := popQ x.q q, rr := (q + 1) % 64 }
          sendPkt (putEgress s l x) l h.pkt

/-! ## The enable (R353) -/

/-- Objects of the check, per class. -/
def classKeys : List Nat := (upFrom 0 8).flatMap (fun c => [K.classBand c, K.classWeight c]
  ++ (upFrom 0 8).flatMap (fun g => [K.groupWeight c g, K.policeRateMbs c g, K.policeBurstKib c g]))

/-- A nibble with bit 3 set. -/
def badGroups (v : Nat) : Bool := (upFrom 0 8).any (fun i => bitB v (4 * i + 3))

/-- Start of virtual time: full buckets, tags and V at 0. -/
def startTraffic (s : State) : State :=
  let s := { s with net := { s.net with buckets := [] } }
  (tkeys s.net.egress).foldl (fun t l =>
    let x := { egressOf t l with gtags := [], ctags := [], gv := [], cv := [], gf := [], cf := [] }
    putEgress t l (wakeAll t l x)) s

def enTraffic : Enable :=
  { key := K.trafficEnable,
    check := fun s => [needs s K.transportEnable, inSet s K.egressClassLimitKib]
      ++ (upFrom 0 32).map (fun k => failIf (badGroups (rd s (K.tenantGroups k))) 0x01 (K.tenantGroups k))
      ++ classKeys.map (fun k => inSet s k),
    covers := fun k => k / 256 == 0x6301 || (decide (0x6310 ≤ k / 256) && decide (k / 256 < 0x6318)),
    start := startTraffic }

/-- TRAFFIC_ENABLE. -/
def execTrafficEnable (w : WReq) (v : Byte) (s : State) : Outc := enableRow enTraffic w v s

end Sys2Proof.Machine
end

