-- ==== Sys2Proof/Machine/Transport.lean ====
section
/-! DEFINITION. The transport (R318 to R336): messages and their packets, the sender's side with its rate and resends, access
keys, reassembly, ACK and NAK entries, receive buffers, and regions. -/

namespace Sys2Proof.Machine

def setNet (s : State) (n : NetSt) : State := { s with net := n }

/-! ## Message bodies (R40, R144, R224, R321) -/

/-- The management header of a type. -/
def mgmtHead (t : Nat) : List Byte := toBytes 8 (t * 2 ^ 56)

/-- The bytes of a set. -/
def setBytes (m : RecSet) (heads : Nat) (bf16 : Bool) : List Byte :=
  toBytes 32 (packBits [(32, m.ticketId), (48, 0), (16, m.treeId), (16, m.epoch), (16, m.sender), (16, m.rows), (16, m.gaps.length),
    (8, m.status), (1, b2n m.late), (24, m.weights.length), (32, m.weightDropped), (31, 0)])
  ++ (m.recs.zip (upFrom 0 m.recs.length)).flatMap (fun p =>
      recBytes p.1 bf16 false (p.2 / max 1 heads) (p.2 % max 1 heads) m.treeId m.ticketId)
  ++ m.gaps.flatMap gapBytes
  ++ m.weights.flatMap (fun w => toBytes 4 w.sheet ++ toBytes 4 0 ++ w.vals.flatMap (toBytes 4))

/-- The management type of a body; 0x00 and 0x0C to 0x0F are the model's own. -/
def bodyType : Body → Nat
  | .uzoene _ => 0x01 | .stepAnnounce _ => 0x02 | .stall _ => 0x03 | .span _ => 0x04 | .deputyState _ => 0x05
  | .probe _ => 0x06 | .probeReply _ => 0x07 | .event _ => 0x08 | .poolReq _ => 0x10 | .poolGrant _ => 0x11
  | .poolRenew _ => 0x12 | .poolRelease _ _ => 0x13 | .poolRevoke _ _ => 0x14 | .shareReq _ => 0x15 | .shareReply _ => 0x16
  | .versionRelease _ _ _ => 0x17 | .mapUpdate _ => 0x18 | .handoffOrder _ => 0x19 | .handoffReady _ => 0x1A
  | .healthReport _ _ => 0x20 | .standInOrder _ => 0x21 | .journalMirror _ _ => 0x22 | .journalAck _ _ => 0x23
  | .handoffRevert _ => 0x24 | .journalFetch _ => 0x25 | .lostRanges _ => 0x26 | .lostRangeClear _ _ => 0x27
  | .joinRequest _ => 0x40 | .joinReply _ => 0x41 | .sliceReport _ _ => 0x42
  | .preemptAck _ _ _ => 0x0E | .resumeAck _ _ _ => 0x0F
  | .deputyNow _ => 0x0D | .journalTail _ _ => 0x0C
  | .completion _ _ => 0x00 | .bytes _ _ => 0x00 | .ticket _ => 0x00 | .set _ _ _ => 0x00

/-- Kind and bytes of a body; a layout that is not exposed is a free value. -/
def encodeBody (s : State) (b : Body) : State × Nat × List Byte :=
  match b with
  | .bytes k d => (s, k, d)
  | .ticket w => (s, 5, w)
  | .set m h bf => (s, 6, setBytes m h bf)
  | .uzoene p => (s, 7, mgmtHead 1 ++ pduWire p)
  | .stepAnnounce a =>
    (s, 7, mgmtHead 2 ++ toBytes 8 a.step ++ toBytes 8 a.start ++ toBytes 4 a.leadTerm ++ toBytes 2 a.epoch ++ toBytes 2 0)
  | .stall n => (s, 7, mgmtHead 3 ++ toBytes 8 n)
  | .span n => (s, 7, mgmtHead 4 ++ toBytes 4 n ++ toBytes 4 0)
  | .probe n => (s, 7, mgmtHead 6 ++ toBytes 8 n)
  | .probeReply n => (s, 7, mgmtHead 7 ++ toBytes 8 n)
  | .event e => (s, 7, mgmtHead 8 ++ toBytes 32 e)
  | .deputyNow v => (s, 7, mgmtHead 0x0D ++ toBytes 8 (b2n v))
  | .completion r d => (s, 7, mgmtHead 0 ++ toBytes 32 r ++ d)
  | b => let (i, s) := fresh s; (s, 7, mgmtHead (bodyType b) ++ Config.bodyBytes i)

/-- The parts of a forwarded whole (R144): header, then at most 16,777,200 bytes. -/
def partsOf (whole : List Byte) : List (List Byte) :=
  (upFrom 0 (max 1 (ceilDiv whole.length 16777200))).map (fun i =>
    toBytes 8 whole.length ++ toBytes 8 (i * 16777200) ++ (whole.drop (i * 16777200)).take 16777200)

/-! ## The sender (R325, R333, R335) -/

def connKey (n vl : Nat) : Nat := n * 16 + vl

/-- Messages of a connection that are not complete. -/
def openSends (s : State) (dst vl : Nat) : Nat := (s.net.sends.filter (fun m => m.dst == dst && m.vl == vl)).length

/-- Packets of a message. -/
def packetsOf (len : Nat) : Nat := max 1 (ceilDiv len 960)

/-- Number a message and put it among those being sent. -/
def newMsg (s : State) (dst vl kind key off : Nat) (data : List Byte) (ticket : Nat) (ctx : Option Nat) : State :=
  let k := connKey dst vl
  let id := tget s.net.nextMsg k 0
  let m : SMsg := { dst := dst, vl := vl, id := id, kind := kind, key := key, off := off, data := data, nakAt := none, quota := false,
                    pkts := List.replicate (packetsOf data.length) ⟨none, 0, false, true, false⟩, ticket := ticket, ctx := ctx }
  setNet s { s.net with nextMsg := tset s.net.nextMsg k ((id + 1) % 65536), sends := s.net.sends ++ [m] }

/-- One packet of a message. -/
def packetOf (s : State) (m : SMsg) (i : Nat) : Packet :=
  let d := (m.data.drop (960 * i)).take 960
  { dst := m.dst, src := ownSrc s, vl := m.vl, kind := m.kind, msgId := m.id, lengthM1 := m.data.length - 1, offset := 960 * i,
    key := m.key, remoteOffset := m.off, ce := false, hopsLeft := 32, flits := flitsFor d.length, intact := true, payload := d }

/-- Take a message off those being sent. -/
def dropMsg (s : State) (dst vl id : Nat) : State :=
  let s := (s.net.sends.filter (fun m => m.dst == dst && m.vl == vl && m.id == id)).foldl setLeft s
  setNet s { s.net with sends := s.net.sends.filter (fun m => !(m.dst == dst && m.vl == vl && m.id == id)) }

def putMsg (s : State) (m : SMsg) : State :=
  setNet s { s.net with sends := s.net.sends.map (fun x => if x.dst == m.dst && x.vl == m.vl && x.id == m.id then m else x) }

def findMsg (s : State) (dst vl id : Nat) : Option SMsg := s.net.sends.find? (fun m => m.dst == dst && m.vl == vl && m.id == id)

/-- The port die that routes a message of the node (R253). -/
def ownDie (dst vl id : Nat) : Nat := Config.ownDie dst vl id % 4

/-- A message that finds no route is discarded (R253 step 4). -/
def routeMiss (s : State) (die dst vl : Nat) : State :=
  event (bump s K.routeMisses 1) 0x60 6 die 1 (packBits [(16, dst), (8, vl)])

def rateOf (s : State) (dst : Nat) : Rate := tget s.net.rates dst Rate.reset
def putRate (s : State) (dst : Nat) (r : Rate) : State := setNet s { s.net with rates := tset s.net.rates dst r }

/-- The rate in MB/s toward a destination. -/
def rateNow (s : State) (r : Rate) : Nat := if r.rate == 0 then rd s K.ccMaxMbs else r.rate

/-- A broadcast's packet on every link in state up but the one it came in on (R322). -/
def sendCast (s : State) (src id hops : Nat) (inLink : Option Nat) (data : List Byte) : State :=
  let p : Packet := { dst := 0xFFFF, src := src, vl := 8, kind := 7, msgId := id, lengthM1 := data.length - 1, offset := 0, key := 0,
                      remoteOffset := 0, ce := false, hopsLeft := hops, flits := flitsFor data.length, intact := true,
                      payload := data }
  ((upLinks s).filter (fun l => some l != inLink)).foldl (fun t l => enqueuePkt t l p) s

/-- Whether an ID is later than another by serial arithmetic over 16 bits. -/
def later16 (a b : Nat) : Bool := a != b && decide ((a + 65536 - b) % 65536 < 32768)

/-- Whether a broadcast of a source is new; it is then noted (R322). -/
def castNew (s : State) (src id : Nat) : Option State :=
  match tget? s.herd.bseen src with
  | none => some { s with herd := { s.herd with bseen := tset s.herd.bseen src (id, [id]) } }
  | some (h, l) =>
    if later16 id h then
      some { s with herd := { s.herd with bseen := tset s.herd.bseen src (id, (l.filter (fun x => decide ((id + 65536 - x) % 65536 ≤ 1023))) ++ [id]) } }
    else if 1023 < (h + 65536 - id) % 65536 || has l id then none
    else some { s with herd := { s.herd with bseen := tset s.herd.bseen src (h, l ++ [id]) } }

/-! ## The end of a message at its sender -/

/-- The ticket whose part could not be sent ends with the failure's status (R144 item 4); a query does not. -/
def failTicket (s : State) (raw st : Nat) : State :=
  let same (t : Tk) : Bool := tkId t.raw == tkId raw && tkTenant t.raw == tkTenant raw && tkType t.raw == tkType raw
  if raw == 0 || tkType raw == 1 then s
  else
    match s.att.fwd.find? same with
    | some tk => complete { s with att := { s.att with fwd := s.att.fwd.filter (fun t => t.id != tk.id) } } tk st 0 0
    | none =>
      match s.kv.moveTks.find? (fun m => same m.tk), s.kv.preTks.find? (fun m => same m.tk) with
      | some m, _ => complete { s with kv := { s.kv with moveTks := s.kv.moveTks.filter (fun x => x.tk.id != m.tk.id) } } m.tk st 0 0
      | none, some m => complete { s with kv := { s.kv with preTks := s.kv.preTks.filter (fun x => x.tk.id != m.tk.id) } } m.tk st 0 0
      | none, none => s

/-- A message fails. -/
def failMsg (s : State) (m : SMsg) (st : Nat) : State := failTicket (dropMsg s m.dst m.vl m.id) m.ticket st

/-- A message fails because its peer does not answer (R333 step 3). -/
def unreachable (s : State) (m : SMsg) : State :=
  let s := event s 0x60 7 nodeSlice 2 (packBits [(16, m.dst), (8, m.vl), (16, m.id)])
  failMsg s m (if m.quota then St.quota else St.internalError)

/-- An ACK entry at the sender (R332, R333). -/
def takeAck (s : State) (src vl : Nat) (e : AckEntry) : State :=
  let s := if e.ceEcho && vl != 8 then putRate s src { rateOf s src with echo := true } else s
  match findMsg s src vl e.msgId with
  | none => s
  | some m =>
    if e.complete then bump (dropMsg s src vl e.msgId) K.messagesSent 1
    else
      let got (i : Nat) : Bool := i / 32 == e.base && bitB e.bitmap (i % 32)
      putMsg s { m with pkts := m.pkts.mapIdx (fun i k => if got i then { k with acked := true, waits := false } else k) }

/-- A NAK entry at the sender (R333). -/
def takeNak (s : State) (src vl msgId st : Nat) : State :=
  match findMsg s src vl msgId with
  | none => s
  | some m =>
    if st == St.quota then
      putMsg s { m with nakAt := some s.tm.ec, quota := true, pkts := m.pkts.map (fun k => { k with waits := false, sentAt := none }) }
    else failMsg s m st

/-- An entry of R332 at the sender. -/
def takeEntry (s : State) (src vl kind w : Nat) : State :=
  if kind == 8 then
    takeAck s src vl { msgId := bits w 48 16, complete := bitB w 47, ceEcho := bitB w 46, base := bits w 36 10, bitmap := bits w 0 32 }
  else takeNak s src vl (bits w 48 16) (bits w 40 8)

/-- Whether a lane's entries are taken. -/
def laneOn (s : State) (vl : Nat) : Bool := vl == 8 || (decide (vl < 8) && on s K.transportEnable)

/-- ACK. -/
def execAck (src vl : Nat) (e : AckEntry) (s : State) : Outc := .next (if laneOn s vl then takeAck s src vl e else s)

/-- NAK. -/
def execNak (src vl msgId status : Nat) (s : State) : Outc := .next (if laneOn s vl then takeNak s src vl msgId status else s)

/-- RETRANSMIT_TIMEOUT (R333 steps 2 and 3). -/
def execRetransmitTimeout (dst vl msgId packet : Nat) (s : State) : Outc :=
  match findMsg s dst vl msgId with
  | none => .next s
  | some m =>
    let k := nth m.pkts packet ⟨none, 0, true, false, false⟩
    match k.sentAt with
    | none => .next s
    | some e =>
      if k.acked || k.waits || m.nakAt.isSome || !passed s e (rd s K.rtoNs) then .next s
      else if rd s K.retryLimit ≤ k.tries then .next (unreachable s m)
      else
        let m := { m with pkts := setNth m.pkts packet { k with sentAt := none, tries := k.tries + 1, waits := true } }
        .next (bump (putMsg s m) K.packetsRetransmitted 1)

/-- RNR_DELAY_EXPIRE (R333 step 4). -/
def execRnrDelayExpire (dst vl msgId : Nat) (s : State) : Outc :=
  match findMsg s dst vl msgId with
  | none => .next s
  | some m =>
    match m.nakAt with
    | none => .next s
    | some e =>
      if !passed s e (rd s K.rnrDelayNs) then .next s
      else if m.pkts.any (fun k => decide (rd s K.retryLimit ≤ k.tries)) then .next (unreachable s m)
      else
        let m := { m with nakAt := none, pkts := m.pkts.map (fun k => { k with tries := k.tries + 1, waits := true, free := true, acked := false }) }
        .next (bump (putMsg s m) K.packetsRetransmitted m.pkts.length)

/-- CC_INTERVAL (R335). -/
def execCcInterval (dst : Nat) (s : State) : Outc :=
  let r := rateOf s dst
  if !passed s r.adjustedAt (rd s K.ccIntervalNs) then .next s
  else
    let n := rateNow s r
    let n := if r.echo then max (rd s K.ccMinMbs) (n - n / 2 ^ rd s K.ccDecreaseShift) else min (rd s K.ccMaxMbs) (n + rd s K.ccIncreaseMbs)
    .next (putRate s dst { r with rate := n, echo := false, adjustedAt := s.tm.ec })

/-! ## The receiver's window (R326) -/

def rconn (s : State) (src vl : Nat) : Option RConn := tget? s.net.conns (connKey src vl)

/-- The outcome of an ID: none where it is absent or open. An ID before the window counts as complete. -/
def outcomeOf (s : State) (src vl id : Nat) : Option Nat :=
  match rconn s src vl with
  | none => none
  | some c => if later16 id c.high then none else if 1023 < (c.high + 65536 - id) % 65536 then some 0 else tget? c.done id

/-- An ID has arrived: H moves to a later one. -/
def noteId (s : State) (src vl id : Nat) : State :=
  let c := (rconn s src vl).getD { high := id, done := [] }
  let h := if later16 id c.high then id else c.high
  let c : RConn := { high := h, done := c.done.filter (fun p => decide ((h + 65536 - p.1) % 65536 ≤ 1023)) }
  setNet s { s.net with conns := tset s.net.conns (connKey src vl) c }

/-- Record the outcome of an ID. -/
def recordId (s : State) (src vl id st : Nat) : State :=
  let s := noteId s src vl id
  setNet s { s.net with conns := tmod s.net.conns (connKey src vl) (fun c => { c with done := tset c.done id st }) }

/-! ## Entries that the receiver sends (R332) -/

/-- Send one entry; one for the node itself takes no link (R253). -/
def sendEntry (s : State) (dst vl kind word : Nat) : State :=
  if dst == myNode s then takeEntry s dst vl kind word else
  let p : Packet := { dst := dst, src := ownSrc s, vl := vl, kind := kind, msgId := 0, lengthM1 := 7, offset := 0, key := 0,
                      remoteOffset := 0, ce := false, hopsLeft := 32, flits := 1, intact := true, payload := toBytes 8 word }
  let s := bump s K.routeLookups 1
  match routeLink s (ownDie dst vl 0) 0 dst vl p.src 0 with
  | some l => enqueuePkt s l p
  | none => routeMiss s (ownDie dst vl 0) dst vl

def ackWord (e : AckEntry) : Nat :=
  packBits [(32, e.bitmap), (4, 0), (10, e.base), (1, b2n e.ceEcho), (1, b2n e.complete), (16, e.msgId)]

/-- The entry of a complete message of n packets. -/
def completeWord (id n : Nat) (ce : Bool) : Nat :=
  let b := (n - 1) / 32
  ackWord { msgId := id, complete := true, ceEcho := ce, base := b, bitmap := 2 ^ (n - 32 * b) - 1 }

def sendNak (s : State) (dst vl id st : Nat) : State :=
  sendEntry (if st == St.quota then bump s K.noBufferNaks 1 else s) dst vl 9 (packBits [(40, 0), (8, st), (16, id)])

/-- Answer a packet of an ID whose outcome is known. -/
def sendOutcome (s : State) (p : Packet) (st : Nat) : State :=
  if st == 0 then sendEntry s p.src p.vl 8 (completeWord p.msgId (packetsOf (p.lengthM1 + 1)) p.ce) else sendNak s p.src p.vl p.msgId st

/-! ## Access keys (R324) -/

def regionAt (s : State) (i : Nat) : Region := tget s.net.regions i Region.reset
def putRegion (s : State) (i : Nat) (r : Region) : State := setNet s { s.net with regions := tset s.net.regions i r }

def keyIndex (k : Nat) : Nat := k / 64 % 2 ^ 18

/-- The end of the access that a packet asks for. -/
def accessEnd (p : Packet) : Nat :=
  if p.kind == 3 then let w := ofBytes p.payload; bits w 216 40 + bits w 192 24 + 1 else p.remoteOffset + p.lengthM1 + 1

/-- The first check that a packet's key fails; 0 for none. -/
def keyCheck (s : State) (p : Packet) : Nat :=
  let i := keyIndex p.key
  let r := regionAt s i
  let t := p.key / 2 ^ 24
  let need := if p.kind == 1 then 2 else if p.kind == 3 then 0 else 1
  if p.kind == 6 || p.kind == 7 then 0
  else if p.kind == 5 then
    if i != 0 || p.key % 64 != 0 then 0x10 else if !on s (K.tenantEnable t) then St.tenant else 0
  else if i == 0 || !r.valid || r.gen != p.key % 64 then 0x10
  else if t != r.tenant || !on s (K.tenantEnable t) then St.tenant
  else if r.kind != (if p.kind == 1 then 2 else 1) then 0x10
  else if !bitB r.rights need then St.rights
  else if r.len < accessEnd p then St.bounds
  else 0

/-- KEY_REFUSED, at most one per source per ms. -/
def sayRefused (s : State) (p : Packet) (st : Nat) : State :=
  let s := bump s K.keyRefusals 1
  match tget? s.net.refusedAt p.src with
  | some e => if passed s e 1000000 then
      event (setNet s { s.net with refusedAt := tset s.net.refusedAt p.src s.tm.ec }) 0x60 9 nodeSlice 1 (packBits [(16, p.src), (32, p.key), (8, st)])
    else s
  | none => event (setNet s { s.net with refusedAt := tset s.net.refusedAt p.src s.tm.ec }) 0x60 9 nodeSlice 1
      (packBits [(16, p.src), (32, p.key), (8, st)])

/-! ## Reassembly (R327 to R330) -/

def findRctx (s : State) (src vl id : Nat) : Option RCtx := s.net.rctxs.find? (fun c => c.src == src && c.vl == vl && c.id == id)

def dropRctx (s : State) (c : RCtx) : State :=
  let s := setNet s { s.net with rctxs := s.net.rctxs.filter (fun x => !(x.src == c.src && x.vl == c.vl && x.id == c.id)) }
  if c.kind == 1 then s else { s with holds := s.holds.filter (fun h => !(h.kind == .pools && h.id == c.buf)) }

def putRctx (s : State) (c : RCtx) : State :=
  setNet s { s.net with rctxs := s.net.rctxs.map (fun x => if x.src == c.src && x.vl == c.vl && x.id == c.id then c else x) }

/-- Write a consumed descriptor (R329, R330). -/
def writeDesc (s : State) (c : RCtx) (st : Nat) : State :=
  let w := ofBytes (Mem.read s.mem.cells c.buf 32)
  let keep := w - bits w 80 32 * 2 ^ 80 - bits w 127 33 * 2 ^ 127
  nodeWrite s c.buf (toBytes 32 (keep + c.id % 65536 * 2 ^ 80 + c.src % 65536 * 2 ^ 96 + 2 ^ 127 + st % 256 * 2 ^ 128 + c.count % 2 ^ 24 * 2 ^ 136))

/-- Space for a message in the pools (R328, R488). -/
def poolRoom (s : State) (n : Nat) : Bool := (inService s).isEmpty || spreadRoom s n

/-- Room that the first packet of a message needs: that of its message, and for the first part of a forwarded whole that of the
whole (R144), as the part header at its start gives it. -/
def roomOf (s : State) (p : Packet) : Nat :=
  let n := p.lengthM1 + 1
  let known (g : Gather) : Bool := g.src == p.src && g.vl == p.vl && g.key == p.key && g.base == partBase p.msgId (ofBytes ((p.payload.drop 8).take 8))
  if p.kind == 5 && p.offset == 0 && !s.att.gathers.any known then n + ofBytes (p.payload.take 8) else n

/-- What the first packet of a message finds: a status to refuse it with and whether that is recorded, or its context. -/
inductive Opened where
  | nak (st : Nat) (recorded : Bool)
  | full
  | ctx (s : State) (c : RCtx)

/-- Open a context. -/
def openRctx (s : State) (p : Packet) : Opened :=
  let n := p.lengthM1 + 1
  let c : RCtx := { src := p.src, vl := p.vl, id := p.msgId, kind := p.kind, key := p.key, off := p.remoteOffset, len := n, map := [],
                    unacked := [], count := 0, parts := [], openedAt := s.tm.ec, ackFrom := s.tm.ec, ce := false, buf := 0, bufAddr := 0 }
  if 16384 ≤ s.net.rctxs.length then .full
  else if p.kind == 1 then
    let i := keyIndex p.key
    let r := regionAt s i
    let d := r.ringBase + 32 * r.head
    let (s, b, _) := nodeRead s d 32
    let w := ofBytes b
    let addr := bits w 192 64
    if bits w 160 8 != r.lap || bitB w 127 then .nak St.quota false
    else if decide (bits w 168 24 < n) || decide (addr < r.base) || decide (r.base + r.len < addr + bits w 168 24) then .nak St.bounds true
    else
      let wraps := decide (r.ringEntries ≤ r.head + 1)
      let r' := { r with head := if wraps then 0 else r.head + 1, lap := if wraps then (if r.lap == 255 then 1 else r.lap + 1) else r.lap }
      .ctx (putRegion s i r') { c with buf := d, bufAddr := addr }
  else if has [5, 6, 7] p.kind && !poolRoom s (roomOf s p) then .nak St.quota false
  else
    let (i, s) := newId s
    .ctx (if has [5, 6, 7] p.kind then takeSpread s .pools i n else s) { c with buf := i }

/-- Write a packet's payload where its message goes. -/
def storePayload (s : State) (c : RCtx) (p : Packet) : State × RCtx :=
  match p.kind with
  | 1 => (nodeWrite s (c.bufAddr + p.offset) p.payload, c)
  | 2 | 4 => (nodeWrite s ((regionAt s (keyIndex c.key)).base + c.off + p.offset) p.payload, c)
  | _ => (s, { c with parts := insPart (p.offset, p.payload) c.parts })

/-- Deliver a complete message (R327, R331). -/
def deliverMsg (s : State) (c : RCtx) : State :=
  let data := c.parts.flatMap Prod.snd
  let s := bump s K.messagesReceived 1
  match c.kind with
  | 1 => writeDesc s c 0
  | 2 | 4 => s
  | 3 =>
    let w := ofBytes data
    let (s, d, _) := nodeRead s ((regionAt s (keyIndex c.key)).base + bits w 216 40) (bits w 192 24 + 1)
    { s with outbox := s.outbox ++ [{ dst := c.src, vl := c.vl, key := bits w 160 32, off := bits w 120 40, body := .bytes 4 d, fwd := none }] }
  | k =>
    if k == 7 && (nth data 7 0).toNat == 0 then
      let r := ofBytes ((data.drop 8).take 32)
      (moveAnswer s c.src r).getD (takeCompletion s r (data.drop 40))
    else if k == 7 && (nth data 7 0).toNat == 0x0D then
      let v := (nth data 8 0).toNat == 1
      if v then (if s.herd.map.any (fun e => e.node == s.herd.deputy) then s else { s with herd := { s.herd with deputy := c.src } })
      else if s.herd.deputy == c.src then { s with herd := { s.herd with deputy := 0xFFFF } } else s
    else emit s (.deliver c.src c.vl k c.key c.id data)

/-- A packet of an open message (R326 steps 5 and 6). -/
def intoCtx (s : State) (c : RCtx) (p : Packet) : State :=
  let i := p.offset / 960
  if p.lengthM1 + 1 != c.len || p.kind != c.kind then bump s K.malformedPackets 1
  else if has c.map i then bump s K.duplicatesDiscarded 1
  else
    let (s, c) := storePayload s c p
    let c := { c with map := c.map ++ [i], ackFrom := if c.unacked.isEmpty then s.tm.ec else c.ackFrom, unacked := c.unacked ++ [i],
                      count := c.count + p.payload.length, ce := c.ce || p.ce }
    if c.count < c.len then putRctx s c
    else
      let s := recordId (dropRctx s c) c.src c.vl c.id 0
      deliverMsg (sendEntry s c.src c.vl 8 (completeWord c.id (packetsOf c.len) c.ce)) c

/-- Fail an open context. -/
def failRctx (s : State) (c : RCtx) (st : Nat) : State :=
  let s := recordId (dropRctx s c) c.src c.vl c.id st
  let s := if c.kind == 1 then writeDesc s c st else s
  sendNak s c.src c.vl c.id st

/-- A packet for this node that passed R317 and R318 (R326 steps 2 to 6). -/
def recvPkt (s : State) (p : Packet) : State :=
  match outcomeOf s p.src p.vl p.msgId with
  | some st => sendOutcome (bump s K.duplicatesDiscarded 1) p st
  | none =>
    let st := keyCheck s p
    if st != 0 then
      let s := sayRefused s p st
      match findRctx s p.src p.vl p.msgId with
      | some c => failRctx s c st
      | none => sendNak (recordId s p.src p.vl p.msgId st) p.src p.vl p.msgId st
    else
      match findRctx s p.src p.vl p.msgId with
      | some c => intoCtx s c p
      | none =>
        match openRctx s p with
        | .full => bump s K.reassemblyOverflows 1
        | .nak st rec => sendNak (if rec then recordId s p.src p.vl p.msgId st else s) p.src p.vl p.msgId st
        | .ctx s c => intoCtx (noteId (setNet s { s.net with rctxs := s.net.rctxs ++ [c] }) p.src p.vl p.msgId) c p

/-- The entries of a packet of kind ACK or NAK. -/
def recvEntries (s : State) (p : Packet) : State :=
  (upFrom 0 (p.payload.length / 8)).foldl (fun t i => takeEntry t p.src p.vl p.kind (ofBytes ((p.payload.drop (8 * i)).take 8))) s

/-! ## Handing out (R253, R333, R335) -/

/-- Hand one waiting packet to its link, where the rate admits it; one for the node itself goes to its receive path (R253). -/
def releasePkt (s : State) (dst vl id i : Nat) : State :=
  match findMsg s dst vl id with
  | none => s
  | some m =>
    let k := nth m.pkts i ⟨none, 0, true, false, false⟩
    let r := rateOf s dst
    let governed := vl != 8 && !k.free
    if !k.waits || (governed && decide (s.tm.ec * 1000 < r.readyAt)) then s
    else
      let p := packetOf s m i
      let sent (s : State) : State :=
        let s := putMsg s { m with pkts := setNth m.pkts i { k with waits := false, free := false } }
        if governed then
          putRate s dst { r with readyAt := max r.readyAt (s.tm.ec * 1000) + frameBytes p * 3300000 / max 1 (rateNow s r) }
        else s
      if dst == myNode s then recvPkt (markSent (sent s) p) p
      else
        let s := bump s K.routeLookups 1
        match routeLink s (ownDie dst vl id) (m.key / 2 ^ 24) dst vl p.src id with
        | none => routeMiss (dropMsg s dst vl id) (ownDie dst vl id) dst vl
        | some l => enqueuePkt (sent s) l p

/-- Hand the waiting packets of every message to their links. -/
def releaseAll (s : State) : State :=
  s.net.sends.foldl (fun t m => if m.nakAt.isSome then t else
    (upFrom 0 m.pkts.length).foldl (fun u i => releasePkt u m.dst m.vl m.id i) t) s

/-- Take one waiting post: none where it must wait. -/
def feedPost (s : State) (p : Post) : Option State :=
  if p.dst == 0xFFFF then
    let (s, _, d) := encodeBody s p.body
    match p.fwd with
    | some (src, id, hops, l) => some (if hops ≤ 1 then s else sendCast s src id (hops - 1) (some l) d)
    | none =>
      let s := (castNew s (ownSrc s) s.net.nextCast).getD s
      some (sendCast (setNet s { s.net with nextCast := (s.net.nextCast + 1) % 65536 }) (ownSrc s) s.net.nextCast 32 none d)
  else if (p.vl != 8 && !on s K.transportEnable) || decide (512 ≤ openSends s p.dst p.vl) then none
  else
    let (s, k, d) := encodeBody s p.body
    match p.body with
    | .ticket w =>
      let raw := ofBytes (w.take 128)
      some ((partsOf w).foldl (fun t q => newMsg t p.dst p.vl k (tkTenant raw * 2 ^ 24) 0 q raw none) s)
    | .set m _ _ =>
      some (newMsg s p.dst p.vl k p.key p.off d 0 ((s.ctxs.find? (fun c => c.closed && tkId c.tk.raw == m.ticketId && qTree c.tk.raw == m.treeId)).map Ctx.work))
    | _ => some (newMsg s p.dst p.vl k p.key p.off d 0 none)

/-- Take the posts that can go, in order, and hand out packets. -/
def feed (s : State) : State :=
  let s' := s.outbox.foldl (fun t p => match feedPost t p with
    | some u => u
    | none => { t with outbox := t.outbox ++ [p] }) { s with outbox := [] }
  releaseAll s'

/-- EGRESS_SELECT. -/
def execEgressSelect (link : Nat) (s : State) : Outc := if link < 36 then .next (selectOn (feed s) link) else .next s

/-! ## Timers of the receiver -/

/-- ACK_DELAY_EXPIRE (R332): one entry for each run of 32 packets with packets not acknowledged. -/
def execAckDelayExpire (src vl msgId : Nat) (s : State) : Outc :=
  match findRctx s src vl msgId with
  | none => .next s
  | some c =>
    if c.unacked.isEmpty || !passed s c.ackFrom (rd s K.ackDelayNs) then .next s
    else
      let bases := (c.unacked.map (fun i => i / 32)).eraseDups
      let s := bases.foldl (fun t b =>
        let m := sumNat ((c.map.filter (fun i => i / 32 == b)).map (fun i => 2 ^ (i % 32)))
        sendEntry t src vl 8 (ackWord { msgId := msgId, complete := false, ceEcho := c.ce, base := b, bitmap := m })) s
      .next (putRctx s { c with unacked := [], ce := false })

/-- Close a context as on timeout (R327). -/
def timeoutRctx (s : State) (c : RCtx) : State :=
  let s := event (bump s K.reassemblyTimeouts 1) 0x60 8 nodeSlice 1 (packBits [(16, c.src), (8, c.vl), (16, c.id)])
  failRctx s c St.internalError

/-- REASSEMBLY_TIMEOUT. -/
def execReassemblyTimeout (src vl msgId : Nat) (s : State) : Outc :=
  match findRctx s src vl msgId with
  | none => .next s
  | some c => if passed s c.openedAt (rd s K.reassemblyTimeoutNs) then .next (timeoutRctx s c) else .next s

/-- Drop the connection state with a node (R322, R325). -/
def dropConns (s : State) (n : Nat) : State :=
  let s := (s.net.rctxs.filter (fun c => c.src == n)).foldl dropRctx s
  let s := (s.net.sends.filter (fun m => m.dst == n)).foldl setLeft s
  let mine (k : Nat) : Bool := k / 16 == n
  { s with net := { s.net with nextMsg := s.net.nextMsg.filter (fun p => !mine p.1), conns := s.net.conns.filter (fun p => !mine p.1),
                               sends := s.net.sends.filter (fun m => m.dst != n), rates := terase s.net.rates n },
           herd := { s.herd with bseen := terase s.herd.bseen n } }

/-! ## Regions (R323) -/

/-- A region's record as the window shows it. -/
def regionWord (r : Region) : Nat :=
  packBits [(48, 0), (16, r.ringEntries), (64, r.ringBase), (1, b2n r.valid), (1, b2n r.valid), (6, r.gen), (4, r.rights), (4, r.kind),
    (8, r.tenant), (40, r.len), (64, r.base)]

/-- Show the selected region in the window. -/
def showRegion (s : State) : State := wr s K.regionEntry (regionWord (regionAt s (rd s K.regionSelect)))

/-- Rights of extents that region rights need: remote read needs read, remote write and send need write. -/
def rightsNeeded (r : Nat) : Nat := (if bitB r 0 then 1 else 0) + (if bitB r 1 || bitB r 2 then 2 else 0)

/-- The extent that holds a region, and its ring. -/
def regionExtent (s : State) (r : Region) : Option Extent :=
  match extentOf s r.base r.len with
  | none => none
  | some (e, x) =>
    if r.kind != 2 then some x
    else match extentOf s r.ringBase (32 * r.ringEntries) with
      | some (f, _) => if e == f then some x else none
      | none => none

/-- A record as REGISTER reads it. -/
def regionFrom (w : Nat) (old : Region) : Region :=
  { base := bits w 192 64, len := bits w 152 40, tenant := bits w 144 8, kind := bits w 140 4, rights := bits w 136 4, gen := old.gen,
    valid := true, ringBase := bits w 64 64, ringEntries := bits w 48 16, deregAt := none, head := 0, lap := 1 }

/-- The tests of REGISTER. -/
def registerFails (s : State) (i : Nat) (r old : Region) : List Fail :=
  let w := rd s K.regionEntry
  let x := regionExtent s r
  let shape := i == 0 || (r.kind != 1 && r.kind != 2) || decide (7 < r.rights) || r.base % 64 != 0 || r.len % 64 != 0 || r.len == 0
    || bits w 0 48 != 0 || (r.kind == 2 && (r.ringBase % 64 != 0 || decide (r.ringEntries < 16)))
  let held := match x with | some e => extentHeld e r.tenant | none => true
  let allowed := match x with | some e => extentRights e r.tenant &&& rightsNeeded r.rights == rightsNeeded r.rights | none => false
  let recent := match old.deregAt with | some e => !passed s e (rd s K.regionQuarantineNs) | none => false
  [needs s K.transportEnable, failIf (shape || x.isNone || (held && !allowed)) 0x01 K.regionOp,
   failIf (!on s (K.tenantEnable r.tenant) || !held) 0x08 K.regionOp, failIf (old.valid || recent) 0x04 K.regionOp]

/-- Deregister a region. -/
def deregRegion (s : State) (i : Nat) : State :=
  let r := regionAt s i
  if !r.valid then s
  else
    let s := putRegion s i { r with valid := false, gen := (r.gen + 1) % 64, deregAt := some s.tm.ec }
    if i == rd s K.regionSelect then showRegion s else s

/-- A write of region_op. -/
def hRegionOp : Handler := fun s _ p =>
  let i := rd s K.regionSelect
  match ofBytes p with
  | 1 =>
    let old := regionAt s i
    let r := regionFrom (rd s K.regionEntry) old
    match firstFail (registerFails s i r old) with
    | some (c, k) => (s, .refused c (k / 256) (k % 256))
    | none => (showRegion (putRegion s i r), .done)
  | 2 => (deregRegion s i, .done)
  | _ => (s, .refused 0x01 0x6200 0x12)

/-- REGISTER. -/
def execRegister (w : WReq) (s : State) : Outc := .next (rowWrite s w 0x6200 0x12 0 [1] hRegionOp)

/-- DEREGISTER. -/
def execDeregister (w : WReq) (s : State) : Outc := .next (rowWrite s w 0x6200 0x12 0 [2] hRegionOp)

/-! ## The enable (R340) -/

/-- Objects of the check of transport_enable. -/
def transportKeys : List Nat := upFrom K.rtoNs 11

/-- The effects of a write of 0. -/
def stopTransport (s : State) : State :=
  let s := (s.net.sends.filter (fun m => m.vl != 8)).foldl (fun t m => failMsg t m St.internalError) s
  (s.net.rctxs.filter (fun c => c.vl != 8)).foldl timeoutRctx s

def enTransport : Enable :=
  { key := K.transportEnable,
    check := fun s => [failIf (!(upFrom 0 36).any (fun l => on s (K.linkEnable l))) 0x06 (K.linkEnable 0),
      failIf (decide (rd s K.reassemblyTimeoutNs ≤ rd s K.rtoNs * (rd s K.retryLimit + 1))) 0x01 K.reassemblyTimeoutNs]
      ++ transportKeys.map (fun k => inSet s k),
    covers := fun k => has transportKeys k,
    users := fun s => onKeys s [K.herdEnable, K.trafficEnable, K.journalEnable],
    stop := stopTransport }

/-- TRANSPORT_ENABLE. -/
def execTransportEnable (w : WReq) (v : Byte) (s : State) : Outc := enableRow enTransport w v s

end Sys2Proof.Machine
end

