-- ==== Sys2Proof/Machine/Extents.lean ====
section
/-! DEFINITION. Host-visible extents, tenant leases, revocation (R354 to R359), shares and versions (R365 to R370), pool leases
(R360 to R364), and the end of clearing (R445). -/

namespace Sys2Proof.Machine

def extentAt (s : State) (i : Nat) : Option Extent := tget? s.comp.extents i
def putExtent (s : State) (i : Nat) (e : Extent) : State := { s with comp := { s.comp with extents := tset s.comp.extents i e } }

/-! ## The window (R354, R355) -/

/-- An extent's record as the window shows it; a draining or clearing state is read only. -/
def extentWord (e : Extent) : Nat :=
  packBits ((upFrom 0 8).map (fun k => (16, nth e.grants k 0)) ++ [(8, 0), (4, e.slice), (4, e.stack), (4, e.state), (4, e.kind),
    (8, e.owner), (32, e.blocks), (64, e.base)])

/-- The record of an index: zero where it is free. -/
def extentShown (s : State) (i : Nat) : Nat := match extentAt s i with | some e => extentWord e | none => 0

/-- Show the selected record. -/
def showExtent (s : State) : State := wr s K.extentEntry (extentShown s (rd s K.extentSelect))

/-- The grants of a record. -/
def exGrants (w : Nat) : List Nat := (upFrom 0 8).map (exGrant w)

/-- The record that CREATE reads. -/
def extentFrom (w : Nat) : Extent :=
  { base := exBase w, blocks := exBlocks w, owner := exOwner w, kind := exKind w, state := 1, stack := exStack w, slice := exSlice w,
    grants := exGrants w, drains := [], since := 0, clr := 0 }

/-- A grant with a bit that the layout leaves zero. -/
def badGrant (g : Nat) : Bool := bits g 4 4 != 0

/-- Bytes of the DPA space (R286). -/
def dpaBytes (s : State) : Nat := rd s K.hostVisibleGib * 2 ^ 30

/-- The run that an extent maps. -/
def extentRun (s : State) (i : Nat) (e : Extent) : Mapped :=
  { base := e.base, blocks := e.blocks, holder := .extent i, stackKind := e.stack, slice := e.slice,
    slices := inService s, unmapping := false }

/-- Whether two runs of bytes meet. -/
def meets (a n b m : Nat) : Bool := decide (a < b + m) && decide (b < a + n)

/-- Tenants of valid grants and the owner that have no enabled record. -/
def grantTenantBad (s : State) (owner : Nat) (l : List Nat) : Bool :=
  !on s (K.tenantEnable owner) || l.any (fun g => gValid g && !on s (K.tenantEnable (gTenant g)))

/-- The tests of CREATE. -/
def createFails (s : State) (i : Nat) (w : Nat) : List Fail :=
  let e := extentFrom w
  let n := e.blocks * blockBytes
  let g0 := exGrant w 0
  let run := extentRun s i e
  let shape := e.base % blockBytes != 0 || e.blocks == 0 || decide (4194304 < e.blocks) || e.kind != 1 || decide (1 < e.stack)
    || !(decide (e.slice < 4) || e.slice == 0xF) || exReserved w != 0 || e.grants.any badGrant
    || !gValid g0 || gTenant g0 != e.owner || gRights g0 != 3 || decide (dpaBytes s < e.base + n)
  let placed := if e.slice == 0xF then !(inService s).isEmpty else has (inService s) e.slice
  [needs s K.extentEnable, failIf shape 0x01 K.extentOp, failIf (grantTenantBad s e.owner e.grants) 0x08 K.extentOp,
   failIf (s.mem.maps.any (fun m => meets e.base n m.base (m.blocks * blockBytes))
     || s.comp.extents.any (fun p => p.2.state != 0 && meets e.base n p.2.base (p.2.blocks * blockBytes))) 0x02 K.extentOp,
   failIf (!placed || !runRoom s run) 0x03 K.extentOp,
   failIf (decide (1024 ≤ i) || (match extentAt s i with | some x => x.state != 0 | none => false)) 0x04 K.extentOp]

/-- A leased grant or open is made: the tenant's lease is renewed (R357). -/
def renewLease (s : State) (t : Nat) : State :=
  { s with comp := { s.comp with tleases := tset s.comp.tleases t (now s + rd s K.leaseNs) } }

/-- Leases that grants make: a leased grant that the one before it in its place was not. -/
def leaseGrants (s : State) (old new : List Nat) : State :=
  (upFrom 0 8).foldl (fun t k =>
    let g := nth new k 0
    let o := nth old k 0
    if gValid g && gLeased g && !(gValid o && gLeased o && gTenant o == gTenant g) then renewLease t (gTenant g) else t) s

/-- CREATE's effect: the blocks start in host bias (R177). -/
def createExtent (s : State) (i : Nat) (w : Nat) : State :=
  let e := extentFrom w
  let s := mapBlocks (putExtent s i e) (extentRun s i e) .extent i
  let s := { s with mem := { s.mem with hostBias := s.mem.hostBias ++ upFrom (e.base / blockBytes) e.blocks } }
  showExtent (leaseGrants s [] e.grants)

/-! ## Revocation (R359) -/

/-- Deregister the regions of an extent that a test takes. -/
def deregWithin (s : State) (e : Extent) (p : Region → Bool) : State :=
  (s.net.regions.filter (fun r => r.2.valid && decide (e.base ≤ r.2.base) && decide (r.2.base < e.base + e.blocks * blockBytes) && p r.2)).foldl
    (fun t r => deregRegion t r.1) s

/-- Revoke a whole extent: its drain begins. -/
def revokeExtent (s : State) (i : Nat) : State :=
  match extentAt s i with
  | none => s
  | some e =>
    if e.state != 1 then s
    else
      let s := deregWithin s e (fun _ => true)
      showExtent (bump (putExtent s i { e with state := 2, since := s.tm.ec }) K.revocations 1)

/-- Revoke rights of grant k (3: all of it); next is the grant that follows. -/
def revokeGrant (s : State) (i k rights next : Nat) : State :=
  match extentAt s i with
  | none => s
  | some e =>
    let g := nth e.grants k 0
    let s := deregWithin s e (fun r => r.tenant == gTenant g && (rights == 3 || rightsNeeded r.rights &&& rights != 0))
    let d : GDrain := { grant := k, tenant := gTenant g, rights := rights, since := s.tm.ec, next := next }
    bump (putExtent s i { e with drains := e.drains ++ [d], grants := if rights == 3 then e.grants else setNth e.grants k next }) K.revocations 1

/-- Replace one grant. -/
def replaceGrant (s : State) (i k new : Nat) : State :=
  match extentAt s i with
  | none => s
  | some e =>
    let old := nth e.grants k 0
    let set := putExtent s i { e with grants := setNth e.grants k new }
    if e.drains.any (fun d => d.grant == k && d.rights == 3) then
      putExtent s i { e with drains := e.drains.map (fun d => if d.grant == k && d.rights == 3 then { d with next := new } else d) }
    else if !gValid old then set
    else if gValid new && gTenant new == gTenant old then
      let gone := gRights old - (gRights old &&& gRights new)
      if gone == 0 then set else if gRights new == 0 then revokeGrant s i k 3 new else revokeGrant s i k gone new
    else revokeGrant s i k 3 new

/-- The tests of SET_GRANTS. -/
def setGrantsFails (s : State) (i : Nat) (w : Nat) : List Fail :=
  match extentAt s i with
  | none => [failIf true 0x05 K.extentOp]
  | some e =>
    let l := exGrants w
    [failIf (e.state != 1) 0x05 K.extentOp,
     failIf (exGrant w 0 != nth e.grants 0 0 || l.any badGrant || (e.kind == 2 && l.any (fun g => gValid g && bitB (gRights g) 1))) 0x01 K.extentOp,
     failIf (grantTenantBad s e.owner l) 0x08 K.extentOp]

/-- A write of extent_op. -/
def hExtentOp : Handler := fun s _ p =>
  let i := rd s K.extentSelect
  let w := rd s K.extentEntry
  let stop (l : List Fail) (ok : State) : State × Res :=
    match firstFail l with
    | some (c, k) => (s, .refused c (k / 256) (k % 256))
    | none => (ok, .done)
  match ofBytes p with
  | 1 => stop (createFails s i w) (createExtent s i w)
  | 2 => stop (setGrantsFails s i w)
      (showExtent (leaseGrants ((upFrom 1 7).foldl (fun t k => replaceGrant t i k (exGrant w k)) s)
        (match extentAt s i with | some e => e.grants | none => []) (exGrants w)))
  | 3 => (revokeExtent s i, .done)
  | _ => (s, .refused 0x01 0x7100 0x12)

/-- CREATE. -/
def execCreate (w : WReq) (s : State) : Outc := .next (rowWrite s w 0x7100 0x12 0 [1] hExtentOp)

/-- SET_GRANTS. -/
def execSetGrants (w : WReq) (s : State) : Outc := .next (rowWrite s w 0x7100 0x12 0 [2] hExtentOp)

/-- REVOKE. -/
def execRevoke (w : WReq) (s : State) : Outc := .next (rowWrite s w 0x7100 0x12 0 [3] hExtentOp)

/-! ## The end of a drain -/

/-- Addresses of the areas that a ticket names. -/
def ticketAddrs (r : Nat) : List Nat :=
  match tkType r with
  | 1 => [qPayload r, qResult r] ++ (if bitmapBytes r == 0 then [] else [qMaskAddr r])
  | 2 => [aPayload r]
  | 4 => [fAddr r]
  | 5 => [hPayload r, hResult r] ++ (if searchBitmap r == 0 then [] else [hBitmap r])
  | 9 => [pSrc r, pDst r]
  | 0xA => [sResult r]
  | _ => []

/-- Swept tickets that are under way. -/
def liveTickets (s : State) : List Tk :=
  (s.att.taken ++ s.att.held.map HeldTk.tk ++ s.att.appends.map App.tk ++ (s.ctxs ++ s.ctxWait).filterMap (fun c => if c.root then some c.tk else none)
   ++ s.fences.map Fence.tk ++ s.kv.moveTks.map MoveTk.tk ++ s.srch.pend.map Prod.fst ++ s.att.fwd ++ s.comp.asks
   ++ s.rel.jhold.map Prod.fst ++ s.att.retires ++ s.att.seals ++ s.kv.preTks.map PreTk.tk).filter (fun t => !t.fabric)

/-- Whether a drain has ended: no ticket of the tenant names the extent any longer, or extent_drain_ns has passed. -/
def drainOver (s : State) (e : Extent) (t : Option Nat) (since : Nat) : Bool :=
  passed s since (rd s K.extentDrainNs)
  || !(liveTickets s).any (fun k => (match t with | some x => tkTenant k.raw == x | none => true)
      && (ticketAddrs k.raw).any (fun a => decide (e.base ≤ a) && decide (a < e.base + e.blocks * blockBytes)))

/-- The end of one grant's drain. -/
def endGrant (s : State) (i : Nat) (d : GDrain) : State :=
  match extentAt s i with
  | none => s
  | some e =>
    let e := { e with drains := e.drains.filter (fun x => !(x == d)) }
    putExtent s i (if d.rights == 3 then { e with grants := setNth e.grants d.grant d.next } else e)

/-- EXTENT_DRAIN_END. -/
def execExtentDrainEnd (extent : Nat) (s : State) : Outc :=
  match extentAt s extent with
  | none => .next s
  | some e =>
    if e.state == 2 then
      if drainOver s e none e.since then
        let s := putExtent s extent { e with state := 3, drains := [] }
        .next (showExtent (match s.mem.maps.find? (fun m => m.holder == .extent extent) with | some m => beginUnmap s m | none => s))
      else .next s
    else
      .next (showExtent ((e.drains.filter (fun d => drainOver s e (some d.tenant) d.since)).foldl (fun t d => endGrant t extent d) s))

/-- MEMORY_CLEAR_DONE (R445): the clearing named by its id has ended. -/
def execMemoryClearDone (holder : Nat) (s : State) : Outc :=
  if !s.holds.any (fun h => h.kind == .clearing && h.id == holder) then .next s
  else
    let s := { s with holds := s.holds.filter (fun h => !(h.kind == .clearing && h.id == holder)),
                      comp := { s.comp with extents := s.comp.extents.filter (fun p => !(p.2.state == 3 && p.2.clr == holder)) } }
    .next (afterMove (retryRoom (showExtent s)))

/-! ## Tenant leases (R357, R358) -/

/-- Release one open, as a CLOSE would. -/
def releaseOpen (s : State) (o : Nat × Nat × Nat) : State :=
  let m : ShareMsg := { src := myNode s, op := 0xB, ticketId := 0, tenant := o.1, shareId := o.2.1, version := o.2.2, kind := 0, object := 0,
                        node := 0, base := 0 }
  mgmt { s with comp := { s.comp with opens := s.comp.opens.erase o } } (leadNode s) (.shareReq m)

/-- TENANT_LEASE_EXPIRE. -/
def execTenantLeaseExpire (tenant : Nat) (s : State) : Outc :=
  match tget? s.comp.tleases tenant with
  | none => .next s
  | some x =>
    if now s < x then .next s
    else
      let s := { s with comp := { s.comp with tleases := terase s.comp.tleases tenant } }
      let s := s.comp.extents.foldl (fun t p => (upFrom 0 8).foldl (fun u k =>
        let g := nth p.2.grants k 0
        if p.2.state == 1 && gValid g && gLeased g && gTenant g == tenant && !p.2.drains.any (fun d => d.grant == k && d.rights == 3)
        then revokeGrant u p.1 k 3 0 else u) t) s
      let s := (s.comp.opens.filter (fun o => o.1 == tenant)).foldl releaseOpen s
      .next (freeEvent (bump s K.leasesExpired 1) 0x71 nodeSlice)

/-- Leased grants and opens of a tenant. -/
def leasedCount (s : State) (t : Nat) : Nat :=
  (s.comp.extents.flatMap (fun p => if p.2.state == 1 then p.2.grants.filter (fun g => gValid g && gLeased g && gTenant g == t) else [])).length
  + (s.comp.opens.filter (fun o => o.1 == t)).length

/-- RENEW. -/
def execRenew (s : State) : Outc :=
  match takeHead s 0xD with
  | none => .next s
  | some (tk, s) =>
    let t := tkTenant tk.raw
    if (tget? s.comp.tleases t).isSome then
      let s := renewLease s t
      .next (complete s tk St.ok (leasedCount s t) 0)
    else .next (complete s tk St.ok 0 0)

/-! ## Share tickets on the entry node (R365 to R369) -/

/-- OPEN. -/
def execOpen (s : State) : Outc :=
  match takeHead s 0xA with
  | none => .next s
  | some (tk, s) =>
    let c := areaTest s (tkTenant tk.raw) (sResult tk.raw) 32 32 2
    if c != 0 then .next (refuseArea s tk c)
    else if rd s K.opensMax ≤ s.comp.opens.length then .next (complete s tk St.quota 0 0)
    else .next (askLead s tk 0 0 0 0)

/-- CLOSE. -/
def execClose (s : State) : Outc :=
  match takeHead s 0xB with
  | none => .next s
  | some (tk, s) => .next (askLead s tk 0 0 0 0)

/-- The check of a PUBLISH of an extent (R368). -/
def publishTest (s : State) (i t : Nat) : Nat :=
  match extentAt s i with
  | none => St.bounds
  | some e =>
    if e.state != 1 || e.kind != 1 || e.owner != t then St.bounds
    else if e.grants.any (fun g => gValid g && gTenant g != t && bitB (gRights g) 1)
      || s.net.regions.any (fun r => r.2.valid && bitB r.2.rights 1 && decide (e.base ≤ r.2.base) && decide (r.2.base < e.base + e.blocks * blockBytes))
    then St.rights else 0

/-- A grant without its write right. -/
def readOnly (g : Nat) : Nat := g - (if bitB g 1 then 2 else 0)

/-- Prepare an extent for its PUBLISH. -/
def preparePublish (s : State) (i : Nat) (e : Extent) : State :=
  showExtent (putExtent (toDevice s e.base (e.blocks * blockBytes)) i { e with kind := 2, grants := e.grants.map readOnly })

/-- PUBLISH. -/
def execPublish (s : State) : Outc :=
  match takeHead s 0xC with
  | none => .next s
  | some (tk, s) =>
    let r := tk.raw
    let t := tkTenant r
    match sKind r with
    | 0 => .next (askLead s tk 0 0 0 0)
    | 1 =>
      let c := publishTest s (sObject r) t
      if c != 0 then .next (complete s tk c 0 0)
      else
        match extentAt s (sObject r) with
        | none => .next s
        | some e => .next (askLead (preparePublish s (sObject r) e) tk 1 (sObject r) (myNode s) e.base)
    | 2 =>
      let (s, home) := homeOf s tk.slice t (sObject r)
      match home with
      | none => .next (refuse s tk St.bounds)
      | some h =>
        if h != myNode s then .next (forwardHome s tk h [])
        else
          match knownReam s t (sObject r) with
          | none => .next (complete s tk St.bounds 0 0)
          | some m =>
            if m.retiredSet || m.preempted then .next (complete s tk St.bounds 0 0)
            else .next { s with att := { s.att with seals := s.att.seals ++ [tk] } }
    | _ => .next (refuse s tk St.bounds)

/-- The open record (R369). -/
def openRecord (a : ShareAns) (share : Nat) : List Byte :=
  toBytes 32 (packBits [(32, a.ticketId), (32, share), (32, 0), (32, a.count), (8, 0), (16, a.node), (8, a.kind), (32, a.object), (64, a.base)])

/-- SHARE_REPLY. -/
def execShareReply (a : ShareAns) (s : State) : Outc :=
  match s.comp.asks.find? (fun t => tkId t.raw == a.ticketId && tkTenant t.raw == a.tenant) with
  | none => .next s
  | some tk =>
    let r := tk.raw
    let s := { s with comp := { s.comp with asks := s.comp.asks.filter (fun t => t.id != tk.id) } }
    match tkType r with
    | 0xA =>
      if a.status != St.ok then .next (complete s tk a.status a.count 0)
      else
        let o := (tkTenant r, sShare r, a.count)
        if has s.att.dead tk.id then .next (releaseOpen (complete s tk a.status a.count 0) o)
        else
          let s := renewLease { s with comp := { s.comp with opens := s.comp.opens ++ [o] } } (tkTenant r)
          .next (completeResult s tk (sResult r) (openRecord a (sShare r)) St.ok a.count)
    | 0xB =>
      let s := if a.status == St.ok then { s with comp := { s.comp with opens := s.comp.opens.erase (tkTenant r, sShare r, sVersion r) } } else s
      .next (complete s tk a.status a.count 0)
    | _ => .next (complete s tk a.status a.count 0)

/-- VERSION_RELEASE (R370). -/
def execVersionRelease (kind object tenant : Nat) (s : State) : Outc :=
  if kind == 1 then
    match extentAt s object with
    | some e => .next (if e.kind == 2 then revokeExtent s object else s)
    | none => .next s
  else .next { s with comp := { s.comp with releases := s.comp.releases ++ [(tenant, object)] } }

/-! ## Shares on the Lead (R366, R367, R370) -/

/-- Change the first share that a test takes. -/
def modFirst (p : ShareDef → Bool) (f : ShareDef → ShareDef) : List ShareDef → List ShareDef
  | [] => []
  | x :: r => if p x then f x :: r else x :: modFirst p f r

/-- Release the versions of the shares that are neither current nor opened. -/
def sweepVersions (s : State) : State :=
  let gone (d : ShareDef) (v : Version) : Bool := v.opens.isEmpty && (d.ended || v.num != d.current)
  let s := s.comp.shares.foldl (fun t d => (d.versions.filter (gone d)).foldl (fun u v =>
    mgmt u v.node (.versionRelease v.kind v.object d.tenant)) t) s
  let l := s.comp.shares.map (fun d => { d with versions := d.versions.filter (fun v => !gone d v) })
  { s with comp := { s.comp with shares := l.filter (fun d => !(d.ended && d.versions.isEmpty)) } }

def setShares (s : State) (l : List ShareDef) : State := { s with comp := { s.comp with shares := l } }

/-- The opens of a version with one more through a node. -/
def addOpen (n : Nat) (v : Version) : Version := { v with opens := tset v.opens n (tget v.opens n 0 + 1) }

/-- The same with one less. -/
def dropOpen (n : Nat) (v : Version) : Version :=
  { v with opens := if tget v.opens n 0 ≤ 1 then terase v.opens n else tset v.opens n (tget v.opens n 0 - 1) }

/-- Change one version of a share. -/
def modVersion (n : Nat) (f : Version → Version) (d : ShareDef) : ShareDef :=
  { d with versions := d.versions.map (fun v => if v.num == n then f v else v) }

/-- The Lead's order of one request: the state, and status, count and version answered. -/
def orderShare (s : State) (m : ShareMsg) : State × Nat × Nat × Option Version :=
  let mine (d : ShareDef) : Bool := d.tenant == m.tenant && d.id == m.shareId
  let known (d : ShareDef) : Bool := mine d && !d.ended
  let l := s.comp.shares
  let cur := l.find? known
  match m.op with
  | 0xA =>
    match cur with
    | none => (s, St.bounds, 0, none)
    | some d => (setShares s (modFirst known (modVersion d.current (addOpen m.src)) l), St.ok, d.current, d.versions.find? (fun v => v.num == d.current))
  | 0xB =>
    let holds (d : ShareDef) : Bool := mine d && d.versions.any (fun v => v.num == m.version && decide (0 < tget v.opens m.src 0))
    if l.any holds then (sweepVersions (setShares s (modFirst holds (modVersion m.version (dropOpen m.src)) l)), St.ok, 0, none)
    else (s, St.bounds, 0, none)
  | _ =>
    let base := match cur with | some d => d.current | none => 0
    if m.version != base then (bump s K.publishConflicts 1, St.versionConflict, base, none)
    else if m.kind == 0 then
      (sweepVersions (setShares s (modFirst known (fun d => { d with ended := true }) l)), St.ok, base, none)
    else
      let v : Version := { num := base + 1, kind := m.kind, object := m.object, node := m.node, base := m.base, opens := [] }
      match cur with
      | none =>
        if 4096 ≤ (l.filter (fun d => !d.ended)).length then (s, St.quota, 0, none)
        else
          let d : ShareDef := { tenant := m.tenant, id := m.shareId, current := 1, ended := false, versions := [v] }
          (bump (setShares s (l ++ [d])) K.publishesOrdered 1, St.ok, 1, none)
      | some d =>
        if 16 ≤ d.versions.length then (s, St.quota, 0, none)
        else
          let put (d : ShareDef) : ShareDef := { d with current := base + 1, versions := d.versions ++ [v] }
          (sweepVersions (bump (setShares s (modFirst known put l)) K.publishesOrdered 1), St.ok, base + 1, none)

/-- SHARE_REQ. -/
def execShareReq (m : ShareMsg) (s : State) : Outc :=
  if !isLead s then .next s
  else
    let (s, st, n, v) := orderShare s m
    let v := v.getD { num := 0, kind := 0, object := 0, node := 0, base := 0, opens := [] }
    .next (mgmt s m.src (.shareReply { ticketId := m.ticketId, tenant := m.tenant, status := st, count := n, kind := v.kind,
                                       object := v.object, node := v.node, base := v.base }))

/-! ## The enable (R379) -/

def enExtent : Enable :=
  { key := K.extentEnable, claim := some K.claim7100,
    check := fun s => [needs s K.hostPortEnable, needs s K.herdEnable, inSet s K.leaseNs, inSet s K.extentDrainNs, inSet s K.opensMax],
    covers := fun k => has [K.leaseNs, K.extentDrainNs, K.opensMax] k,
    halts := fun s => [failIf (s.comp.extents.any (fun p => p.2.state != 0)) 0x05 K.extentsActive,
      failIf (!s.comp.opens.isEmpty) 0x05 K.opensHeld] }

/-- EXTENT_ENABLE. -/
def execExtentEnable (w : WReq) (v : Byte) (s : State) : Outc := enableRow enExtent w v s

/-! ## Pool leases of a member (R361 to R363) -/

/-- pool_result. -/
def poolResultWord (g : PoolGrant) : Nat := packBits [(32, g.id), (32, g.mib), (64, g.base)]

/-- A write of pool_request_mib. -/
def hPoolRequest : Handler := fun s _ p =>
  let n := ofBytes p
  match firstFail [needs s K.poolEnable, failIf (n % 256 != 0 || decide (n < 256) || decide (262144 < n)) 0x01 K.poolRequestMib] with
  | some (c, k) => (s, .refused c (k / 256) (k % 256))
  | none => (mgmt (wr { s with comp := { s.comp with poolAsk := n } } K.poolResultState 1) (leadNode s) (.poolReq n), .done)

/-- POOL_REQUEST_MIB. -/
def execPoolRequestMib (w : WReq) (mib : Nat) (s : State) : Outc := .next (rowWrite s w 0x7110 5 0 (toBytes 4 mib) hPoolRequest)

def modHeld (s : State) (id : Nat) (f : HeldLease → HeldLease) : State :=
  { s with comp := { s.comp with held := s.comp.held.map (fun h => if h.id == id then f h else h) } }

/-- POOL_LEASE_GRANT: the answer to a request, or to a renewal. -/
def execPoolLeaseGrant (g : PoolGrant) (s : State) : Outc :=
  if s.comp.held.any (fun h => h.id == g.id) && g.granted then
    .next (modHeld s g.id (fun h => { h with expiry := h.renewedAt + rd s K.poolLeaseNs }))
  else if s.comp.poolAsk == 0 then .next s
  else
    let s := { s with comp := { s.comp with poolAsk := 0 } }
    if !g.granted then .next (wr s K.poolResultState 3)
    else
      let h : HeldLease := { id := g.id, base := g.base, mib := g.mib, expiry := now s + rd s K.poolLeaseNs, renewedAt := now s,
                             releasing := 0, drainEnd := 0, clearing := g.mustClear, failed := false }
      let s := wr { s with comp := { s.comp with held := s.comp.held ++ [h] } } K.poolResult (poolResultWord g)
      if g.mustClear then .next (emit (wr s K.poolResultState 4) (.vatWrite g.base (g.mib * 2 ^ 20) true)) else .next (wr s K.poolResultState 2)

/-- POOL_RUN_CLEARED. -/
def execPoolRunCleared (lease : Nat) (s : State) : Outc :=
  if s.comp.held.any (fun h => h.id == lease && h.clearing) then
    let s := modHeld s lease (fun h => { h with clearing := false })
    .next (if rd s K.poolResult % 2 ^ 32 == lease then wr s K.poolResultState 2 else s)
  else .next s

/-- POOL_LEASE_RENEW_DUE. -/
def execPoolLeaseRenewDue (lease : Nat) (s : State) : Outc :=
  match s.comp.held.find? (fun h => h.id == lease) with
  | none => .next s
  | some h =>
    if decide (now s < h.renewedAt + rd s K.poolLeaseNs / 4) || h.failed then .next s
    else .next (mgmt (modHeld s lease (fun h => { h with renewedAt := now s })) (leadNode s) (.poolRenew lease))

/-- Start to give a lease back: its regions drain. -/
def drainLease (s : State) (id how drainEnd : Nat) : State :=
  let s := modHeld s id (fun h => { h with releasing := how, drainEnd := drainEnd })
  settleLeases ((leaseRegions s id).foldl drainRegion s)

/-- A write of pool_release. -/
def hPoolRelease : Handler := fun s _ p =>
  let id := ofBytes p
  if s.comp.held.any (fun h => h.id == id) then (drainLease s id 1 0, .done) else (s, .refused 0x01 0x7110 6)

/-- POOL_RELEASE. -/
def execPoolRelease (w : WReq) (lease : Nat) (s : State) : Outc := .next (rowWrite s w 0x7110 6 0 (toBytes 4 lease) hPoolRelease)

/-- POOL_LEASE_REVOKE. -/
def execPoolLeaseRevoke (lease drainNs : Nat) (s : State) : Outc := .next (drainLease s lease 2 (now s + drainNs))

/-- POOL_LEASE_GUARD_EXPIRE: the regions under the lease fail. -/
def execPoolLeaseGuardExpire (lease : Nat) (s : State) : Outc :=
  match s.comp.held.find? (fun h => h.id == lease) with
  | none => .next s
  | some h =>
    if h.failed || decide (now s + rd s K.poolGuardNs < h.expiry) then .next s
    else
      let s := modHeld s lease (fun h => { h with failed := true })
      .next ((leaseRegions s lease).foldl (fun t v => wr t (K.vatState v) 3) s)

/-! ## Pool leases on the Lead (R360 to R364) -/

/-- Units of 256 MiB. -/
def unitBytes : Nat := 2 ^ 28

/-- The units of a run. -/
def unitsOf (base mib : Nat) : List Nat := (upFrom 0 (mib / 256)).map (fun i => base + i * unitBytes)

/-- Take expired leases off the table once pool_guard_ns has passed: their runs must be cleared. -/
def reapLeases (s : State) : State :=
  let gone (l : PoolLease) : Bool := l.lapsed && decide (l.expiry + rd s K.poolGuardNs ≤ now s)
  let d := (s.comp.leases.filter gone).flatMap (fun l => (unitsOf l.base l.mib).map (fun u => (u, 256)))
  { s with comp := { s.comp with leases := s.comp.leases.filter (fun l => !gone l), dirty := s.comp.dirty ++ d } }

/-- Whether a run of a range is free. -/
def runFree (s : State) (base mib : Nat) : Bool := !s.comp.leases.any (fun l => meets base (mib * 2 ^ 20) l.base (l.mib * 2 ^ 20))

/-- The lowest free run, in range order. -/
def lowestRun (s : State) (mib : Nat) : Option Nat :=
  (upFrom 0 4).findSome? (fun k =>
    let n := rd s (K.poolRangeMib k)
    if n < mib then none
    else ((upFrom 0 ((n - mib) / 256 + 1)).map (fun i => rd s (K.poolRangeBase k) + i * unitBytes)).find? (fun b => runFree s b mib))

/-- POOL_LEASE_REQ. -/
def execPoolLeaseReq (src mib : Nat) (s : State) : Outc :=
  if !isLead s then .next s
  else
    let s := reapLeases s
    match if on s K.poolEnable then lowestRun s mib else none with
    | none => .next (mgmt s src (.poolGrant { granted := false, id := 0, base := 0, mib := mib, mustClear := false }))
    | some b =>
      let id := s.comp.nextLease
      let l : PoolLease := { id := id, holder := src, base := b, mib := mib, expiry := now s + rd s K.poolLeaseNs, lapsed := false }
      let dirty := s.comp.dirty.any (fun d => has (unitsOf b mib) d.1)
      let s := { s with comp := { s.comp with leases := s.comp.leases ++ [l], nextLease := id + 1 } }
      .next (mgmt s src (.poolGrant { granted := true, id := id, base := b, mib := mib, mustClear := dirty }))

/-- POOL_LEASE_RENEW. -/
def execPoolLeaseRenew (src lease : Nat) (s : State) : Outc :=
  match s.comp.leases.find? (fun l => l.id == lease && l.holder == src && !l.lapsed) with
  | none => .next s
  | some l =>
    if !isLead s then .next s
    else
      let l := { l with expiry := now s + rd s K.poolLeaseNs }
      let s := { s with comp := { s.comp with leases := s.comp.leases.map (fun x => if x.id == lease then l else x) } }
      .next (mgmt s src (.poolGrant { granted := true, id := l.id, base := l.base, mib := l.mib, mustClear := false }))

/-- POOL_LEASE_RELEASE: a run is clean only where its holder has drained it. -/
def execPoolLeaseRelease (src lease : Nat) (drained : Bool) (s : State) : Outc :=
  match s.comp.leases.find? (fun l => l.id == lease && l.holder == src) with
  | none => .next s
  | some l =>
    if !isLead s then .next s
    else
      let u := unitsOf l.base l.mib
      let rest := s.comp.dirty.filter (fun d => !has u d.1)
      .next { s with comp := { s.comp with leases := s.comp.leases.filter (fun x => x.id != lease),
                                           dirty := if drained then rest else rest ++ u.map (fun x => (x, 256)) } }

/-- POOL_LEASE_LAPSE. -/
def execPoolLeaseLapse (lease : Nat) (s : State) : Outc :=
  match s.comp.leases.find? (fun l => l.id == lease && !l.lapsed) with
  | none => .next s
  | some l =>
    if !isLead s || decide (now s < l.expiry) then .next s
    else
      .next (bump { s with comp := { s.comp with leases := s.comp.leases.map (fun x => if x.id == lease then { x with lapsed := true } else x) } }
        K.poolLeasesLapsed 1)

/-- Whether two pool ranges meet. -/
def rangesMeet (s : State) : Bool :=
  (upFrom 0 4).any (fun i => (upFrom 0 4).any (fun j => i != j
    && meets (rd s (K.poolRangeBase i)) (rd s (K.poolRangeMib i) * 2 ^ 20) (rd s (K.poolRangeBase j)) (rd s (K.poolRangeMib j) * 2 ^ 20)))

def enPool : Enable :=
  { key := K.poolEnable,
    check := fun s => [needs s K.herdEnable, if isLead s then none else needs s K.hostPortEnable,
      inSet s K.poolLeaseNs, inSet s K.poolGuardNs, inSet s K.poolRevokeDrainNs, failIf (isLead s && rangesMeet s) 0x02 (K.poolRangeBase 0)]
      ++ (upFrom 0 4).flatMap (fun k => [inSet s (K.poolRangeBase k), inSet s (K.poolRangeMib k)]),
    covers := fun k => has [K.poolLeaseNs, K.poolGuardNs, K.poolRevokeDrainNs] k || (decide (K.poolRangeBase 0 ≤ k) && decide (k < K.poolRangeBase 0 + 8)),
    halts := fun s => [failIf (isLead s && s.comp.leases.any (fun l => !l.lapsed)) 0x05 K.poolLeasesHeld],
    stop := fun s => s.comp.held.foldl (fun t h => drainLease t h.id 1 0) s,
    stopped := fun s => s.comp.held.isEmpty }

/-- POOL_ENABLE. -/
def execPoolEnable (w : WReq) (v : Byte) (s : State) : Outc := enableRow enPool w v s

end Sys2Proof.Machine
end

