-- ==== Sys2Proof/Machine/HostPort.lean ====
section
/-! DEFINITION. The CXL host port (R283 to R309): its enable, slot areas, HDM decoders, completion writes, link loss and
resets, and the mailbox commands that need no dictionary. -/

namespace Sys2Proof.Machine

/-! ## The port (R286, R309) -/

/-- Free bytes of the stacks of the slices in service. -/
def serviceFree (s : State) : Nat := sumNat ((inService s).map (sliceFree s))

/-- Areas whose enable reads 1. -/
def areasOn (s : State) : List Nat := (upFrom 0 64).filter (fun a => on s (K.slotAreaEnable a))

def enHostPort : Enable :=
  { key := K.hostPortEnable,
    check := fun s => [inSet s K.hostVisibleGib, inSet s K.completionPath,
      failIf (!on s K.hostPortEnable && decide (serviceFree s < dpaBytes s)) 0x03 K.hostVisibleGib],
    covers := fun k => k == K.completionPath,
    users := fun s => (areasOn s).map (fun a => K.slotAreaEnable a)
      ++ onKeys s (if isLead s then [K.vatEnable, K.extentEnable] else [K.vatEnable, K.extentEnable, K.poolEnable]) }

/-- HOST_PORT_ENABLE. -/
def execHostPortEnable (w : WReq) (v : Byte) (s : State) : Outc := enableRow enHostPort w v s

/-- What CDAT says of the node (R306): the DPA space as one memory range, with its read latency in ns and its bandwidth in GB/s (R284). -/
structure CdatRange where
  base : Nat
  length : Nat
  latencyNs : Nat
  bandwidth : Nat
  deriving DecidableEq, Repr

def cdat (s : State) : List CdatRange :=
  [{ base := 0, length := dpaBytes s, latencyNs := 300, bandwidth := if rd s K.cxlModeNow == 2 then 110 else 55 }]

/-! ## Slot areas (R291 to R293, R309) -/

/-- Bytes of an area. -/
def areaBytes (s : State) (a : Nat) : Nat := 4096 + 128 * rd s (K.areaSlots a)

/-- The run that an area maps in the carrying stack of its slice. -/
def areaRun (s : State) (a : Nat) : Mapped :=
  { base := rd s (K.areaDpa a), blocks := ceilDiv (areaBytes s a) blockBytes, holder := .area a, stackKind := 0,
    slice := rd s (K.areaSlice a), slices := [], unmapping := false }

/-- Set the tables of an area: slots zero, every alive value 0x01, the header at its reset values, device bias. -/
def initArea (s : State) (a : Nat) : State :=
  let m := areaRun s a
  let cells := Mem.clear s.mem.cells m.base (m.blocks * blockBytes)
  let cells := Mem.write cells (m.base + 64) (List.replicate (rd s (K.areaSlots a)) 1)
  toDevice (setCells s cells) m.base (m.blocks * blockBytes)

/-- Whether a slice's table sweeps an area. -/
def tableSweeps (s : State) (sl a : Nat) : Bool :=
  (usedEntries sl (tableOf s sl)).any (fun p => enAction p.2 == 1 && enParam p.2 == a)

/-- Whether a ticket taken from an area is still to complete. -/
def areaBusy (s : State) (a : Nat) : Bool := (liveTickets s).any (fun t => t.area == a && !has s.att.dead t.id)

def enSlotArea (a : Nat) : Enable :=
  { key := K.slotAreaEnable a,
    check := fun s =>
      let m := areaRun s a
      let n := m.blocks * blockBytes
      let f := rd s (K.areaFunction a)
      let t := rd s (K.areaTenant a)
      let sl := rd s (K.areaSlice a)
      [needs s K.hostPortEnable, failIf (rd s (K.sliceState sl) != 1) 0x06 (K.sliceState sl),
       inSet s (K.areaFunction a), inSet s (K.areaTenant a), inSet s (K.areaSlice a), inSet s (K.areaDpa a), inSet s (K.areaSlots a),
       inSet s (K.cqBase a), inSet s (K.cqLength a), failIf (decide (dpaBytes s < m.base + areaBytes s a)) 0x01 (K.areaDpa a),
       failIf (f != 0 && vfTenantOf s f != t) 0x08 (keyOf 0x7008 f), failIf (!on s (K.tenantEnable t)) 0x08 (K.tenantEnable t),
       failIf (s.mem.maps.any (fun x => !(x.holder == .area a) && meets m.base n x.base (x.blocks * blockBytes))
         || s.comp.extents.any (fun p => p.2.state != 0 && meets m.base n p.2.base (p.2.blocks * blockBytes))) 0x02 (K.areaDpa a),
       failIf (!on s (K.slotAreaEnable a) && !runRoom s m) 0x03 (K.areaSlice a)],
    coversIn := fun s k => rd s (K.areaFunction a) != 0 && k == keyOf 0x7008 (rd s (K.areaFunction a)),
    users := fun s => ((tablesOn s).filter (fun sl => tableSweeps s sl a)).map (fun sl => K.scheduleEnable sl),
    start := fun s => initArea (mapBlocks s (areaRun s a) .area a) a,
    stopped := fun s => !areaBusy s a,
    close := fun s => match s.mem.maps.find? (fun m => m.holder == .area a) with | some m => beginUnmap s m | none => s }

/-- SLOT_AREA_ENABLE of an area. -/
def execSlotAreaEnable (area : Nat) (w : WReq) (v : Byte) (s : State) : Outc := enableRow (enSlotArea area) w v s

/-! ## HDM decoders (R287) -/

/-- HDM_DECODER_PROGRAM: a locked decoder keeps its window until a conventional reset. -/
def execHdmDecoderProgram (decoder hpa size dpa : Nat) (lock commit : Bool) (s : State) : Outc :=
  if 4 ≤ decoder || (match tget? s.host.hdm decoder with | some h => h.lock | none => false) then .next s
  else
    .next { s with host := { s.host with
      hdm := tset s.host.hdm decoder { hpa := hpa, size := size, dpa := dpa, lock := lock, commit := commit } } }

/-! ## Completion writes (R302) -/

/-- COMPLETION_WRITE_ERROR: the write of a ticket's completion ended in error, or could not be issued. -/
def execCompletionWriteError (id : Nat) (s : State) : Outc :=
  match tget? s.host.writes id with
  | none => .next s
  | some w =>
    if w.attempts < 3 && linkUp s then
      let s := writeCompletion s w.addr w.record w.gaps
      .next { s with host := { s.host with writes := tset s.host.writes id { w with attempts := w.attempts + 1 } } }
    else .next (bump { s with host := { s.host with writes := terase s.host.writes id } } K.completionWriteErrors 1)

/-! ## Link loss and resets (R304) -/

/-- Source of the port's events (R57); the manual gives them no code. -/
def portEvent (s : State) : State := freeEvent (bump s K.linkResets 1) 0x70 nodeSlice

/-- The link goes down. -/
def portDown (s : State) : State := vatLost (wr (wr s K.cxlModeNow 0) K.linkWidth 0)

/-- CXL_LINK_DOWN. -/
def execCxlLinkDown (s : State) : Outc := if linkUp s then .next (portEvent (portDown s)) else .next s

/-- CXL_LINK_UP (R283): the highest mode of both ends, 0 CXL 2.0, 1 CXL 3.1. In recovery it trains with CXL.io only, which serves
no memory. -/
def execCxlLinkUp (hostMode width : Nat) (s : State) : Outc :=
  if has [4, 8, 16] width && !linkUp s then
    .next (wr (wr s K.cxlModeNow (min hostMode (rd s K.cxlModeMax) + 1)) K.linkWidth width)
  else .next s

/-- Completions of the tickets taken so far from an area are never written. -/
def dropAreaWrites (s : State) (a : Nat) : State :=
  { s with host := { s.host with gens := tset s.host.gens a (areaGen s a + 1), writes := s.host.writes.filter (fun p => p.2.area != a) } }

/-- CONVENTIONAL_RESET. -/
def execConventionalReset (s : State) : Outc :=
  let s := (upFrom 0 64).foldl dropAreaWrites (if linkUp s then portDown s else s)
  let s := { s with host := { s.host with hdm := [], doe := [] } }
  .next (portEvent (wr (wr s K.ideState 0) K.vfEnabled 0))

/-- FUNCTION_LEVEL_RESET of VF n. -/
def execFunctionLevelReset (vf : Nat) (s : State) : Outc :=
  if vf = 0 || 255 < vf then .next s
  else
    let s := { s with dq := { s.dq with mbox := s.dq.mbox.filter (fun m => m.1 != vf) } }
    .next (portEvent (((areasOn s).filter (fun a => rd s (K.areaFunction a) == vf)).foldl dropAreaWrites s))

/-! ## Mailbox commands (R307) -/

/-- Return codes of the CXL mailbox that the manual names (PRESUMED values, of CXL 3.1). -/
def mbInvalidInput : Nat := 0x2
def mbUnsupported : Nat := 0x3
def mbBusy : Nat := 0x6
def mbFwAuthFailed : Nat := 0xA
def mbFwInvalidSlot : Nat := 0xB
def mbInvalidHandle : Nat := 0xE
def mbInvalidLength : Nat := 0x16

/-- Answer a mailbox command. -/
def mailbox (s : State) (fn code : Nat) (payload : List Byte) : State := emit s (.mailbox fn code payload)

/-- A command that only the physical function's mailbox has, and that ROM does not serve (R444). -/
def pfOnly (fn : Nat) (s : State) (f : State → State) : Outc :=
  .next (if !linkUp s then s else if fn != 0 || inRecovery s then mailbox s fn mbUnsupported [] else f s)

/-- A log entry in CXL event-record form, 128 bytes: identifier, length, flags, handle, related handle, timestamp, and the entry as its data
(PRESUMED layout, of CXL 3.1, with a free identifier; log entry 55). -/
def eventRecord (handle e : Nat) : List Byte :=
  toBytes 16 (Config.eventId (bits e 120 8)) ++ toBytes 1 128 ++ toBytes 3 0 ++ toBytes 2 handle ++ toBytes 2 0 ++ toBytes 8 (bits e 192 64)
  ++ toBytes 16 0 ++ padBytes 80 (toBytes 32 e)

/-- The payload of Get Event Records: flags with bit 1 where more remain, no overflow, the count, then the records; at most 15 fit the 2,048
bytes. -/
def eventPayload (l : Tbl Nat) : List Byte :=
  let out := l.take 15
  toBytes 1 (if 15 < l.length then 2 else 0) ++ toBytes 19 0 ++ toBytes 2 out.length ++ toBytes 10 0 ++ out.flatMap (fun p => eventRecord p.1 p.2)

/-- GET_EVENT_RECORDS. -/
def execGetEventRecords (fn : Nat) (s : State) : Outc := pfOnly fn s (fun s => mailbox s fn mbSuccess (eventPayload s.host.events))

/-- CLEAR_EVENT_RECORDS. -/
def execClearEventRecords (fn : Nat) (handles : List Nat) (s : State) : Outc :=
  pfOnly fn s (fun s =>
    if handles.any (fun h => (tget? s.host.events h).isNone) then mailbox s fn mbInvalidHandle []
    else mailbox { s with host := { s.host with events := s.host.events.filter (fun p => !has handles p.1) } } fn mbSuccess [])

/-- GET_FW_INFO: one slot, active, staged where an image has been written, and the versions of the flash copies. -/
def execGetFwInfo (fn : Nat) (s : State) : Outc :=
  pfOnly fn s (fun s => mailbox s fn mbSuccess
    (toBytes 16 (packBits [(8, 1), (3, 1), (3, b2n (rd s K.fwState == 4)), (2, 0), (8, 1)])
     ++ (upFrom 0 6).flatMap (fun i => toBytes 4 (rd s (K.fwFlashVersion i)))))

/-- Opcodes that the mailbox answers. -/
def mbOpcodes : List Nat := [0x0100, 0x0101, 0x0200, 0x0201, 0x0202, 0x0400, 0x0401, 0x4000, 0xC100]

/-- GET_SUPPORTED_LOGS: one log, the command effects log, with its size. -/
def execGetSupportedLogs (fn : Nat) (s : State) : Outc :=
  pfOnly fn s (fun s => mailbox s fn mbSuccess (toBytes 2 1 ++ toBytes 4 (4 * mbOpcodes.length)))

/-- GET_LOG: log 0 is the command effects log; its effect words are free values. -/
def execGetLog (fn log : Nat) (s : State) : Outc :=
  pfOnly fn s (fun s =>
    if log != 0 then mailbox s fn mbInvalidInput []
    else
      let r := mbOpcodes.foldl (fun (a : State × List Byte) o =>
        let (i, t) := fresh a.1
        (t, a.2 ++ toBytes 2 o ++ toBytes 2 (Config.freeNat i))) (s, [])
      mailbox r.1 fn mbSuccess r.2)

/-- IDENTIFY_MEMORY_DEVICE: the DPA space as volatile capacity, in bytes. -/
def execIdentifyMemoryDevice (fn : Nat) (s : State) : Outc :=
  pfOnly fn s (fun s => mailbox s fn mbSuccess (toBytes 8 (dpaBytes s) ++ toBytes 8 (dpaBytes s) ++ toBytes 8 0))

/-- MAILBOX_UNSUPPORTED. -/
def execMailboxUnsupported (fn _opcode : Nat) (s : State) : Outc :=
  .next (if linkUp s then mailbox s fn mbUnsupported [] else s)

end Sys2Proof.Machine
end

