-- ==== Sys2Proof/Machine/Security.lean ====
section
/-! DEFINITION. Trust and firmware (R425 to R449): the fuse record, boot and reset, measurements and the attestation report, images
and their update, sessions and keys; and the configuration store (R36 to R38). -/

namespace Sys2Proof.Machine

/-! ## The fuse and debug record, and measurement (R425, R428) -/

/-- The record of R425. -/
def fuseRecord (s : State) : Nat :=
  packBits [(8, 1), (8, rd s K.lifecycle), (8, rd s K.debugState), (8, rd s K.testFuse), (8, rd s K.keysRevoked), (24, 0),
    (64, rd s K.svnFloor)]

/-- The security version floor of a type. -/
def svnFloorOf (s : State) (t : Nat) : Nat := bits (rd s K.svnFloor) (8 * (t - 1)) 8

def flashImg (s : State) (t : Nat) : FwImg := (tget? s.sec.flash t).getD FwImg.fitted

/-- The image of a type that runs; sl is 0 for types 1 to 3. -/
def runImg (s : State) (t sl : Nat) : FwImg := (tget? s.sec.running (t * 8 + sl)).getD FwImg.fitted

def imgDigest (t : Nat) (i : FwImg) : Nat := i.digest.getD (Config.fittedDigest t)

/-! ## The configuration store (R36 to R38, R486) -/

/-- A write of 1 to a trigger object; 0 has no effect. -/
def trigger (idx sub : Nat) (f : State → State × Res) : Handler := fun s _ p =>
  match ofBytes p with
  | 0 => (s, .done)
  | 1 => f s
  | _ => (s, .refused 0x01 idx sub)

def hStoreCommit (readBackOk : Bool) : Handler := fun s w p =>
  trigger 0x1010 1 (beginCommit w readBackOk) s w p

/-- STORE_COMMIT. -/
def execStoreCommit (w : WReq) (v : Byte) (readBackOk : Bool) (s : State) : Outc :=
  .next (rowWrite s w 0x1010 1 0 [v] (hStoreCommit readBackOk))

def hStoreDefaults : Handler := trigger 0x1010 2 (fun s =>
  match enableKeys.find? (fun k => on s k) with
  | some k => (s, .refused 0x05 (k / 256) (k % 256))
  | none =>
    ({ s with dict := s.dict.filter (fun p => !(persOf p.1 == some .store && p.1 != K.bundleSequenceLast)) }, .done))

/-- STORE_DEFAULTS. -/
def execStoreDefaults (w : WReq) (v : Byte) (s : State) : Outc := .next (rowWrite s w 0x1010 2 0 [v] hStoreDefaults)

/-- Load a bank's values over the defaults. -/
def loadVals (s : State) (l : Tbl Nat) : State := l.foldl (fun t p => wr t p.1 p.2) s

/-- Load the store at reset (R37). -/
def loadStore (s : State) : State :=
  let c := s.dq.current
  if (bankAt s c).ok then loadVals s (bankAt s c).vals
  else if (bankAt s (1 - c)).ok then
    event (loadVals { s with dq := { s.dq with current := 1 - c } } (bankAt s (1 - c)).vals) 0x10 1 nodeSlice 1 (c + 256 * (1 - c))
  else event (wr s K.storeState 2) 0x10 2 nodeSlice 2 0

/-! ## Boot (R427, R443, R444) -/

/-- Whether the flash copy of a type passes R430 at boot. -/
def imgBoots (s : State) (t : Nat) : Bool :=
  let i := flashImg s t
  i.ok && !bitB (rd s K.keysRevoked) i.key && decide (svnFloorOf s t ≤ i.svn) && (!i.debug || rd s K.lifecycle == 2)
  && (t != 4 || i.version / 2 ^ 24 == (flashImg s 3).version / 2 ^ 24)

/-- Enter recovery. -/
def recover (s : State) (reason type : Nat) : State :=
  let s := wr (wr (wr s K.nodeStartState 5) K.recoveryReason reason) K.recoveryImageType type
  event s 0xA0 4 nodeSlice 3 (packBits [(8, reason), (8, type)])

/-- The versions that the objects report. -/
def showVersions (s : State) : State :=
  let s := (upFrom 0 6).foldl (fun t i => wr t (K.fwFlashVersion i) (flashImg t (i + 1)).version) s
  let s := (upFrom 0 4).foldl (fun t i => wr t (K.sliceFwVersion i) (runImg t 4 i).version) s
  wr s K.firmwareVersion (runImg s 3 0).version

/-- The images verified at boot run, and are measured. -/
def startImages (s : State) : State :=
  let run := (upFrom 1 3).map (fun t => (t * 8, flashImg s t)) ++ (upFrom 4 3).flatMap (fun t => (upFrom 0 4).map (fun sl => (t * 8 + sl, flashImg s t)))
  let d (t : Nat) : Nat := imgDigest t (flashImg s t)
  let meas := [(1, Config.fittedDigest 0), (2, d 1), (3, d 2), (4, d 3), (5, d 4), (6, d 4), (7, d 4), (8, d 4), (9, d 5), (10, d 6),
    (11, Config.sha512 (toBytes 16 (fuseRecord s))), (12, Config.sha512 (bankBytes (bankAt s s.dq.current)))]
  showVersions { s with sec := { s.sec with running := run, meas := meas } }

/-- ROM, the loader and the start of the cores. -/
def boot (s : State) (strap : Bool) : State :=
  let s := loadStore s
  if strap then recover s 3 0
  else if !imgBoots s 1 then recover s 1 0
  else
    match (upFrom 2 5).find? (fun t => !imgBoots s t) with
    | some t => recover s 2 t
    | none => wr (startImages s) K.nodeStartState 2

/-- The access class of a key's object. -/
def accOf (k : Nat) : Option Acc := (lookupObj (k / 256) (k % 256)).map Obj.acc

/-- Objects that a node reset keeps: what is fixed by hardware, fuse or build (R1, R32), fuses, the always-on domain, the log's head and count (R403), the bundle sequence and the
debug state (R426). -/
def keptAtReset (k : Nat) : Bool :=
  has [K.logHead, K.logCount, K.bundleSequenceLast, K.debugState] k || persOf k == some .fuse || persOf k == some .alwaysOn || accOf k == some .const

/-- The state of the node as a reset leaves it, before ROM runs. A flash copy that was being written is lost (R440). -/
def resetState (s : State) : State :=
  let kept := s.dict.filter (fun p => keptAtReset p.1)
  let t := rd s K.fwStagedType
  let flash := if rd s K.fwState == 3 then tset s.sec.flash t { flashImg s t with ok := false } else s.sec.flash
  { State.reset with
    pending := s.pending, out := s.out, free := s.free, nextId := s.nextId, dict := kept, log := s.log,
    dq := { DictSt.reset with banks := s.dq.banks, current := s.dq.current },
    sec := { SecSt.reset with flash := flash, rstLow := s.sec.rstLow, held := s.sec.held } }

/-- NODE_RESET. -/
def execNodeReset (s : State) : Outc := .next (if s.sec.held then s else boot (resetState s) false)

/-- CONTROL_CORE_WATCHDOG: an expiry before every slice has left STARTING is a failed attempt to boot; the third puts the node in
recovery. -/
def execControlCoreWatchdog (s : State) : Outc :=
  if s.sec.held || inRecovery s || 3 ≤ rd s K.nodeStartState then .next s
  else
    let n := min 255 (rd s K.bootFailures + 1)
    let s := wr s K.bootFailures n
    if 3 ≤ n then .next (recover (loadStore (resetState s)) 4 0) else .next (boot (resetState s) false)

/-! ## Debug and boundary scan (R426) -/

/-- DEBUG_ATTACHED: only a development unit offers debug access. -/
def execDebugAttached (s : State) : Outc :=
  if rd s K.lifecycle != 2 || s.sec.held then .next s
  else
    let s' := wr s K.debugState 2
    let s' := if rd s K.debugState == 2 then s' else measure s' 11 (Config.sha512 (toBytes 16 (fuseRecord s')))
    .next (event s' 0xA0 5 nodeSlice 2 0)

/-- EXTEST and its IEEE 1149.6 forms: taken while every slice is STARTING and the port works (R481); memory is cleared again before any leaves it. -/
def execExtest (s : State) : Outc :=
  if !s.sec.held && (upFrom 0 4).all (fun sl => rd s (K.sliceState sl) == 0) then .next ((upFrom 0 4).foldl clearPoison (setCells s [])) else .next s

/-! ## The attestation report (R434 to R436) -/

/-- Numbers of a range that satisfy a test, as a bitmap. -/
def bitmapOf (n : Nat) (f : Nat → Bool) : Nat := ((upFrom 0 n).map (fun i => if f i then 2 ^ i else 0)).foldl (fun a b => a + b) 0

/-- One slot-area record. -/
def areaRecord (s : State) (a : Nat) : List Byte :=
  toBytes 32 (packBits [(64, rd s (K.areaDpa a)), (64, rd s (K.cqBase a)), (32, rd s (K.cqLength a)), (16, rd s (K.areaSlots a)),
    (8, rd s (K.areaFunction a)), (8, rd s (K.areaTenant a)), (8, rd s (K.areaSlice a)), (8, rd s (K.slotAreaEnable a)), (48, 0)])

/-- Extents in state 0x1. -/
def extentsActive (s : State) : Nat := (s.comp.extents.filter (fun p => p.2.state == 1)).length

/-- The report header (R435). -/
def reportHeader (s : State) (requester : Nat) : List Byte :=
  toBytes 64 (packBits [(32, 0x52414B48), (8, requester), (8, 1), (16, 0x5F0), (80, 0), (8, 13), (8, rd s K.stepping),
    (16, (areasOn s).length), (16, extentsActive s), (64, s.sec.reports), (32, rd s K.firmwareVersion), (32, rd s K.deviceType),
    (16, rd s K.mapEpoch), (16, myNode s), (32, rd s K.herdId), (64, rd s K.currentStep), (64, stamp s)])

/-- Bytes 960 to 1,455. -/
def reportTail (s : State) : List Byte :=
  toBytes 32 (bitmapOf 256 (fun t => on s (K.tenantEnable t)))
  ++ toBytes 32 (bitmapOf 256 (fun t => on s (K.maskBitmapGrant t)))
  ++ (0 : Byte) :: (upFrom 1 255).map (fun n => if vfTenantOf s n < 256 then BitVec.ofNat 8 (vfTenantOf s n) else 0)
  ++ toBytes 32 (bitmapOf 256 (fun n => n == 0 || decide (vfTenantOf s n < 256)))
  ++ (upFrom 0 4).flatMap (fun sl => [BitVec.ofNat 8 (rd s (K.sliceState sl)), BitVec.ofNat 8 (rd s (K.sliceDuty sl)),
       BitVec.ofNat 8 (rd s (K.enginesInService sl)), BitVec.ofNat 8 (rd s (K.scoreArrayState sl))])
  ++ toBytes 64 (Config.sha512 ((upFrom 0 1024).flatMap (fun i => toBytes 32 (extentShown s i))))
  ++ toBytes 64 (Config.sha512 ((upFrom 0 64).flatMap (areaRecord s)))

/-- Make a report: block 13 is measured, the report counted and signed. -/
def makeReport (s : State) (requester nonce : Nat) : State × List Byte :=
  let s := { s with sec := { s.sec with reports := s.sec.reports + 1 } }
  let tail := reportTail s
  let s := measure s 13 (Config.sha512 tail)
  let body := reportHeader s requester ++ toBytes 32 nonce ++ toBytes 16 (rd s K.unitId) ++ toBytes 16 (fuseRecord s)
    ++ (upFrom 1 13).flatMap (fun n => toBytes 64 (measOf s n)) ++ tail
  (s, body ++ toBytes 64 (Config.aliasSign body))

def hAttestRequest : Handler := trigger 0xA000 0x31 (fun s => (wr s K.attestState 1, .done))

/-- ATTEST_REQUEST. -/
def execAttestRequest (w : WReq) (v : Byte) (s : State) : Outc := .next (rowWrite s w 0xA000 0x31 0 [v] hAttestRequest)

/-- ATTEST_REPORT_READY. -/
def execAttestReportReady (s : State) : Outc :=
  if rd s K.attestState != 1 then .next s
  else
    let (s, r) := makeReport s 3 (rd s K.attestNonce)
    .next (wr { s with sec := { s.sec with report := r } } K.attestState 2)

/-- SPDM response kinds: 0 an answer, 1 the error InvalidRequest, 2 the error Busy, 3 a session opened. -/
def spdm (s : State) (what : Nat) (payload : List Byte) : State := emit s (.spdm what payload)

/-- GET_MEASUREMENTS (R428). -/
def execGetMeasurements (index nonce : Nat) (s : State) : Outc :=
  if s.sec.held then .next s
  else if index == 11 then .next (spdm s 0 (toBytes 16 (fuseRecord s)))
  else if (1 ≤ index && index ≤ 10) || index == 12 then .next (spdm s 0 (toBytes 64 (measOf s index)))
  else if index == 0x40 then let (s, r) := makeReport s 1 nonce; .next (spdm s 0 r)
  else .next (spdm s 1 [])

/-! ## Sessions and keys (R306, R432, R438) -/

/-- A session_key entry: public key, rights, zeros. -/
def skKey (v : Nat) : Nat := bits v 0 256
def skRights (v : Nat) : Nat := bits v 256 8

/-- Close sessions that a test takes. -/
def closeSessions (s : State) (p : Nat → Sess → Bool) : State :=
  let l := s.sessions.filter (fun x => !p x.1 x.2)
  wr { s with sessions := l, dq := { s.dq with kept := s.dq.kept.filter (fun k => match k.via with | .session n => (tget? l n).isSome | _ => true) } }
    K.sessionsOpen l.length

def enMgmtSession : Enable :=
  { key := K.mgmtSessionEnable,
    check := fun s => [failIf ((upFrom 0 8).all (fun i => skRights (rd s (K.sessionKey i)) == 0)) 0x06 (K.sessionKey 0)],
    covers := fun k => decide (K.sessionKey 0 ≤ k) && decide (k ≤ K.sessionKey 7),
    close := fun s => closeSessions s (fun _ _ => true) }

/-- MGMT_SESSION_ENABLE. -/
def execMgmtSessionEnable (w : WReq) (v : Byte) (s : State) : Outc := enableRow enMgmtSession w v s

/-- A failed authentication, with the transport that it came over. -/
def authEvent (s : State) (transport : Nat) : State := event s 0xA0 6 nodeSlice 1 transport

/-- KEY_EXCHANGE: on the DOE mailbox, or with mutual authentication on the management port. -/
def execKeyExchange (doe : Bool) (pubKey : Nat) (transcript sig : List Byte) (s : State) : Outc :=
  if s.sec.held || inRecovery s then .next s
  else if doe then
    if 4 ≤ s.host.doe.length then .next (spdm s 2 [])
    else
      let n := tfree (s.host.doe.map (fun i => (i, i))) 4 0
      .next (spdm { s with host := { s.host with doe := s.host.doe ++ [n] } } 3 (toBytes 1 n))
  else if !on s K.mgmtSessionEnable then .next s
  else if 4 ≤ s.sessions.length then .next (spdm s 2 [])
  else
    match (upFrom 0 8).find? (fun i => skKey (rd s (K.sessionKey i)) == pubKey && skRights (rd s (K.sessionKey i)) != 0) with
    | none => .next (authEvent s 1)
    | some i =>
      if Config.ed25519Verify pubKey transcript sig then
        let n := tfree s.sessions 4 0
        let s := { s with sessions := tset s.sessions n { entry := i, rights := skRights (rd s (K.sessionKey i)), lastEc := s.tm.ec } }
        .next (spdm (wr s K.sessionsOpen s.sessions.length) 3 (toBytes 1 n))
      else .next (authEvent s 1)

/-- SESSION_IDLE_TIMEOUT. -/
def execSessionIdleTimeout (session : Nat) (s : State) : Outc :=
  match tget? s.sessions session with
  | none => .next s
  | some x =>
    if passed s x.lastEc (rd s K.sessionIdleS * 1000000000) then .next (closeSessions s (fun n _ => n == session)) else .next s

/-- A write of a session_key entry. -/
def hSessionKey (i : Nat) : Handler := fun s _ p =>
  let v := ofBytes p
  if 2 < skRights v || bits v 264 56 != 0 then (s, .refused 0x01 0xA000 (0x18 + i))
  else
    let t := wr s (K.sessionKey i) v
    match (if on s K.mgmtSessionEnable then runningFails enMgmtSession t else none) with
    | some (r, k) => (s, .refused r (k / 256) (k % 256))
    | none => (closeSessions t (fun _ x => x.entry == i), .done)

/-- SESSION_KEY_WRITE. -/
def execSessionKeyWrite (entry : Nat) (w : WReq) (payload : List Byte) (s : State) : Outc :=
  if entry < 8 then .next (rowWrite s w 0xA000 (0x18 + entry) 0 payload (hSessionKey entry)) else .next s

/-- A write of owner_key outside a bundle. -/
def hOwnerKey : Handler := fun s w p =>
  if w.via == .pf && rd s K.ownerKeyState == 0 then (wr (wr s K.ownerKey (ofBytes p)) K.ownerKeyState 1, .done)
  else (s, .refused 0x09 0xA000 0x10)

/-- OWNER_KEY_WRITE. -/
def execOwnerKeyWrite (w : WReq) (payload : List Byte) (s : State) : Outc := .next (rowWrite s w 0xA000 0x10 0 payload hOwnerKey)

/-- IDE_KM (R305): stream 0 CXL.io, 1 CXL.cachemem, over an open secured session of the DOE mailbox. -/
def execIdeKm (session stream : Nat) (establish : Bool) (s : State) : Outc :=
  if !has s.host.doe session || 1 < stream then .next s
  else
    let v := rd s K.ideState
    let off := v - (if bitB v stream then 2 ^ stream else 0)
    .next (wr s K.ideState (if establish then off + 2 ^ stream else off))

/-! ## The staging buffer (R439) -/

/-- The staging buffer takes its 64 MiB of HBM when it is first used (R488). -/
def takeStaging (s : State) : State := if s.holds.any (fun h => h.kind == .staging) then s else takeSpread s .staging 0 67108864

/-- Open the buffer for a transport. -/
def openBuf (s : State) (transport : Nat) : State :=
  let s := takeStaging s
  wr (wr { s with dq := { s.dq with fwBuf := [] }, sec := { s.sec with owner := transport } } K.fwState 1) K.fwRejectReason 0

/-- Put image bytes into the buffer. -/
def fillBuf (s : State) (off : Nat) (data : List Byte) : State :=
  { s with dq := { s.dq with fwBuf := putBytes s.dq.fwBuf off data }, sec := { s.sec with wroteAt := s.tm.ec } }

/-- Empty the buffer: it is abandoned, or its image is done with. -/
def dropBuf (s : State) : State :=
  wr (wr { s with dq := { s.dq with fwBuf := [] }, sec := { s.sec with owner := 0 } } K.fwStagedType 0) K.fwStagedVersion 0

/-- Whether the buffer is taken: received, verified or written. -/
def bufTaken (s : State) : Bool := decide (1 ≤ rd s K.fwState) && decide (rd s K.fwState ≤ 3)

/-- Header fields of the image in the buffer. -/
def bufHead (s : State) : Nat := ofBytes (getBytes s.dq.fwBuf 0 256)

/-- The type and version of the image in the buffer. -/
def showStaged (s : State) : State :=
  wr (wr s K.fwStagedType (bits (bufHead s) 376 8)) K.fwStagedVersion (bits (bufHead s) 448 32)

/-- A write to fw_buffer at an offset. -/
def hFwBuffer (off : Nat) : Handler := fun s w p =>
  let tr := viaTransport w.via
  let st := rd s K.fwState
  if bufTaken s && (s.sec.owner != tr || st != 1) then (s, .refused 0x04 0xA100 1)
  else (showStaged (fillBuf (if off = 0 then openBuf s tr else s) off p), .done)

/-- FW_BUFFER_WRITE. -/
def execFwBufferWrite (w : WReq) (offset : Nat) (payload : List Byte) (s : State) : Outc :=
  .next (rowWrite s w 0xA100 4 offset payload (hFwBuffer offset))

def hFwApply : Handler := trigger 0xA100 5 (fun s =>
  if rd s K.fwState == 2 || rd s K.fwState == 3 then (s, .refused 0x04 0xA100 1) else (wr s K.fwState 2, .done))

/-- FW_APPLY. -/
def execFwApply (w : WReq) (v : Byte) (s : State) : Outc := .next (rowWrite s w 0xA100 5 0 [v] hFwApply)

/-- Abandon the buffer while it receives or was rejected. -/
def abortFw (s : State) : State :=
  if rd s K.fwState == 1 || rd s K.fwState == 5 then wr (dropBuf s) K.fwState 0 else s

def hFwAbort : Handler := trigger 0xA100 6 (fun s => (abortFw s, .done))

/-- FW_ABORT. -/
def execFwAbort (w : WReq) (v : Byte) (s : State) : Outc := .next (rowWrite s w 0xA100 6 0 [v] hFwAbort)

/-- FW_BUFFER_TIMEOUT. -/
def execFwBufferTimeout (s : State) : Outc :=
  if rd s K.fwState == 1 && passed s s.sec.wroteAt 10000000000 then .next (wr (dropBuf s) K.fwState 0) else .next s

/-- FW transfer out of order (PRESUMED value, of CXL 3.1). -/
def mbFwOutOfOrder : Nat := 0x9

/-- TRANSFER_FW: action 0 full, 1 initiate, 2 continue, 3 end, 4 abort; the offset counts 128 bytes. -/
def execTransferFw (fn action slot offset : Nat) (data : List Byte) (s : State) : Outc :=
  if !linkUp s then .next s
  else if fn != 0 then .next (mailbox s fn mbUnsupported [])
  else
    let mine := rd s K.fwState == 1 && s.sec.owner == 3
    let put (t : State) : State :=
      let t := showStaged (fillBuf t (offset * 128) data)
      wr t K.fwLength (offset * 128 + data.length)
    match action with
    | 4 => .next (mailbox (if mine || rd s K.fwState == 5 then abortFw s else s) fn mbSuccess [])
    | 0 =>
      if slot != 1 then .next (mailbox s fn mbFwInvalidSlot [])
      else if bufTaken s && !mine then .next (mailbox s fn mbBusy [])
      else .next (mailbox (wr (put (openBuf s 3)) K.fwState 2) fn mbSuccess [])
    | 1 => if bufTaken s && !mine then .next (mailbox s fn mbBusy []) else .next (mailbox (put (openBuf s 3)) fn mbSuccess [])
    | 2 => if mine then .next (mailbox (put s) fn mbSuccess []) else .next (mailbox s fn mbFwOutOfOrder [])
    | 3 =>
      if slot != 1 then .next (mailbox s fn mbFwInvalidSlot [])
      else if mine then .next (mailbox (wr (put s) K.fwState 2) fn mbSuccess []) else .next (mailbox s fn mbFwOutOfOrder [])
    | _ => .next (mailbox s fn mbInvalidInput [])

/-! ## Verification (R430) -/

/-- Keys that a KEY_REVOKE would leave unrevoked. -/
def keysAfter (s : State) (body : Nat) : Nat := rd s K.keysRevoked ||| (body % 16)

/-- Check 1: the form of the header, its length, and what the two special types carry. -/
def imgFormOk (s : State) (h len : Nat) (body : List Byte) : Bool :=
  let t := bits h 376 8
  let n := bits h 480 32
  let k := bits h 368 8
  bits h 0 64 == 0x31474D4936334B48 && bits h 352 8 == 1 && decide (1 ≤ t) && decide (t ≤ 8) && bits h 64 288 == 0
  && bits h 361 7 == 0 && bits h 512 384 == 0 && decide (bits h 416 32 ≤ 63) && len == 256 + n
  && (if t == 8 then n == 0 else if t == 7 then n == 1 else decide (1 ≤ n) && decide (n ≤ 67108608))
  && (t != 7 || (!bitB (ofBytes body) k && keysAfter s (ofBytes body) != 15))

/-- The reject reason of an image, 0 where it passes every check. -/
def imgReject (s : State) (img : List Byte) : Nat :=
  let h := ofBytes (img.take 256)
  let body := img.drop 256
  let t := bits h 376 8
  let unit := bits h 896 128
  if !imgFormOk s h img.length body then 0x01
  else if bits h 384 32 != 0x3640 then 0x02
  else if 3 < bits h 368 8 || bitB (rd s K.keysRevoked) (bits h 368 8) then 0x03
  else if !Config.ed25519Verify (Config.maeltinKey (bits h 368 8)) (img.take 192) (toBytes 64 (bits h 1536 512)) then 0x04
  else if Config.sha512 body != bits h 1024 512 then 0x05
  else if (unit != 0 && unit != rd s K.unitId) || (t == 8 && unit == 0) then 0x06
  else if bits h 416 32 < svnFloorOf s t then 0x07
  else if bits h 360 1 == 1 && rd s K.lifecycle != 2 then 0x08
  else if t == 4 && bits h 472 8 != (runImg s 3 0).version / 2 ^ 24 then 0x09
  else 0

/-- Carry out a KEY_REVOKE or an OWNER_RELEASE. -/
def carryOut (s : State) (t : Nat) (body : List Byte) : State :=
  let s := bump (wr (dropBuf s) K.fwState 4) K.updatesApplied 1
  if t == 7 then wr s K.keysRevoked (keysAfter s (ofBytes body))
  else
    let s := wr (wr (wr s K.ownerKey 0) K.ownerKeyState 0) K.bundleSequenceLast 0
    closeSessions ((upFrom 0 8).foldl (fun u i => wr u (K.sessionKey i) 0) s) (fun _ _ => true)

/-- The image in the buffer. -/
def stagedImage (s : State) : List Byte := getBytes s.dq.fwBuf 0 (rd s K.fwLength)

/-- FW_VERIFY_DONE. -/
def execFwVerifyDone (s : State) : Outc :=
  if rd s K.fwState != 2 then .next s
  else
    let img := stagedImage s
    let t := bits (ofBytes (img.take 256)) 376 8
    let r := imgReject s img
    if r != 0 then
      let s := wr (wr s K.fwState 5) K.fwRejectReason r
      let s := if s.sec.owner == 3 then mailbox s 0 mbFwAuthFailed [] else s
      .next (event s 0xA0 1 nodeSlice 2 (packBits [(8, t), (8, r)]))
    else if t ≤ 6 then .next (wr s K.fwState 3)
    else .next (carryOut s t (img.drop 256))

/-- FW_WRITE_DONE (R440). -/
def execFwWriteDone (s : State) : Outc :=
  if rd s K.fwState != 3 then .next s
  else
    let img := stagedImage s
    let h := ofBytes (img.take 256)
    let t := bits h 376 8
    let i : FwImg := { version := bits h 448 32, svn := bits h 416 32, key := bits h 368 8, debug := bitB h 360,
                       digest := some (Config.sha512 img), ok := true }
    let s := { s with sec := { s.sec with flash := tset s.sec.flash t i } }
    let s := bump (wr (wr s K.fwState 4) (K.fwFlashVersion (t - 1)) i.version) K.updatesApplied 1
    .next (event s 0xA0 2 nodeSlice 0 (packBits [(8, t), (32, i.version)]))

/-! ## Activation (R441) -/

/-- Start activation in slices. -/
def activate (s : State) (l : List Nat) : State := { s with sec := { s.sec with activating := l.foldl addNew s.sec.activating } }

/-- A write of fw_activate_slices. In recovery any value resets the node. -/
def hFwActivate : Handler := fun s _ p =>
  let v := ofBytes p
  if inRecovery s then (boot (resetState s) false, .done)
  else
    let l := (upFrom 0 4).filter (fun sl => bitB v sl)
    match firstFail (failIf (decide (16 ≤ v)) 0x01 K.fwActivateSlices :: l.map (fun sl => failIf (rd s (K.sliceState sl) != 3) 0x05 (K.sliceState sl))) with
    | some (c, k) => (s, .refused c (k / 256) (k % 256))
    | none => (activate s l, .done)

/-- FW_ACTIVATE_SLICES. -/
def execFwActivateSlices (w : WReq) (v : Byte) (s : State) : Outc := .next (rowWrite s w 0xA100 7 0 [v] hFwActivate)

/-- ACTIVATE_FW: action 0 online, 1 at the next reset. -/
def execActivateFw (fn action slot : Nat) (s : State) : Outc :=
  if !linkUp s then .next s
  else if fn != 0 then .next (mailbox s fn mbUnsupported [])
  else if slot != 1 then .next (mailbox s fn mbFwInvalidSlot [])
  else if inRecovery s then .next (boot (resetState (mailbox s fn mbSuccess [])) false)
  else if action == 0 then .next (mailbox (activate s ((upFrom 0 4).filter (fun sl => rd s (K.sliceState sl) == 3))) fn mbSuccess [])
  else if action == 1 then .next (mailbox s fn mbSuccess [])
  else .next (mailbox s fn mbInvalidInput [])

/-- One type of image starts to run in a slice. -/
def runIn (sl : Nat) (s : State) (t : Nat) : State :=
  let i := flashImg s t
  if runImg s t sl == i then s
  else
    let s := { s with sec := { s.sec with running := tset s.sec.running (t * 8 + sl) i } }
    let s := if t == 4 then wr (measure s (5 + sl) (imgDigest 4 i)) (K.sliceFwVersion sl) i.version else s
    event s 0xA0 3 nodeSlice 0 (packBits [(8, t), (8, 2 ^ sl), (32, i.version)])

/-- IMAGE_ACTIVATED. -/
def execImageActivated (slice : Nat) (s : State) : Outc :=
  if has s.sec.activating slice then
    .next ((upFrom 4 3).foldl (runIn slice) { s with sec := { s.sec with activating := without s.sec.activating slice } })
  else .next s

/-! ## Security versions (R442) -/

/-- The lowest svn that runs of a type. -/
def lowestRunning (s : State) (t : Nat) : Nat :=
  if t ≤ 3 then (runImg s t 0).svn else ((upFrom 0 4).map (fun sl => (runImg s t sl).svn)).foldl min 255

/-- The floors that svn_commit sets. -/
def newFloors (s : State) : Nat :=
  packBits ((upFrom 1 8).map (fun t => (8, if t ≤ 6 then max (svnFloorOf s t) (min (flashImg s t).svn (lowestRunning s t)) else svnFloorOf s t)))

def hSvnCommit : Handler := trigger 0xA100 0x0C (fun s =>
  if inRecovery s then (s, .refused 0x09 0xA100 0x0C)
  else
    let f := newFloors s
    if f == rd s K.svnFloor then (s, .done) else (event (wr s K.svnFloor f) 0xA0 7 nodeSlice 1 f, .done))

/-- SVN_COMMIT. -/
def execSvnCommit (w : WReq) (v : Byte) (s : State) : Outc := .next (rowWrite s w 0xA100 0x0C 0 [v] hSvnCommit)

end Sys2Proof.Machine
end

