-- ==== Sys2Proof/Machine/Integrity.lean ====
section
/-! DEFINITION. Parity, replay and poison (R380 to R385), check-value units (R386 to R388), slice faults and salvage (R389 to
R391), the maintenance window's opening, and the event log's own commands (R403, R404). -/

namespace Sys2Proof.Machine

/-! ## Slice states (R466) -/

/-- Tell the Lead of a slice that comes into or leaves service. -/
def tellSlice (s : State) (sl st : Nat) : State :=
  if rd s K.membershipState == 0 || myNode s == 0xFFFF then s else mgmt s (leadNode s) (.sliceReport sl st)

/-- Change a slice's state. -/
def setSlice (s : State) (sl st : Nat) : State :=
  let was := rd s (K.sliceState sl)
  let s := wr s (K.sliceState sl) st
  if (was == 1) == (st == 1) then s else tellSlice s sl st

/-! ## Lost state (R389, R390) -/

/-- End a share whose state is lost: a gap for its Sheets, and its record counts as received. In the comparator cycle of its
deadline it is abandoned without a gap. -/
def loseShare (s : State) (x : Share) : State :=
  match ctxOf s x.ctx with
  | none => dropShare s x
  | some c =>
    if s.att.dls.any (fun d => d.2.2 == c.work && cycleOf (d.2.1 * 33) == cycleOf s.tm.ht) then abandonShare s x
    else
      let s := addPenalty (bump s (K.sharesStateLost x.slice) 1) 6 1
      let (s, c) := addGaps s c (missingGaps s c.tk.raw x ++ runGaps s c.tk.raw St.stateLost x.slice (x.sheets.map (fun k => k % 2 ^ 32)))
      let c := { c with ownOut := without c.ownOut x.id }
      let s := dropShare (putCtx s c) x
      if c.ownOut.isEmpty then foldOwn s c else s

/-- A merge context is lost (R390). -/
def loseCtx (s : State) (c : Ctx) : State :=
  let s := (s.att.shares.filter (fun x => x.ctx == c.work)).foldl dropShare s
  let s := bump (releaseCtx s c) K.gapsEmitted 1
  if c.root then completeAs s c.tk St.stateLost 0 0 [] false
  else postFor s (tkTenant c.tk.raw) c.tree.parent c.tk.cls (.set (refusalSet s c.tk.raw St.stateLost) 1 false)

/-- Appends pending in Quires of a slice are withdrawn, youngest first (R389 item 3), each with those pending that were admitted to its
Ream after it, whose positions follow on its own. DESIGN CHOICE (log entry 132). -/
def loseAppends (s : State) (sl : Nat) : State :=
  let hit (a : App) : Bool := a.wait == 0 && a.writes.any (fun w => match tget? s.kv.quires (quireOfSheet w.1) with
    | some q => q.slice == sl | none => false)
  let mine (a : App) : Bool := a.wait == 0 && ((s.att.appends.takeWhile (fun x => x.tk.id != a.tk.id)) ++ [a]).any (fun x =>
    hit x && tkTenant x.tk.raw == tkTenant a.tk.raw && bReam x.tk.raw == bReam a.tk.raw)
  let l := s.att.appends.filter mine
  let s := { s with att := { s.att with appends := s.att.appends.filter (fun a => !mine a) } }
  l.reverse.foldl (fun t a => completeAs (withdrawAppend t a) a.tk St.stateLost 0 0 [] false) s

/-- Salvage one Quire of a faulted slice (R391). -/
def salvage (s : State) (p : Nat × Quire) : State :=
  let s := dropMove s p.1 p.2
  let q := { p.2 with move := none }
  match moveAway s p.1 q 5 with
  | some t => t
  | none => loseQuire (bump s (K.salvageFailures q.slice) 1) p.1 q

/-- A slice faults (R389, R391, R464), and the merge contexts on its port die are lost (R14, R390): answers, whether its memory controllers still answer. -/
def sliceFault (s : State) (sl cause : Nat) (answers : Bool) : State :=
  if rd s (K.sliceState sl) == 4 || 4 ≤ sl then s
  else
    let s := if rd s (K.sliceState sl) == 2 then wr s (K.sliceOpState sl) 5 else s
    let s := event (setSlice s sl 4) 0x80 5 sl 3 cause
    let s := (sliceShares s sl).foldl loseShare s
    let s := (s.ctxs.filter (fun c => c.place / 1024 == sl)).foldl (fun t c => if c.closed then releaseCtx t c else loseCtx t c) s
    let s := loseAppends s sl
    let l := byRecord (sliceQuires s sl)
    afterMove (if answers then l.foldl salvage s else l.foldl (fun t p => loseQuire t p.1 p.2) s)

/-- SLICE_WATCHDOG_TIMEOUT. -/
def execSliceWatchdogTimeout (slice : Nat) (answers : Bool) (s : State) : Outc := .next (sliceFault s slice 0 answers)

/-! ## Poison tables (R383) -/

/-- Say once that a table is full. -/
def sayFull (s : State) (st table : Nat) : State :=
  if has s.rel.tableSaid (2 * st + table) then s
  else event { s with rel := { s.rel with tableSaid := s.rel.tableSaid ++ [2 * st + table] } } 0x80 4 (st / 2) 2 (packBits [(8, st), (8, table)])

/-- Blocks that a stack's block table holds. -/
def stackBlocks (s : State) (st : Nat) : Nat :=
  (s.rel.pblocks.filter (fun p => p.1 == st)).length
  + (s.mem.poisonBlocks.filter (fun b => match mapAt s (b * blockBytes) with | some m => stackOf m (b * blockBytes) == st | none => false)).length

/-- A line of a stack enters its tables: inside, whether they hold it; one and many, what puts in the line and its block. -/
def tableLine (s : State) (st : Nat) (inside : Bool) (one many : State → State) : State :=
  if inside then s
  else if rd s (linesObj st) < 16384 then bump (one s) (linesObj st) 1
  else if stackBlocks s st < 1024 then bump (many (sayFull s st 0)) (K.poisonBlocksUsed (st / 2)) 1
  else sliceFault (sayFull (sayFull s st 0) st 1) (st / 2) 2 true

/-- A line of a stack outside the DPA space is poisoned. -/
def poisonLine (s : State) (st line : Nat) : State :=
  tableLine s st (s.rel.plines.any (fun p => p == (st, line)) || s.rel.pblocks.any (fun p => p == (st, line / 1024)))
    (fun s => { s with rel := { s.rel with plines := s.rel.plines ++ [(st, line)] } })
    (fun s => { s with rel := { s.rel with pblocks := s.rel.pblocks ++ [(st, line / 1024)] } })

/-- A line of the DPA space is poisoned, unless a write of the whole line in the same ec wins. -/
def poisonDpa (s : State) (dpa : Nat) : State :=
  match mapAt s dpa with
  | none => s
  | some m =>
    if justWritten s (dpa / 64) then s
    else tableLine s (stackOf m dpa) (linePoisoned s dpa)
      (fun s => { s with mem := { s.mem with poison := s.mem.poison ++ [dpa / 64] } })
      (fun s => { s with mem := { s.mem with poisonBlocks := s.mem.poisonBlocks ++ [dpa / blockBytes] } })

/-! ## Poisoned words (R382) -/

/-- A poisoned word is counted and written to the log. -/
def sayPoison (s : State) (path place addr sl : Nat) : State :=
  event (bump s K.wordsPoisoned 1) 0x80 1 sl 2 (packBits [(8, path), (8, place), (64, addr)])

/-- Retire an engine until the next node reset (R9). It is number 32 × s + n of the node (R7, R10). -/
def retireEngine (s : State) (sl e : Nat) : State :=
  if has s.rel.enginesOut (sl * 32 + e) || 4 ≤ sl || 32 ≤ e then s
  else
    let s := { s with rel := { s.rel with enginesOut := s.rel.enginesOut ++ [sl * 32 + e] } }
    event (wr s (K.enginesInService sl) (rd s (K.enginesInService sl) - 1)) 0x80 2 sl 2 (sl * 32 + e)

/-- A lane failure (R9, R382). -/
def laneFail (s : State) (sl e lane : Nat) : State :=
  let k := (sl * 64 + e) * 64 + lane
  let n := tget s.rel.laneFails k 0 + 1
  let s := bump { s with rel := { s.rel with laneFails := tset s.rel.laneFails k n } } K.laneFailures 1
  if 3 ≤ n then retireEngine s sl e else s

/-- A Felt block leaves the shared pool until node reset. -/
def retireFelt (s : State) (sl b : Nat) : State :=
  if has s.rel.feltDead (sl * 64 + b) then s
  else
    event (bump { s with rel := { s.rel with feltDead := s.rel.feltDead ++ [sl * 64 + b] } } K.feltBlocksRetired 1) 0x80 3 sl 1 b

/-- The score array of a slice goes out of service until the next node reset (R187): what was planned for it goes to engines. -/
def dropArray (s : State) (sl : Nat) : State := serveStack sl (unplan (wr s (K.scoreArrayState sl) 1) sl true)

def poisonSheet (s : State) (k : Nat) : State :=
  { s with kv := { s.kv with sheets := tmod s.kv.sheets k (fun sh => { sh with poisoned := true }) } }

/-- The share at a place of a slice's queue loses its state. -/
def loseAt (s : State) (sl share : Nat) : State :=
  match (sliceShares s sl)[share]? with | some x => loseShare s x | none => s

/-- The oldest packet that a port die holds is discarded. -/
def dropPacket (s : State) (die : Nat) : State :=
  match (upFrom (9 * die) 9).find? (fun l => !(egressOf s l).q.isEmpty) with
  | some l => bump (putEgress s l { egressOf s l with q := (egressOf s l).q.drop 1 }) (K.flitsDiscarded l) 1
  | none => s

def quireSliceOf (s : State) (qk : Nat) : Nat := match tget? s.kv.quires qk with | some q => q.slice | none => 0xF

/-- What a poisoned word does, by where it lies. -/
def poisonWord (s : State) : ParityAt → State
  | .engine sl e lane share => loseAt (laneFail (sayPoison s 0 (sl * 32 + e) 0 sl) sl e lane) sl share
  | .feltStaging sl b => retireFelt (sayPoison s 1 sl (b * feltBlock) sl) sl b
  | .feltHome k addr => poisonSheet (sayPoison s 1 (quireSliceOf s (quireOfSheet k)) addr (quireSliceOf s (quireOfSheet k))) k
  | .sheetLine k st addr => poisonSheet (poisonLine (sayPoison s 2 st addr (st / 2)) st (addr / 64)) k
  | .deckleLine k st addr =>
    let s := poisonLine (sayPoison s 2 st addr (st / 2)) st (addr / 64)
    { s with kv := { s.kv with deckles := tmod s.kv.deckles k (fun d => { d with poisoned := true }) } }
  | .indexEntry index item st addr =>
    let s := poisonLine (sayPoison s 2 st addr (st / 2)) st (addr / 64)
    { s with srch := { s.srch with items := s.srch.items.map (fun x =>
        if x.index == index && x.item == item then { x with poisoned := true } else x) } }
  | .quireRecord qk st addr =>
    let s := poisonLine (sayPoison s 2 st addr (st / 2)) st (addr / 64)
    (quireSheets s qk).foldl (fun t p => poisonSheet t p.1) s
  | .hostLine dpa =>
    let st := match mapAt s dpa with | some m => stackOf m dpa | none => 0
    poisonDpa (sayPoison s 2 st dpa (st / 2)) dpa
  | .hbmLine st addr => poisonLine (sayPoison s 2 st addr (st / 2)) st (addr / 64)
  | .scoreArray sl => dropArray (sayPoison s 2 (2 * sl) 0 sl) sl
  | .xbarRecord sl share => loseAt (sayPoison s 4 sl 0 sl) sl share
  | .xbarPacket die off => dropPacket (sayPoison s 4 die off die) die
  | .mergeRow ctx off =>
    match ctxOf s ctx with
    | none => s
    | some c => loseCtx (sayPoison s 5 (c.place / 1024) off (c.place / 1024)) c

/-- The counts of a guarded record's failed check, before any replay (R115, R385). -/
def countCheck (s : State) (at_ : ParityAt) (check : RecordCheck) : State :=
  if check = .none then s
  else
    let s := if check = .stale then bump s K.staleRecords 1 else s
    match at_ with
    | .feltHome k _ | .sheetLine k _ _ | .deckleLine k _ _ => bump s (K.metadataCheckFailures (quireSliceOf s (quireOfSheet k))) 1
    | _ => s

/-- PARITY_ERROR (R381). failed: replays that fail, of at most three. -/
def execParityError (at_ : ParityAt) (check : RecordCheck) (failed : Nat) (s : State) : Outc :=
  let s := bump (countCheck s at_ check) K.replaysTotal (min 3 (failed + 1))
  .next (if 3 ≤ failed then poisonWord s at_ else s)

/-! ## Check-value units (R386 to R388) -/

def cvRunning (w : Nat) : Nat := bits w 192 64
def cvBase (w : Nat) : Nat := bits w 64 64
def cvLength (w : Nat) : Nat := bits w 32 32
def cvStateOf (w : Nat) : Nat := bits w 28 4
def cvPoly (w : Nat) : Nat := bits w 27 1

def cvWord (running final base len st poly : Nat) : Nat :=
  packBits [(27, 0), (1, poly), (4, st), (32, len), (64, base), (64, final), (64, running)]

/-- The initial running value of a poly. -/
def cvInit (poly : Nat) : Nat := if poly = 0 then 0xFFFFFFFF else 0

/-- A context's record. -/
def cvOf (s : State) (c : Nat) : Nat := tget s.rel.cvs c (cvWord (cvInit 0) 0 0 0 0 0)

def putCv (s : State) (c w : Nat) : State :=
  let s := { s with rel := { s.rel with cvs := tset s.rel.cvs c w } }
  if rd s K.cvSelect == c then wr s K.cvEntry w else s

/-- Feed bytes into a running value. -/
def cvFeed (poly running : Nat) (l : List Byte) : Nat := if poly = 0 then crc32cCont running l else crc64 running l

/-- Feed lines in ascending order up to a poisoned one: the state, the running value, and whether one was met. -/
def cvLines (poly : Nat) : List Nat → State → Nat → State × Nat × Bool
  | [], s, r => (s, r, false)
  | l :: rest, s, r =>
    let (s, b, bad) := nodeLine s l
    if bad then (s, r, true) else cvLines poly rest s (cvFeed poly r b)

/-- Refusals of the selected context. -/
def cvLocked (s : State) : Bool := decide (rd s K.cvSelect % 64 < 48)

/-- A write of cv_entry: final and state are read only. -/
def hCvEntry : Handler := fun s _ p =>
  let w := ofBytes p
  let c := rd s K.cvSelect
  let old := cvOf s c
  if cvLocked s then (s, .refused 0x09 0x8000 0x10)
  else if cvStateOf old == 1 then (s, .refused 0x05 0x8000 0x11)
  else if cvBase w % 64 != 0 || cvLength w % 64 != 0 || cvLength w == 0 || bits w 0 27 != 0 || (cvPoly w == 0 && cvRunning w / 2 ^ 32 != 0) then
    (s, .refused 0x01 0x8000 0x11)
  else (putCv s c (cvWord (cvRunning w) (bits old 128 64) (cvBase w) (cvLength w) (cvStateOf old) (cvPoly w)), .done)

/-- Whether a RUN's range lies in one active extent. -/
def cvRangeOk (s : State) (w : Nat) : Bool :=
  cvLength w != 0 && (match extentOf s (cvBase w) (cvLength w) with | some (_, e) => e.state == 1 | none => false)

/-- A write of cv_op (R388), its reasons in the order of R48; fed: 64-byte lines that a RUN has fed when ABORT stops it. -/
def hCvOp (fed : Nat) : Handler := fun s _ p =>
  let c := rd s K.cvSelect
  let w := cvOf s c
  let busy := cvStateOf w == 1
  if cvLocked s then (s, .refused 0x09 0x8000 0x10) else
  match ofBytes p with
  | 1 =>
    if busy then (s, .refused 0x05 0x8000 0x11)
    else (putCv s c (cvWord (cvInit (cvPoly w)) (bits w 128 64) (cvBase w) (cvLength w) 0 (cvPoly w)), .done)
  | 2 =>
    if busy then (s, .refused 0x05 0x8000 0x11)
    else if !cvRangeOk s w then (s, .refused 0x01 0x8000 0x11)
    else (putCv s c (cvWord (cvRunning w) (bits w 128 64) (cvBase w) (cvLength w) 1 (cvPoly w)), .done)
  | 3 =>
    if !busy then (s, .done)
    else
      let (s, r, hit) := cvLines (cvPoly w) (upFrom (cvBase w / 64) (min fed (cvLength w / 64))) s (cvRunning w)
      (putCv s c (cvWord r (bits w 128 64) (cvBase w) (cvLength w) (if hit then 3 else 0) (cvPoly w)), .done)
  | _ => (s, .refused 0x01 0x8000 0x12)

/-- CV_RESET. -/
def execCvReset (w : WReq) (s : State) : Outc := .next (rowWrite s w 0x8000 0x12 0 [1] (hCvOp 0))

/-- CV_RUN. -/
def execCvRun (w : WReq) (s : State) : Outc := .next (rowWrite s w 0x8000 0x12 0 [2] (hCvOp 0))

/-- CV_ABORT. -/
def execCvAbort (w : WReq) (fed : Nat) (s : State) : Outc := .next (rowWrite s w 0x8000 0x12 0 [3] (hCvOp fed))

/-- CV_RUN_DONE: the end of a RUN, at its last byte or at a poisoned line. It is background work (R410): it waits while the
throttle defers it (R415) and until its slice has budget for it. -/
def execCvRunDone (ctx : Nat) (s : State) : Outc :=
  let w := cvOf s ctx
  if cvStateOf w != 1 || deferred s then .next s
  else if !hasBudget s (ctx / 64) 3 then .next (askBudget s (ctx / 64) 3 8)
  else
    let (s, r, hit) := cvLines (cvPoly w) (upFrom (cvBase w / 64) (cvLength w / 64)) s (cvRunning w)
    let final := if hit then bits w 128 64 else if cvPoly w = 0 then r ^^^ 0xFFFFFFFF else r
    .next (putCv s ctx (cvWord r final (cvBase w) (cvLength w) (if hit then 3 else 2) (cvPoly w)))

/-! ## The event log (R403, R404) -/

/-- EVENT: the Lead writes a forwarded entry in its own log, with its original Herd Time. -/
def execEvent (_src entry : Nat) (s : State) : Outc :=
  .next (if isLead s && decide (rd s K.logMinSeverity ≤ bits entry 104 4) then logPut s (entry % 2 ^ 256) else s)

/-- The log as a clear leaves it. -/
def clearLog (s : State) : State := wr { s with log := [] } K.logHead 0

def hLogClear : Handler := trigger 0x8200 5 (fun s => (clearLog s, .done))

/-- LOG_CLEAR. -/
def execLogClear (w : WReq) (v : Byte) (s : State) : Outc := .next (rowWrite s w 0x8200 5 0 [v] hLogClear)

def enTrace : Enable := { key := K.traceTriggerEnable, claim := some K.claim8200, check := fun _ => [] }

/-- TRACE_TRIGGER_ENABLE. -/
def execTraceTriggerEnable (w : WReq) (v : Byte) (s : State) : Outc := enableRow enTrace w v s

/-! ## The maintenance window -/

/-- MAINT_OPEN (R73): eqFailed: the links of the slice whose re-adaptation fails and that keep their settings (R313);
stackFailed: a stack fails training in the window (R389). -/
def execMaintOpen (slice entry : Nat) (eqFailed : List Nat) (stackFailed : Bool) (s : State) : Outc :=
  match dueEntry s slice entry 6 with
  | none => .next s
  | some e =>
    let s := takeOccurrence s slice entry e
    let s := { s with sch := { s.sch with maint := addNew s.sch.maint slice },
                      rel := { s.rel with laneFails := s.rel.laneFails.filter (fun p => p.1 / 64 / 64 != slice) } }
    let s := (linksOf slice).foldl (fun t l =>
      if rd t (K.linkState l) == 2 && has eqFailed l then bump t (K.eqAdaptFailures l) 1 else t) s
    let s := (linksOf slice).foldl restoreLanes s
    let s := recalibrate (rebalance (spreadSlice s slice) slice) slice
    .next (if stackFailed then sliceFault s slice 1 false else s)


end Sys2Proof.Machine
end

