-- ==== Sys2Proof/Machine/Compose.lean ====
section
/-! DEFINITION. The composition map and its epochs (R371 to R375), and the handoff of Quires (R376, R398). -/

namespace Sys2Proof.Machine

def setHerd (s : State) (h : HerdSt) : State := { s with herd := h }

/-- A management message whose sender lacks the role it needs is discarded and counted (R321). -/
def refuseMgmt (s : State) : State := bump s K.mgmtRefused 1

/-! ## Entries of the map -/

def mapEntry? (m : List MapEntry) (n : Nat) : Option MapEntry := m.find? (fun e => e.node == n)

/-- Set the entry of a node. -/
def setEntry (m : List MapEntry) (e : MapEntry) : List MapEntry := m.filter (fun x => x.node != e.node) ++ [e]

/-- Change the entry of a node, where there is one. -/
def modEntry (n : Nat) (f : MapEntry → MapEntry) (m : List MapEntry) : List MapEntry := m.map (fun e => if e.node == n then f e else e)

/-- Bits of the node's slices in service, and of those with duty RETRIEVAL. -/
def serviceBits (s : State) : Nat := sumNat ((inService s).map (fun i => 2 ^ i))
def retrievalBits (s : State) : Nat := sumNat (((upFrom 0 4).filter (fun i => rd s (K.sliceDuty i) == 1)).map (fun i => 2 ^ i))

/-- The entry of the Lead itself. -/
def leadEntry (s : State) : MapEntry :=
  { node := 0, role := 1, membership := 6, inService := serviceBits s, retrieval := retrievalBits s, spareGroup := 0xFFFF }

/-- The members of a map. -/
def members (m : List MapEntry) : List MapEntry := m.filter (fun e => e.role == 2)

/-- The journal partner of a member (R399): the next member in ascending node number that is not in its spare group. -/
def partnerOf (m : List MapEntry) (n : Nat) : Nat :=
  let g := match mapEntry? m n with | some e => e.spareGroup | none => 0xFFFF
  let l := ((members m).filter (fun e => e.node != n && (e.spareGroup != g || g == 0xFFFF))).map MapEntry.node
  let up := l.filter (fun k => decide (n < k))
  let least (l : List Nat) : Option Nat := l.foldl (fun (a : Option Nat) k => some (match a with | some b => min b k | none => k)) none
  ((least up).or (least l)).getD 0xFFFF

/-! ## The Lead changes the map (R373) -/

def nextEpoch (e : Nat) : Nat := if 0xFFFF ≤ e then 1 else e + 1

/-- The map that the Lead will name next. -/
def plannedMap (s : State) : List MapEntry :=
  s.herd.mapWant.getD (match s.herd.mapNext with | some m => m.map | none => s.herd.map)

/-- Whether an epoch may be named for a step: the window of the previous epoch has then ended. -/
def mayName (s : State) (step : Nat) : Bool := rd s K.mapEpochPrevious == 0 || decide (rd s K.drainEndStep ≤ step)

/-- Send the map of the next epoch to every node of it and of the old one, once that epoch may be named. -/
def tryMap (s : State) : State :=
  let h := s.herd
  if isLead s && h.mapNext.isNone && (h.mapWant.isSome || !h.readyWant.isEmpty) && mayName s (rd s K.currentStep + 1) then
    let m : MapMsg := { epoch := nextEpoch (rd s K.mapEpoch), drain := gv s K.epochDrainSteps, map := plannedMap s, ready := h.readyWant }
    let nodes := (((h.map ++ m.map).map MapEntry.node).eraseDups).filter (fun n => n != myNode s)
    let s := setHerd s { h with mapNext := some m, mapWant := none, readyWant := [] }
    nodes.foldl (fun t n => mgmt t n (.mapUpdate m)) s
  else s

/-- The Lead wants a change of the map. -/
def wantMap (s : State) (f : List MapEntry → List MapEntry) : State :=
  if isLead s then tryMap (setHerd s { s.herd with mapWant := some (f (plannedMap s)) }) else s

/-! ## Handoffs (R376) -/

/-- Two orders for the same range. -/
def sameOrder (a b : Handoff) : Bool :=
  a.src == b.src && a.dst == b.dst && a.tenant == b.tenant && a.ream == b.ream && a.layerFirst == b.layerFirst && a.layerLast == b.layerLast
  && a.headFirst == b.headFirst && a.headLast == b.headLast && a.quireFirst == b.quireFirst && a.quireLast == b.quireLast

/-- Whether an order names a Quire. -/
def inOrder (o : Handoff) (tenant ream layer head num : Nat) : Bool :=
  o.tenant == tenant && o.ream == ream && decide (o.layerFirst ≤ layer) && decide (layer ≤ o.layerLast) && decide (o.headFirst ≤ head)
  && decide (head ≤ o.headLast) && decide (o.quireFirst ≤ num) && decide (num ≤ o.quireLast)

def ordersQuire (o : Handoff) (q : Quire) : Bool := inOrder o q.tenant q.ream q.layer q.head q.num

/-- The move that marks a Quire which a handoff is still copying in. -/
def takingIn (sl : Nat) : Move :=
  { target := 7, restarts := 0, region := 0, kib := 0, start := 0, tk := 0, slice := sl, bytesK := 0, bytesV := 0, kCarrying := false }

def isTakingIn (q : Quire) : Bool := match q.move with | some m => m.target == 7 | none => false

/-- HBM space of a Quire's Sheets, and of those still to come, with its Deckles. -/
def imageSpace (l : List Sheet) : Nat × Nat :=
  let (kf, vf, d) := quireFmts l
  let miss := 16 - l.length
  (sumNat (l.map sheetK) + miss * 1024 * (halfGranules kf d + extGranules kf d),
   sumNat (l.map (fun h => sheetV h + 256)) + miss * (1024 * (halfGranules vf d + extGranules vf d) + 256) + deckleBytes)

/-- Put one Quire in HBM where R184 finds room: none where it finds none. -/
def placeImage (s : State) (im : QuireImage) (taking : Bool) : Option State :=
  let qk := quireKey im.tenant im.ream im.layer im.head im.num
  let (k, v) := imageSpace im.sheets
  match tget? s.kv.quires qk, placeQuire s (backingRoom s) im.ream im.layer im.head im.num k v with
  | none, some (sl, car) =>
      let (i, s) := fresh s
      let q : Quire :=
        { tenant := im.tenant, ream := im.ream, layer := im.layer, head := im.head, num := im.num, slice := sl, tier := 0,
          kCarrying := car, tookIn := taking, departing := false, record := Config.freeNat i % 2 ^ 32, touch := rd s K.currentStep,
          kShare := k, vShare := v, region := 0, kib := 0, start := 0, vatPoison := false,
          move := if taking then some (takingIn sl) else none, place := i, deckled := im.deckles.map Prod.fst }
      let s := makeQuireEntry (putQuire s qk q) q
      let s := im.sheets.foldl putSheet s
      let key (d : Nat × Deckle) : Nat := sheetKey im.tenant im.ream im.layer im.head (16 * im.num + d.1)
      -- a Deckle whose codebook this node does not hold is built again (R195)
      let stale := im.deckles.filter (fun d => staleDeckle s im.tenant im.layer im.head d.2)
      some { s with kv := { s.kv with
        deckles := im.deckles.foldl (fun t d => tset t (key d) d.2) s.kv.deckles, builds := s.kv.builds ++ stale.map key } }
  | _, _ => none

def placeImages : List QuireImage → State → Option State
  | [], s => some s
  | im :: r, s => match placeImage s im true with | none => none | some t => placeImages r t

def setHandoffs (s : State) (l : List HandoffSt) : State := { s with comp := { s.comp with handoffs := l } }

def findHandoff (s : State) (o : Handoff) : Option HandoffSt := s.comp.handoffs.find? (fun h => sameOrder h.order o)

def putHandoff (s : State) (x : HandoffSt) : State :=
  setHandoffs s (s.comp.handoffs.map (fun h => if sameOrder h.order x.order then x else h))

/-- HANDOFF_ORDER (step 1): the source starts its copy; the destination makes room for the copies and their entries. -/
def execHandoffOrder (src : Nat) (o : Handoff) (copies : List QuireImage) (s : State) : Outc :=
  let h : HandoffSt := { order := o, source := o.src == myNode s, phase := 1, holdFrom := 0 }
  if src != leadNode s then .next (refuseMgmt s)
  else if (findHandoff s o).isSome || o.src == o.dst then .next s
  else if h.source then .next (setHandoffs s (s.comp.handoffs ++ [h]))
  else if o.dst == myNode s then
    let mine := copies.filter (fun im => inOrder o im.tenant im.ream im.layer im.head im.num)
    match placeImages mine s with
    | none => .next s
    | some t => .next (setHandoffs t (t.comp.handoffs ++ [h]))
  else .next s

/-- The order as the source reports it, with the Ream as it now stands. -/
def currentOrder (s : State) (o : Handoff) : Handoff :=
  match knownReam s o.tenant o.ream with
  | none => o
  | some m => { o with layers := m.layers, heads := m.heads, dim := m.dim, retired := m.retired, retiredSet := m.retiredSet,
                       preempted := has s.kv.preempted (reamKey o.tenant o.ream), sealed := m.sealed }

/-- Whether no append to a Ream is admitted and not committed. -/
def noPending (s : State) (t ream : Nat) : Bool := !s.att.appends.any (fun a => tkTenant a.tk.raw == t && bReam a.tk.raw == ream)

/-- A copy of a Quire reaches the destination: one copied again, because it changed after its copy, takes the place of the copy
before (step 2); one not copied yet, such as an incomplete Quire (step 3), is placed. -/
def takeCopy (s : State) (im : QuireImage) : State :=
  match tget? s.kv.quires (quireKey im.tenant im.ream im.layer im.head im.num) with
  | none => (placeImage s im true).getD s
  | some q =>
    if !isTakingIn q then s
    else
      let s := im.sheets.foldl putSheet s
      let key (d : Nat × Deckle) : Nat := sheetKey im.tenant im.ream im.layer im.head (16 * im.num + d.1)
      { s with kv := { s.kv with deckles := im.deckles.foldl (fun t d => tset t (key d) d.2) s.kv.deckles } }

/-- HANDOFF_COPY_DONE (steps 2 to 4): the last copy is complete; copies: those that have reached the destination since the last. If the home moves, the source first holds the Ream's
appends, from phase 0 of the next step, and copies what is incomplete. -/
def execHandoffCopyDone (c : CopySet) (s : State) : Outc :=
  match findHandoff s c.order with
  | none => .next s
  | some h =>
    let ready (s : State) : State := mgmt (putHandoff s { h with phase := 3 }) (leadNode s) (.handoffReady (currentOrder s h.order))
    if !h.source then
      .next (if h.phase < 4 then (c.images.filter (fun im => inOrder c.order im.tenant im.ream im.layer im.head im.num)).foldl takeCopy s else s)
    else if h.phase == 1 then
      if h.order.homeMoves then .next (putHandoff s { h with phase := 2, holdFrom := rd s K.currentStep + 1 }) else .next (ready s)
    else if h.phase == 2 && decide (h.holdFrom ≤ rd s K.currentStep) && noPending s c.order.tenant c.order.ream then
      .next (ready s)
    else .next s

/-! ## Spares take places (R397) -/

/-- The map with a member's place taken by a spare. -/
def standInMap (node spare : Nat) (m : List MapEntry) : List MapEntry :=
  match mapEntry? m spare with
  | none => m
  | some sp =>
    m.filter (fun e => e.node != node && e.node != spare) ++ [{ sp with node := node, role := 2, membership := 5 }]

/-- The replacements whose handoffs are all ready go into the next map. -/
def settleLeaving (s : State) : State :=
  let done := s.herd.leaving.filter (fun l => l.orders.isEmpty)
  let s := setHerd s { s.herd with leaving := s.herd.leaving.filter (fun l => !l.orders.isEmpty) }
  done.foldl (fun t l => wantMap t (standInMap l.node l.spare)) s

/-- HANDOFF_READY at the Lead (step 4): a new epoch routes the range to the destination. -/
def execHandoffReady (_src : Nat) (o : Handoff) (s : State) : Outc :=
  if !isLead s then .next (refuseMgmt s)
  else
    let s := setHerd s { s.herd with
      readyWant := s.herd.readyWant.filter (fun x => !sameOrder x o) ++ [o],
      leaving := s.herd.leaving.map (fun l => { l with orders := l.orders.filter (fun x => !sameOrder x o) }) }
    let held := s.herd.leaving.any (fun l => l.spare == o.dst && !l.orders.isEmpty)
    let s := settleLeaving s
    .next (if held then s else tryMap s)

/-- HANDOFF_REVERT at the source (R398): its departing copies become stable when the window ends. -/
def execHandoffRevert (src : Nat) (o : Handoff) (s : State) : Outc :=
  if src != leadNode s then .next (refuseMgmt s)
  else match findHandoff s o with
    | some h => .next (if h.source && h.phase == 4 then putHandoff s { h with phase := 5 } else s)
    | none => .next s

/-- Make a Ream's record and entry at a node that becomes its home. -/
def takeHome (s : State) (o : Handoff) : State :=
  let m : Ream := { tenant := o.tenant, id := o.ream, layers := o.layers, heads := o.heads, dim := o.dim, retired := o.retired,
                    retiredSet := o.retiredSet, preempted := o.preempted, sealed := o.sealed, reclaimed := false }
  let k := reamKey o.tenant o.ream
  let s := { s with kv := { s.kv with reams := tset s.kv.reams k m,
                                      preempted := if o.preempted then addNew s.kv.preempted k else s.kv.preempted } }
  makeReamEntry (dropReamEntry s o.tenant o.ream) m

/-- The REAM entry of a Ream whose home moves away names the new home. -/
def renameHome (s : State) (t ream home : Nat) : State :=
  setDirs s (s.dirs.map (fun e => if decide (e.dir < 4) && e.key == dirKey 3 t ream 0 0 0 && e.prio == 0xFF
    then { e with data := e.data - reamHome e.data * 2 ^ 40 + home % 65536 * 2 ^ 40 } else e))

def mapQuires (s : State) (p : Quire → Bool) (f : Quire → Quire) : State :=
  { s with kv := { s.kv with quires := s.kv.quires.map (fun q => if p q.2 then (q.1, f q.2) else q) } }

/-- A handoff takes effect at phase 0 of the epoch that ends it (step 5). -/
def switchHandoff (s : State) (h : HandoffSt) (o : Handoff) : State :=
  let s := bump (putHandoff s { h with phase := 4, holdFrom := 0 }) K.handoffsCompleted 1
  if h.source then
    let s := mapQuires s (fun q => ordersQuire o q && !isTakingIn q) (fun q => { q with departing := true })
    if o.homeMoves then
      renameHome { s with kv := { s.kv with reams := terase s.kv.reams (reamKey o.tenant o.ream) } } o.tenant o.ream o.dst
    else s
  else
    let s := mapQuires s (fun q => ordersQuire o q && isTakingIn q) (fun q => { q with move := none })
    if o.homeMoves then takeHome s o else s

/-- A cancelled handoff: the destination frees its copies, the source goes on. -/
def cancelHandoff (s : State) (h : HandoffSt) : State :=
  let s := bump (setHandoffs s (s.comp.handoffs.filter (fun x => !sameOrder x.order h.order))) K.handoffsCancelled 1
  if h.source then s
  else (s.kv.quires.filter (fun p => ordersQuire h.order p.2 && isTakingIn p.2)).foldl (fun t p => freeQuire t p.1 p.2) s

/-- At a new epoch, the handoffs that it ends switch, and those whose source or destination it no longer holds are
cancelled (R398). -/
def settleHandoffs (s : State) (m : MapMsg) : State :=
  s.comp.handoffs.foldl (fun t h =>
    match m.ready.find? (fun o => sameOrder o h.order) with
    | some o => if h.phase < 4 then switchHandoff t h o else t
    | none =>
      if h.phase < 4 && ((mapEntry? m.map h.order.src).isNone || (mapEntry? m.map h.order.dst).isNone) then cancelHandoff t h else t) s

/-! ## A new epoch at a node (R373, R397, R399, R456) -/

/-- Take the journal partner that the map gives; a new one receives the whole journal. -/
def settlePartner (s : State) : State :=
  let p := if has [2, 3, 5] (rd s K.membershipState) then partnerOf s.herd.map (myNode s) else 0xFFFF
  if p == rd s K.journalPartner then s
  else
    let s := wr s K.journalPartner p
    if on s K.journalEnable && p != 0xFFFF then mgmt s p (.journalMirror 0 (wholeJournal s)) else s

/-- The place that a new map gives a spare: the number that an entry of its group newly stands in for, where the map
no longer holds its address. -/
def standInPlace (s : State) (old m : List MapEntry) : Option Nat :=
  if rd s K.membershipState == 7 && (mapEntry? m (myNode s)).isNone then
    (m.find? (fun e => e.membership == 5 && e.spareGroup == rd s K.spareGroup
      && !(match mapEntry? old e.node with | some o => o.membership == 5 | none => false))).map MapEntry.node
  else none

/-- The node's own place in a new map. -/
def takePlace (s : State) (old m : List MapEntry) : State :=
  match standInPlace s old m with
  | some n =>
    let live := s.rel.standFor == n
    let s := wr (wr s K.nodeNumber n) K.membershipState 5
    let s := { s with rel := { s.rel with standFor := 0xFFFF } }
    let p := partnerOf old n
    if live || p == 0xFFFF then s else mgmt s p (.journalFetch n)
  | none =>
    match mapEntry? m (myNode s) with
    | some e =>
      if isLead s || rd s K.membershipState == 7 then s
      else if e.membership == 5 && has [2, 3] (rd s K.membershipState) then wr (wr s K.membershipState 4) K.nodeNumber 0xFFFF
      else if has [1, 2, 3, 5] (rd s K.membershipState) then wr s K.membershipState e.membership else s
    | none =>
      if has [2, 3, 5, 7] (rd s K.membershipState) then wr (wr s K.membershipState 0) K.nodeNumber 0xFFFF else s

/-- Whether a new map takes a node of the old one out of its place. -/
def displaced (m : List MapEntry) (e : MapEntry) : Bool :=
  match mapEntry? m e.node with
  | none => true
  | some x => x.membership == 5 && e.membership != 5

/-- A member that stands in starts at the full score (R393); the Lead hears it from now on. -/
def startScores (s : State) (old m : List MapEntry) : State :=
  let new := (m.filter (fun e => e.membership == 5
    && !(match mapEntry? old e.node with | some o => o.membership == 5 | none => false))).map MapEntry.node
  if !isLead s then s
  else { s with rel := new.foldl (fun r n =>
    { r with scores := terase r.scores n, silent := terase r.silent n, reports := tset r.reports n (now s) }) s.rel }

/-- Install the map of the epoch that has begun. -/
def installMap (s : State) (m : MapMsg) : State :=
  let old := s.herd.map
  let s := setHerd s { s.herd with map := m.map, mapPrev := old, mapNext := none, mapWait := false, mapReady := m.ready,
                                   spans := s.herd.spans.filter (fun p => m.map.any (fun e => e.node == p.1)) }
  let s := wr s K.drainEndStep (s.herd.epochAt + m.drain)
  let s := (old.filter (displaced m.map)).foldl (fun t e => dropConns t e.node) s
  let s := startScores (takePlace s old m.map) old m.map
  let s := settleHandoffs s m
  settleStart (settlePartner s)

/-- The end of the previous epoch's window (R375, R376 step 7, R398). -/
def drainEnd (s : State) : State :=
  let e := rd s K.mapEpoch
  let s := wr s K.mapEpochPrevious 0
  let gone (x : Ent) : Bool :=
    (ekind x.key == 2 && routeEpoch x.data != 0 && routeEpoch x.data != e) || (ekind x.key == 6 && linkEpoch x.data != 0 && linkEpoch x.data != e)
  let s := { dirDrop s gone with trees := s.trees.filter (fun p => p.2.epoch == e) }
  let back := s.comp.handoffs.filter (fun h => h.phase == 5)
  let s := setHandoffs s (s.comp.handoffs.filter (fun h => decide (h.phase < 4)))
  let s := back.foldl (fun t h =>
    let t := mapQuires t (ordersQuire h.order) (fun q => { q with departing := false })
    if h.order.homeMoves then
      let p := partnerOf t.herd.mapPrev h.order.dst
      let t := takeHome t h.order
      if p == 0xFFFF then t else mgmt t p (.journalFetch h.order.dst)
    else t) s
  let s := (s.kv.quires.filter (fun p => p.2.departing)).foldl (fun t p => freeQuire t p.1 p.2) s
  let s := mapQuires s Quire.tookIn (fun q => if isTakingIn q then q else { q with tookIn := false })
  let s := setHerd s { s.herd with mapPrev := [], mapReady := [] }
  tryMap (if rd s K.membershipState == 4 then wr s K.membershipState 0 else s)

/-- EPOCH_DRAIN_END: phase 0 of step N + W. -/
def execEpochDrainEnd (s : State) : Outc :=
  if rd s K.mapEpochPrevious != 0 && decide (rd s K.drainEndStep ≤ rd s K.currentStep) then .next (drainEnd s) else .next s

/-- An epoch begins at phase 0 of a step (R373). -/
def beginEpoch (s : State) (epoch step : Nat) : State :=
  let s := if rd s K.mapEpochPrevious != 0 then drainEnd s else s
  let s := wr (wr s K.mapEpochPrevious (rd s K.mapEpoch)) K.mapEpoch epoch
  let s := setHerd s { s.herd with epochAt := step }
  match s.herd.mapNext with
  | some m =>
    if m.epoch == epoch then installMap s m
    else bump (wr (setHerd s { s.herd with mapWait := true }) K.drainEndStep (step + gv s K.epochDrainSteps)) K.mapWaitCount 1
  | none => bump (wr (setHerd s { s.herd with mapWait := true }) K.drainEndStep (step + gv s K.epochDrainSteps)) K.mapWaitCount 1

/-- MAP_UPDATE. -/
def execMapUpdate (src : Nat) (m : MapMsg) (s : State) : Outc :=
  if src != leadNode s || isLead s then .next (refuseMgmt s)
  else if m.epoch == rd s K.mapEpoch then .next (if s.herd.mapWait then releaseHeld (installMap s m) else s)
  else .next (setHerd s { s.herd with mapNext := some m })

/-- SLICE_REPORT at the Lead (R466). -/
def execSliceReport (src slice state : Nat) (s : State) : Outc :=
  if !isLead s then .next (refuseMgmt s)
  else
    let set (n : Nat) : Nat := n - b2n (bitB n slice) * 2 ^ slice + (if state == 1 then 2 ^ slice else 0)
    .next (wantMap s (modEntry src (fun e => { e with inService := set e.inService })))

end Sys2Proof.Machine
end

