-- ==== Sys2Proof/Machine/Health.lean ====
section
/-! DEFINITION. Health scores, expulsion and probation (R392 to R396), stand-in (R397, R398), the append journal (R399, R400),
lost ranges (R401), and the enables of the chapter (R407). -/

namespace Sys2Proof.Machine

def setRel (s : State) (r : RelSt) : State := { s with rel := r }

/-! ## Enables (R407) -/

def enHealth : Enable :=
  { key := K.healthEnable,
    check := fun s => needs s K.herdEnable :: (upFrom K.healthReportNs 8 ++ upFrom K.wLinkDown 9).map (inSet s),
    covers := fun k => (decide (K.healthReportNs ≤ k) && decide (k < K.healthReportNs + 8)) || (decide (K.wLinkDown ≤ k) && decide (k < K.wLinkDown + 9)),
    start := fun s => setRel s { s.rel with reportAt := now s, reports := (members s.herd.map).foldl (fun t e => tset t e.node (now s)) [], silent := [] } }

/-- HEALTH_ENABLE. -/
def execHealthEnable (w : WReq) (v : Byte) (s : State) : Outc := enableRow enHealth w v s

def journalBytes (s : State) : Nat := mib (rd s K.journalReserveMib)

def enJournal : Enable :=
  { key := K.journalEnable,
    check := fun s => [needs s K.herdEnable, needs s K.transportEnable, inSet s K.journalAckNs, inSet s K.journalReserveMib,
      failIf (decide (serviceFree s < journalBytes s) || !spreadRoom s (journalBytes s)) 0x03 K.journalReserveMib],
    covers := fun k => k == K.journalAckNs || k == K.journalReserveMib,
    start := fun s => setRel (takeSpread s .journal 0 (journalBytes s)) { s.rel with jstopped := false },
    stop := fun s => (freeHold (setRel s { s.rel with jstore := [], jstopped := true }) .journal 0).2 }

/-- JOURNAL_ENABLE. -/
def execJournalEnable (w : WReq) (v : Byte) (s : State) : Outc := enableRow enJournal w v s

/-! ## Reports (R392, R393) -/

/-- HEALTH_REPORT_DUE. -/
def execHealthReportDue (s : State) : Outc :=
  if on s K.healthEnable && !isLead s && has [2, 3, 5] (rd s K.membershipState) && decide (s.rel.reportAt + rd s K.healthReportNs ≤ now s) then
    let counts := (upFrom 0 7).map (fun i => tget s.rel.penalties i 0)
    .next (mgmt (setRel s { s.rel with penalties := [], unmirrored := 0, reportAt := now s }) (leadNode s) (.healthReport counts s.rel.unmirrored))
  else .next s

def scoreOf (s : State) (n : Nat) : Nat := tget s.rel.scores n 1000
def setScore (s : State) (n v : Nat) : State := setRel s { s.rel with scores := tset s.rel.scores n v }

/-- The weight of penalty i. -/
def weightOf (s : State) (i : Nat) : Nat := rd s (K.wLinkDown + i)

/-- What a report costs. -/
def reportCost (s : State) (counts : List Nat) (unmirrored : Nat) : Nat :=
  sumNat (counts.mapIdx (fun i n => weightOf s i * n)) + (if unmirrored == 0 then 0 else weightOf s 7)

/-! ## Spares (R397) -/

/-- The free spare of a group. -/
def spareOf (s : State) (g : Nat) : Option Nat := if g == 0xFFFF then none else tget? s.herd.spareFree g

def groupOfNode (s : State) (n : Nat) : Nat := match mapEntry? s.herd.map n with | some e => e.spareGroup | none => 0xFFFF

/-- The entries of a directory of the node that name another: REAM entries of a whole Ream whose home it is, and ROUTE
entries of a Ream that name it. -/
def entriesNaming (s : State) (n : Nat) : List Ent :=
  s.dirs.filter (fun e => e.dir == (copySlices s).headD 0 && bits e.care 53 32 == 2 ^ 32 - 1
    && ((ekind e.key == 3 && reamHome e.data == n) || (ekind e.key == 2 && routeNode e.data == n)))

/-- Low and high value of a field of an entry's pattern. -/
def patternRange (e : Ent) (lo w : Nat) : Nat × Nat :=
  let k := bits e.key lo w
  let c := bits e.care lo w
  (k &&& c, (k &&& c) + (2 ^ w - 1 - c))

/-- The order that hands over what one entry names. -/
def orderOf (e : Ent) (src dst : Nat) : Handoff :=
  let home := ekind e.key == 3
  let (l0, l1) := patternRange e 41 12
  let (h0, h1) := patternRange e 33 8
  let (q0, q1) := patternRange e 5 28
  { src := src, dst := dst, tenant := etenant e.key, ream := bits e.key 53 32, layerFirst := if home then 0 else l0,
    layerLast := if home then 0xFFF else l1, headFirst := if home then 0 else h0, headLast := if home then 0xFF else h1,
    quireFirst := if home then 0 else q0, quireLast := if home then 2 ^ 28 - 1 else q1, homeMoves := home,
    layers := if home then bits e.data 28 12 + 1 else 0, heads := if home then bits e.data 20 8 + 1 else 0,
    dim := if home then bits e.data 16 4 else 0, retired := 0, retiredSet := home && bitB e.data 15, preempted := false, sealed := false }

/-- Order the handoff of all that a node holds, as the Lead's directory names it. -/
def orderAll (s : State) (named src dst : Nat) : State × List Handoff :=
  let l := (entriesNaming s named).map (fun e => orderOf e src dst)
  (l.foldl (fun t o => mgmt (mgmt t src (.handoffOrder o)) dst (.handoffOrder o)) s, l)

/-- A free spare is taken. -/
def takeSpare (s : State) (g : Nat) : State := setHerd s { s.herd with spareFree := terase s.herd.spareFree g }

/-- A spare begins to stand in for a live member (R397 steps 1 and 2). -/
def replaceLive (s : State) (node src spare : Nat) : State :=
  let s := takeSpare s (groupOfNode s node)
  let s := mgmt s spare (.standInOrder node)
  let (s, l) := orderAll s node src spare
  settleLeaving (setHerd s { s.herd with leaving := s.herd.leaving ++ [{ node := node, spare := spare, orders := l }] })

/-- The ranges of Sheets that a lost node held, as the Lead's directory names them. -/
def rangesOf (s : State) (n : Nat) : List LostRange :=
  (entriesNaming s n).map (fun e =>
    let o := orderOf e n n
    let wideL := o.layerFirst == 0 && o.layerLast == 0xFFF
    let wideH := o.headFirst == 0 && o.headLast == 0xFF
    { tenant := o.tenant, ream := o.ream, layer := if wideL then 0xFFF else o.layerFirst, head := if wideH then 0xFF else o.headFirst,
      sheetFirst := 16 * o.quireFirst, sheetLast := 16 * o.quireLast + 15 })

/-- A member is lost (R396, R397 step 3, R398). -/
def loseNode (s : State) (n : Nat) : State :=
  match mapEntry? (plannedMap s) n with
  | none => s
  | some e =>
    let s := event (bump s K.nodesLost 1) 0x81 3 nodeSlice 3 n
    let s := setRel (setScore s n 0) { (setScore s n 0).rel with silent := terase s.rel.silent n, reports := tset s.rel.reports n (now s) }
    let s := if prevEpoch s == 0 then s
      else (s.herd.mapReady.filter (fun o => o.dst == n)).foldl (fun t o => mgmt t o.src (.handoffRevert o)) s
    let s := setHerd s { s.herd with readyWant := s.herd.readyWant.filter (fun o => o.src != n && o.dst != n),
                                     leaving := s.herd.leaving.filter (fun l => l.node != n && l.spare != n) }
    match spareOf s e.spareGroup with
    | some sp => wantMap (mgmt (takeSpare s e.spareGroup) sp (.lostRanges (rangesOf s n))) (standInMap n sp)
    | none => wantMap s (fun m => m.filter (fun x => x.node != n))

/-! ## Decisions (R394, R395) -/

/-- Members that take new Reams. -/
def takers (m : List MapEntry) : Nat := ((members m).filter (fun e => e.membership == 2 || e.membership == 5)).length

/-- Whether the rate limit lets a group lose one more member. -/
def mayExpel (s : State) (g : Nat) : Bool :=
  decide (((s.rel.expelled.filter (fun x => x.1 == g && decide (now s < x.2 + rd s K.expelWindowMs * 1000000))).length) < rd s K.expelMaxPerWindow)

/-- Expel a member (R394 step 1). -/
def expelNode (s : State) (n g spare : Nat) : State :=
  let s := event (bump s K.expulsions 1) 0x81 2 nodeSlice 2 (packBits [(16, n), (16, scoreOf s n), (16, spare)])
  replaceLive (setRel s { s.rel with expelled := s.rel.expelled ++ [(g, now s)] }) n n spare

/-- The decision on a member. fell: it has dropped below health_expel_below; on a member in service (R394), or on probation. -/
def decideNode (s : State) (n : Nat) (fell : Bool) : State :=
  match mapEntry? (plannedMap s) n with
  | none => s
  | some e =>
    if s.herd.leaving.any (fun l => l.node == n) then s
    else if e.membership == 3 && decide (rd s K.healthRestoreAt ≤ scoreOf s n) then wantMap s (modEntry n (fun x => { x with membership := 2 }))
    else if !(e.membership == 3 || (e.membership == 2 && fell)) then s
    else
      match (if mayExpel s e.spareGroup then spareOf s e.spareGroup else none) with
      | some sp => expelNode s n e.spareGroup sp
      | none =>
        if e.membership == 3 then s
        else if rd s K.membershipFloor + 1 ≤ takers (plannedMap s) then
          let s := event (bump s K.probations 1) 0x81 1 nodeSlice 1 (packBits [(16, n), (16, scoreOf s n)])
          wantMap s (modEntry n (fun x => { x with membership := 3 }))
        else event (bump s K.floorHolds 1) 0x81 4 nodeSlice 1 (packBits [(16, n), (16, takers (plannedMap s))])

/-- A new score, and the decision that follows: at a report, or where the score drops below health_expel_below. -/
def newScore (s : State) (n v : Nat) (report : Bool) : State :=
  let old := scoreOf s n
  let low := rd s K.healthExpelBelow
  let fell := decide (low ≤ old) && decide (v < low)
  let s := setScore s n v
  if report || fell then decideNode s n fell else s

/-- HEALTH_REPORT at the Lead. -/
def execHealthReport (src : Nat) (counts : List Nat) (unmirrored : Nat) (s : State) : Outc :=
  if !isLead s || !((members s.herd.map).any (fun e => e.node == src)) then .next (refuseMgmt s)
  else if !on s K.healthEnable then .next s
  else
    let s := setRel s { s.rel with reports := tset s.rel.reports src (now s), silent := terase s.rel.silent src }
    let clean := counts.all (fun n => n == 0) && unmirrored == 0
    let v := scoreOf s src - reportCost s counts unmirrored
    .next (newScore s src (if clean then min 1000 (v + rd s K.healthRecover) else v) true)

/-- HEALTH_REPORT_MISSED: one more interval passes with no report of a member. -/
def execHealthReportMissed (node : Nat) (s : State) : Outc :=
  let k := tget s.rel.silent node 0
  if isLead s && on s K.healthEnable && (members s.herd.map).any (fun e => e.node == node)
      && decide (tget s.rel.reports node 0 + (k + 1) * rd s K.healthReportNs ≤ now s) then
    .next (newScore (setRel s { s.rel with silent := tset s.rel.silent node (k + 1) }) node (scoreOf s node - weightOf s 8) false)
  else .next s

/-- NODE_LOST. -/
def execNodeLost (node : Nat) (neighbours : Bool) (s : State) : Outc :=
  if isLead s && on s K.healthEnable && (members (plannedMap s)).any (fun e => e.node == node)
      && (neighbours || decide (rd s K.healthSilentReports ≤ tget s.rel.silent node 0))
  then .next (loseNode s node) else .next s

/-- STAND_IN_ORDER at a spare. -/
def execStandInOrder (src node : Nat) (s : State) : Outc :=
  if src != leadNode s || rd s K.membershipState != 7 then .next (refuseMgmt s)
  else .next (setRel s { s.rel with standFor := node })

/-! ## The journal (R399) -/

/-- Bytes of a journalled token: its elements as stored, and its segment number. -/
def tokBytes (t : JournalTok) : Nat :=
  let d := dimOf t.dim
  let w (f : Nat) : Nat := if isBlockFmt f then 2 * d else ceilDiv (d * bytesPerChannel f) 64
  w t.kFmt + w t.vFmt + 2

def storeBytes (t : Tbl (List JournalTok)) : Nat := sumNat (t.map (fun p => sumNat (p.2.map tokBytes)))

def tokGroup (t : JournalTok) : Nat := groupOf t.tenant t.ream t.layer t.head

/-- Keep the tokens whose Sheet is still the tail of its layer and head. -/
def keepTails (l : List JournalTok) : List JournalTok :=
  l.filter (fun t => l.all (fun u => tokGroup u != tokGroup t || decide (u.position / 64 ≤ t.position / 64)))

/-- JOURNAL_MIRROR at the partner. A mirror with step 0 carries a whole journal. -/
def execJournalMirror (src step : Nat) (toks : List JournalTok) (s : State) : Outc :=
  let old := if step == 0 then [] else tget s.rel.jstore src []
  let l := keepTails (old.filter (fun t => !toks.any (fun u => tokGroup u == tokGroup t && u.position == t.position)) ++ toks)
  let st := tset s.rel.jstore src l
  if !(members s.herd.map).any (fun e => e.node == src) then .next (refuseMgmt s)
  else if on s K.journalEnable && decide (storeBytes st ≤ journalBytes s) then
    .next (mgmt (setRel s { s.rel with jstore := st }) src (.journalAck step true))
  else .next (mgmt s src (.journalAck step false))

/-- The completions of a commit step that waited for the partner are written. -/
def releaseCommit (s : State) (n : Nat) : State :=
  let l := s.rel.jhold.filter (fun p => p.2 == n)
  l.foldl (fun t p => complete t p.1 St.ok 0 n)
    (setRel s { s.rel with jhold := s.rel.jhold.filter (fun p => p.2 != n), jmirrors := s.rel.jmirrors.filter (fun m => m.1 != n) })

/-- JOURNAL_ACK at the home. -/
def execJournalAck (src step : Nat) (taken : Bool) (s : State) : Outc :=
  if src != rd s K.journalPartner then .next (refuseMgmt s)
  else match s.rel.jmirrors.find? (fun m => m.1 == step) with
    | none => .next s
    | some m => .next (releaseCommit (if taken then s else countUnmirrored s m.2.1) step)

/-- JOURNAL_ACK_TIMEOUT: the oldest mirror has waited journal_ack_ns. -/
def execJournalAckTimeout (s : State) : Outc :=
  match s.rel.jmirrors.find? (fun m => passed s m.2.2 (rd s K.journalAckNs)) with
  | none => .next s
  | some m =>
    let s := event (countUnmirrored s m.2.1) 0x81 5 nodeSlice 2 (packBits [(16, rd s K.journalPartner), (32, m.2.1)])
    .next (releaseCommit s m.1)

/-! ## The tail rebuilt (R400) -/

/-- Insert a token in order of position. -/
def insTok (t : JournalTok) : List JournalTok → List JournalTok
  | [] => [t]
  | x :: r => if t.position < x.position then t :: x :: r else x :: insTok t r

/-- Rebuild a half from its tokens: the closed blocks come with their scales, and blocks of the rest close
as they did; with the elements saturated (R94). -/
def rebuildHalf (f d : Nat) (toks : List (List Nat)) (scales : List (List Nat)) : Half × Nat :=
  let done := (scales.filter (fun x => !x.isEmpty)).length
  let w := blockTokens f
  let h : Half := { fmt := f, toks := toks, closed := done,
                    scales := (upFrom 0 (done / max 1 w)).map (fun b => nth scales (b * w) []) }
  closeBlocks 2 h toks.length d

/-- The tail Sheet of one layer and head, with the elements that its quantisation saturated. -/
def rebuildSheet (l : List JournalTok) (t0 : JournalTok) : Sheet × Nat :=
  let d := dimOf t0.dim
  let n := l.length
  let last := maxNat (l.map JournalTok.commitStep)
  let sh := newSheet t0.tenant t0.ream t0.layer t0.head (t0.position / 64) t0.dim t0.kFmt t0.vFmt
  let k := rebuildHalf t0.kFmt d (l.map JournalTok.k) (l.map JournalTok.kScales)
  let v := rebuildHalf t0.vFmt d (l.map JournalTok.v) (l.map JournalTok.vScales)
  ({ sh with tokenCount := n, commitStep := last, createdStep := t0.commitStep,
             segments := (upFrom 0 64).map (fun i => match l[i]? with | some t => t.segment | none => 0),
             ages := (upFrom 0 64).map (fun i => match l[i]? with | some t => min 255 (last - t.commitStep) | none => 0),
             segmented := l.any (fun t => t.segment != 0), kHalf := k.1, vHalf := v.1,
             kExt := isBlockFmt t0.kFmt && decide (k.1.closed < 64), vExt := isBlockFmt t0.vFmt && decide (v.1.closed < 64) }, k.2 + v.2)

/-- A lost range of a Ream ends before its tail. -/
def beforeTail (t ream tail : Nat) (r : LostRange) : Option LostRange :=
  if r.tenant == t && r.ream == ream && decide (tail ≤ r.sheetLast) then
    if r.sheetFirst < tail then some { r with sheetLast := tail - 1 } else none
  else some r

/-- Rebuild one Ream: its record and entry, and its tail Sheets, each the first Sheet of a new Quire. -/
def rebuildReam (s : State) (l : List JournalTok) (t0 : JournalTok) : State :=
  let o := { orderOf { dir := 0, key := 0, care := 0, prio := 0, data := 0, place := none, backed := false, searched := 0 } 0 0 with
    tenant := t0.tenant, ream := t0.ream, layers := t0.layers, heads := t0.heads, dim := t0.dim, retired := 0, retiredSet := false }
  let s := if (tget? s.kv.reams (reamKey t0.tenant t0.ream)).isSome then s else takeHome s o
  let groups := (l.map tokGroup).eraseDups
  let s := groups.foldl (fun t g =>
    match (l.filter (fun x => tokGroup x == g)).foldl (fun a x => insTok x a) [] with
    | [] => t
    | x :: r =>
      let (sh, sats) := rebuildSheet (x :: r) x
      let im : QuireImage := { tenant := x.tenant, ream := x.ream, layer := x.layer, head := x.head, num := x.position / 1024,
                               sheets := [sh], deckles := [] }
      bump ((placeImage t im false).getD t) K.saturationCount sats) s
  let tail := maxNat (l.map (fun t => t.position / 64))
  bump (setRel s { s.rel with lost := s.rel.lost.filterMap (beforeTail t0.tenant t0.ream tail) }) K.tailsRebuilt 1

/-- Rebuild every Ream of a journal. -/
def rebuildAll (s : State) (toks : List JournalTok) : State :=
  let keys := (toks.map (fun t => reamKey t.tenant t.ream)).eraseDups
  keys.foldl (fun s k =>
    match toks.filter (fun t => reamKey t.tenant t.ream == k) with
    | [] => s
    | t :: r => rebuildReam s (t :: r) t) s

/-- JOURNAL_FETCH: at the partner the journal it holds goes back to the node that asks; at that node (src is the node itself)
the tails are rebuilt from what the partner returned. -/
def execJournalFetch (src lost : Nat) (toks : List JournalTok) (s : State) : Outc :=
  if src == myNode s then .next (rebuildAll s toks)
  else if !(s.herd.map.any (fun e => e.node == src)) then .next (refuseMgmt s)
  else .next (mgmt s src (.journalTail lost (tget s.rel.jstore lost [])))

/-! ## Lost ranges (R397, R401) -/

/-- LOST_RANGES at a standing-in spare: Sheets of a rebuilt tail are not lost. -/
def execLostRanges (src : Nat) (ranges : List LostRange) (s : State) : Outc :=
  if src != leadNode s then .next (refuseMgmt s)
  else
    let trim (r : LostRange) : Option LostRange :=
      match (s.kv.sheets.filter (fun p => p.2.tenant == r.tenant && p.2.ream == r.ream)).map (fun p => p.2.num) with
      | [] => some r
      | l => beforeTail r.tenant r.ream (maxNat l) r
    .next ((ranges.filterMap trim).foldl addLost s)

def dropLost (s : State) (t ream : Nat) : State :=
  setRel s { s.rel with lost := s.rel.lost.filter (fun r => !(r.tenant == t && r.ream == ream)) }

/-- LOST_RANGE_CLEAR: the Lead clears the Ream's ranges on every node. -/
def execLostRangeClear (src tenant ream : Nat) (s : State) : Outc :=
  if isLead s then
    let nodes := (s.herd.map.map MapEntry.node).filter (fun n => n != myNode s)
    .next (nodes.foldl (fun t n => mgmt t n (.lostRangeClear tenant ream)) (dropLost s tenant ream))
  else if src == leadNode s then .next (dropLost s tenant ream)
  else .next (refuseMgmt s)

end Sys2Proof.Machine
end

