-- ==== Sys2Proof/Machine/Herd.lean ====
section
/-! DEFINITION. Roles in the Herd (R16 to R25, R453, R456 to R460), the announcement and the start of steps (R69 to R71,
R460), the deputy and its takeover (R19 to R22), and joining. -/

namespace Sys2Proof.Machine

/-! ## Announcing steps (R69, R70, R373) -/

/-- The Lead announces a step at a start. It names the next epoch once that may be named. -/
def announce (s : State) (step start : Nat) : State :=
  let ep := match s.herd.mapNext with
    | some m => if mayName s step then m.epoch else rd s K.mapEpoch
    | none => rd s K.mapEpoch
  let a : Announce := { step := step, start := start, leadTerm := rd s K.leadTerm, epoch := ep }
  let s := { s with tm := { s.tm with next := some a, heardAt := now s },
                    herd := { s.herd with lastAnn := step, lastAnnStart := start, stalls := 0 } }
  post s 0xFFFF 8 (.stepAnnounce a)

/-- The step after the last announced one. -/
def announceNext (s : State) : State :=
  if s.herd.lastAnn = 0 then announce s 1 (now s + 2000)
  else
    let st := s.herd.lastAnnStart + stepLen s
    announce s (s.herd.lastAnn + 1) (if now s ≤ st then st else now s + 2000)

/-- STEP_ANNOUNCE_DUE: 2,000 ns before the next step starts. -/
def execStepAnnounceDue (s : State) : Outc :=
  let due := if s.herd.lastAnn = 0 then true
    else rd s K.currentStep == s.herd.lastAnn && decide (s.herd.lastAnnStart + stepLen s ≤ now s + 2000)
  if isLead s && s.tm.held && s.tm.next.isNone && due then .next (announceNext s) else .next s

/-! ## The start of a step (R34, R69, R71, R74, R136, R347) -/

/-- The spans of nodes that the map no longer holds are dropped (R70). -/
def dropSpans (s : State) : State :=
  setHerd s { s.herd with spans := s.herd.spans.filter (fun p => (mapEntry? s.herd.map p.1).isSome) }

/-- Phase 0 of an announced step. -/
def beginStep (s : State) (a : Announce) : State :=
  let cur := rd s K.currentStep
  let s := settleBuckets s
  let s := { s with
    tm := { s.tm with prevLen := if cur = 0 then s.tm.prevLen else a.start - s.tm.stepStart, stepStart := a.start, next := none,
                      guardDone := false },
    dq := { s.dq with gov := [] },
    sch := { s.sch with running := (upFrom 0 4).filter (fun sl => on s (K.scheduleEnable sl)), done := [], gates := [],
                        commitWait := [], commitDone := [] },
    kv := { s.kv with reams := s.kv.reams.filter (fun p => !p.2.reclaimed) } }
  let s := wr s K.currentStep a.step
  let s := if a.epoch == rd s K.mapEpoch then s else dropSpans (beginEpoch s a.epoch a.step)
  releaseHeld (if isLead s then tryMap s else s)

/-- The announced step, where its start has come by the node's own count. -/
def dueStep (s : State) : Option Announce :=
  match s.tm.next with
  | some a => if s.tm.held && rd s K.htState != 0 && decide (a.start ≤ now s) then some a else none
  | none => none

def beginDue (s : State) : State := match dueStep s with | some a => beginStep s a | none => s

/-- STEP_START. -/
def execStepStart (s : State) : Outc := .next (beginDue s)

/-- STEP_GUARD_POINT (R71): a node whose COMMIT is unfinished sends a stall notice. -/
def execStepGuardPoint (s : State) : Outc :=
  if rd s K.currentStep != 0 && !s.tm.guardDone && decide (refLength s - gv s K.stepGuardNs ≤ phaseNow s) then
    let s := { s with tm := { s.tm with guardDone := true } }
    if s.sch.running.all (fun sl => has s.sch.commitDone sl) then .next s
    else if isLead s then .next (setHerd s { s.herd with stalls := s.herd.stalls + 1 })
    else .next (mgmt s (leadNode s) (.stall (rd s K.currentStep)))
  else .next s

/-- STALL_NOTICE at the Lead, before the announcement of the step that follows. -/
def execStallNotice (src step : Nat) (s : State) : Outc :=
  if !isLead s || (mapEntry? s.herd.map src).isNone then .next (refuseMgmt s)
  else if step == s.herd.lastAnn then .next (setHerd s { s.herd with stalls := s.herd.stalls + 1 })
  else .next s

/-- SPAN_REPORT at the Lead. -/
def execSpanReport (src span : Nat) (s : State) : Outc :=
  if isLead s then .next (setHerd s { s.herd with spans := tset s.herd.spans src span }) else .next (refuseMgmt s)

/-! ## Hearing the Lead (R21, R69, R322, R460) -/

/-- The node leaves the Lead role and becomes detached. -/
def yieldLead (s : State) : State :=
  settleStart (wr (wr s K.membershipState 0) K.nodeNumber 0xFFFF)

/-- Follow an announcement. -/
def followAnnounce (s : State) (a : Announce) : State :=
  let s := beginDue s
  let s := wr s K.leadTerm a.leadTerm
  { s with tm := { s.tm with heardAt := now s, next := if rd s K.currentStep < a.step then some a else s.tm.next },
           herd := { s.herd with probing := false } }

/-- An announcement that the node has taken; unit: the unit_id of its sender, which decides between Leads of equal terms (R460). -/
def hearAnnounce (s : State) (src unit : Nat) (a : Announce) : State :=
  let term := rd s K.leadTerm
  if src != leadNode s then refuseMgmt s
  else if isLead s then
    if term < a.leadTerm then followAnnounce (yieldLead s) a
    else if a.leadTerm < term then s
    else if unit < rd s K.unitId then followAnnounce (freeEvent (yieldLead s) 0xB0 nodeSlice) a
    else s
  else if a.leadTerm < term then s
  else followAnnounce s a

/-- A broadcast (R322): its first copy is taken and goes on over every other link in state up. -/
def takeCast (s : State) (link src msgId hops : Nat) (b : Body) (take : State → State) : State :=
  match castNew s src msgId with
  | none => s
  | some s => take { s with outbox := s.outbox ++ [{ dst := 0xFFFF, vl := 8, key := 0, off := 0, body := b, fwd := some (src, msgId, hops, link) }] }

/-- STEP_ANNOUNCE. unit: the sender's unit_id, which the message does not carry. -/
def execStepAnnounce (link src msgId hops unit : Nat) (a : Announce) (s : State) : Outc :=
  .next (takeCast s link src msgId hops (.stepAnnounce a) (fun s => hearAnnounce s src unit a))

/-! ## Schedule tables (R72, R75, R70) -/

/-- Write entries of a table; an enabled table is checked as it would then stand. -/
def setEntries (s : State) (sl : Nat) (l : List (Nat × Nat)) : State × Res :=
  let t := l.foldl (fun u p => match lookupObj (0x1210 + sl) p.1 with
    | some o => store u o (entryKey sl p.1) p.2 | none => u) s
  match (if on s (K.scheduleEnable sl) then firstFail (scheduleCheck t sl false) else none) with
  | some (r, k) => (s, .refused r (k / 256) (k % 256))
  | none => (updateSpan t, .done)

/-- A write of one entry (1 to 64), or with subindex 0 of the whole array (R484). -/
def hScheduleTable (sl sub : Nat) : Handler := fun s _ p =>
  if sub = 0 then
    if p.length != 512 then (s, .length)
    else setEntries s sl ((upFrom 1 64).map (fun k => (k, ofBytes ((p.drop (8 * (k - 1))).take 8))))
  else setEntries s sl [(sub, ofBytes p)]

/-- SCHEDULE_TABLE_WRITE. -/
def execScheduleTableWrite (slice sub : Nat) (w : WReq) (payload : List Byte) (s : State) : Outc :=
  .next (rowWrite s w (0x1210 + slice) sub 0 payload (hScheduleTable slice sub))

/-! ## Starting and leaving a role (R24, R453, R456, R460) -/

/-- The count of steps that a Lead goes on from: the last step that it announced, or that it has followed since (R69). -/
def resumeSteps (s : State) : State :=
  let (n, st) := match s.tm.next with
    | some a => (a.step, a.start)
    | none => (rd s K.currentStep, s.tm.stepStart)
  if s.herd.lastAnn < n then setHerd s { s.herd with lastAnn := n, lastAnnStart := st } else s

/-- Start as Lead: its map, the next epoch, and, where it has announced none, its first step. A Lead that has announced before
announces the next one when that is due (R69). -/
def startLead (s : State) : State :=
  let s := resumeSteps (wr (wr s K.membershipState 6) K.nodeNumber 0)
  let m := setEntry s.herd.map (leadEntry s)
  let s := setHerd s { s.herd with map := if s.herd.map.isEmpty then [leadEntry s] else s.herd.map, mapWant := some m, mapNext := none,
                                   spans := tset s.herd.spans 0 (rd s K.scheduleSpanNs) }
  let s := tryMap s
  if s.tm.held && s.tm.next.isNone && s.herd.lastAnn == 0 then announceNext s else s

/-- Enables that depend on a running role. -/
def herdUsers : List Nat :=
  [K.attentionEnable, K.deckleEnable, K.searchEnable, K.mergeEnable, K.directoryEnable, K.extentEnable, K.poolEnable, K.healthEnable,
   K.journalEnable]

def enHerd : Enable :=
  { key := K.herdEnable,
    check := fun s => [failIf (rd s K.herdRole == 0) 0x01 K.herdRole, failIf (rd s K.herdId == 0) 0x01 K.herdId,
      if rd s K.herdRole == 1 then needs s K.htSourceEnable else none,
      failIf (rd s K.herdRole == 3 && rd s K.spareGroup == 0xFFFF) 0x01 K.spareGroup,
      failIf (decide (rd s K.nodeStartState < 3)) 0x06 K.nodeStartState, needs s K.transportEnable],
    users := fun s => onKeys s herdUsers,
    start := fun s =>
      let s := setHerd s { s.herd with joinSent := false }
      settleStart (if rd s K.herdRole == 1 then startLead s else joinWhenLocked (wr (wr s K.membershipState 1) K.joinRefusal 0)),
    stop := fun s =>
      let s := setHerd s { s.herd with joinSent := false, probing := false }
      settleStart (wr (wr (wr s K.membershipState 0) K.nodeNumber 0xFFFF) K.journalPartner 0xFFFF) }

/-- HERD_ENABLE. -/
def execHerdEnable (w : WReq) (v : Byte) (s : State) : Outc := enableRow enHerd w v s

/-- The enable of the deputy (R25). taken: the Lead already has a deputy. -/
def enDeputy (taken : Bool) : Enable :=
  { key := K.deputyEnable,
    check := fun s => [failIf (rd s K.herdRole != 2) 0x06 K.herdRole, failIf taken 0x04 K.deputyEnable],
    start := fun s => mgmt s (leadNode s) (.deputyNow true),
    stop := fun s => mgmt (setHerd s { s.herd with probing := false }) (leadNode s) (.deputyNow false) }

/-- DEPUTY_ENABLE. -/
def execDeputyEnable (w : WReq) (v : Byte) (taken : Bool) (s : State) : Outc := enableRow (enDeputy taken) w v s

/-! ## The deputy (R19 to R21) -/

/-- DEPUTY_STATE. -/
def execDeputyState (src : Nat) (img : LeadImage) (s : State) : Outc :=
  if src != leadNode s || isLead s || !on s K.deputyEnable then .next (refuseMgmt s)
  else .next (setHerd s { s.herd with image := some img })

/-- Members of the deputy's copy of the map, itself left out. -/
def copyMembers (s : State) : List Nat :=
  match s.herd.image with
  | none => []
  | some i => ((members i.map).map MapEntry.node).filter (fun n => n != myNode s)

/-- Whether no announcement has reached the node for lead_takeover_ns. -/
def leadSilent (s : State) : Bool := decide (s.tm.heardAt + rd s K.leadTakeoverNs ≤ now s)

/-- LEAD_SILENCE_TIMEOUT: the deputy tests for takeover, and again after each further interval. -/
def execLeadSilenceTimeout (s : State) : Outc :=
  let again := !s.herd.probing || decide (s.herd.probeAt + rd s K.leadTakeoverNs ≤ now s)
  if on s K.deputyEnable && has [2, 3, 5] (rd s K.membershipState) && s.tm.held && leadSilent s && again then
    let s := setHerd s { s.herd with probing := true, probeReplies := [], probeAt := now s, leadHeard := false }
    .next ((copyMembers s).foldl (fun t n => mgmt t n (.probe t.tm.heardAt)) s)
  else .next s

/-- TAKEOVER_PROBE at a member. -/
def execTakeoverProbe (src _heard : Nat) (s : State) : Outc :=
  if (members s.herd.map).any (fun e => e.node == src) then .next (mgmt s src (.probeReply s.tm.heardAt)) else .next (refuseMgmt s)

/-- PROBE_REPLY at the deputy. -/
def execProbeReply (src heard : Nat) (s : State) : Outc :=
  if !s.herd.probing || !has (copyMembers s) src then .next (refuseMgmt s)
  else
    .next (setHerd s { s.herd with probeReplies := addNew s.herd.probeReplies src,
                                   leadHeard := s.herd.leadHeard || decide (s.herd.probeAt < heard + rd s K.leadTakeoverNs) })

/-- Whether the deputy may take the Lead role (R20). -/
def mayTakeOver (s : State) : Bool :=
  on s K.deputyEnable && s.herd.probing && has [2, 3, 5] (rd s K.membershipState) && s.tm.held && leadSilent s && !s.herd.leadHeard
  && (match s.herd.image with
      | some i => decide ((members i.map).length ≤ 2 * s.herd.probeReplies.length)
      | none => false)

/-- The node's own REAM entries name its new number. -/
def renumber (s : State) (old new : Nat) : State :=
  setDirs s (s.dirs.map (fun e => if decide (e.dir < 4) && ekind e.key == 3 && e.prio == 0xFF && reamHome e.data == old
    then { e with data := e.data - old * 2 ^ 40 + new * 2 ^ 40 } else e))

/-- The takeover (R21): the image's state, the Lead's number, a new epoch, the next step, and the deputy's Ream homes as an
expelled member's. -/
def takeOver (s : State) (i : LeadImage) : State :=
  let s := beginDue s
  let me := myNode s
  let g := groupOfNode s me
  let (n, st) := match s.tm.next with
    | some a => (a.step, a.start)
    | none => if i.step ≤ rd s K.currentStep then (rd s K.currentStep, s.tm.stepStart) else (i.step, i.stepStart)
  let s := wr (wr (wr (bump s K.leadTerm 1) K.membershipState 6) K.nodeNumber 0) K.htState 2
  let s := { s with
    herd := { s.herd with map := i.map, spans := i.spans, lastAnn := n, lastAnnStart := st, stalls := 0, probing := false,
                          deputy := 0xFFFF, mapNext := none, readyWant := [], leaving := [],
                          spareFree := (i.map.filter (fun e => e.membership == 7)).foldl (fun t e => tset t e.spareGroup e.node) [] },
    comp := { s.comp with leases := i.leases, shares := i.shares },
    rel := { s.rel with scores := i.scores, reports := (members i.map).foldl (fun t e => tset t e.node (now s)) [], silent := [] },
    tm := { s.tm with next := none } }
  let s := renumber s me 0
  let s := wantMap s (fun m => setEntry (m.filter (fun e => e.node != me && e.role != 1)) (leadEntry s))
  let s := match spareOf s g with
    | some sp =>
      let s := mgmt (takeSpare s g) sp (.standInOrder me)
      let (s, l) := orderAll s 0 0 sp
      settleLeaving (setHerd s { s.herd with leaving := s.herd.leaving ++ [{ node := me, spare := sp, orders := l }] })
    | none => s
  settleStart (announceNext s)

/-- LEAD_TAKEOVER. -/
def execLeadTakeover (s : State) : Outc :=
  match s.herd.image with
  | some i => .next (if mayTakeOver s then takeOver s i else s)
  | none => .next s

/-! ## Joining (R456 to R459, R467) -/

/-- Numbers in use: those of the map to come, and those given to units that still join. -/
def numberHeld (s : State) (n : Nat) : Bool := (plannedMap s).any (fun e => e.node == n)

/-- The number last held by a unit. -/
def numberOf (s : State) (unit : Nat) : Option Nat := (s.herd.numbers.find? (fun p => p.2 == unit && decide (p.1 < 0x400))).map Prod.fst

/-- The lowest free number from a to b. -/
def lowestFree (s : State) (a b : Nat) : Option Nat := (upFrom a (b + 1 - a)).find? (fun n => !numberHeld s n)

/-- The entry under which the Lead still holds a unit. -/
def heldUnit (s : State) (unit : Nat) : Option MapEntry :=
  (plannedMap s).find? (fun e => tget? s.herd.numbers e.node == some unit)

/-- The cause for which the Lead refuses a join; 0 accepts (R459). -/
def joinCause (s : State) (r : JoinReq) : Nat :=
  let spares := (upFrom 0x400 0x400)
  if r.herdId != rd s K.herdId then 1
  else if r.role == 2 && decide (1023 ≤ (members (plannedMap s)).length) then 2
  else if r.role == 3 && ((spareOf s r.spareGroup).isSome || !(members (plannedMap s)).any (fun e => e.spareGroup == r.spareGroup)) then 3
  else if r.role == 1 then 4
  else if r.role == 3 && spares.all (numberHeld s) then 5
  else 0

/-- Send the reply: as a broadcast to a node that holds no number. -/
def sendReply (s : State) (src : Nat) (rep : JoinRep) : State :=
  if src == 0xFFFE then post s 0xFFFF 8 (.joinReply rep) else mgmt s src (.joinReply rep)

/-- Accept a member: its number, and its place in the next map. -/
def acceptMember (s : State) (r : JoinReq) : State :=
  let n := match numberOf s r.unitId with
    | some n => if numberHeld s n then lowestFree s 1 1023 else some n
    | none => lowestFree s 1 1023
  match n with
  | none => sendReply s r.src { unitId := r.unitId, cause := 2, number := 0xFFFF }
  | some n =>
    let s := setHerd s { s.herd with numbers := tset (s.herd.numbers.filter (fun p => p.2 != r.unitId)) n r.unitId }
    let s := setRel s { s.rel with scores := terase s.rel.scores n, reports := tset s.rel.reports n (now s), silent := terase s.rel.silent n }
    let s := sendReply s r.src { unitId := r.unitId, cause := 0, number := n }
    wantMap s (fun m => setEntry m { node := n, role := 2, membership := 2, inService := r.slices, retrieval := 0, spareGroup := r.spareGroup })

/-- Accept a spare: an address, and its group gains a free spare (R457, R467). -/
def acceptSpare (s : State) (r : JoinReq) : State :=
  match lowestFree s 0x400 0x7FF with
  | none => sendReply s r.src { unitId := r.unitId, cause := 5, number := 0xFFFF }
  | some n =>
    let s := setHerd s { s.herd with numbers := tset s.herd.numbers n r.unitId, spareFree := tset s.herd.spareFree r.spareGroup n }
    let s := sendReply s r.src { unitId := r.unitId, cause := 0, number := n }
    let s := wantMap s (fun m => setEntry m { node := n, role := 3, membership := 7, inService := r.slices, retrieval := 0, spareGroup := r.spareGroup })
    match (members (plannedMap s)).find? (fun e => e.membership == 3 && e.spareGroup == r.spareGroup) with
    | some e => decideNode s e.node false
    | none => s

/-- Handle a join: refuse it, or accept the node (R459). -/
def handleJoin (s : State) (r : JoinReq) : State :=
  match joinCause s r with
  | 0 => if r.role == 2 then acceptMember s r else acceptSpare s r
  | c => sendReply s r.src { unitId := r.unitId, cause := c, number := 0xFFFF }

/-- JOIN_REQUEST at the Lead. A unit still held as a member in service is lost first (R458); one accepted whose place the map does
not show yet asks again, and gets its reply again. -/
def execJoinRequest (r : JoinReq) (s : State) : Outc :=
  if !isLead s then .next (refuseMgmt s)
  else
    match heldUnit s r.unitId with
    | some e =>
      match mapEntry? s.herd.map e.node with
      | none => if e.role == r.role && r.herdId == rd s K.herdId then
          .next (sendReply s r.src { unitId := r.unitId, cause := 0, number := e.node }) else .next (handleJoin s r)
      | some c => .next (handleJoin (if c.role == 2 then loseNode s e.node else s) r)
    | none => .next (handleJoin s r)

/-- Take a reply that carries the node's own unit_id. A member whose deputy_enable reads 1 already, from the store or from before
it joined, tells the Lead so (R19, R25). -/
def takeReply (s : State) (r : JoinRep) : State :=
  if r.unitId != rd s K.unitId || rd s K.membershipState != 1 || !s.herd.joinSent then s
  else
    let s := setHerd s { s.herd with joinSent := false }
    if r.cause != 0 then wr (wr s K.membershipState 0) K.joinRefusal r.cause
    else
      let s := wr s K.nodeNumber r.number
      let s := if rd s K.herdRole == 3 then settleStart (wr s K.membershipState 7) else s
      let s := mgmt s (leadNode s) (.span (rd s K.scheduleSpanNs))
      if rd s K.herdRole == 2 && on s K.deputyEnable then mgmt s (leadNode s) (.deputyNow true) else s

/-- JOIN_REPLY. -/
def execJoinReply (r : JoinRep) (s : State) : Outc := .next (takeReply s r)

/-- JOIN_TIMEOUT: no reply within join_timeout_ms; the node asks again. -/
def execJoinTimeout (s : State) : Outc :=
  if rd s K.membershipState == 1 && s.herd.joinSent && passed s s.herd.joinAt (rd s K.joinTimeoutMs * 1000000) then .next (sendJoin s) else .next s

end Sys2Proof.Machine
end

