-- ==== Sys2Proof/Machine/Power.lean ====
section
/-! DEFINITION. The power budget and its measurement (R409 to R424): windows and grants, samples of the rails and sensors, the
throttle, the guarding of the slice models, and the thermal trip. -/

namespace Sys2Proof.Machine

def setPow (s : State) (p : PowerSt) : State := { s with pow := p }

/-! ## The enable (R424) -/

def powerKeys : List Nat := upFrom K.powerCapW 10 ++ [K.tjThrottleC, K.hbmThrottleC]

def enPower : Enable :=
  { key := K.powerEnable, check := fun s => powerKeys.map (inSet s), covers := fun k => has powerKeys k }

/-- POWER_ENABLE: it governs from the next window. -/
def execPowerEnable (w : WReq) (v : Byte) (s : State) : Outc := enableRow enPower w v s

/-! ## Grants (R411, R412) -/

/-- The sum of the floors. -/
def floors (s : State) : Nat := sumNat ((upFrom 0 17).map (floorOf s))

/-- Watts that grants hold in a window. -/
def grantedIn (l : List Budget) (w : Nat) : Nat :=
  sumNat ((l.filter (fun g => decide (g.first ≤ w) && decide (w < g.first + g.span))).map Budget.watts)

/-- Windows granted above 1,200 W, with fl watts of floors: those gone by, and from window w on those that grants reserve. -/
def aboveWindows (s : State) (fl w : Nat) (l : List Budget) : List Nat :=
  s.pow.peak ++ (upFrom w 16).filter (fun v => !has s.pow.peak v && decide (1200 < fl + grantedIn l v))

/-- Whether the allowance covers a window: fewer than 10,000 of the 100,000 windows before it are above 1,200 W (R412). -/
def peakCovers (above : List Nat) (v : Nat) : Bool :=
  decide ((above.filter (fun u => decide (u < v) && decide (v < u + 100000))).length < 10000)

/-- The cap of a window, given the windows above 1,200 W. -/
def capFor (s : State) (above : List Nat) (v : Nat) : Nat :=
  if !s.pow.started then 600
  else if on s K.peakEnable && peakCovers above v then 1450 else min (rd s K.powerCapW) 1200

/-- Whether a request fits in every window of its span, at the grants of window w. The windows that it lifts above 1,200 W are
counted against each other, and the allowance must go on covering every window granted above 1,200 W before (R412). -/
def fits (s : State) (fl w : Nat) (l : List Budget) (r : Budget) (first : Nat) : Bool :=
  let l := l ++ [{ r with first := first }]
  let above := aboveWindows s fl w l
  let span := upFrom first r.span
  span.all (fun v => decide (fl + grantedIn l v ≤ capFor s above v))
  && (!span.any (has above) || above.all (fun u => decide (u < w) || peakCovers above u))

/-- The rank of a request: merge units, foreground, maintenance, background; within it slices from a turning start. -/
def reqRank (turn : Nat) (r : Budget) : Nat :=
  let cls := if r.cls == 1 && decide (12 ≤ r.holder) && decide (r.holder < 16) then 0 else r.cls
  cls * 8 + (holderSlice r.holder + 4 - turn % 4) % 4

/-- Requests in the order in which they are considered; arrival order within a rank. -/
def insReq (turn : Nat) (r : Budget) : List Budget → List Budget
  | [] => [r]
  | x :: t => if reqRank turn r < reqRank turn x then r :: x :: t else x :: insReq turn r t

/-- Consider the requests for a window: the grants, those that wait, and the requests now counted as waiting. -/
def considerAll (s : State) (fl w : Nat) : List Budget → List Budget → List Budget → List Nat → Nat → List Budget × List Budget × Nat
  | [], g, rest, _, n => (g, rest, n)
  | r :: t, g, rest, blocked, n =>
    let first := max r.first w
    if r.madeIn < w && !has blocked r.holder && !(r.cls == 3 && decide (1 ≤ rd s K.throttleLevel)) && fits s fl w g r first then
      considerAll s fl w t (g ++ [{ r with first := first }]) rest blocked n
    else
      let late := decide (r.first ≤ w) && !r.waited
      considerAll s fl w t g (rest ++ [{ r with waited := r.waited || late }]) (addNew blocked r.holder) (n + b2n late)

/-- The grants of window w, and its place in the peak allowance, with those of the windows gone by since the last one. -/
def grantWindow (s : State) (w : Nat) : State :=
  let fl := floors s
  let gone := (upFrom (s.pow.win + 1) (min 8 (w - s.pow.win - 1))).filter (fun v => decide (1200 < fl + grantedIn s.pow.grants v))
  let s := setPow s { s.pow with peak := s.pow.peak ++ gone.filter (fun v => !has s.pow.peak v) }
  let old := s.pow.grants.filter (fun g => decide (w < g.first + g.span))
  let order := s.pow.reqs.foldl (fun a r => insReq s.pow.turn r a) []
  let (g, rest, n) := considerAll s fl w order old [] [] 0
  let left := s.pow.reqs.filterMap (fun r => rest.find? (fun x => x.no == r.no))
  let peak := s.pow.peak.filter (fun v => decide (w < v + 100000))
  let was := rd s K.peakWindowsUsed
  let peak := if decide (1200 < fl + grantedIn g w) then peak ++ [w] else peak
  let s := setPow (bump s K.budgetWaits n) { s.pow with grants := g, reqs := left, peak := peak, turn := s.pow.turn + 1, win := w }
  let s := wr s K.peakWindowsUsed peak.length
  if was < 10000 && 10000 ≤ peak.length then event s 0x90 2 nodeSlice 0 peak.length else s

/-! ## The throttle (R415, R416) -/

/-- The level that the causes ask for now, with the cause: 0 die, 1 HBM (both as the last reading left them), 2 rail,
3 forced. -/
def askedLevel (s : State) : Nat × Nat :=
  let rail := match s.pow.railEc with | some e => if passed s e 1000000 then 0 else 3 | none => 0
  let forced := rd s K.throttleLevelMin
  let (l, c) := (s.pow.asked, s.pow.cause)
  let (l, c) := if l < rail then (rail, 2) else (l, c)
  if l < forced then (forced, 3) else (l, c)

/-- Mark a level's cause as present. -/
def keepWarm (s : State) (l : Nat) : State := if l = 0 then s else setPow s { s.pow with warm := tset s.pow.warm l s.tm.ec }

/-- The level at a window boundary: it rises at once, and falls past a level only when that level's causes have been
away for 1 ms. -/
def nextLevel (s : State) (want cur : Nat) : Nat :=
  let held := (upFrom 1 4).filter (fun l => decide (l ≤ cur) && (match tget? s.pow.warm l with
    | some e => !passed s e 1000000 | none => false))
  max want (maxNat held)

/-- POWER_WINDOW: a window ends and the next begins. -/
def execPowerWindow (s : State) : Outc :=
  let w := windowNow s
  if w ≤ s.pow.win then .next s
  else
    let s := setPow s { s.pow with started := on s K.powerEnable, slow := rd s K.throttleLevel }
    let (want, cause) := askedLevel s
    let s := keepWarm s want
    let cur := rd s K.throttleLevel
    let new := nextLevel s want cur
    let s := grantWindow s w
    if new == cur then .next s
    else
      let cause := if want == 0 then s.pow.cause else cause
      let s := setPow (wr s K.throttleLevel new) { s.pow with cause := cause }
      .next (releaseHeld (event s 0x90 1 nodeSlice 1 (packBits [(8, cur), (8, new), (8, cause)])))

/-! ## Samples (R414, R418, R421) -/

/-- A slice model becomes guarded; against a fit that runs, the fit starts again. trigger: 0 temperature, 1 load, 2 measurement. -/
def guardModel (s : State) (sl trigger : Nat) : State :=
  if rd s (K.modelState sl) == 0 then event (wr s (K.modelState sl) 1) 0x90 4 sl 1 (packBits [(8, sl), (8, trigger)])
  else if rd s (K.modelState sl) == 2 then wr (setPow s { s.pow with fit := terase s.pow.fit sl }) (K.modelState sl) 1
  else s

/-- The conditions against which a trigger is tested: those of the calibration, or of the fit that runs. -/
def modelPoint (s : State) (sl : Nat) : F32 × F32 :=
  if rd s (K.modelState sl) == 2 then tget s.pow.fitAt sl (rd s (K.calTempC sl), rd s (K.calLoadW sl))
  else (rd s (K.calTempC sl), rd s (K.calLoadW sl))

/-- The last 100 readings. -/
def keep100 (l : List Nat) (n : Nat) : List Nat := (l ++ [n]).drop (l.length + 1 - 100)

/-- Peak amperes of the rails (R408). -/
def railPeaks : List Nat := [380, 380, 180, 340, 250, 210, 16, 70, 3]

/-- RAIL_OVERCURRENT (R414 step 2): the first rail above its peak; where only the node's power is above 1,450 W the rail
and current are not stated. -/
def overcurrent (s : State) (rails : List RailSample) : State :=
  let s := setPow s { s.pow with railEc := some s.tm.ec }
  match (rails.zip (railPeaks.zip (upFrom 0 9))).find? (fun p => decide (p.2.1 < p.1.amps)) with
  | some p => event s 0x90 3 nodeSlice 2 (packBits [(8, p.2.2), (16, p.1.amps)])
  | none => let (i, s) := fresh s; event s 0x90 3 nodeSlice 2 (Config.freeNat i % 2 ^ 24)

/-- POWER_SAMPLE: nine rails and the loads of the four slices. -/
def execPowerSample (rails : List RailSample) (sliceWatts : List Nat) (s : State) : Outc :=
  let rails := rails.take 9
  let total := sumNat (rails.map RailSample.milliwatts)
  let s := (rails.zip (upFrom 0 9)).foldl (fun t p => wr t (K.railPowerW p.2) (f32Div p.1.milliwatts 1000)) s
  let s := wr s K.nodePowerW (f32Div total 1000)
  let s := setPow s { s.pow with loadAvg := ((sliceWatts.take 4).zip (upFrom 0 4)).foldl (fun t p => tset t p.2 (keep100 (tget t p.2 []) p.1)) s.pow.loadAvg }
  let s := (upFrom 0 4).foldl (fun t sl =>
    if 100 ≤ (tget t.pow.loadAvg sl []).length && differ (meanLoad t sl) (modelPoint t sl).2 (rd t K.recalDeltaW) then guardModel t sl 1 else t) s
  let s := if 1050 * (floors s + grantedIn s.pow.grants (windowNow s)) < total then
      (upFrom 0 4).foldl (fun t sl => guardModel t sl 2) (bump s K.overbudgetWindows 1)
    else s
  .next (if (rails.zip railPeaks).any (fun p => decide (p.2 < p.1.amps)) || decide (1450000 < total) then overcurrent s rails else s)

/-- The thresholds of a level: die sensors, and stacks. -/
def dieAt (s : State) (l : Nat) : Nat := if l == 4 then rd s K.tjCriticalC else rd s K.tjThrottleC + 5 * l - 10
def hbmAt (s : State) (l : Nat) : Option Nat :=
  if l == 4 then some (rd s K.tjCriticalC) else if l == 3 then some (rd s K.hbmThrottleC + 5) else if l == 2 then some (rd s K.hbmThrottleC) else none

/-- THERMAL_SAMPLE. -/
def execThermalSample (t : Temps) (s : State) : Outc :=
  let die := maxNat (t.att ++ t.port)
  let hbm := maxNat t.hbm
  let byDie := maxNat ((upFrom 1 4).filter (fun l => decide (dieAt s l ≤ die)))
  let byHbm := maxNat ((upFrom 1 4).filter (fun l => match hbmAt s l with | some h => decide (h ≤ hbm) | none => false))
  let warmNow := (upFrom 1 4).filter (fun l => decide (dieAt s l < die + 3)
    || (match hbmAt s l with | some h => decide (h < hbm + 3) | none => false))
  let s := setPow (wr s K.tjMaxNowC die) { s.pow with
    asked := max byDie byHbm, cause := if byDie == 0 && byHbm == 0 then s.pow.cause else if byHbm ≤ byDie then 0 else 1, hbmNow := t.hbm,
    tempAvg := (upFrom 0 4).foldl (fun u sl => tset u sl (keep100 (tget u sl []) (sumNat ((t.att.drop (4 * sl)).take 4)))) s.pow.tempAvg }
  let s := warmNow.foldl keepWarm s
  .next ((upFrom 0 4).foldl (fun u sl =>
    if 100 ≤ (tget u.pow.tempAvg sl []).length && differ (meanTemp u sl) (modelPoint u sl).1 (rd u K.recalDeltaC) then guardModel u sl 0 else u) s)

/-- A slice stops: its shares, the merge contexts on its port die and the Quires in its Felt go, and no burst runs (R14). -/
def stopSlice (s : State) (sl : Nat) : State :=
  let s := (sliceShares s sl).foldl dropShare s
  let s := { s with ctxs := s.ctxs.filter (fun c => c.place / 1024 != sl) }
  let s := putStack s sl { stackSt s sl with burst := none, planned := [], ctxs := [] }
  let s := ((sliceQuires s sl).filter (fun p => p.2.tier == 1)).foldl (fun t p => loseQuire t p.1 p.2) s
  wr s (K.sliceState sl) 4

/-- Every slice stops, until the node is reset. -/
def stopSlices (s : State) : State := (upFrom 0 4).foldl stopSlice s

/-- THERM_TRIP (R422): att, whether the die is an attention die. -/
def execThermTrip (att : Bool) (die : Nat) (s : State) : Outc :=
  .next (emit (wr (stopSlices s) K.lastTrip ((if att then 0x10 else 0x20) + die)) (.pin .thermTripN false))

end Sys2Proof.Machine
end

