-- ==== Sys2Proof/Machine/Service.lean ====
section
/-! DEFINITION. Start-up and service (R450 to R466): the start of the slices, the slice operations, evacuation and
re-admission; and the reset and power inputs (R403, R422, R426, R478 to R480). -/

namespace Sys2Proof.Machine

/-! ## Start-up (R450 to R452) -/

/-- An event that a start failure writes; the manual gives it no code (R451). -/
def startEvent (s : State) (sl : Nat) : State := freeEvent s 0xB0 sl

/-- The failures of a slice's self-test that leave it serving (R9, R187, R382). -/
def selfTest (s : State) (sl : Nat) (r : HwResult) : State :=
  let s := (r.enginesFailed.filter (fun e => decide (e < 32))).foldl (fun t e => retireEngine t sl e) s
  let s := if r.scoreArrayOk then s else dropArray (startEvent s sl) sl
  (r.feltFailed.filter (fun b => decide (b < 48))).foldl (fun t b => retireFelt t sl b) s

/-- Whether every engine of a slice is retired. -/
def noEngines (s : State) (sl : Nat) : Bool := (upFrom 0 32).all (fun e => has s.rel.enginesOut (sl * 32 + e))

/-- Stacks of a slice that fail training are marked (R451). -/
def markStacks (s : State) (sl : Nat) (r : HwResult) : State :=
  let mark := (if r.scoringOk then 0 else 2 ^ scoringStack sl) + (if r.carryingOk then 0 else 2 ^ carryingStack sl)
  wr s K.stacksFailedTraining (rd s K.stacksFailedTraining ||| mark)

/-- A slice that fails at the start goes to RETIRED. -/
def retireAtStart (s : State) (sl : Nat) (r : HwResult) : State :=
  let s := markStacks s sl r
  let s := wr s K.slicesRetiredAtStart (rd s K.slicesRetiredAtStart ||| 2 ^ sl)
  setSlice (startEvent s sl) sl 4

/-- The subindices of the autostart list. -/
def autoFirst : Nat := 0x11
def autoLast : Nat := 0x50

/-- Take up an entry of the autostart list, or end it (R454). -/
def autoAt (s : State) (sub : Nat) : State :=
  if decide (sub ≤ autoLast) && bits (rd s (keyOf 0xB000 sub)) 48 16 != 0 then
    wr { s with sec := { s.sec with autoAt := s.tm.ec } } K.autostartPosition sub
  else wr s K.autostartState 2

/-- Begin the autostart list at the entry into start state 0x3. -/
def beginAuto (s : State) : State :=
  if on s K.autostartEnable then autoAt (wr s K.autostartState 1) autoFirst else s

/-- The node's start state once no slice is STARTING. -/
def leaveStart (s : State) : State :=
  let l := (upFrom 0 4).map (fun i => rd s (K.sliceState i))
  if l.any (fun x => x == 0) then s
  else if l.all (fun x => x == 4) then startEvent (wr (wr s K.startFailCause 1) K.bootFailures 0) nodeSlice
  else
    let s := wr (wr (wr s K.nodeStartState 3) K.startElapsedMs (localNs s / 1000000)) K.bootFailures 0
    settleStart (beginAuto s)

/-- SLICE_HARDWARE_READY: training, self-test and the clear of the whole node have ended for the slice. -/
def execSliceHardwareReady (slice : Nat) (r : HwResult) (s : State) : Outc :=
  if 4 ≤ slice || s.sec.held || rd s K.nodeStartState != 2 || rd s (K.sliceState slice) != 0 then .next s
  else
    let s := selfTest s slice r
    .next (leaveStart (if r.scoringOk && r.carryingOk && !noEngines s slice then setSlice s slice 1 else retireAtStart s slice r))

/-! ## Slice operations (R461, R462) -/

/-- Whether an extent in state 0x1 or 0x2 has blocks in the stacks of a slice. -/
def extentsIn (s : State) (sl : Nat) : Bool :=
  s.comp.extents.any (fun p => (p.2.state == 1 || p.2.state == 2)
    && s.mem.maps.any (fun m => m.holder == .extent p.1
      && (decide (0 < runOn m (scoringStack sl)) || decide (0 < runOn m (carryingStack sl)))))

/-- The states from which an operation is allowed. -/
def opFrom (code : Nat) : List Nat :=
  match code with | 1 => [1] | 2 => [2] | 3 => [3] | 4 => [3] | 5 => [3, 4] | _ => []

/-- Whether a salvage from the slice runs. -/
def salvaging (s : State) (sl : Nat) : Bool :=
  (sliceQuires s sl).any (fun p => match p.2.move with | some m => m.target == 5 | none => false)

/-- The refusals of a slice operation. -/
def opFails (s : State) (sl code : Nat) : List Fail :=
  let st := rd s (K.sliceOpState sl)
  let quiesce := code == 1
  [failIf (code == 0 || decide (5 < code)) 0x01 (K.sliceOp sl),
   failIf (1 ≤ code && code ≤ 5 && !has (opFrom code) (rd s (K.sliceState sl))) 0x01 (K.sliceState sl),
   failIf (st == 1 || st == 3 || st == 4) 0x04 (K.sliceOpState sl),
   failIf (has s.sec.activating sl) 0x04 0xA10007,
   failIf (salvaging s sl) 0x04 (K.sliceState sl),
   failIf (quiesce && on s (K.scheduleEnable sl)) 0x06 (K.scheduleEnable sl),
   failIf (quiesce && extentsIn s sl) 0x06 K.extentEnable,
   failIf (quiesce && on s K.herdEnable && (without (inService s) sl).isEmpty) 0x06 K.herdEnable]
  ++ (upFrom 0 64).map (fun a => failIf (quiesce && on s (K.slotAreaEnable a) && rd s (K.areaSlice a) == sl) 0x06 (K.slotAreaEnable a))

/-- Drop the evacuation moves of a slice that have not switched. -/
def dropEvacuation (s : State) (sl : Nat) : State :=
  (sliceQuires s sl).foldl (fun t p =>
    match p.2.move with
    | some m => if m.target == 6 then dropMove t p.1 p.2 else t
    | none => t) s

/-- Carry out a slice operation. -/
def runOp (s : State) (sl code : Nat) : State :=
  match code with
  | 1 => evacuate (wr (setSlice s sl 2) (K.sliceOpState sl) 1) sl
  | 2 => wr (setSlice (dropEvacuation s sl) sl 1) (K.sliceOpState sl) 0
  | 3 => ((linksOf sl).filter (fun l => on s (K.linkEnable l))).foldl train (wr s (K.sliceOpState sl) 3)
  | 4 => wr (setSlice s sl 4) (K.sliceOpState sl) 0
  | _ =>
    let was := rd s (K.sliceState sl)
    let l := without s.sec.fromRetired sl
    wr (setSlice { s with sec := { s.sec with fromRetired := if was == 4 then l ++ [sl] else l } } sl 0) (K.sliceOpState sl) 4

/-- A write of slice_op. -/
def hSliceOp (sl : Nat) : Handler := fun s _ p =>
  match firstFail (opFails s sl (ofBytes p)) with
  | some (r, k) => (s, .refused r (k / 256) (k % 256))
  | none => (runOp s sl (ofBytes p), .done)

/-- The row of a slice operation: a write of its code. -/
def sliceOpRow (sl code : Nat) (w : WReq) (s : State) : Outc :=
  if sl < 4 then .next (rowWrite s w (0x2000 + 0x100 * sl) 2 0 [BitVec.ofNat 8 code] (hSliceOp sl)) else .next s

/-- QUIESCE. -/
def execQuiesce (slice : Nat) (w : WReq) (s : State) : Outc := sliceOpRow slice 1 w s

/-- CANCEL. -/
def execCancel (slice : Nat) (w : WReq) (s : State) : Outc := sliceOpRow slice 2 w s

/-- RETRAIN. -/
def execRetrain (slice : Nat) (w : WReq) (s : State) : Outc := sliceOpRow slice 3 w s

/-- RETIRE. -/
def execRetireSlice (slice : Nat) (w : WReq) (s : State) : Outc := sliceOpRow slice 4 w s

/-- READMIT. -/
def execReadmit (slice : Nat) (w : WReq) (s : State) : Outc := sliceOpRow slice 5 w s

/-! ## The ends of the operations (R463, R465) -/

/-- Whether nothing keeps a slice QUIESCING (R463 item 6, R14): no Quire, list, reference or context, and its freed HBM is cleared. -/
def sliceEmpty (s : State) (sl : Nat) : Bool :=
  (sliceQuires s sl).isEmpty && (sliceShares s sl).isEmpty && s.kv.sources.all (fun x => x.slice != sl)
  && s.ctxs.all (fun c => c.place / 1024 != sl) && (upFrom 0 128).all (fun i => !holdsLists s sl i)
  && s.holds.all (fun h => !(h.kind == .clearing && h.stack / 2 == sl))

/-- A slice's stacks are cleared as a whole (R465 step 3). -/
def clearSlice (s : State) (sl : Nat) : State :=
  { s with holds := s.holds.filter (fun h => !(h.kind == .clearing && h.stack / 2 == sl)) }

/-- EVACUATION_DONE. -/
def execEvacuationDone (slice : Nat) (s : State) : Outc :=
  if 4 ≤ slice || rd s (K.sliceState slice) != 2 || !sliceEmpty s slice then .next s
  else .next (wr (setSlice s slice 3) (K.sliceOpState slice) 0)

/-- RETRAIN_DONE: ok, both stacks trained. -/
def execRetrainDone (slice : Nat) (ok : Bool) (s : State) : Outc :=
  if 4 ≤ slice || rd s (K.sliceOpState slice) != 3 || rd s (K.sliceState slice) != 3 then .next s
  else if ok then .next (wr s (K.sliceOpState slice) 0)
  else .next (wr (setSlice s slice 4) (K.sliceOpState slice) 5)

/-- Copy the ROUTE and REAM entries of the node into the directory of a slice (R465 step 4, R489). -/
def copyEntries (s : State) (sl : Nat) : State :=
  match (without (copySlices s) sl).head? with
  | none => s
  | some from_ =>
    (s.dirs.filter (fun e => e.dir == from_ && (ekind e.key == 2 || ekind e.key == 3))).foldl
      (fun t e => (dirPut t { e with dir := sl }).getD t) (dirDrop s (fun e => e.dir == sl))

/-- Take the backing region of a slice at its size (R248). -/
def backSlice (s : State) (sl : Nat) : State :=
  resizeHold s .backing sl (carryingStack sl) (mib s.dirTaken)

/-- READMIT_DONE. A slice from QUIESCED trains no stack. -/
def execReadmitDone (slice : Nat) (r : HwResult) (s : State) : Outc :=
  if 4 ≤ slice || rd s (K.sliceOpState slice) != 4 || rd s (K.sliceState slice) != 0 then .next s
  else
    let trains := has s.sec.fromRetired slice
    let trained := !trains || (r.scoringOk && r.carryingOk)
    let s := selfTest { s with sec := { s.sec with fromRetired := without s.sec.fromRetired slice } } slice r
    let s := if trains then markStacks s slice r else s
    if trained && !noEngines s slice then
      let s := copyBooks (backSlice (clearPoison (clearSlice s slice) slice) slice) slice
      .next (afterMove (setSlice (wr (copyEntries s slice) (K.sliceOpState slice) 0) slice 1))
    else .next (wr (setSlice (startEvent s slice) slice 4) (K.sliceOpState slice) 5)

/-! ## Reset and power inputs -/

/-- NODE_RST_N_ASSERT: low for at least 1 µs. -/
def execNodeRstNAssert (s : State) : Outc :=
  if s.sec.rstLow then .next s
  else
    let s := resetState s
    .next { s with sec := { s.sec with rstLow := true, held := true } }

/-- NODE_RST_N_RELEASE: ROM runs, unless the strap is high. -/
def execNodeRstNRelease (strap : Bool) (s : State) : Outc :=
  if !s.sec.rstLow then .next s
  else .next (boot (resetState { s with sec := { s.sec with rstLow := false, held := false } }) strap)

/-- PWR_OK_CORE_DROP: slices stop, links go idle, and the node holds itself in reset until NODE_RST_N has been low and is raised. -/
def execPwrOkCoreDrop (s : State) : Outc :=
  let s := resetState s
  .next { s with sec := { s.sec with held := true } }

/-- CORE_RAILS_POWER_UP. -/
def execCoreRailsPowerUp (s : State) : Outc :=
  let s := wr (clearLog s) K.logCount 0
  .next (if rd s K.debugState == 2 then wr s K.debugState (if rd s K.lifecycle == 2 then 1 else 0) else s)

/-- VDD_AUX_POWER_UP: the objects of the always-on domain take their defaults. -/
def execVddAuxPowerUp (s : State) : Outc :=
  .next { s with dict := s.dict.filter (fun p => !(persOf p.1 == some .alwaysOn)) }

end Sys2Proof.Machine
end

