-- ==== Sys2Proof/Machine/Router.lean ====
section
/-! DEFINITION. The dictionary's requests (R27 to R58, R484, R485): the values that the node computes at the read, the
enable and the handler of each object, and READ, WRITE, DESCRIBE, READ_BLOCK and ENABLE_STOP_DONE. -/

namespace Sys2Proof.Machine

/-! ## Values computed at the read -/

/-- A count as a value. -/
def countIf {α : Type} (l : List α) (p : α → Bool) : Nat := (l.filter p).length

/-- Objects of a slice block (R137, R162, R188, R469). -/
def liveSlice (s : State) (sl sub : Nat) : Option Nat :=
  match sub with
  | 0x04 => some (if rd s (K.sliceState sl) == 2 then (sliceQuires s sl).length else 0)
  | 0x10 => some (sliceSheets s sl).length
  | 0x11 => some (countIf (sliceSheets s sl) (fun p => decide (p.2.tokenCount < 64)))
  | 0x12 => some (sumNat ((sliceSheets s sl).map (fun p => sheetExt p.2)))
  | 0x16 => some (countIf s.kv.reams (fun p => p.2.retiredSet && !p.2.reclaimed && reamSlice s p.2.tenant p.2.id == sl))
  | 0x22 => some (parkedNow s sl)
  | 0x39 => some (stackFree s (scoringStack sl) / 2 ^ 20)
  | 0x3A => some (countIf (sliceQuires s sl) (fun p => p.2.kCarrying && p.2.tier == 0))
  | _ => none

/-- Objects of a tenant record (R261, R264). -/
def liveTenant (s : State) (t sub : Nat) : Option Nat :=
  match sub with
  | 0x10 => some (holdingHbm s t)
  | 0x11 => some (holdingFelt s t)
  | 0x12 => some (holdingVat s t)
  | 0x13 => some (holdingSwap s t)
  | 0x14 => some (b2n (overQuotaNow s t))
  | 0x1A => some (countIf (tenantQuires s t) (fun p => p.2.tier == 3))
  | _ => none

/-- Objects of a vector index record (R200). -/
def liveIndex (s : State) (i sub : Nat) : Option Nat :=
  let n := curStep s
  match sub with
  | 0x0B => some (countIf (indexItems s i) (fun x => x.add != 0 && decide (x.add ≤ n) && (x.del == 0 || decide (n < x.del))))
  | 0x0C => some (countIf (indexItems s i) (fun x => x.add != 0))
  | 0x0D => some (b2n (tget? s.srch.codebooks i).isSome
      + 2 * b2n ((upFrom 0 (vLists s i)).all (fun l => (tget? s.srch.centroids (i * 65536 + l)).isSome)))
  | 0x0E => some (if vindexHeld s i then ceilDiv (vindexReserve s i) (2 ^ 20) else 0)
  | _ => none

/-- Objects of a slice's directory record (R254). -/
def liveDir (s : State) (sl sub : Nat) : Option Nat :=
  let l := s.dirs.filter (fun e => e.dir == sl)
  match sub with
  | 0x01 => some (countIf l (fun e => e.place.isSome))
  | 0x02 => some (countIf l (fun e => e.backed))
  | 0x06 => some ((l.filter (fun e => e.backed && (match e.place with | some p => decide (56 ≤ p / 4096) | none => false))).map
      (fun e => egroup e.key)).eraseDups.length
  | _ => none

/-- A map entry as R371 lays it out. -/
def mapWord (e : MapEntry) : Nat :=
  packBits [(72, 0), (16, e.spareGroup), (4, e.retrieval), (4, e.inService), (8, e.membership), (8, e.role), (16, e.node)]

/-- The entry of a node that the map does not name. -/
def mapBlank : MapEntry := { node := 0xFFFF, role := 0, membership := 0, inService := 0, retrieval := 0, spareGroup := 0xFFFF }

/-- The selected share (R378). -/
def shareWord (s : State) : Nat :=
  match s.comp.shares.find? (fun d => d.tenant == rd s K.shareSelectTenant && d.id == rd s K.shareSelectId && !d.ended) with
  | none => 0
  | some d =>
    let v := d.versions.find? (fun v => v.num == d.current)
    packBits [(32, d.current), (32, match v with | some v => v.object | none => 0), (16, match v with | some v => v.node | none => 0),
      (8, match v with | some v => v.kind | none => 0), (8, d.versions.length),
      (32, sumNat (d.versions.map (fun v => sumNat (v.opens.map Prod.snd))))]

/-- MiB of the pool that no lease holds. -/
def poolFree (s : State) : Nat :=
  sumNat ((upFrom 0 4).map (fun k => rd s (K.poolRangeMib k))) - sumNat (s.comp.leases.map PoolLease.mib)

/-- Objects that only the Lead serves (R378, R407). -/
def leadOnly (idx sub : Nat) : Bool :=
  (idx == 0x7110 && decide (0x10 ≤ sub) && decide (sub ≤ 0x1A)) || idx == 0x7120 || (idx == 0x8100 && decide (4 ≤ sub)) || idx == 0x8110

/-- The value that the node computes at the read, where it keeps none. -/
def live (s : State) (idx sub : Nat) : Option Nat :=
  match idx / 256 with
  | 0x10 => if idx == 0x10F0 && sub == 0 then some (lastRefusal s) else none
  | 0x12 =>
    if idx == 0x1200 && sub == 5 then some (stamp s)
    else if idx == 0x1200 && sub == 7 && leads s then some 0 else none
  | 0x20 => liveSlice s 0 sub
  | 0x21 => liveSlice s 1 sub
  | 0x22 => liveSlice s 2 sub
  | 0x23 => liveSlice s 3 sub
  | 0x31 => liveTenant s (idx % 256) sub
  | 0x42 =>
    if idx == 0x4200 then
      match sub with
      | 0x05 => some s.kv.builds.length
      | 0x0B => some s.srch.books.length
      | 0x0C => some s.srch.filters.length
      | _ => none
    else liveIndex s (idx - 0x4220) sub
  | 0x43 =>
    match sub with
    | 0x04 => some s.ctxs.length
    | 0x11 => some (match tget? s.trees (rd s K.treeSelect) with | some t => treeWord t | none => treeBlank)
    | 0x12 => some s.trees.length
    | _ => none
  | 0x44 => if decide (0x4410 ≤ idx) then liveDir s (idx - 0x4410) sub else none
  | 0x50 => if decide (0x5010 ≤ idx) && sub == 6 then some (regionFreeKib s (idx - 0x5010) / 1024) else none
  | 0x60 => if sub == 3 then some (upLinks s).length else none
  | 0x61 => if sub == 0x0E then some (maxNat ((upFrom 0 8).map (fun n => flapCount s (idx - 0x6100) n))) else none
  | 0x62 => if sub == 0x13 then some (countIf s.net.regions (fun p => p.2.valid)) else none
  | 0x63 => if idx == 0x6300 && sub == 2 then some (countModeNow s) else none
  | 0x71 =>
    match idx % 256, sub with
    | 0x00, 0x05 => some (extentsActive s)
    | 0x00, 0x0A => some s.comp.opens.length
    | 0x00, 0x14 => some (tget s.comp.tleases (rd s K.leaseSelect) 0)
    | 0x10, 0x18 => some (poolFree s)
    | 0x10, 0x19 => some (countIf s.comp.leases (fun l => !l.lapsed))
    | 0x20, 0x03 => some (shareWord s)
    | 0x20, 0x04 => some (countIf s.comp.shares (fun d => !d.ended))
    | _, _ => none
  | 0x72 => if sub == 0x0A then some (mapWord ((mapEntry? s.herd.map (rd s K.mapSelect)).getD mapBlank)) else none
  | 0x80 => if idx == 0x8000 && sub == 0x11 then some (cvOf s (rd s K.cvSelect)) else none
  | 0x81 =>
    match idx % 256, sub with
    | 0x00, 0x0B => some (scoreOf s (rd s K.healthSelect))
    | 0x20, 0x05 => some (storeBytes s.rel.jstore)
    | 0x20, 0x08 => some s.rel.lost.length
    | _, _ => none
  | 0x82 => if sub == 4 then some (tget s.log (rd s K.logSelect) 0) else none
  | 0xA0 =>
    if sub == 0x33 then some (ofBytes s.sec.report)
    else if decide (0x40 ≤ sub) && decide (sub ≤ 0x4C) then some (measOf s (sub - 0x3F))
    else if sub == 0x50 then some (clearingMib s)
    else none
  | _ => none

/-- What a read of an object returns, as a number. -/
def readValue (s : State) (o : Obj) (idx sub : Nat) : Nat :=
  if sub == 0 && (lookupObj idx 0).isNone then o.dflt
  else if leadOnly idx sub && !isLead s then dfltOf o idx sub
  else (live s idx sub).getD (rd s (keyOf idx sub))

/-- The bytes of an object's value. -/
def readBytes (s : State) (o : Obj) (idx sub : Nat) : List Byte := toBytes o.ty.size (readValue s o idx sub)

/-! ## Enables -/

/-- The enable object at a key. -/
def enableOf (k : Nat) : Option Enable :=
  let idx := k / 256
  let sub := k % 256
  match idx / 256 with
  | 0x11 => if k == K.deputyEnable then some (enDeputy false) else if k == K.herdEnable then some enHerd else none
  | 0x12 =>
    if k == K.htRefEnable then some enHtRef else if k == K.htSourceEnable then some enHtSource
    else if k == K.deadlineEnable then some enDeadline
    else if decide (0x1220 ≤ idx) && decide (idx ≤ 0x1223) && sub == 0x0A then some (enSchedule (idx - 0x1220)) else none
  | 0x31 => if sub == 1 then some (enTenant (idx - 0x3100)) else none
  | 0x40 => if k == K.formatRulesEnable then some enFormatRules else if k == K.attentionEnable then some enAttention else none
  | 0x41 => if k == K.scoringEnable then some enScoring else if k == K.rebalanceEnable then some enRebalance else none
  | 0x42 =>
    if k == K.deckleEnable then some enDeckle else if k == K.searchEnable then some enSearch
    else if isVindex idx && sub == 1 then some (enVindex (idx - 0x4220)) else none
  | 0x43 => if k == K.mergeEnable then some enMerge else none
  | 0x44 => if k == K.directoryEnable then some enDirectory else none
  | 0x50 =>
    if k == K.vatEnable then some enVat else if k == K.pressEnable then some enPress
    else if k == K.feltHomeEnable then some enFeltHome
    else if decide (0x5010 ≤ idx) && decide (idx < 0x5020) && sub == 1 then some (enVatRegion (idx - 0x5010)) else none
  | 0x61 => if decide (idx < 0x6124) && sub == 1 then some (enLink (idx - 0x6100)) else none
  | 0x62 => if k == K.transportEnable then some enTransport else none
  | 0x63 => if k == K.trafficEnable then some enTraffic else none
  | 0x70 =>
    if k == K.hostPortEnable then some enHostPort
    else if decide (0x7010 ≤ idx) && decide (idx < 0x7050) && sub == 1 then some (enSlotArea (idx - 0x7010)) else none
  | 0x71 => if k == K.extentEnable then some enExtent else if k == K.poolEnable then some enPool else none
  | 0x81 => if k == K.healthEnable then some enHealth else if k == K.journalEnable then some enJournal else none
  | 0x82 => if k == K.traceTriggerEnable then some enTrace else none
  | 0x90 => if k == K.powerEnable then some enPower else none
  | 0xA0 => if k == K.mgmtSessionEnable then some enMgmtSession else none
  | _ => none

/-- The checks that a written object runs (R49), with its new value in place: the first failure, by ascending enables. -/
def runChecks (t : State) (keys : List Nat) : Fail :=
  firstSome ((enableKeys.filter (fun k => on t k)).map (fun k =>
    match enableOf k with
    | some e => if keys.any (fun x => e.covers x || e.coversIn t x) then runningFails e t else none
    | none => none))

/-! ## Writes of objects without a row of their own -/

/-- The object that shows why the unit of an RWQ object is not quiesced (R33, R48). -/
def busyKey (s : State) (idx : Nat) : Nat :=
  if decide (0x2000 ≤ idx) && decide (idx ≤ 0x2300) then keyOf idx 1
  else ((enableKeys.filter (fun k => k / 256 == idx)).find? (fun k => rd s k != 0)).getD (keyOf idx 1)

/-- An entry of the autostart list (R455). -/
def autoEntryOk (v : Nat) : Bool :=
  let idx := bits v 48 16
  bits v 32 4 == 0 && decide (bits v 36 4 ≤ 3)
  && (idx == 0 || ((enableOf (keyOf idx (bits v 40 8))).isSome && decide (1 ≤ bits v 0 32) && decide (bits v 0 32 ≤ 600000)))

/-- The refusal of a value at the write (R30, R108). -/
def valueFail (s : State) (o : Obj) (k v : Nat) : Fail :=
  if (k == 0x400002 || k == 0x400003) && decide (v < 0x10) && !valsOk o.vals v then some (0x07, k)
  else if !valsOk o.vals v || !boundOk s k v then some (0x01, k)
  else if k / 256 == 0xB000 && decide (autoFirst ≤ k % 256) && decide (k % 256 ≤ autoLast) && !autoEntryOk v then some (0x01, k)
  else none

/-- The refusals of a write of an object that has no row of its own, before the checks of R49. -/
def plainFail (s : State) (o : Obj) (idx : Nat) (kv : List (Nat × Nat)) : Fail :=
  firstFail (
    [failIf (o.acc == .rwq && !quiesced s idx) 0x05 (busyKey s idx),
     failIf (kv.any (fun p => leadOnly idx (p.1 % 256)) && !isLead s) 0x06 K.membershipState]
    ++ kv.map (fun p => valueFail s o p.1 p.2)
    ++ (upFrom 0 4).map (fun sl => failIf (kv.any (fun p => p.1 == K.sliceDuty sl && p.2 == 1) && !(sliceSheets s sl).isEmpty) 0x04 (K.sheetsHeld sl)))

/-- Whether a key is a rate or a depth of policing (R347). -/
def isPolice (k : Nat) : Bool :=
  decide (0x6310 ≤ k / 256) && decide (k / 256 < 0x6318) && decide (0x20 ≤ k % 256) && decide (k % 256 < 0x30)

/-- Store one value. A policing value that governs at once settles the buckets as at phase 0. -/
def storeOne (s : State) (o : Obj) (k v : Nat) : State :=
  if isPolice k && !runsSteps s then
    let t := wr s k v
    let t := settleBuckets { t with dq := { t.dq with gov := tset t.dq.gov k (rd s k) } }
    { t with dq := { t.dq with gov := terase t.dq.gov k } }
  else store s o k v

/-- What follows a write of an object: the record that a window selects is shown, and the span is computed again where its
guard has changed (R70, R82). -/
def afterWrite (s : State) (k : Nat) : State :=
  if k == K.regionSelect then showRegion s
  else if k == K.extentSelect then showExtent s
  else if k == K.stepGuardNs then updateSpan s
  else s

/-- Store values under R49: all of them, or none. -/
def storeAll (s : State) (o : Obj) (idx : Nat) (kv : List (Nat × Nat)) : State × Res :=
  match plainFail s o idx kv with
  | some (r, k) => (s, .refused r (k / 256) (k % 256))
  | none =>
    let t := kv.foldl (fun u p => storeOne u o p.1 p.2) s
    match runChecks t (kv.map Prod.fst) with
    | some (r, k) => (s, .refused r (k / 256) (k % 256))
    | none => (kv.foldl (fun u p => afterWrite u p.1) t, .done)

/-- A write of an object that has no row of its own. -/
def hPlain (idx sub : Nat) : Handler := fun s _ p =>
  match lookupObj idx sub with
  | none => (s, .length)
  | some o => storeAll s o idx [(keyOf idx sub, ofBytes p)]

/-- A whole-array write through subindex 00 (R484). -/
def hArray (idx n : Nat) : Handler := fun s _ p =>
  match lookupObj idx 1 with
  | none => (s, .length)
  | some o =>
    if p.length != n * o.ty.size then (s, .length)
    else storeAll s o idx ((upFrom 0 n).map (fun i => (keyOf idx (i + 1), ofBytes ((p.drop (i * o.ty.size)).take o.ty.size))))

/-- A write of bundle_buffer at an offset (R31). -/
def hBundleBuffer (off : Nat) : Handler := fun s _ p =>
  ({ s with dq := { s.dq with bundle := putBytes s.dq.bundle off p } }, .done)

/-- A handler that is given a free choice of order or outcome. -/
def withFree (f : Bool → Handler) : Handler := fun s w p =>
  let (i, s) := fresh s
  f (Config.freeBool i) s w p

/-- A write of deputy_enable whose operand is free. -/
def hDeputy : Handler := withFree (fun b => enableWrite (enDeputy b))

/-- A write of cv_op, with the lines fed free. -/
def hCvOpFree : Handler := fun s w p =>
  let (i, s) := fresh s
  hCvOp (Config.freeNat i) s w p

/-- The handler of a write, by object; off is the offset of a segment. bundle: what a write of bundle_apply does. -/
def handlerOf (bundle : Handler) (idx sub off : Nat) : Handler :=
  let k := keyOf idx sub
  if k == K.deputyEnable then hDeputy
  else
    match enableOf k with
    | some e => enableWrite e
    | none =>
      match idx / 256, sub with
      | 0x10, 0x01 => if idx == 0x1010 then withFree hStoreCommit else hPlain idx sub
      | 0x10, 0x02 => if idx == 0x1010 then hStoreDefaults else hPlain idx sub
      | 0x10, 0x05 => if idx == 0x1010 then hBundleBuffer off else hPlain idx sub
      | 0x10, 0x06 => if idx == 0x1010 then bundle else hPlain idx sub
      | 0x12, _ => if decide (0x1210 ≤ idx) && decide (idx ≤ 0x1213) then hScheduleTable (idx - 0x1210) sub else hPlain idx sub
      | 0x20, 0x02 => hSliceOp 0
      | 0x21, 0x02 => hSliceOp 1
      | 0x22, 0x02 => hSliceOp 2
      | 0x23, 0x02 => hSliceOp 3
      | 0x40, 0x00 => hArray idx 16
      | 0x43, 0x11 => hTreeEntry
      | 0x44, 0x07 => hDirWindowOp
      | 0x50, 0x08 => if decide (0x5010 ≤ idx) then hVatDrain (idx - 0x5010) else hPlain idx sub
      | 0x61, 0x07 => hLaneRestore (idx - 0x6100)
      | 0x62, 0x12 => hRegionOp
      | 0x63, 0x00 => hArray idx 32
      | 0x70, 0x00 => hArray idx 255
      | 0x71, 0x12 => if idx == 0x7100 then hExtentOp else hPlain idx sub
      | 0x71, 0x05 => if idx == 0x7110 then hPoolRequest else hPlain idx sub
      | 0x71, 0x06 => if idx == 0x7110 then hPoolRelease else hPlain idx sub
      | 0x80, 0x11 => if idx == 0x8000 then hCvEntry else hPlain idx sub
      | 0x80, 0x12 => if idx == 0x8000 then hCvOpFree else hPlain idx sub
      | 0x82, 0x05 => hLogClear
      | 0xA0, 0x10 => hOwnerKey
      | 0xA0, 0x31 => hAttestRequest
      | 0xA1, 0x04 => hFwBuffer off
      | 0xA1, 0x05 => hFwApply
      | 0xA1, 0x06 => hFwAbort
      | 0xA1, 0x07 => hFwActivate
      | 0xA1, 0x0C => hSvnCommit
      | _, _ => if idx == 0xA000 && decide (0x18 ≤ sub) && decide (sub ≤ 0x1F) then hSessionKey (sub - 0x18) else hPlain idx sub

/-! ## Requests -/

/-- The tests common to reads, in the order of R41; then the answer for the index. -/
def withRead (s : State) (via : Via) (p : Pdu) (f : State → State) : State :=
  if vendorRange p.index then finish s via p (.refused 0x09 p.index p.subindex)
  else if !mayRead s via p.index then answer s via (respond p 5 0 [])
  else f s

/-- Whether a node in recovery withholds an object (R444). -/
def withheld (s : State) (idx sub : Nat) : Bool := inRecovery s && !recoveryServes idx sub false

/-- Whether a read's offset is wrong for its object (R31, R40). -/
def badOffset (o : Obj) (off : Nat) : Bool :=
  match o.ty with | .octets n => decide (n ≤ off) | _ => off != 0

/-- READ. -/
def answerRead (s : State) (via : Via) (p : Pdu) : State :=
  withRead s via p (fun s =>
    match (if withheld s p.index p.subindex then none else findObj p.index p.subindex) with
    | none => answer s via (respond p 2 0 [])
    | some o =>
      if o.acc == .wo then answer s via (respond p 3 0 [])
      else if !p.payload.isEmpty || badOffset o p.offset then answer s via (respond p 4 0 [])
      else finish s via p (.data (((readBytes s o p.index p.subindex).drop p.offset).take 1024)))

/-- The 20 bytes of a name. -/
def nameBytes (n : String) : List Byte := padBytes 20 (n.toList.map (fun c => BitVec.ofNat 8 c.toNat))

/-- The 48 bytes that describe an object. -/
def describeBytes (s : State) (o : Obj) (idx sub : Nat) : List Byte :=
  let plain := match o.ty with | .octets _ => false | .record _ => false | .array => false | _ => true
  let (lo, hi) := boundsOf s o (keyOf idx sub)
  [BitVec.ofNat 8 o.ty.code, BitVec.ofNat 8 o.acc.code, BitVec.ofNat 8 o.pers.code, 0]
  ++ toBytes 8 (if plain then lo else 0) ++ toBytes 8 (if plain then hi else 0)
  ++ toBytes 8 (if plain then (if sub == 0 then o.dflt else if unstatedDflt (keyOf idx sub) then 0 else keyDflt (keyOf idx sub)) else 0) ++ nameBytes o.name

/-- DESCRIBE. DESIGN CHOICE (log entry 120): its offset plays no role. -/
def answerDescribe (s : State) (via : Via) (p : Pdu) : State :=
  withRead s via p (fun s =>
    match (if withheld s p.index p.subindex then none else findObj p.index p.subindex) with
    | none => answer s via (respond p 2 0 [])
    | some o =>
      if !p.payload.isEmpty then answer s via (respond p 4 0 [])
      else finish s via p (.data (describeBytes s o p.index p.subindex)))

/-- The packed values of a range of subindices. -/
def packRange (s : State) (idx : Nat) (subs : List Nat) : List Byte :=
  subs.flatMap (fun sub =>
    if decide (0xFF < sub) || withheld s idx sub then []
    else match findObj idx sub with
      | some o => if o.acc == .wo then [] else readBytes s o idx sub
      | none => [])

/-- READ_BLOCK. -/
def answerReadBlock (s : State) (via : Via) (p : Pdu) : State :=
  withRead s via p (fun s =>
    if !(pageOf p.index).any (fun o => o.hasIdx p.index && !withheld s p.index o.sub) then answer s via (respond p 2 0 [])
    else
      let l := packRange s p.index (upFrom p.subindex p.length)
      if 1024 < l.length then answer s via (respond p 4 0 []) else finish s via p (.data l))

/-- ENABLE_STOP_DONE. -/
def execEnableStopDone (key : Nat) (s : State) : Outc :=
  match enableOf key with
  | some e => .next (stopDone e s)
  | none => .next s

end Sys2Proof.Machine
end

