-- ==== Sys2Proof/Machine/Bundle.lean ====
section
/-! DEFINITION. Internal writes (R56, R437, R454): configuration bundles and the autostart list; and the requests as they
come in: READ, WRITE, DESCRIBE, READ_BLOCK, the mailbox command 0xC100 (R307) and secured datagrams (R432). -/

namespace Sys2Proof.Machine

/-! ## Internal writes -/

/-- The outcome of an internal write (transport 0x0): whether it was carried out. The refusal is recorded (R51). -/
def internalDone (s : State) (r : Res) : State × Bool :=
  match r with
  | .refused reason i j => (noteRefusal s .internal reason (keyOf i j), false)
  | .checkFailed reason k => (enableRefused (noteRefusal s .internal reason k) .internal reason k, false)
  | .busy => (s, false)
  | .length => (s, false)
  | .done => (s, true)
  | .later => (s, true)
  | .data _ => (s, true)

/-- A write with the rights of the physical function, from inside the node. -/
def internalWrite (h : Nat → Nat → Nat → Handler) (s : State) (idx sub : Nat) (payload : List Byte) : State × Bool :=
  if vendorRange idx then internalDone s (.refused 0x09 idx sub)
  else
    match findObj idx sub with
    | none => (s, false)
    | some o =>
      let arr := sub == 0 && (arrayCount idx).isSome
      let big := match o.ty with | .octets n => decide (1024 < n) | _ => false
      if !arr && (o.acc == .ro || o.acc == .const) then (s, false)
      else if !arr && (if big then payload.isEmpty || decide (1024 < payload.length) else payload.length != o.ty.size) then (s, false)
      else
        let (t, r) := h idx sub 0 s { via := .internal, txn := 0 } payload
        internalDone t r

/-! ## Bundles (R56, R437, R438) -/

/-- An entry of a bundle. -/
structure BundleEntry where
  idx : Nat
  sub : Nat
  val : List Byte
  deriving DecidableEq, Repr

/-- The entries of a bundle and the bytes that follow them; none where one runs past the end. -/
def bundleEntries : Nat → List Byte → Option (List BundleEntry × List Byte)
  | 0, l => some ([], l)
  | n + 1, l =>
    if l.length < 8 then none
    else
      let len := ofBytes ((l.drop 4).take 4)
      let full := ceilDiv len 8 * 8
      let body := l.drop 8
      if body.length < full then none
      else
        (bundleEntries n (body.drop full)).map (fun r =>
          ({ idx := ofBytes (l.take 2), sub := ofBytes ((l.drop 2).take 1), val := body.take len } :: r.1, r.2))

/-- The step of R437's list that fails: 1 to 5 in its order; or the sequence and the entries. -/
def bundleTest (s : State) (l : List Byte) : Sum Nat (Nat × List BundleEntry) :=
  let n := l.length
  let h := ofBytes (l.take 64)
  let unit := bits h 384 128
  if rd s K.ownerKeyState == 0 then .inl 1
  else if n < 64 || !Config.ed25519Verify (rd s K.ownerKey) (l.take (n - 64)) (l.drop (n - 64)) then .inl 2
  else if bits h 32 32 != 0x3640 || (unit != 0 && unit != rd s K.unitId) then .inl 3
  else if bits h 320 64 ≤ rd s K.bundleSequenceLast then .inl 4
  else
    match bundleEntries (bits h 16 16) ((l.take (n - 64)).drop 64) with
    | some (es, []) => if 128 ≤ n then .inr (bits h 320 64, es) else .inl 5
    | _ => .inl 5

/-- The enables that a bundle has changed, newest first, each with whether it read 1 before. -/
abbrev Changed := List (Enable × Bool)

/-- last_refusal names an entry that was turned away with another result than REFUSED (R56 step 3). Its reason is not stated:
a free value (log entry 126). -/
def noteEntry (s : State) (e : BundleEntry) : State :=
  let (i, s) := fresh s
  noteRefusal s .internal (Config.freeNat i % 256) (keyOf e.idx e.sub)

/-- Apply entries in order: the state, the enables changed, and whether every one was carried out. The owner key waits (R438). -/
def applyEntries (h : Nat → Nat → Nat → Handler) : List BundleEntry → State → Changed → State × Changed × Bool
  | [], s, ch => (s, ch, true)
  | e :: r, s, ch =>
    let k := keyOf e.idx e.sub
    if k == K.ownerKey then
      if e.val.length == 32 then applyEntries h r s ch else (noteEntry s e, ch, false)
    else
      let (t, ok) := internalWrite h s e.idx e.sub e.val
      if ok then
        applyEntries h r t (match enableOf k with | some x => if on t k == on s k then ch else (x, on s k) :: ch | none => ch)
      else (if rd t 0x10F006 == rd s 0x10F006 then noteEntry t e else t, ch, false)

/-- An enable written inside the node. -/
def setEnable (e : Enable) (v : Nat) (s : State) : State := (enableWrite e s { via := .internal, txn := 0 } (toBytes 1 v)).1

/-- Whether a key is an object that a bundle may change and that is no enable. -/
def plainKey (k : Nat) : Bool := (accOf k == some .rw || accOf k == some .rwq) && (enableOf k).isNone

/-- Every object but the enables at its value in s, with the tables behind the windows and the buffers; the rest as in t. -/
def restoreObjects (s t : State) : State :=
  updateSpan { t with
    dict := (s.dict.filter (fun p => plainKey p.1)).foldl (fun d p => tset d p.1 p.2) (t.dict.filter (fun p => !plainKey p.1)),
    dq := { t.dq with gov := s.dq.gov, bundle := s.dq.bundle, fwBuf := s.dq.fwBuf },
    trees := s.trees, rel := { t.rel with cvs := s.rel.cvs } }

/-- Undo a bundle (R56 step 3): the enables that it set go to 0 in reverse order, every other object takes the value from before
the bundle, and the enables that it stopped go to 1 again. -/
def undoBundle (s t : State) (ch : Changed) : State :=
  let t := ch.foldl (fun u c => if c.2 then u else setEnable c.1 0 u) t
  ch.foldl (fun u c => if c.2 then setEnable c.1 1 u else u) (restoreObjects s t)

/-- The owner key that a bundle brings. -/
def bundleKey (s : State) (l : List BundleEntry) : State :=
  match l.reverse.find? (fun e => keyOf e.idx e.sub == K.ownerKey) with
  | some e => wr (wr s K.ownerKey (ofBytes e.val)) K.ownerKeyState 1
  | none => s

/-- A write of bundle_apply inside a bundle: one bundle is applied at a time. -/
def hNoBundle : Handler := fun s _ _ => (s, .refused 0x04 0x1010 7)

/-- Apply the bundle in the buffer. -/
def applyBundle (s : State) : State × Res :=
  match bundleTest s (getBytes s.dq.bundle 0 (rd s K.bundleLength)) with
  | .inl n => (event (wr s K.bundleState 2) 0xA0 8 nodeSlice 1 n, .done)
  | .inr (seq, es) =>
    match applyEntries (handlerOf hNoBundle) es s [] with
    | (t, _, true) => (wr (wr (bundleKey t es) K.bundleState 1) K.bundleSequenceLast seq, .done)
    | (t, ch, false) => (wr (undoBundle s t ch) K.bundleState 3, .done)

def hBundleApply : Handler := trigger 0x1010 6 applyBundle

/-- BUNDLE_APPLY. -/
def execBundleApply (w : WReq) (v : Byte) (s : State) : Outc := .next (rowWrite s w 0x1010 6 0 [v] hBundleApply)

/-- The handler of every object. -/
def handler (idx sub off : Nat) : Handler := handlerOf hBundleApply idx sub off

/-! ## The autostart list (R454) -/

/-- The wait condition of an entry. -/
def autoReady (s : State) (v : Nat) : Bool :=
  match bits v 36 4 with
  | 0 => true
  | 1 => rd s K.htState == 2
  | 2 => rd s K.nodeStartState == 4
  | _ => ((upFrom 0 36).filter (fun l => on s (K.linkEnable l))).all (fun l => has [2, 3] (rd s (K.linkState l)))

/-- The entry of the list that is processed. -/
def autoEntry (s : State) : Nat := rd s (keyOf 0xB000 (rd s K.autostartPosition))

/-- Whether the wait of the entry has run out. -/
def autoOver (s : State) : Bool := passed s s.sec.autoAt (bits (autoEntry s) 0 32 * 1000000)

/-- AUTOSTART_WAIT_END: the enable is written. -/
def execAutostartWaitEnd (s : State) : Outc :=
  let v := autoEntry s
  if rd s K.autostartState != 1 || !autoReady s v then .next s
  else
    match internalWrite handler s (bits v 48 16) (bits v 40 8) [1] with
    | (t, true) => .next (autoAt t (rd s K.autostartPosition + 1))
    | (t, false) => .next (wr t K.autostartState 3)

/-- AUTOSTART_TIMEOUT. -/
def execAutostartTimeout (s : State) : Outc :=
  if rd s K.autostartState == 1 && !autoReady s (autoEntry s) && autoOver s then .next (wr s K.autostartState 4) else .next s

/-! ## Requests as they come in -/

/-- Serve a request of any opcode. -/
def servePdu (s : State) (via : Via) (p : Pdu) : State :=
  match p.opcode with
  | 1 => answerRead s via p
  | 2 => serveWrite s via p (handler p.index p.subindex p.offset)
  | 3 => answerDescribe s via p
  | _ => answerReadBlock s via p

/-- READ. -/
def execRead (via : Via) (p : Pdu) (s : State) : Outc :=
  let p := { p with opcode := 1 }
  .next (takePdu s via p (fun s => answerRead s via p))

/-- WRITE. -/
def execWrite (via : Via) (p : Pdu) (s : State) : Outc :=
  let p := { p with opcode := 2 }
  .next (takePdu s via p (fun s => serveWrite s via p (handler p.index p.subindex p.offset)))

/-- DESCRIBE. -/
def execDescribe (via : Via) (p : Pdu) (s : State) : Outc :=
  let p := { p with opcode := 3 }
  .next (takePdu s via p (fun s => answerDescribe s via p))

/-- READ_BLOCK. -/
def execReadBlock (via : Via) (p : Pdu) (s : State) : Outc :=
  let p := { p with opcode := 4 }
  .next (takePdu s via p (fun s => answerReadBlock s via p))

/-- The PDU that bytes carry: a header, a payload and a CRC-32C over both (R40). -/
def pduOf (l : List Byte) : Pdu :=
  let h := ofBytes (l.take 16)
  let n := l.length - 4
  { version := bits h 124 4, opcode := bits h 120 4, flags := bits h 112 8, transaction := bits h 96 16, index := bits h 80 16,
    subindex := bits h 72 8, result := bits h 64 8, reason := bits h 56 8, length := bits h 44 12, offset := bits h 12 32,
    reserved := bits h 0 12, payload := (l.take n).drop 16, crcOk := ofBytes (l.drop n) == crc32c (l.take n) }

/-- The newest response among what the node has sent since a length of its record. -/
def newResponse (l : List Out) (was : Nat) : Option Pdu :=
  firstSome ((l.take (l.length - was)).map (fun o => match o with | .response _ p => some p | _ => none))

/-- MAILBOX_UZOENE_PDU: mailbox command 0xC100. -/
def execMailboxUzoenePdu (fn : Nat) (payload : List Byte) (s : State) : Outc :=
  if s.sec.held || !linkUp s then .next s
  else if payload.length < 20 || 1044 < payload.length then .next (mailbox s fn mbInvalidLength [])
  else
    let via := if fn == 0 then Via.pf else .vf fn
    let p := pduOf payload
    let t := takePdu s via p (fun s => servePdu s via p)
    match newResponse t.out s.out.length with
    | some r => .next (mailbox t fn mbSuccess (pduWire r))
    | none => .next { t with dq := { t.dq with mbox := t.dq.mbox.filter (fun m => m.1 != fn) ++ [(fn, p.transaction)] } }

/-- MGMT_SECURE_DATAGRAM: a datagram of an open session. -/
def execMgmtSecureDatagram (session : Nat) (bytes : List Byte) (s : State) : Outc :=
  if s.sec.held then .next s
  else
    match tget? s.sessions session with
    | none => .next s
    | some x =>
      match Config.aeadOpen session bytes with
      | none => .next (authEvent (bump s K.authFailures 1) 1)
      | some app =>
        let s := { s with sessions := tset s.sessions session { x with lastEc := s.tm.ec } }
        if app.length < 20 then .next s
        else
          let p := pduOf app
          .next (takePdu s (.session session) p (fun s => servePdu s (.session session) p))

end Sys2Proof.Machine
end

