-- ==== Sys2Proof/Machine/Packet.lean ====
section
/-! DEFINITION. PACKET_RECEIVE (R253, R317, R318, R321, R322, R326, R337, R346): a packet at a link's ingress is checked,
policed, and routed or handled; and the dictionary requests that come over the management lane (R42 to R44). -/

namespace Sys2Proof.Machine

/-- Codewords counted by a link's FEC (R337): the event at the limit of one minute. -/
def countFec (s : State) (l corrected uncorrectable : Nat) : State :=
  let s := bump (bump s (K.fecCorrected l) corrected) (K.fecUncorrectable l) uncorrectable
  let x := linkSt s l
  let was := if x.fecMinute == minuteNow s then x.fecCount else 0
  let n := was + uncorrectable
  let s := putLink s l { x with fecMinute := minuteNow s, fecCount := n }
  if decide (was < rd s K.fecUncorrectableLimit) && decide (rd s K.fecUncorrectableLimit ≤ n) then linkEvent s 5 1 l [(8, l), (32, n)] else s

/-- Whether a packet's header breaks a rule (R318, R319, R321, R322, R457). -/
def badHeader (p : Packet) : Bool :=
  let len := p.lengthM1 + 1
  let mgmt := p.kind == 7
  let entries := p.kind == 8 || p.kind == 9
  p.kind == 0 || decide (9 < p.kind) || decide (8 < p.vl) || (mgmt && p.vl != 8) || (p.vl == 8 && !mgmt && !entries)
  || p.offset % 960 != 0 || decide (len ≤ p.offset) || ((mgmt || entries) && p.key != 0) || p.dst == 0xFFFE
  || (p.kind == 3 && len != 32) || (entries && (len % 8 != 0 || decide (216 < len))) || (p.dst == 0xFFFF && (!mgmt || decide (960 < len)))

/-- Whether a packet breaks a rule of its form: its header, or flits other than its bytes need. -/
def badPacket (p : Packet) : Bool := badHeader p || p.flits != flitsFor (packetBytes p.lengthM1 p.offset)

/-- An announcement as its message carries it (R321). -/
def announceOf (d : List Byte) : Announce :=
  { step := ofBytes ((d.drop 8).take 8), start := ofBytes ((d.drop 16).take 8), leadTerm := ofBytes ((d.drop 24).take 4),
    epoch := ofBytes ((d.drop 28).take 2) }

/-- The node takes a broadcast for itself (R322). -/
def takeOwn (p : Packet) (s : State) : State :=
  match (nth p.payload 7 0).toNat with
  | 2 => let (i, s) := fresh s; hearAnnounce s p.src (Config.freeNat i) (announceOf p.payload)
  | 0x41 => emit s (.deliver p.src 8 7 0 p.msgId p.payload)
  | _ => refuseMgmt s

/-- Send on a packet for another node (R253, R318). -/
def passOn (s : State) (link : Nat) (p : Packet) : State :=
  if p.hopsLeft ≤ 1 || !laneOn s p.vl then s
  else
    let p := { p with hopsLeft := p.hopsLeft - 1 }
    let s := bump s K.routeLookups 1
    match routeLink s (dieOf link) (p.key / 2 ^ 24) p.dst p.vl p.src p.msgId with
    | some l => enqueuePkt s l p
    | none => routeMiss s (dieOf link) p.dst p.vl

/-- Serve the dictionary request of a management message that has just been delivered (R42, R44). -/
def serveFabric (s : State) (was : Nat) : State :=
  match (s.out.take (s.out.length - was)).find? (fun o => match o with
    | .deliver _ _ k _ _ d => k == 7 && (nth d 7 0).toNat == 1 | _ => false) with
  | some (.deliver src _ _ _ _ d) =>
    let q := pduOf (d.drop 8)
    if d.length < 28 || q.flags % 2 == 1 then s else takePdu s (.fabric src) q (fun s => servePdu s (.fabric src) q)
  | _ => s

/-- A packet that passed the checks of its flits and its form. -/
def handlePacket (s : State) (link : Nat) (p : Packet) : State :=
  if p.dst == 0xFFFF then takeCast s link p.src p.msgId p.hopsLeft (.bytes 7 p.payload) (takeOwn p)
  else if p.dst != myNode s then passOn s link p
  else if p.kind == 8 || p.kind == 9 then (if laneOn s p.vl then recvEntries s p else s)
  else if laneOn s p.vl then serveFabric (recvPkt s p) s.out.length
  else s

/-- A packet whose flit k failed has its flits before it on their way where the port die forwards it; the failing flit then
follows with its crc inverted (R317). Whether the die had already forwarded them is a free value. -/
def cutThrough (s : State) (link : Nat) (flits : List (List Byte)) (k : Nat) : State :=
  let p := packetFrom (flits.take (k + 1)) false
  let (i, s) := fresh s
  if k == 0 || badHeader p || p.dst == 0xFFFF || p.dst == myNode s || !Config.freeBool i then s
  else
    let (s, ok) := police s link p
    if ok then passOn s link p else s

/-- PACKET_RECEIVE. corrected, uncorrectable: codewords that the FEC counted since the packet before. -/
def execPacketReceive (link : Nat) (flits : List (List Byte)) (corrected uncorrectable : Nat) (s : State) : Outc :=
  if 36 ≤ link || rd s (K.linkState link) != 2 then .next s
  else
    let s := countFec s link corrected uncorrectable
    match flits.findIdx? (fun f => !flitOk f) with
    | some k => .next (cutThrough (bump s (K.flitsDiscarded link) 1) link flits k)
    | none =>
      let p := packetFrom flits true
      if !framed flits || badPacket p then .next (bump s K.malformedPackets 1)
      else
        let (s, ok) := police s link p
        .next (if ok then handlePacket s link p else s)

end Sys2Proof.Machine
end

