-- ==== Sys2Proof/Machine/Dispatch.lean ====
section
/-! DEFINITION. One arm per command: each a direct call of its meaning. -/

namespace Sys2Proof.Machine

/-- The effect of a command on everything but the queue. -/
def exec (i : Instr) (s : State) : Host.Outcome State Fault Refusal :=
  match i with
  | .read via p => Sys2Proof.Machine.execRead via p s
  | .write via p => Sys2Proof.Machine.execWrite via p s
  | .describe via p => Sys2Proof.Machine.execDescribe via p s
  | .readBlock via p => Sys2Proof.Machine.execReadBlock via p s
  | .enableStopDone key => Sys2Proof.Machine.execEnableStopDone key s
  | .storeCommit w v readBackOk => Sys2Proof.Machine.execStoreCommit w v readBackOk s
  | .storeDefaults w v => Sys2Proof.Machine.execStoreDefaults w v s
  | .bundleApply w v => Sys2Proof.Machine.execBundleApply w v s
  | .herdEnable w v => Sys2Proof.Machine.execHerdEnable w v s
  | .deputyEnable w v taken => Sys2Proof.Machine.execDeputyEnable w v taken s
  | .deputyState src img => Sys2Proof.Machine.execDeputyState src img s
  | .leadSilenceTimeout => Sys2Proof.Machine.execLeadSilenceTimeout s
  | .takeoverProbe src heard => Sys2Proof.Machine.execTakeoverProbe src heard s
  | .probeReply src heard => Sys2Proof.Machine.execProbeReply src heard s
  | .leadTakeover => Sys2Proof.Machine.execLeadTakeover s
  | .timeSymbolSend link => Sys2Proof.Machine.execTimeSymbolSend link s
  | .timeSymbol link block => Sys2Proof.Machine.execTimeSymbol link block s
  | .htSymbolTimeout => Sys2Proof.Machine.execHtSymbolTimeout s
  | .htLost => Sys2Proof.Machine.execHtLost s
  | .htRefEnable w v => Sys2Proof.Machine.execHtRefEnable w v s
  | .htSourceEnable w v => Sys2Proof.Machine.execHtSourceEnable w v s
  | .htRefEdge => Sys2Proof.Machine.execHtRefEdge s
  | .htRefMissing => Sys2Proof.Machine.execHtRefMissing s
  | .stepAnnounceDue => Sys2Proof.Machine.execStepAnnounceDue s
  | .stepAnnounce link src msgId hops unit a => Sys2Proof.Machine.execStepAnnounce link src msgId hops unit a s
  | .stepStart => Sys2Proof.Machine.execStepStart s
  | .epochDrainEnd => Sys2Proof.Machine.execEpochDrainEnd s
  | .stepGuardPoint => Sys2Proof.Machine.execStepGuardPoint s
  | .stallNotice src step => Sys2Proof.Machine.execStallNotice src step s
  | .spanReport src span => Sys2Proof.Machine.execSpanReport src span s
  | .scheduleEnable slice w v => Sys2Proof.Machine.execScheduleEnable slice w v s
  | .scheduleTableWrite slice sub w payload => Sys2Proof.Machine.execScheduleTableWrite slice sub w payload s
  | .sweep slice entry => Sys2Proof.Machine.execSweep slice entry s
  | .admitOpen slice entry => Sys2Proof.Machine.execAdmitOpen slice entry s
  | .admitClose slice entry => Sys2Proof.Machine.execAdmitClose slice entry s
  | .commit slice entry => Sys2Proof.Machine.execCommit slice entry s
  | .tierStallLimit => Sys2Proof.Machine.execTierStallLimit s
  | .mergeClose slice entry => Sys2Proof.Machine.execMergeClose slice entry s
  | .maintOpen slice entry eqFailed stackFailed => Sys2Proof.Machine.execMaintOpen slice entry eqFailed stackFailed s
  | .maintClose slice entry => Sys2Proof.Machine.execMaintClose slice entry s
  | .deadlineEnable w v => Sys2Proof.Machine.execDeadlineEnable w v s
  | .deadlineFire id => Sys2Proof.Machine.execDeadlineFire id s
  | .formatRulesEnable w v => Sys2Proof.Machine.execFormatRulesEnable w v s
  | .query => Sys2Proof.Machine.execQuery s
  | .append => Sys2Proof.Machine.execAppend s
  | .retire => Sys2Proof.Machine.execRetire s
  | .appendRoomWaitEnd => Sys2Proof.Machine.execAppendRoomWaitEnd s
  | .ticketMessage link src vl depth key whole offset part => Sys2Proof.Machine.execTicketMessage link src vl depth key whole offset part s
  | .shareDispatch slice => Sys2Proof.Machine.execShareDispatch slice s
  | .shareResume slice => Sys2Proof.Machine.execShareResume slice s
  | .shareStreamStart slice => Sys2Proof.Machine.execShareStreamStart slice s
  | .passStart slice => Sys2Proof.Machine.execPassStart slice s
  | .shareRecord slice => Sys2Proof.Machine.execShareRecord slice s
  | .attentionEnable w v => Sys2Proof.Machine.execAttentionEnable w v s
  | .scoringEnable w v => Sys2Proof.Machine.execScoringEnable w v s
  | .rebalanceEnable w v => Sys2Proof.Machine.execRebalanceEnable w v s
  | .burstStart slice => Sys2Proof.Machine.execBurstStart slice s
  | .burstEnd slice => Sys2Proof.Machine.execBurstEnd slice s
  | .refreshDue slice bankSet => Sys2Proof.Machine.execRefreshDue slice bankSet s
  | .hostMemRead hpa => Sys2Proof.Machine.execHostMemRead hpa s
  | .hostMemWrite hpa data => Sys2Proof.Machine.execHostMemWrite hpa data s
  | .flipToDevice => Sys2Proof.Machine.execFlipToDevice s
  | .flipToHost => Sys2Proof.Machine.execFlipToHost s
  | .fence => Sys2Proof.Machine.execFence s
  | .fenceDone id => Sys2Proof.Machine.execFenceDone id s
  | .quireRebalanceSwitch quireKey => Sys2Proof.Machine.execQuireRebalanceSwitch quireKey s
  | .deckleEnable w v => Sys2Proof.Machine.execDeckleEnable w v s
  | .deckleBuild slice => Sys2Proof.Machine.execDeckleBuild slice s
  | .searchEnable w v => Sys2Proof.Machine.execSearchEnable w v s
  | .vindexEnable index w v => Sys2Proof.Machine.execVindexEnable index w v s
  | .search => Sys2Proof.Machine.execSearch s
  | .insert => Sys2Proof.Machine.execInsert s
  | .delete => Sys2Proof.Machine.execDelete s
  | .filterStore => Sys2Proof.Machine.execFilterStore s
  | .filterDrop => Sys2Proof.Machine.execFilterDrop s
  | .loadCodebook => Sys2Proof.Machine.execLoadCodebook s
  | .dropCodebook => Sys2Proof.Machine.execDropCodebook s
  | .mergeEnable w v => Sys2Proof.Machine.execMergeEnable w v s
  | .treeEntryWrite w payload => Sys2Proof.Machine.execTreeEntryWrite w payload s
  | .queryForwardArrive link src vl depth key whole => Sys2Proof.Machine.execQueryForwardArrive link src vl depth key whole s
  | .mergeContextOpen => Sys2Proof.Machine.execMergeContextOpen s
  | .set src m => Sys2Proof.Machine.execSet src m s
  | .mergeDeadline ctx => Sys2Proof.Machine.execMergeDeadline ctx s
  | .directoryEnable w v => Sys2Proof.Machine.execDirectoryEnable w v s
  | .dirWindowFind w => Sys2Proof.Machine.execDirWindowFind w s
  | .dirWindowInsert w => Sys2Proof.Machine.execDirWindowInsert w s
  | .dirWindowRemove w => Sys2Proof.Machine.execDirWindowRemove w s
  | .vatEnable w v => Sys2Proof.Machine.execVatEnable w v s
  | .pressEnable w v => Sys2Proof.Machine.execPressEnable w v s
  | .feltHomeEnable w v => Sys2Proof.Machine.execFeltHomeEnable w v s
  | .vatRegionEnable region w v => Sys2Proof.Machine.execVatRegionEnable region w v s
  | .tenantEnable tenant w v => Sys2Proof.Machine.execTenantEnable tenant w v s
  | .quireMoveSwitch quireKey times => Sys2Proof.Machine.execQuireMoveSwitch quireKey times s
  | .quireSourceFree quireKey => Sys2Proof.Machine.execQuireSourceFree quireKey s
  | .quireMoveError quireKey access => Sys2Proof.Machine.execQuireMoveError quireKey access s
  | .demotionStart slice => Sys2Proof.Machine.execDemotionStart slice s
  | .overQuotaDemotion tenant => Sys2Proof.Machine.execOverQuotaDemotion tenant s
  | .preempt => Sys2Proof.Machine.execPreempt s
  | .preemptAck src tenant ream count => Sys2Proof.Machine.execPreemptAck src tenant ream count s
  | .resume => Sys2Proof.Machine.execResume s
  | .move => Sys2Proof.Machine.execMove s
  | .press => Sys2Proof.Machine.execPress s
  | .vatRegionDrain region w v => Sys2Proof.Machine.execVatRegionDrain region w v s
  | .vatRegionFail region => Sys2Proof.Machine.execVatRegionFail region s
  | .hostPortEnable w v => Sys2Proof.Machine.execHostPortEnable w v s
  | .slotAreaEnable area w v => Sys2Proof.Machine.execSlotAreaEnable area w v s
  | .hdmDecoderProgram decoder hpa size dpa lock commit => Sys2Proof.Machine.execHdmDecoderProgram decoder hpa size dpa lock commit s
  | .hostSnoopResponse line => Sys2Proof.Machine.execHostSnoopResponse line s
  | .completionWriteError id => Sys2Proof.Machine.execCompletionWriteError id s
  | .cxlLinkDown => Sys2Proof.Machine.execCxlLinkDown s
  | .cxlLinkUp hostMode width => Sys2Proof.Machine.execCxlLinkUp hostMode width s
  | .conventionalReset => Sys2Proof.Machine.execConventionalReset s
  | .functionLevelReset vf => Sys2Proof.Machine.execFunctionLevelReset vf s
  | .mailboxUzoenePdu fn payload => Sys2Proof.Machine.execMailboxUzoenePdu fn payload s
  | .getEventRecords fn => Sys2Proof.Machine.execGetEventRecords fn s
  | .clearEventRecords fn handles => Sys2Proof.Machine.execClearEventRecords fn handles s
  | .getFwInfo fn => Sys2Proof.Machine.execGetFwInfo fn s
  | .transferFw fn action slot offset data => Sys2Proof.Machine.execTransferFw fn action slot offset data s
  | .activateFw fn action slot => Sys2Proof.Machine.execActivateFw fn action slot s
  | .getSupportedLogs fn => Sys2Proof.Machine.execGetSupportedLogs fn s
  | .getLog fn log => Sys2Proof.Machine.execGetLog fn log s
  | .identifyMemoryDevice fn => Sys2Proof.Machine.execIdentifyMemoryDevice fn s
  | .mailboxUnsupported fn opcode => Sys2Proof.Machine.execMailboxUnsupported fn opcode s
  | .getMeasurements index nonce => Sys2Proof.Machine.execGetMeasurements index nonce s
  | .keyExchange doe pubKey transcript sig => Sys2Proof.Machine.execKeyExchange doe pubKey transcript sig s
  | .ideKm session stream establish => Sys2Proof.Machine.execIdeKm session stream establish s
  | .linkEnable link w v => Sys2Proof.Machine.execLinkEnable link w v s
  | .linkTrained link farOffer => Sys2Proof.Machine.execLinkTrained link farOffer s
  | .linkTrainingTimeout link signal => Sys2Proof.Machine.execLinkTrainingTimeout link signal s
  | .linkRetrainAttempt link => Sys2Proof.Machine.execLinkRetrainAttempt link s
  | .laneFlap link lane farTraining => Sys2Proof.Machine.execLaneFlap link lane farTraining s
  | .laneRestore link w v => Sys2Proof.Machine.execLaneRestore link w v s
  | .linkBlockSend link => Sys2Proof.Machine.execLinkBlockSend link s
  | .linkBlock link block => Sys2Proof.Machine.execLinkBlock link block s
  | .packetReceive link flits corrected uncorrectable => Sys2Proof.Machine.execPacketReceive link flits corrected uncorrectable s
  | .ack src vl e => Sys2Proof.Machine.execAck src vl e s
  | .nak src vl msgId status => Sys2Proof.Machine.execNak src vl msgId status s
  | .ackDelayExpire src vl msgId => Sys2Proof.Machine.execAckDelayExpire src vl msgId s
  | .retransmitTimeout dst vl msgId packet => Sys2Proof.Machine.execRetransmitTimeout dst vl msgId packet s
  | .rnrDelayExpire dst vl msgId => Sys2Proof.Machine.execRnrDelayExpire dst vl msgId s
  | .reassemblyTimeout src vl msgId => Sys2Proof.Machine.execReassemblyTimeout src vl msgId s
  | .ccInterval dst => Sys2Proof.Machine.execCcInterval dst s
  | .register w => Sys2Proof.Machine.execRegister w s
  | .deregister w => Sys2Proof.Machine.execDeregister w s
  | .transportEnable w v => Sys2Proof.Machine.execTransportEnable w v s
  | .trafficEnable w v => Sys2Proof.Machine.execTrafficEnable w v s
  | .egressSelect link => Sys2Proof.Machine.execEgressSelect link s
  | .extentEnable w v => Sys2Proof.Machine.execExtentEnable w v s
  | .create w => Sys2Proof.Machine.execCreate w s
  | .setGrants w => Sys2Proof.Machine.execSetGrants w s
  | .revoke w => Sys2Proof.Machine.execRevoke w s
  | .extentDrainEnd extent => Sys2Proof.Machine.execExtentDrainEnd extent s
  | .memoryClearDone holder => Sys2Proof.Machine.execMemoryClearDone holder s
  | .tenantLeaseExpire tenant => Sys2Proof.Machine.execTenantLeaseExpire tenant s
  | .renew => Sys2Proof.Machine.execRenew s
  | .open => Sys2Proof.Machine.execOpen s
  | .close => Sys2Proof.Machine.execClose s
  | .publish => Sys2Proof.Machine.execPublish s
  | .shareReq m => Sys2Proof.Machine.execShareReq m s
  | .shareReply a => Sys2Proof.Machine.execShareReply a s
  | .versionRelease kind object tenant => Sys2Proof.Machine.execVersionRelease kind object tenant s
  | .poolEnable w v => Sys2Proof.Machine.execPoolEnable w v s
  | .poolRequestMib w mib => Sys2Proof.Machine.execPoolRequestMib w mib s
  | .poolLeaseReq src mib => Sys2Proof.Machine.execPoolLeaseReq src mib s
  | .poolLeaseGrant g => Sys2Proof.Machine.execPoolLeaseGrant g s
  | .poolLeaseRenewDue lease => Sys2Proof.Machine.execPoolLeaseRenewDue lease s
  | .poolLeaseRenew src lease => Sys2Proof.Machine.execPoolLeaseRenew src lease s
  | .poolRelease w lease => Sys2Proof.Machine.execPoolRelease w lease s
  | .poolLeaseRelease src lease drained => Sys2Proof.Machine.execPoolLeaseRelease src lease drained s
  | .poolLeaseRevoke lease drainNs => Sys2Proof.Machine.execPoolLeaseRevoke lease drainNs s
  | .poolLeaseGuardExpire lease => Sys2Proof.Machine.execPoolLeaseGuardExpire lease s
  | .poolLeaseLapse lease => Sys2Proof.Machine.execPoolLeaseLapse lease s
  | .mapUpdate src m => Sys2Proof.Machine.execMapUpdate src m s
  | .handoffOrder src o copies => Sys2Proof.Machine.execHandoffOrder src o copies s
  | .handoffCopyDone c => Sys2Proof.Machine.execHandoffCopyDone c s
  | .handoffReady src o => Sys2Proof.Machine.execHandoffReady src o s
  | .handoffRevert src o => Sys2Proof.Machine.execHandoffRevert src o s
  | .parityError at_ check failed => Sys2Proof.Machine.execParityError at_ check failed s
  | .cvReset w => Sys2Proof.Machine.execCvReset w s
  | .cvRun w => Sys2Proof.Machine.execCvRun w s
  | .cvRunDone ctx => Sys2Proof.Machine.execCvRunDone ctx s
  | .cvAbort w fed => Sys2Proof.Machine.execCvAbort w fed s
  | .sliceWatchdogTimeout slice answers => Sys2Proof.Machine.execSliceWatchdogTimeout slice answers s
  | .healthEnable w v => Sys2Proof.Machine.execHealthEnable w v s
  | .healthReportDue => Sys2Proof.Machine.execHealthReportDue s
  | .healthReport src counts unmirrored => Sys2Proof.Machine.execHealthReport src counts unmirrored s
  | .healthReportMissed node => Sys2Proof.Machine.execHealthReportMissed node s
  | .nodeLost node neighbours => Sys2Proof.Machine.execNodeLost node neighbours s
  | .standInOrder src node => Sys2Proof.Machine.execStandInOrder src node s
  | .lostRanges src ranges => Sys2Proof.Machine.execLostRanges src ranges s
  | .journalEnable w v => Sys2Proof.Machine.execJournalEnable w v s
  | .journalMirror src step toks => Sys2Proof.Machine.execJournalMirror src step toks s
  | .journalAck src step taken => Sys2Proof.Machine.execJournalAck src step taken s
  | .journalAckTimeout => Sys2Proof.Machine.execJournalAckTimeout s
  | .journalFetch src lost toks => Sys2Proof.Machine.execJournalFetch src lost toks s
  | .lostRangeClear src tenant ream => Sys2Proof.Machine.execLostRangeClear src tenant ream s
  | .event src entry => Sys2Proof.Machine.execEvent src entry s
  | .logClear w v => Sys2Proof.Machine.execLogClear w v s
  | .traceTriggerEnable w v => Sys2Proof.Machine.execTraceTriggerEnable w v s
  | .powerEnable w v => Sys2Proof.Machine.execPowerEnable w v s
  | .powerWindow => Sys2Proof.Machine.execPowerWindow s
  | .powerSample rails sliceWatts => Sys2Proof.Machine.execPowerSample rails sliceWatts s
  | .thermalSample t => Sys2Proof.Machine.execThermalSample t s
  | .thermTrip att die => Sys2Proof.Machine.execThermTrip att die s
  | .nodeReset => Sys2Proof.Machine.execNodeReset s
  | .debugAttached => Sys2Proof.Machine.execDebugAttached s
  | .extest => Sys2Proof.Machine.execExtest s
  | .attestRequest w v => Sys2Proof.Machine.execAttestRequest w v s
  | .attestReportReady => Sys2Proof.Machine.execAttestReportReady s
  | .mgmtSessionEnable w v => Sys2Proof.Machine.execMgmtSessionEnable w v s
  | .mgmtSecureDatagram session bytes => Sys2Proof.Machine.execMgmtSecureDatagram session bytes s
  | .sessionIdleTimeout session => Sys2Proof.Machine.execSessionIdleTimeout session s
  | .sessionKeyWrite entry w payload => Sys2Proof.Machine.execSessionKeyWrite entry w payload s
  | .ownerKeyWrite w payload => Sys2Proof.Machine.execOwnerKeyWrite w payload s
  | .fwBufferWrite w offset payload => Sys2Proof.Machine.execFwBufferWrite w offset payload s
  | .fwApply w v => Sys2Proof.Machine.execFwApply w v s
  | .fwVerifyDone => Sys2Proof.Machine.execFwVerifyDone s
  | .fwWriteDone => Sys2Proof.Machine.execFwWriteDone s
  | .fwAbort w v => Sys2Proof.Machine.execFwAbort w v s
  | .fwBufferTimeout => Sys2Proof.Machine.execFwBufferTimeout s
  | .fwActivateSlices w v => Sys2Proof.Machine.execFwActivateSlices w v s
  | .imageActivated slice => Sys2Proof.Machine.execImageActivated slice s
  | .svnCommit w v => Sys2Proof.Machine.execSvnCommit w v s
  | .sliceHardwareReady slice r => Sys2Proof.Machine.execSliceHardwareReady slice r s
  | .autostartWaitEnd => Sys2Proof.Machine.execAutostartWaitEnd s
  | .autostartTimeout => Sys2Proof.Machine.execAutostartTimeout s
  | .joinRequest r => Sys2Proof.Machine.execJoinRequest r s
  | .joinReply r => Sys2Proof.Machine.execJoinReply r s
  | .joinTimeout => Sys2Proof.Machine.execJoinTimeout s
  | .quiesce slice w => Sys2Proof.Machine.execQuiesce slice w s
  | .evacuationDone slice => Sys2Proof.Machine.execEvacuationDone slice s
  | .cancel slice w => Sys2Proof.Machine.execCancel slice w s
  | .retrain slice w => Sys2Proof.Machine.execRetrain slice w s
  | .retrainDone slice ok => Sys2Proof.Machine.execRetrainDone slice ok s
  | .retireSlice slice w => Sys2Proof.Machine.execRetireSlice slice w s
  | .readmit slice w => Sys2Proof.Machine.execReadmit slice w s
  | .readmitDone slice r => Sys2Proof.Machine.execReadmitDone slice r s
  | .sliceReport src slice state => Sys2Proof.Machine.execSliceReport src slice state s
  | .nodeRstNRelease strap => Sys2Proof.Machine.execNodeRstNRelease strap s
  | .nodeRstNAssert => Sys2Proof.Machine.execNodeRstNAssert s
  | .pwrOkCoreDrop => Sys2Proof.Machine.execPwrOkCoreDrop s
  | .ticketWholeTimeout src vl => Sys2Proof.Machine.execTicketWholeTimeout src vl s
  | .coreRailsPowerUp => Sys2Proof.Machine.execCoreRailsPowerUp s
  | .vddAuxPowerUp => Sys2Proof.Machine.execVddAuxPowerUp s
  | .controlCoreWatchdog => Sys2Proof.Machine.execControlCoreWatchdog s
  | .poolRunCleared lease => Sys2Proof.Machine.execPoolRunCleared lease s
  | .resumeAck src tenant ream count => Sys2Proof.Machine.execResumeAck src tenant ream count s

end Sys2Proof.Machine
end

