-- ==== Sys2Proof/WellFormed.lean ====
section
/-! DEFINITION. Which commands can arrive: every operand within what its wire, header or pin can carry. -/

namespace Sys2Proof

/-- A PDU's fields fit the header of R40 and its payload the limit of 1,024 bytes. -/
def Pdu.wf (p : Pdu) : Bool :=
  decide (p.version < 16) && decide (p.opcode < 16) && decide (p.flags < 256) && decide (p.transaction < 65536)
  && decide (p.index < 65536) && decide (p.subindex < 256) && decide (p.result < 256) && decide (p.reason < 256)
  && decide (p.length < 4096) && decide (p.offset < 2 ^ 32) && decide (p.reserved < 4096)
  && decide (p.payload.length ≤ 1024)

/-- A control block (R315, R316): one of the two types that a link takes in, in 256 bits. -/
def blockWf (type w : Nat) : Bool := decide (w < 2 ^ 256) && w / 2 ^ 248 == type

/-- The flits of a packet (R315, R318): 1 to 4 of 256 bytes. -/
def flitsWf (l : List (List Byte)) : Bool := decide (1 ≤ l.length) && decide (l.length ≤ 4) && l.all (fun f => f.length == 256)

/-- A step announcement's fields fit R321. -/
def Announce.wf (a : Announce) : Bool :=
  decide (a.step < 2 ^ 64) && decide (a.start < 2 ^ 64) && decide (a.leadTerm < 2 ^ 32) && decide (a.epoch < 65536)

/-- A requester names a session, a node number or a virtual function that exists. -/
def Via.wf : Via → Bool
  | .session _ => true
  | .noSession => true
  | .fabric src => decide (src < 65536)
  | .pf => true
  | .vf n => decide (1 ≤ n) && decide (n ≤ 255)
  | .internal => true

/-- A write's requester and transaction number. -/
def WReq.wf (w : WReq) : Bool := Via.wf w.via && decide (w.txn < 65536)

/-- The place of a word that failed parity: slices 0 to 3, engines 0 to 31 of their slice, engine lanes 0 to 7, stacks 0 to 7 and
port dies 0 to 3 (R6, R10). -/
def ParityAt.wf : ParityAt → Bool
  | .engine slice e lane _ => decide (slice < 4) && decide (e < 32) && decide (lane < 8)
  | .feltStaging slice _ => decide (slice < 4)
  | .feltHome _ _ => true
  | .sheetLine _ stack _ => decide (stack < 8)
  | .deckleLine _ stack _ => decide (stack < 8)
  | .indexEntry _ _ stack _ => decide (stack < 8)
  | .quireRecord _ stack _ => decide (stack < 8)
  | .hostLine _ => true
  | .hbmLine stack _ => decide (stack < 8)
  | .scoreArray slice => decide (slice < 4)
  | .xbarRecord slice _ => decide (slice < 4)
  | .xbarPacket die _ => decide (die < 4)
  | .mergeRow _ _ => true

/-- A slice's self-test names engines 0 to 31 of the slice. -/
def HwResult.wf (r : HwResult) : Bool := r.enginesFailed.all (fun e => decide (e < 32))

/-- Whether a command can arrive. -/
def Instr.wf : Instr → Bool
  | .read via p => Via.wf via && Pdu.wf p
  | .write via p => Via.wf via && Pdu.wf p
  | .describe via p => Via.wf via && Pdu.wf p
  | .readBlock via p => Via.wf via && Pdu.wf p
  | .enableStopDone _ => true
  | .storeCommit w _ _ => WReq.wf w
  | .storeDefaults w _ => WReq.wf w
  | .bundleApply w _ => WReq.wf w
  | .herdEnable w _ => WReq.wf w
  | .deputyEnable w _ _ => WReq.wf w
  | .deputyState src _ => decide (src < 65536)
  | .leadSilenceTimeout => true
  | .takeoverProbe src _ => decide (src < 65536)
  | .probeReply src _ => decide (src < 65536)
  | .leadTakeover => true
  | .timeSymbolSend link => decide (link < 36)
  | .timeSymbol link block => decide (link < 36) && blockWf 1 block
  | .htSymbolTimeout => true
  | .htLost => true
  | .htRefEnable w _ => WReq.wf w
  | .htSourceEnable w _ => WReq.wf w
  | .htRefEdge => true
  | .htRefMissing => true
  | .stepAnnounceDue => true
  | .stepAnnounce link src msgId _ unit a => decide (unit < 2 ^ 128) && decide (link < 36) && decide (src < 65536) && decide (msgId < 65536) && Announce.wf a
  | .stepStart => true
  | .epochDrainEnd => true
  | .stepGuardPoint => true
  | .stallNotice src _ => decide (src < 65536)
  | .spanReport src _ => decide (src < 65536)
  | .scheduleEnable slice w _ => decide (slice < 4) && WReq.wf w
  | .scheduleTableWrite slice sub w payload => decide (slice < 4) && decide (sub ≤ 64) && WReq.wf w && decide (payload.length ≤ 1024)
  | .sweep slice entry => decide (slice < 4) && (decide (1 ≤ entry) && decide (entry ≤ 64))
  | .admitOpen slice entry => decide (slice < 4) && (decide (1 ≤ entry) && decide (entry ≤ 64))
  | .admitClose slice entry => decide (slice < 4) && (decide (1 ≤ entry) && decide (entry ≤ 64))
  | .commit slice entry => decide (slice < 4) && (decide (1 ≤ entry) && decide (entry ≤ 64))
  | .tierStallLimit => true
  | .mergeClose slice entry => decide (slice < 4) && (decide (1 ≤ entry) && decide (entry ≤ 64))
  | .maintOpen slice entry _ _ => decide (slice < 4) && (decide (1 ≤ entry) && decide (entry ≤ 64))
  | .maintClose slice entry => decide (slice < 4) && (decide (1 ≤ entry) && decide (entry ≤ 64))
  | .deadlineEnable w _ => WReq.wf w
  | .deadlineFire _ => true
  | .formatRulesEnable w _ => WReq.wf w
  | .query => true
  | .append => true
  | .retire => true
  | .appendRoomWaitEnd => true
  | .ticketMessage link src vl _ _ _ _ part => decide (link < 36) && decide (src < 65536) && decide (vl < 16) && decide (part.msgId < 65536)
  | .shareDispatch slice => decide (slice < 4)
  | .shareResume slice => decide (slice < 4)
  | .shareStreamStart slice => decide (slice < 4)
  | .passStart slice => decide (slice < 4)
  | .shareRecord slice => decide (slice < 4)
  | .attentionEnable w _ => WReq.wf w
  | .scoringEnable w _ => WReq.wf w
  | .rebalanceEnable w _ => WReq.wf w
  | .burstStart slice => decide (slice < 4)
  | .burstEnd slice => decide (slice < 4)
  | .refreshDue slice bankSet => decide (slice < 4) && decide (bankSet < 64)
  | .hostMemRead _ => true
  | .hostMemWrite _ _ => true
  | .flipToDevice => true
  | .flipToHost => true
  | .fence => true
  | .fenceDone _ => true
  | .quireRebalanceSwitch _ => true
  | .deckleEnable w _ => WReq.wf w
  | .deckleBuild slice => decide (slice < 4)
  | .searchEnable w _ => WReq.wf w
  | .vindexEnable index w _ => decide (index < 128) && WReq.wf w
  | .search => true
  | .insert => true
  | .delete => true
  | .filterStore => true
  | .filterDrop => true
  | .loadCodebook => true
  | .dropCodebook => true
  | .mergeEnable w _ => WReq.wf w
  | .treeEntryWrite w payload => WReq.wf w && decide (payload.length ≤ 1024)
  | .queryForwardArrive link src vl _ _ _ => decide (link < 36) && decide (src < 65536) && decide (vl < 16)
  | .mergeContextOpen => true
  | .set src _ => decide (src < 65536)
  | .mergeDeadline _ => true
  | .directoryEnable w _ => WReq.wf w
  | .dirWindowFind w => WReq.wf w
  | .dirWindowInsert w => WReq.wf w
  | .dirWindowRemove w => WReq.wf w
  | .vatEnable w _ => WReq.wf w
  | .pressEnable w _ => WReq.wf w
  | .feltHomeEnable w _ => WReq.wf w
  | .vatRegionEnable region w _ => decide (region < 16) && WReq.wf w
  | .tenantEnable tenant w _ => decide (tenant < 256) && WReq.wf w
  | .quireMoveSwitch _ _ => true
  | .quireSourceFree _ => true
  | .quireMoveError _ _ => true
  | .demotionStart slice => decide (slice < 4)
  | .overQuotaDemotion tenant => decide (tenant < 256)
  | .preempt => true
  | .preemptAck src tenant ream _ => decide (src < 65536) && decide (tenant < 256) && decide (ream < 2 ^ 32)
  | .resume => true
  | .move => true
  | .press => true
  | .vatRegionDrain region w _ => decide (region < 16) && WReq.wf w
  | .vatRegionFail region => decide (region < 16)
  | .hostPortEnable w _ => WReq.wf w
  | .slotAreaEnable area w _ => decide (area < 64) && WReq.wf w
  | .hdmDecoderProgram _ _ _ _ _ _ => true
  | .hostSnoopResponse _ => true
  | .completionWriteError _ => true
  | .cxlLinkDown => true
  | .cxlLinkUp _ _ => true
  | .conventionalReset => true
  | .functionLevelReset vf => (decide (1 ≤ vf) && decide (vf ≤ 255))
  | .mailboxUzoenePdu fn _ => decide (fn ≤ 255)
  | .getEventRecords fn => decide (fn ≤ 255)
  | .clearEventRecords fn _ => decide (fn ≤ 255)
  | .getFwInfo fn => decide (fn ≤ 255)
  | .transferFw fn _ _ _ _ => decide (fn ≤ 255)
  | .activateFw fn _ _ => decide (fn ≤ 255)
  | .getSupportedLogs fn => decide (fn ≤ 255)
  | .getLog fn _ => decide (fn ≤ 255)
  | .identifyMemoryDevice fn => decide (fn ≤ 255)
  | .mailboxUnsupported fn _ => decide (fn ≤ 255)
  | .getMeasurements _ _ => true
  | .keyExchange _ _ _ _ => true
  | .ideKm _ _ _ => true
  | .linkEnable link w _ => decide (link < 36) && WReq.wf w
  | .linkTrained link _ => decide (link < 36)
  | .linkTrainingTimeout link _ => decide (link < 36)
  | .linkRetrainAttempt link => decide (link < 36)
  | .laneFlap link lane _ => decide (link < 36) && decide (lane < 8)
  | .laneRestore link w _ => decide (link < 36) && WReq.wf w
  | .linkBlockSend link => decide (link < 36)
  | .linkBlock link block => decide (link < 36) && blockWf 2 block
  | .packetReceive link flits _ _ => decide (link < 36) && flitsWf flits
  | .ack src vl _ => decide (src < 65536) && decide (vl < 16)
  | .nak src vl msgId _ => decide (src < 65536) && decide (vl < 16) && decide (msgId < 65536)
  | .ackDelayExpire src vl msgId => decide (src < 65536) && decide (vl < 16) && decide (msgId < 65536)
  | .retransmitTimeout dst vl msgId _ => decide (dst < 65536) && decide (vl < 16) && decide (msgId < 65536)
  | .rnrDelayExpire dst vl msgId => decide (dst < 65536) && decide (vl < 16) && decide (msgId < 65536)
  | .reassemblyTimeout src vl msgId => decide (src < 65536) && decide (vl < 16) && decide (msgId < 65536)
  | .ccInterval dst => decide (dst < 65536)
  | .register w => WReq.wf w
  | .deregister w => WReq.wf w
  | .transportEnable w _ => WReq.wf w
  | .trafficEnable w _ => WReq.wf w
  | .egressSelect link => decide (link < 36)
  | .extentEnable w _ => WReq.wf w
  | .create w => WReq.wf w
  | .setGrants w => WReq.wf w
  | .revoke w => WReq.wf w
  | .extentDrainEnd extent => decide (extent < 1024)
  | .memoryClearDone _ => true
  | .tenantLeaseExpire tenant => decide (tenant < 256)
  | .renew => true
  | .open => true
  | .close => true
  | .publish => true
  | .shareReq _ => true
  | .shareReply _ => true
  | .versionRelease _ _ tenant => decide (tenant < 256)
  | .poolEnable w _ => WReq.wf w
  | .poolRequestMib w _ => WReq.wf w
  | .poolLeaseReq src _ => decide (src < 65536)
  | .poolLeaseGrant _ => true
  | .poolLeaseRenewDue lease => decide (lease < 2 ^ 32)
  | .poolLeaseRenew src lease => decide (src < 65536) && decide (lease < 2 ^ 32)
  | .poolRelease w lease => WReq.wf w && decide (lease < 2 ^ 32)
  | .poolLeaseRelease src lease _ => decide (src < 65536) && decide (lease < 2 ^ 32)
  | .poolLeaseRevoke lease _ => decide (lease < 2 ^ 32)
  | .poolLeaseGuardExpire lease => decide (lease < 2 ^ 32)
  | .poolLeaseLapse lease => decide (lease < 2 ^ 32)
  | .mapUpdate src _ => decide (src < 65536)
  | .handoffOrder src _ _ => decide (src < 65536)
  | .handoffCopyDone _ => true
  | .handoffReady src _ => decide (src < 65536)
  | .handoffRevert src _ => decide (src < 65536)
  | .parityError at_ _ _ => ParityAt.wf at_
  | .cvReset w => WReq.wf w
  | .cvRun w => WReq.wf w
  | .cvRunDone _ => true
  | .cvAbort w _ => WReq.wf w
  | .sliceWatchdogTimeout slice _ => decide (slice < 4)
  | .healthEnable w _ => WReq.wf w
  | .healthReportDue => true
  | .healthReport src _ _ => decide (src < 65536)
  | .healthReportMissed node => decide (node < 65536)
  | .nodeLost node _ => decide (node < 65536)
  | .standInOrder src node => decide (src < 65536) && decide (node < 65536)
  | .lostRanges src _ => decide (src < 65536)
  | .journalEnable w _ => WReq.wf w
  | .journalMirror src _ _ => decide (src < 65536)
  | .journalAck src _ _ => decide (src < 65536)
  | .journalAckTimeout => true
  | .journalFetch src _ _ => decide (src < 65536)
  | .lostRangeClear src tenant ream => decide (src < 65536) && decide (tenant < 256) && decide (ream < 2 ^ 32)
  | .event src _ => decide (src < 65536)
  | .logClear w _ => WReq.wf w
  | .traceTriggerEnable w _ => WReq.wf w
  | .powerEnable w _ => WReq.wf w
  | .powerWindow => true
  | .powerSample _ _ => true
  | .thermalSample _ => true
  | .thermTrip _ _ => true
  | .nodeReset => true
  | .debugAttached => true
  | .extest => true
  | .attestRequest w _ => WReq.wf w
  | .attestReportReady => true
  | .mgmtSessionEnable w _ => WReq.wf w
  | .mgmtSecureDatagram _ _ => true
  | .sessionIdleTimeout _ => true
  | .sessionKeyWrite entry w payload => decide (entry < 8) && WReq.wf w && decide (payload.length ≤ 1024)
  | .ownerKeyWrite w payload => WReq.wf w && decide (payload.length ≤ 1024)
  | .fwBufferWrite w _ payload => WReq.wf w && decide (payload.length ≤ 1024)
  | .fwApply w _ => WReq.wf w
  | .fwVerifyDone => true
  | .fwWriteDone => true
  | .fwAbort w _ => WReq.wf w
  | .fwBufferTimeout => true
  | .fwActivateSlices w _ => WReq.wf w
  | .imageActivated slice => decide (slice < 4)
  | .svnCommit w _ => WReq.wf w
  | .sliceHardwareReady slice r => decide (slice < 4) && HwResult.wf r
  | .autostartWaitEnd => true
  | .autostartTimeout => true
  | .joinRequest _ => true
  | .joinReply _ => true
  | .joinTimeout => true
  | .quiesce slice w => decide (slice < 4) && WReq.wf w
  | .evacuationDone slice => decide (slice < 4)
  | .cancel slice w => decide (slice < 4) && WReq.wf w
  | .retrain slice w => decide (slice < 4) && WReq.wf w
  | .retrainDone slice _ => decide (slice < 4)
  | .retireSlice slice w => decide (slice < 4) && WReq.wf w
  | .readmit slice w => decide (slice < 4) && WReq.wf w
  | .readmitDone slice r => decide (slice < 4) && HwResult.wf r
  | .sliceReport src slice _ => decide (src < 65536) && decide (slice < 4)
  | .nodeRstNRelease _ => true
  | .nodeRstNAssert => true
  | .pwrOkCoreDrop => true
  | .ticketWholeTimeout src vl => decide (src < 65536) && decide (vl < 16)
  | .coreRailsPowerUp => true
  | .vddAuxPowerUp => true
  | .controlCoreWatchdog => true
  | .poolRunCleared lease => decide (lease < 2 ^ 32)
  | .resumeAck src tenant ream _ => decide (src < 65536) && decide (tenant < 256) && decide (ream < 2 ^ 32)

end Sys2Proof
end

