-- ==== Sys2Proof/Safety.lean ====
section
/-! DEFINITION. What counts as a safe run, and the words in which the statements are put: which requests are served,
which writes a requester may make, and what two states have in common. -/

namespace Sys2Proof.Machine

/-- The outcome is a next state. -/
def Completes (o : Host.Outcome State Fault Refusal) : Prop := ∃ t, o = .next t

/-- A request is taken for the first time: the node is out of reset, the transport's queue has room, and no response is
kept for its transaction number (R41 to R43, R480). -/
abbrev Taken (s : State) (via : Via) (txn : Nat) : Prop :=
  s.sec.held = false ∧ queueFull s via = false ∧ keptFor s via txn = none

/-- The requester may write the object, and nothing locks it (R29, R44, R433, R444). -/
abbrev MayWriteTo (s : State) (via : Via) (idx sub : Nat) : Prop :=
  mayWrite s via = true ∧ (inRecovery s = false ∨ recoveryServes idx sub true = true) ∧ fabricLocked via idx sub = false

/-- The command that writes an enable with a row of its own: the enable, the requester, and the value. -/
def enableCmd : Instr → Option (Enable × WReq × Byte)
  | .herdEnable w v => some (enHerd, w, v)
  | .deputyEnable w v taken => some (enDeputy taken, w, v)
  | .htRefEnable w v => some (enHtRef, w, v)
  | .htSourceEnable w v => some (enHtSource, w, v)
  | .scheduleEnable slice w v => some (enSchedule slice, w, v)
  | .deadlineEnable w v => some (enDeadline, w, v)
  | .formatRulesEnable w v => some (enFormatRules, w, v)
  | .attentionEnable w v => some (enAttention, w, v)
  | .scoringEnable w v => some (enScoring, w, v)
  | .rebalanceEnable w v => some (enRebalance, w, v)
  | .deckleEnable w v => some (enDeckle, w, v)
  | .searchEnable w v => some (enSearch, w, v)
  | .vindexEnable index w v => some (enVindex index, w, v)
  | .mergeEnable w v => some (enMerge, w, v)
  | .directoryEnable w v => some (enDirectory, w, v)
  | .vatEnable w v => some (enVat, w, v)
  | .pressEnable w v => some (enPress, w, v)
  | .feltHomeEnable w v => some (enFeltHome, w, v)
  | .vatRegionEnable region w v => some (enVatRegion region, w, v)
  | .tenantEnable tenant w v => some (enTenant tenant, w, v)
  | .hostPortEnable w v => some (enHostPort, w, v)
  | .slotAreaEnable area w v => some (enSlotArea area, w, v)
  | .linkEnable link w v => some (enLink link, w, v)
  | .transportEnable w v => some (enTransport, w, v)
  | .trafficEnable w v => some (enTraffic, w, v)
  | .extentEnable w v => some (enExtent, w, v)
  | .poolEnable w v => some (enPool, w, v)
  | .healthEnable w v => some (enHealth, w, v)
  | .journalEnable w v => some (enJournal, w, v)
  | .traceTriggerEnable w v => some (enTrace, w, v)
  | .powerEnable w v => some (enPower, w, v)
  | .mgmtSessionEnable w v => some (enMgmtSession, w, v)
  | _ => none

/-- The request PDU of a write to an enable. -/
def enablePdu (e : Enable) (w : WReq) (v : Byte) : Pdu := rowPdu w (e.key / 256) (e.key % 256) 0 [v]

/-- A state after the DONE response to a row's write (R41). -/
def doneTo (s : State) (w : WReq) (idx sub off : Nat) (payload : List Byte) : State :=
  finish s w.via (rowPdu w idx sub off payload) .done

/-- A state after the response that a row's write ends with (R41, R51). -/
def endTo (s : State) (w : WReq) (idx sub off : Nat) (payload : List Byte) (r : Res) : State :=
  finish s w.via (rowPdu w idx sub off payload) r

/-- A write with a row of its own is taken and allowed (R41 to R44). -/
abbrev Allowed (s : State) (w : WReq) (idx sub : Nat) : Prop := Taken s w.via w.txn ∧ MayWriteTo s w.via idx sub

/-- An object that has no row and no handler of its own. -/
def Plain (idx sub : Nat) : Prop := ∀ bundle off, handlerOf bundle idx sub off = hPlain idx sub

/-- The seven operations of a SEARCH ticket (R204): the operation's number, its command, and what it runs. -/
def searchOps : List (Nat × Instr × (State → Tk → List Byte → List Byte → State)) :=
  [(1, .search, runSearch), (2, .insert, runInsert), (3, .delete, runDelete), (4, .filterStore, runFilterStore),
   (5, .filterDrop, runFilterDrop), (6, .loadCodebook, runLoadCodebook), (7, .dropCodebook, runDropCodebook)]

/-- A search ticket of this node's own at the head of the tickets taken (R204, R214): the state after it is taken. The operation 1 also
meets the tickets whose operation is none. -/
abbrev SearchHere (s : State) (op : Nat) (tk : Tk) (t : State) : Prop :=
  takeHead s 5 = some (tk, t) ∧ (hOp tk.raw = op ∨ (op = 1 ∧ (hOp tk.raw = 0 ∨ 7 < hOp tk.raw))) ∧
  (tk.fabric = true ∨ hTarget tk.raw = 0 ∨ hTarget tk.raw = myNode t ∨ namesBook tk.raw = true)

/-- Its tenant is the one that its index and its filter are bound to. -/
abbrev SearchOwned (tk : Tk) (t : State) : Prop :=
  (namesBook tk.raw = true ∨ 127 < hIndex tk.raw ∨ rd t (K.vindexTenant (hIndex tk.raw)) = tkTenant tk.raw) ∧
  (hOp tk.raw = 4 → ∀ f, tget? t.srch.filters (hHandle tk.raw) = some f → f.tenant = tkTenant tk.raw)

/-- The code of the check of its areas, or of the length of the parts that a forwarded one carries. -/
def searchCode (t : State) (tk : Tk) : Nat :=
  if tk.fabric then b2n (tk.data.length != searchPayload t tk.raw + searchBitmap tk.raw) * St.bounds else searchAreas t tk.raw

/-- Whether its parts are poisoned. -/
def searchPoisoned (t : State) (tk : Tk) : Bool :=
  partsPoisoned t tk (hPayload tk.raw) (searchPayload t tk.raw) (hBitmap tk.raw) (searchBitmap tk.raw)

/-- Its parts, read. -/
def searchParts (t : State) (tk : Tk) : State × List Byte × List Byte :=
  fetchParts t tk (hPayload tk.raw) (searchPayload t tk.raw) (hBitmap tk.raw) (searchBitmap tk.raw)

/-- What every step keeps: the memory, the dictionary and the log in their canonical forms, and four scoring stacks. -/
abbrev State.Inv (s : State) : Prop :=
  Mem.wf s.mem.cells = true ∧ twf s.dict = true ∧ twf s.log = true ∧ s.arrays.length = 4

/-- Commands of Herd Time, of steps, of the Herd's messages, of links and of power that only keep or send what they say. -/
def sendsOnly : Instr → Bool
  | .timeSymbolSend _ => true | .timeSymbol _ _ => true | .htSymbolTimeout => true | .htLost => true | .htRefEdge => true
  | .htRefMissing => true | .stepAnnounceDue => true | .stepGuardPoint => true | .stallNotice _ _ => true | .spanReport _ _ => true
  | .deputyState _ _ => true | .leadSilenceTimeout => true | .takeoverProbe _ _ => true | .probeReply _ _ => true
  | .joinReply _ => true | .joinTimeout => true | .healthReportDue => true | .standInOrder _ _ => true
  | .linkTrained _ _ => true | .linkTrainingTimeout _ _ => true | .linkBlockSend _ => true | .linkBlock _ _ => true
  | .ccInterval _ => true | .event _ _ => true
  | .thermalSample _ => true | .powerSample _ _ => true | .cxlLinkUp _ _ => true | .hdmDecoderProgram _ _ _ _ _ _ => true
  | .getFwInfo _ => true | .getSupportedLogs _ => true | .identifyMemoryDevice _ => true | .getEventRecords _ => true
  | .clearEventRecords _ _ => true | .mailboxUnsupported _ _ => true | .getMeasurements _ _ => true | .debugAttached => true
  | .sessionIdleTimeout _ => true | .ideKm _ _ _ => true | .keyExchange _ _ _ _ => true
  | .autostartTimeout => true | .vddAuxPowerUp => true | .coreRailsPowerUp => true
  | _ => false

/-- Keys of last_refusal (R51). -/
def isRefusalKey (k : Nat) : Bool := k / 256 == 0x10F0

/-- Two states agree but for what requests leave: the responses, the refusal record and the kept responses (R43, R51). -/
def SameButAnswers (s t : State) : Prop :=
  (∀ k, isRefusalKey k = false → rd t k = rd s k) ∧
  t = { s with dict := t.dict, out := t.out, outbox := t.outbox, dq := { s.dq with kept := t.dq.kept, mbox := t.dq.mbox } }

end Sys2Proof.Machine
end

