-- ==== Sys2Proof/Certificates/Slice0/Obligations.lean ====
section
/-! DEFINITION. The statements about this model, in the order of the manual's chapters. -/

open Sys2Proof Sys2Proof.Machine

/-! ## The queue and the clock -/

/-- The command at the front of the queue is run on the state with the queue's rest. -/
def Obligations.StepRunsFrontCommand : Prop :=
  ∀ (c : Instr) (rest : List Instr) (s : State), s.pending = c :: rest → step s = exec c { s with pending := rest }

/-- Log entry 1 (the model's choice): a step on an empty queue is the passing of one engine clock. The clock counts one and Herd Time moves
forward by at most 11 units of 1/33 ns; where no commit of the store is under way, no host access waits at a stack and no merge context
waits for the end of its comparator cycle, nothing else changes. A commit under way ends with it: where the bank reads back it becomes
current and store_state reads 0x0; where it does not, the bank that was current stays so and store_state reads 0x3 (R36). -/
def Obligations.EmptyQueueLetsOneClockPass : Prop :=
  (∀ s : State, s.pending = [] → step s = .next (closeDue (serveHosts (endCommit { s with tm := tickTime s.tm })))) ∧
  (∀ t : TimeSt, (tickTime t).ec = t.ec + 1 ∧ t.ht ≤ (tickTime t).ht ∧ (tickTime t).ht ≤ t.ht + 11) ∧
  (∀ s : State, s.pending = [] → s.dq.commit = none →
    (∀ sl < 4, (stackSt s sl).readWait = [] ∧ (stackSt s sl).writeBuf = []) → (∀ c ∈ s.ctxs, c.closing = none) →
    step s = .next { s with tm := tickTime s.tm }) ∧
  (∀ (s : State) (c : StoreCommit), s.dq.commit = some c →
    (endCommit s).dq.commit = none ∧
    (endCommit s).dq.banks = setNth s.dq.banks (1 - s.dq.current) { vals := c.vals, ok := c.ok } ∧
    (endCommit s).dq.current = (if c.ok then 1 - s.dq.current else s.dq.current) ∧
    rd (endCommit s) K.storeState = (if c.ok then 0 else 3))

/-- No command touches the queue: what waits, waits on, in the same order. -/
def Obligations.CommandsLeaveTheQueue : Prop :=
  ∀ (c : Instr) (s t : State), exec c s = .next t → t.pending = s.pending

/-! ## The dictionary (R27 to R58) -/

/-- R453, and parts of R47, R48, R51: a write of 1 to an enable that reads 0 evaluates the check over the current values. Where it passes, the resources
are claimed, the subsystem is started, the enable reads 1 and the answer is DONE. Where it fails, the enable stays 0, nothing is claimed or
started, the answer is REFUSED with the reason, last_refusal names the offending object, and ENABLE_REFUSED is raised. A write of the
value that an enable reads, while it is not stopping, runs no check and is answered DONE; a write while it is stopping is answered BUSY. For the 32
enables that have a row. -/
def Obligations.EnablesFollowTheirCheck : Prop :=
  (∀ (c : Instr) (e : Enable) (w : WReq) (s : State), c.wf = true → enableCmd c = some (e, w, 1) →
    Allowed s w (e.key / 256) (e.key % 256) → isStopping s e.key = false → on s e.key = false →
    firstFail (enableFails e s) = none →
    exec c s = .next (doneTo (releaseHeld (e.start (wr (enableClaimed e s) e.key 1))) w (e.key / 256) (e.key % 256) 0 [1])) ∧
  (∀ (c : Instr) (e : Enable) (w : WReq) (s : State) (reason key : Nat), c.wf = true → enableCmd c = some (e, w, 1) →
    Allowed s w (e.key / 256) (e.key % 256) → isStopping s e.key = false → on s e.key = false →
    firstFail (enableFails e s) = some (reason, key) →
    ∃ t, exec c s = .next (answer (event t 0x10 4 nodeSlice 1 (packBits [(16, key / 256), (8, key % 256), (8, reason),
        (8, viaTransport w.via), (32, rd t 0x10F006)])) w.via (respond (enablePdu e w 1) 1 reason [])) ∧
      on t e.key = false ∧ rd t 0x10F002 = key / 256 ∧ rd t 0x10F003 = key % 256 ∧ rd t 0x10F004 = reason ∧
      rd t 0x10F005 = viaTransport w.via ∧ rd t 0x10F006 = (rd s 0x10F006 + 1) % 2 ^ 24 ∧ SameButAnswers s t) ∧
  (∀ (c : Instr) (e : Enable) (w : WReq) (v : Byte) (s : State), c.wf = true → enableCmd c = some (e, w, v) → v.toNat ≤ 1 →
    Allowed s w (e.key / 256) (e.key % 256) → isStopping s e.key = false → b2n (on s e.key) = v.toNat →
    exec c s = .next (doneTo s w (e.key / 256) (e.key % 256) 0 [v])) ∧
  (∀ (w : WReq) (s : State), Allowed s w 0x1100 8 → isStopping s K.herdEnable = false → on s K.herdEnable = false →
    rd s K.nodeStartState < 3 → (rd s K.herdRole = 1 → on s K.htSourceEnable = true) → on s K.transportEnable = true →
    firstFail (enableFails enHerd s) = some (0x06, 0xB00001))

/-- Parts of R50: a write of 0 to an enable on which another enabled subsystem depends is refused with 0x06, naming the first dependent's enable, and one
that the subsystem's own rules do not allow now, with the reason that they name; a value above 1 is refused with 0x01. Otherwise admission stops and the enable reads 0; the write is answered DONE once the subsystem has stopped, when its claim is released; until
then any write of the enable is answered BUSY and changes nothing else. -/
def Obligations.EnablesStopAndAnswer : Prop :=
  (∀ (c : Instr) (e : Enable) (w : WReq) (s : State) (r k : Nat), c.wf = true → enableCmd c = some (e, w, 0) →
    Allowed s w (e.key / 256) (e.key % 256) → isStopping s e.key = false → on s e.key = true →
    (firstFail ((e.users s).map (fun k => (some (0x06, k) : Fail))) = some (r, k) ∨ (e.users s = [] ∧ firstFail (e.halts s) = some (r, k))) →
    exec c s = .next (endTo s w (e.key / 256) (e.key % 256) 0 [0] (.refused r (k / 256) (k % 256)))) ∧
  (∀ (c : Instr) (e : Enable) (w : WReq) (v : Byte) (s : State), c.wf = true → enableCmd c = some (e, w, v) → 1 < v.toNat →
    Allowed s w (e.key / 256) (e.key % 256) → isStopping s e.key = false →
    exec c s = .next (endTo s w (e.key / 256) (e.key % 256) 0 [v] (.refused 0x01 (e.key / 256) (e.key % 256)))) ∧
  (∀ (c : Instr) (e : Enable) (w : WReq) (s t : State), c.wf = true → enableCmd c = some (e, w, 0) →
    Allowed s w (e.key / 256) (e.key % 256) → isStopping s e.key = false → on s e.key = true → e.users s = [] →
    firstFail (e.halts s) = none → t = e.stop (wr s e.key 0) →
    (e.stopped t = true → exec c s = .next (doneTo (claimRelease (e.close t) e.key) w (e.key / 256) (e.key % 256) 0 [0])) ∧
    (e.stopped t = false →
      exec c s = .next { t with dq := { t.dq with stopping := t.dq.stopping ++ [{ key := e.key, via := w.via, txn := w.txn }] } })) ∧
  (∀ (c : Instr) (e : Enable) (w : WReq) (v : Byte) (s : State), c.wf = true → enableCmd c = some (e, w, v) →
    Allowed s w (e.key / 256) (e.key % 256) → isStopping s e.key = true →
    exec c s = .next (answer s w.via (respond (enablePdu e w v) 6 0 []))) ∧
  (∀ (key : Nat) (e : Enable) (p : Stop) (s : State), enableOf key = some e → e.key = key →
    s.dq.stopping.find? (fun q => q.key == key) = some p → e.stopped s = true →
    exec (.enableStopDone key) s =
      .next (answer (enableClosed e { s with dq := { s.dq with stopping := s.dq.stopping.filter (fun q => q.key != key) } }) p.via
        (respond (rowPdu { via := p.via, txn := p.txn } (key / 256) (key % 256) 0 []) 0 0 []))) ∧
  (∀ (key : Nat) (e : Enable) (s : State), enableOf key = some e → e.key = key →
    e.stopped s = false ∨ (∀ q ∈ s.dq.stopping, q.key ≠ key) → exec (.enableStopDone key) s = .next s) ∧
  (∀ (key : Nat) (s : State), enableOf key = none → exec (.enableStopDone key) s = .next s)

/-- Parts of R40, R485: READ returns the value's bytes from the offset on, DESCRIBE the 48 bytes, READ_BLOCK the packed values; whatever they answer,
only the answer, the refusal record and the kept responses change. -/
def Obligations.ReadsAreAnswered : Prop :=
  (∀ (via : Via) (p : Pdu) (o : Obj) (s : State), p.opcode = 1 → p.crcOk = true → malformed p = false → Taken s via p.transaction →
    vendorRange p.index = false → mayRead s via p.index = true → inRecovery s = false → findObj p.index p.subindex = some o →
    o.acc ≠ .wo → p.payload = [] → badOffset o p.offset = false →
    exec (.read via p) s
      = .next (answer s via (respond p 0 0 (((readBytes s o p.index p.subindex).drop p.offset).take 1024)))) ∧
  (∀ (via : Via) (p : Pdu) (o : Obj) (s : State), p.opcode = 3 → p.crcOk = true → malformed p = false → Taken s via p.transaction →
    vendorRange p.index = false → mayRead s via p.index = true → inRecovery s = false → findObj p.index p.subindex = some o →
    p.payload = [] →
    exec (.describe via p) s = .next (answer s via (respond p 0 0 (describeBytes s o p.index p.subindex)))) ∧
  (∀ (via : Via) (p : Pdu) (s : State), p.opcode = 4 → p.crcOk = true → malformed p = false → Taken s via p.transaction →
    vendorRange p.index = false → mayRead s via p.index = true → inRecovery s = false →
    (pageOf p.index).any (fun o => o.hasIdx p.index) = true →
    (packRange s p.index (upFrom p.subindex p.length)).length ≤ 1024 →
    exec (.readBlock via p) s = .next (answer s via (respond p 0 0 (packRange s p.index (upFrom p.subindex p.length))))) ∧
  (∀ (via : Via) (p : Pdu) (c : Instr) (s t : State), (c = .read via p ∨ c = .describe via p ∨ c = .readBlock via p) →
    exec c s = .next t → SameButAnswers s t)

/-- R32: a write to an RO or CONST object and a read of a WO object are answered with ACCESS_VIOLATION (0x3). The whole-array write through
subindex 00 is not a write to a CONST object: an array whose elements are RW takes it. -/
def Obligations.AccessClassesAreKept : Prop :=
  (∀ (via : Via) (p : Pdu) (o : Obj) (s : State), p.opcode = 2 → p.crcOk = true → malformed p = false → Taken s via p.transaction →
    vendorRange p.index = false → MayWriteTo s via p.index p.subindex → findObj p.index p.subindex = some o → (o.acc = .ro ∨ o.acc = .const) →
    (p.subindex = 0 → arrayCount p.index = none) →
    exec (.write via p) s = .next (answer s via (respond p 3 0 []))) ∧
  (∀ (via : Via) (p : Pdu) (o : Obj) (s : State), p.opcode = 1 → p.crcOk = true → malformed p = false → Taken s via p.transaction →
    vendorRange p.index = false → mayRead s via p.index = true → inRecovery s = false → findObj p.index p.subindex = some o → o.acc = .wo →
    exec (.read via p) s = .next (answer s via (respond p 3 0 []))) ∧
  (∀ (via : Via) (p : Pdu) (o : Obj) (n : Nat) (s t : State) (r : Res), p.opcode = 2 → p.crcOk = true → malformed p = false →
    Taken s via p.transaction → MayWriteTo s via p.index 0 → p.index = 0x4001 ∨ p.index = 0x6301 ∨ p.index = 0x7008 → p.subindex = 0 →
    arrayCount p.index = some n → findObj p.index 0 = some o →
    hArray p.index n s { via := via, txn := p.transaction } p.payload = (t, r) →
    exec (.write via p) s = .next (finish t via p r)) ∧
  (∀ o : Obj, lookupObj 0x4001 1 = some o ∨ lookupObj 0x6301 1 = some o ∨ lookupObj 0x7008 1 = some o ∨ lookupObj 0x1210 1 = some o →
    o.acc = .rw)

/-- Parts of R34, R49, R484: a WRITE that is taken and allowed, of an object that may be written and whose size the payload has, is answered with
what the handler of its object says. For an object that has no handler of its own: a value in its value set that passes the checks of R49
is stored and answered DONE; one that does not is refused, and nothing but the answer and the refusal record changes. Storing sets the value and
nothing else; of a step-bound object on a node that runs steps, the value that governed goes on governing; of a rate or depth of policing on a
node that runs none, the buckets are settled besides. Only a write of a window's selector, or of step_guard_ns, does more, once stored. -/
def Obligations.PlainWriteStoresItsValue : Prop :=
  (∀ (via : Via) (p : Pdu) (o : Obj) (s t : State) (r : Res), p.opcode = 2 → p.crcOk = true → malformed p = false →
    Taken s via p.transaction → MayWriteTo s via p.index p.subindex → p.index < 0xF000 → findObj p.index p.subindex = some o →
    o.acc ≠ .ro → o.acc ≠ .const → (p.subindex = 0 → arrayCount p.index = none) → p.payload.length = o.ty.size → o.ty.size ≤ 1024 →
    p.offset = 0 → handler p.index p.subindex p.offset s { via := via, txn := p.transaction } p.payload = (t, r) →
    exec (.write via p) s = .next (finish t via p r)) ∧
  (∀ (idx sub : Nat) (o : Obj) (l : List Byte) (w : WReq) (s : State), lookupObj idx sub = some o →
    plainFail s o idx [(keyOf idx sub, ofBytes l)] = none →
    runChecks (storeOne s o (keyOf idx sub) (ofBytes l)) [keyOf idx sub] = none →
    hPlain idx sub s w l = (afterWrite (storeOne s o (keyOf idx sub) (ofBytes l)) (keyOf idx sub), .done)) ∧
  (∀ (idx sub r k : Nat) (o : Obj) (l : List Byte) (w : WReq) (s : State), lookupObj idx sub = some o →
    plainFail s o idx [(keyOf idx sub, ofBytes l)] = some (r, k) → hPlain idx sub s w l = (s, .refused r (k / 256) (k % 256))) ∧
  (∀ (idx sub r k : Nat) (o : Obj) (l : List Byte) (w : WReq) (s : State), lookupObj idx sub = some o →
    plainFail s o idx [(keyOf idx sub, ofBytes l)] = none →
    runChecks (storeOne s o (keyOf idx sub) (ofBytes l)) [keyOf idx sub] = some (r, k) →
    hPlain idx sub s w l = (s, .refused r (k / 256) (k % 256))) ∧
  (∀ (o : Obj) (k v : Nat) (s : State), isPolice k = false → (o.stepBound = false ∨ runsSteps s = false) → storeOne s o k v = wr s k v) ∧
  (∀ (o : Obj) (k v : Nat) (s : State), o.stepBound = true → runsSteps s = true →
    storeOne s o k v = { wr s k v with dq := (storeOne s o k v).dq } ∧ rd (storeOne s o k v) k = v ∧ gv (storeOne s o k v) k = gv s k) ∧
  (∀ (o : Obj) (k v : Nat) (s : State), isPolice k = true → runsSteps s = false →
    ∃ t, storeOne s o k v = t ∧ (∀ x, rd t x = if x = k then v else rd s x) ∧ t.mem = s.mem ∧ t.kv = s.kv ∧ t.att = s.att) ∧
  (∀ (k : Nat) (s : State), k ≠ K.regionSelect → k ≠ K.extentSelect → k ≠ K.stepGuardNs → afterWrite s k = s)

/-- R43, and part of R41: on the management port and the fabric management lane a request whose CRC fails is discarded without a response; on a mailbox
it is answered BUSY where the queue is full, and else MALFORMED. Each session and
requesting node keeps its last 16 responses: a request whose transaction number is among them is not carried out again, and the kept
response is sent again, even if the payload differs. -/
def Obligations.RepeatedRequestIsAnsweredAgain : Prop :=
  (∀ (via : Via) (p r : Pdu) (c : Instr) (s : State),
    (c = .read via p ∨ c = .write via p ∨ c = .describe via p ∨ c = .readBlock via p) →
    s.sec.held = false → p.crcOk = true → queueFull s via = false → keptFor s via p.transaction = some r →
    (∀ src, via = .fabric src → exec c s = .next (mgmt s src (.uzoene r))) ∧
    ((∀ src, via ≠ .fabric src) → exec c s = .next (emit s (.response via r)))) ∧
  (∀ (via : Via) (p : Pdu) (c : Instr) (s : State),
    (c = .read via p ∨ c = .write via p ∨ c = .describe via p ∨ c = .readBlock via p) → p.crcOk = false →
    ((∃ n, via = .session n) ∨ via = .noSession ∨ (∃ src, via = .fabric src)) → exec c s = .next s) ∧
  (∀ (via : Via) (p : Pdu) (c : Instr) (k n : Nat) (s : State),
    (k, c) ∈ [(1, Instr.read via p), (2, .write via p), (3, .describe via p), (4, .readBlock via p)] → s.sec.held = false → p.crcOk = false →
    isMailbox via = true → n = (if queueFull s via then 6 else 7) →
    exec c s = .next (answer s via (respond { p with opcode := k } n 0 []))) ∧
  (∀ (via : Via) (r : Pdu) (s : State), viaKeeps via = true → keptFor s via r.transaction = none →
    keptFor (answer s via r) via r.transaction = some r ∧
    ((s.dq.kept.filter (fun k => k.via == via)).length ≤ 16 → ((answer s via r).dq.kept.filter (fun k => k.via == via)).length ≤ 16))

/-- R38, and part of R36: a write of 1 to store_commit starts a commit: store_state reads 0x1, the values of the store as they stand are copied, and the
bank that is not current is no longer whole until the commit ends; the answer follows then. A commit that still runs ends first. With every
enable at 0, a write of 1 to store_defaults takes every working value of the store to its default and leaves every other object, the banks and all
else as they are; else it is refused, naming the first enable that reads 1. (bundle_sequence_last lies outside the working values, R437.) -/
def Obligations.StoreIsCommittedAndDefaulted : Prop :=
  (∀ (w : WReq) (ok : Bool) (s t : State), Allowed s w 0x1010 1 → w.via ≠ .internal → t = endCommit s →
    (∀ c, s.dq.commit = some c → c.via ≠ w.via ∨ c.txn ≠ w.txn) →
    exec (.storeCommit w 1 ok) s = .next (wr { t with dq := { t.dq with
      banks := setNth t.dq.banks (1 - t.dq.current) { vals := [], ok := false },
      commit := some { vals := storeVals t, via := w.via, txn := w.txn, ok := ok } } } K.storeState 1)) ∧
  (∀ (w : WReq) (ok : Bool) (s : State), Allowed s w 0x1010 1 → exec (.storeCommit w 0 ok) s = .next (doneTo s w 0x1010 1 0 [0])) ∧
  (∀ (w : WReq) (s : State), Allowed s w 0x1010 2 → enableKeys.find? (fun k => on s k) = none →
    ∃ t, exec (.storeDefaults w 1) s = .next (doneTo t w 0x1010 2 0 [1]) ∧ t = { s with dict := t.dict } ∧
      ∀ k, rd t k = if persOf k == some .store && k != K.bundleSequenceLast then keyDflt k else rd s k) ∧
  (∀ (w : WReq) (s : State) (k : Nat), Allowed s w 0x1010 2 → enableKeys.find? (fun k => on s k) = some k →
    exec (.storeDefaults w 1) s = .next (finish s w.via (rowPdu w 0x1010 2 0 [1]) (.refused 0x05 (k / 256) (k % 256))))

/-- Parts of R56, R437: a bundle that passes its tests and whose entries are all carried out ends with bundle_state 0x1 and its sequence as
bundle_sequence_last; one of whose entries fails is undone and ends with bundle_state 0x3; one that fails a test applies nothing and ends with
bundle_state 0x2 and the event of the failing test. -/
def Obligations.BundleIsAppliedOrRejected : Prop :=
  (∀ (w : WReq) (s t : State) (seq : Nat) (es : List BundleEntry) (ch : Changed), Allowed s w 0x1010 6 →
    bundleTest s (getBytes s.dq.bundle 0 (rd s K.bundleLength)) = .inr (seq, es) →
    applyEntries (handlerOf hNoBundle) es s [] = (t, ch, true) →
    exec (.bundleApply w 1) s
      = .next (doneTo (wr (wr (bundleKey t es) K.bundleState 1) K.bundleSequenceLast seq) w 0x1010 6 0 [1])) ∧
  (∀ (w : WReq) (s t : State) (seq : Nat) (es : List BundleEntry) (ch : Changed), Allowed s w 0x1010 6 →
    bundleTest s (getBytes s.dq.bundle 0 (rd s K.bundleLength)) = .inr (seq, es) →
    applyEntries (handlerOf hNoBundle) es s [] = (t, ch, false) →
    exec (.bundleApply w 1) s = .next (doneTo (wr (undoBundle s t ch) K.bundleState 3) w 0x1010 6 0 [1])) ∧
  (∀ (w : WReq) (s : State) (n : Nat), Allowed s w 0x1010 6 →
    bundleTest s (getBytes s.dq.bundle 0 (rd s K.bundleLength)) = .inl n →
    exec (.bundleApply w 1) s = .next (doneTo (event (wr s K.bundleState 2) 0xA0 8 nodeSlice 1 n) w 0x1010 6 0 [1]))

/-! ## Herd Time and steps (R59 to R76) -/

/-- Parts of R60, R316: a link in state up sends a time symbol, whatever the node's role, as the 32 bytes of a TIME block; any other link sends none. The block
carries Herd Time and the node's hop count where the node holds Herd Time, is in LOCKED or HOLDOVER and has a role; else hop
count 0xFF and a time with bit 63 set. -/
def Obligations.TrainedLinksSendTimeSymbols : Prop :=
  (∀ (link : Nat) (s : State), link < 36 → rd s (K.linkState link) = 2 →
    exec (.timeSymbolSend link) s
      = .next { s with out := .control link (timeBlockWord (timeBlockOf s link)) :: s.out,
                       tm := { s.tm with linkTx := tset s.tm.linkTx link (sentEcs s link) } }) ∧
  (∀ (link : Nat) (s : State), rd s (K.linkState link) ≠ 2 → exec (.timeSymbolSend link) s = .next s) ∧
  (∀ (link : Nat) (s : State), passesTime s = true →
    (timeBlockOf s link).ht = htNs s ∧ (timeBlockOf s link).hops = ownHops s) ∧
  (∀ (link : Nat) (s : State), passesTime s = false →
    (timeBlockOf s link).hops = 0xFF ∧ 2 ^ 63 ≤ (timeBlockOf s link).ht) ∧
  (∀ b : TimeBlock, b.hops < 2 ^ 8 → b.ht < 2 ^ 64 → b.turnaroundPs < 2 ^ 32 → b.node < 2 ^ 16 → b.leadTerm < 2 ^ 32 →
    timeBlockFrom (timeBlockWord b) = b)

/-- Parts of R61 to R64, R316: a TIME block whose type or CRC is wrong, or of a link that is not up, is discarded. Any other sets the link's one-way delay and its
hop count; it does no more where its hop count is 0xFF or the node does not take Herd Time from its links, or where another link is
upstream, which the node's hop count then follows. A symbol of the upstream link steers Herd Time. The first gives the node its Herd
Time, in ACQUIRING. In ACQUIRING, 64 in a row within 20 ns take it to LOCKED, and one outside corrects Herd Time and starts the run again; in
LOCKED, one within keeps LOCKED and is slewed, and one outside takes it to ACQUIRING; in HOLDOVER, one within takes it back to LOCKED and one
outside to ACQUIRING. An offset is corrected forward at once and backward by slewing. -/
def Obligations.SymbolsSetAndSteerHerdTime : Prop :=
  (∀ (link block d h l : Nat) (b : TimeBlock) (s t : State), blockOk 0x01 block = true → b = timeBlockFrom block → link < 36 →
    rd s (K.linkState link) = 2 → d = oneWayPs s link b.turnaroundPs →
    t = { wr s (K.oneWayDelayPs link) (d % 2 ^ 32) with tm := { s.tm with
      linkRx := tset s.tm.linkRx link s.tm.ec, linkHops := tset s.tm.linkHops link b.hops, symAt := s.tm.ec } } →
    b.hops ≠ 0xFF → followsLinks s = true → upstreamOf t = some (h, l) →
    (l = link → exec (.timeSymbol link block) s
      = .next (joinWhenLocked (followSymbol (wr (wr t K.htHops (h + 1)) K.htUpstreamLink l) (b.ht + d / 1000)))) ∧
    (l ≠ link → exec (.timeSymbol link block) s = .next (wr (wr t K.htHops (h + 1)) K.htUpstreamLink l))) ∧
  (∀ (link block : Nat) (b : TimeBlock) (s : State), blockOk 0x01 block = true → b = timeBlockFrom block → link < 36 →
    rd s (K.linkState link) = 2 → b.hops = 0xFF ∨ followsLinks s = false →
    exec (.timeSymbol link block) s = .next { wr s (K.oneWayDelayPs link) (oneWayPs s link b.turnaroundPs % 2 ^ 32) with
      tm := { s.tm with linkRx := tset s.tm.linkRx link s.tm.ec, linkHops := tset s.tm.linkHops link b.hops } }) ∧
  (∀ (link block : Nat) (s : State), blockOk 0x01 block = false ∨ rd s (K.linkState link) ≠ 2 ∨ 36 ≤ link →
    exec (.timeSymbol link block) s = .next s) ∧
  (∀ (s : State) (v : Nat), s.tm.held = false →
    (followSymbol s v).tm.held = true ∧ (followSymbol s v).tm.ht = v * 33 ∧ rd (followSymbol s v) K.htState = 1) ∧
  (∀ (s : State) (v : Nat), s.tm.held = true →
    (rd s K.htState = 1 → within20 ((v : Int) - htNs s) = true → s.tm.lockRun < 63 →
      rd (followSymbol s v) K.htState = 1 ∧ (followSymbol s v).tm.lockRun = s.tm.lockRun + 1) ∧
    (rd s K.htState = 1 → within20 ((v : Int) - htNs s) = true → 63 ≤ s.tm.lockRun → rd (followSymbol s v) K.htState = 2) ∧
    (rd s K.htState = 1 → within20 ((v : Int) - htNs s) = false →
      rd (followSymbol s v) K.htState = 1 ∧ (followSymbol s v).tm.lockRun = 0) ∧
    (rd s K.htState = 2 → within20 ((v : Int) - htNs s) = true →
      rd (followSymbol s v) K.htState = 2 ∧ (followSymbol s v).tm.ht = s.tm.ht ∧
      (htNs s ≤ v → (followSymbol s v).tm.slewFwd = (v - htNs s) * 33) ∧ (v < htNs s → (followSymbol s v).tm.slewBack = (htNs s - v) * 33)) ∧
    (rd s K.htState = 2 ∨ rd s K.htState = 3 → within20 ((v : Int) - htNs s) = false → rd (followSymbol s v) K.htState = 1) ∧
    (rd s K.htState = 3 → within20 ((v : Int) - htNs s) = true → rd (followSymbol s v) K.htState = 2) ∧
    (1 ≤ rd s K.htState → rd s K.htState ≤ 3 → htNs s + 20 < v → (followSymbol s v).tm.ht = s.tm.ht + (v - htNs s) * 33) ∧
    (1 ≤ rd s K.htState → rd s K.htState ≤ 3 → v + 20 < htNs s →
      (followSymbol s v).tm.ht = s.tm.ht ∧ (followSymbol s v).tm.slewBack = (htNs s - v) * 33))

/-- Parts of R63, R64, R66, R67, R487: a node that follows its links and has no symbol for 4,000 ns leaves LOCKED for HOLDOVER; after ht_holdover_ns there it reports LOST and
raises its event. The first HT_REF edge gives a node on HT_REF its Herd Time, ht_ref_seconds, in LOCKED; each later one takes it to LOCKED and slews
Herd Time to the nearest whole second; one missing for 1.1 s takes it to HOLDOVER with an event. None of these acts before its time, in another state, or on a
node that does not follow its links or is not on HT_REF. -/
def Obligations.TimeTimersActWhenDue : Prop :=
  (∀ s : State,
    (followsLinks s = true → rd s K.htState = 2 → passed s s.tm.symAt 4000 = true →
      exec .htSymbolTimeout s = .next { wr s K.htState 3 with tm := { s.tm with holdAt := s.tm.ec } }) ∧
    (followsLinks s = false ∨ rd s K.htState ≠ 2 ∨ passed s s.tm.symAt 4000 = false → exec .htSymbolTimeout s = .next s)) ∧
  (∀ s : State,
    (followsLinks s = true → rd s K.htState = 3 → passed s s.tm.holdAt (gv s K.htHoldoverNs) = true →
      exec .htLost s = .next (event (wr s K.htState 4) 0x12 1 nodeSlice 2
        (packBits [(8, rd s K.htUpstreamLink), (8, rd s K.htHops)]))) ∧
    (followsLinks s = false ∨ rd s K.htState ≠ 3 ∨ passed s s.tm.holdAt (gv s K.htHoldoverNs) = false → exec .htLost s = .next s)) ∧
  (∀ (s t : State), onRef s = true → t = { s with tm := { s.tm with refAt := s.tm.ec, refSeen := true } } →
    (s.tm.held = false → exec .htRefEdge s = .next (wr { t with tm := { t.tm with
      ht := gv s K.htRefSeconds * 1000000000 * 33, held := true, refHt := gv s K.htRefSeconds * 1000000000, slewFwd := 0, slewBack := 0 } }
      K.htState 2)) ∧
    (s.tm.held = true → ∃ u, exec .htRefEdge s = .next u ∧
      u = wr (slewTime { t with tm := { t.tm with refHt := htNs s } }
        (((htNs s + 500000000) / 1000000000 * 1000000000 : Nat) - (htNs s : Int))) K.htState 2)) ∧
  (∀ s : State, onRef s = false → exec .htRefEdge s = .next s) ∧
  (∀ s : State,
    (onRef s = true → s.tm.refSeen = true → rd s K.htState = 2 → passed s s.tm.refAt 1100000000 = true →
      exec .htRefMissing s = .next (event (wr s K.htState 3) 0x12 2 nodeSlice 1 s.tm.refHt)) ∧
    (onRef s = false ∨ s.tm.refSeen = false ∨ rd s K.htState ≠ 2 ∨ passed s s.tm.refAt 1100000000 = false → exec .htRefMissing s = .next s))

/-- Parts of R69, R70, R322, R375, R460: a Lead that holds Herd Time announces step N + 1 with S(N+1) = S(N) + L once 2,000 ns or less remain to it, step 1 at once, and at
no other time, as a broadcast that carries lead_term; where S(N) + L has passed, the start is 2,000 ns ahead (the model's choice). A node begins the
announced step when its own Herd Time reaches the start. The first copy of an announcement is passed on; a member follows one of its Lead with no smaller lead_term; of two
Leads the one with the larger term, or of equal terms the lower unit_id, keeps the role, and the other is detached. A copy, and one
of another node than the Lead, moves no step. The window of an epoch ends when its last step has begun. -/
def Obligations.StepsAreAnnouncedAndBegun : Prop :=
  (∀ s : State, isLead s = true → s.tm.held = true → s.tm.next = none →
    (s.herd.lastAnn = 0 ∨ (rd s K.currentStep = s.herd.lastAnn ∧ s.herd.lastAnnStart + stepLen s ≤ now s + 2000) →
      ∃ t a, exec .stepAnnounceDue s = .next t ∧ t.tm.next = some a ∧ a.step = s.herd.lastAnn + 1 ∧
        a.start = (if s.herd.lastAnn ≠ 0 ∧ now s ≤ s.herd.lastAnnStart + stepLen s then s.herd.lastAnnStart + stepLen s else now s + 2000) ∧
        a.leadTerm = rd s K.leadTerm ∧ t.herd.lastAnn = a.step ∧ t.herd.lastAnnStart = a.start ∧ t.herd.stalls = 0 ∧
        t.outbox = s.outbox ++ [{ dst := 0xFFFF, vl := 8, key := 0, off := 0, body := .stepAnnounce a, fwd := none }])) ∧
  (∀ s : State, isLead s = false ∨ s.tm.held = false ∨ s.tm.next ≠ none ∨
    (s.herd.lastAnn ≠ 0 ∧ (rd s K.currentStep ≠ s.herd.lastAnn ∨ now s + 2000 < s.herd.lastAnnStart + stepLen s)) →
    exec .stepAnnounceDue s = .next s) ∧
  (∀ (s : State) (a : Announce), dueStep s = some a →
    exec .stepStart s = .next (beginStep s a) ∧ a.start ≤ now s ∧ s.tm.next = some a) ∧
  (∀ s : State, dueStep s = none → exec .stepStart s = .next s) ∧
  (∀ (link src msgId hops unit : Nat) (a : Announce) (s u v : State), castNew s src msgId = some u →
    v = { u with outbox := u.outbox ++ [{ dst := 0xFFFF, vl := 8, key := 0, off := 0, body := .stepAnnounce a, fwd := some (src, msgId, hops, link) }] } →
    (src ≠ leadNode s → exec (.stepAnnounce link src msgId hops unit a) s = .next (refuseMgmt v)) ∧
    (src = leadNode s → isLead s = false →
      (rd s K.leadTerm ≤ a.leadTerm → exec (.stepAnnounce link src msgId hops unit a) s = .next (followAnnounce v a)) ∧
      (a.leadTerm < rd s K.leadTerm → exec (.stepAnnounce link src msgId hops unit a) s = .next v)) ∧
    (src = leadNode s → isLead s = true →
      (rd s K.leadTerm < a.leadTerm → exec (.stepAnnounce link src msgId hops unit a) s = .next (followAnnounce (yieldLead v) a)) ∧
      (a.leadTerm < rd s K.leadTerm ∨ (a.leadTerm = rd s K.leadTerm ∧ rd s K.unitId ≤ unit) →
        exec (.stepAnnounce link src msgId hops unit a) s = .next v) ∧
      (a.leadTerm = rd s K.leadTerm → unit < rd s K.unitId →
        exec (.stepAnnounce link src msgId hops unit a) s = .next (followAnnounce (freeEvent (yieldLead v) 0xB0 nodeSlice) a)))) ∧
  (∀ (link src msgId hops unit : Nat) (a : Announce) (s : State), castNew s src msgId = none →
    exec (.stepAnnounce link src msgId hops unit a) s = .next s) ∧
  (∀ s : State, rd (yieldLead s) K.membershipState = 0 ∧ rd (yieldLead s) K.nodeNumber = 0xFFFF) ∧
  (∀ s : State,
    (rd s K.mapEpochPrevious ≠ 0 → rd s K.drainEndStep ≤ rd s K.currentStep → exec .epochDrainEnd s = .next (drainEnd s)) ∧
    (rd s K.mapEpochPrevious = 0 ∨ rd s K.currentStep < rd s K.drainEndStep → exec .epochDrainEnd s = .next s))

/-- Parts of R71: at the guard point, once a step, a node whose COMMITs are not all done tells the Lead, and the Lead itself counts its own; a node whose
COMMITs are all done tells nothing. The Lead counts a notice of the step that it announced last from a node of its map, and keeps each
node's span (R70); any other node counts either message as refused. -/
def Obligations.GuardPointTellsTheLead : Prop :=
  (∀ s : State, rd s K.currentStep ≠ 0 → s.tm.guardDone = false → refLength s - gv s K.stepGuardNs ≤ phaseNow s →
    s.sch.running.all (fun sl => has s.sch.commitDone sl) = false →
    (isLead s = false →
      exec .stepGuardPoint s = .next (mgmt { s with tm := { s.tm with guardDone := true } } (leadNode s) (.stall (rd s K.currentStep)))) ∧
    (isLead s = true → exec .stepGuardPoint s
      = .next { s with tm := { s.tm with guardDone := true }, herd := { s.herd with stalls := s.herd.stalls + 1 } })) ∧
  (∀ s : State, rd s K.currentStep ≠ 0 → s.tm.guardDone = false → refLength s - gv s K.stepGuardNs ≤ phaseNow s →
    s.sch.running.all (fun sl => has s.sch.commitDone sl) = true →
    exec .stepGuardPoint s = .next { s with tm := { s.tm with guardDone := true } }) ∧
  (∀ s : State, s.tm.guardDone = true → exec .stepGuardPoint s = .next s) ∧
  (∀ (src step : Nat) (s : State), isLead s = true → (mapEntry? s.herd.map src).isSome = true → step = s.herd.lastAnn →
    exec (.stallNotice src step) s = .next { s with herd := { s.herd with stalls := s.herd.stalls + 1 } }) ∧
  (∀ (src step : Nat) (s : State), isLead s = false → exec (.stallNotice src step) s = .next (refuseMgmt s)) ∧
  (∀ (src span : Nat) (s : State), isLead s = true →
    exec (.spanReport src span) s = .next { s with herd := { s.herd with spans := tset s.herd.spans src span } }) ∧
  (∀ (src span : Nat) (s : State), isLead s = false → exec (.spanReport src span) s = .next (refuseMgmt s))

/-- Parts of R72 to R76: a due occurrence of an entry runs its action, and is accounted for: ADMIT_OPEN and ADMIT_CLOSE set and clear the gate
of the entry's class, SWEEP admits from its area where that is enabled and swept by the slice, MERGE_CLOSE sets the step-bound contexts of its class
on the port die, which are open and not closing already, to close at the end of the comparator cycle (R225, R226), MAINT_OPEN and
MAINT_CLOSE bound the maintenance window: at its opening links adapt again and the Quires are spread and rebalanced, at its end copies that have not
switched are dropped. An occurrence that is not due leaves the state as it is. -/
def Obligations.DueOccurrencesRun : Prop :=
  (∀ (slice entry e : Nat) (s t : State), dueEntry s slice entry 2 = some e → t = takeOccurrence s slice entry e →
    exec (.admitOpen slice entry) s
      = .next (releaseHeld { t with sch := { t.sch with gates := tset t.sch.gates (slice * 8 + enClass e) true } })) ∧
  (∀ (slice entry e : Nat) (s t : State), dueEntry s slice entry 3 = some e → t = takeOccurrence s slice entry e →
    exec (.admitClose slice entry) s
      = .next { t with sch := { t.sch with gates := tset t.sch.gates (slice * 8 + enClass e) false } }) ∧
  (∀ (slice entry e : Nat) (s : State), dueEntry s slice entry 1 = some e →
    (sweepAreaOk s slice (enParam e) = true →
      exec (.sweep slice entry) s = .next (sweepArea (takeOccurrence s slice entry e) slice (enParam e) (enClass e))) ∧
    (sweepAreaOk s slice (enParam e) = false → exec (.sweep slice entry) s = .next (takeOccurrence s slice entry e))) ∧
  (∀ (slice entry e : Nat) (s t : State), dueEntry s slice entry 5 = some e → t = takeOccurrence s slice entry e →
    exec (.mergeClose slice entry) s = .next { t with ctxs := t.ctxs.map (fun c =>
      if c.place / 1024 = slice ∧ c.tree.stepBound = true ∧ c.tk.cls = enClass e ∧ c.closed = false ∧ c.closing = none
      then closeWith t c else c) }) ∧
  (∀ (slice entry e : Nat) (failed : List Nat) (stack : Bool) (s t u v : State), dueEntry s slice entry 6 = some e →
    t = takeOccurrence s slice entry e →
    u = { t with sch := { t.sch with maint := addNew t.sch.maint slice },
                 rel := { t.rel with laneFails := t.rel.laneFails.filter (fun p => p.1 / 64 / 64 != slice) } } →
    v = (linksOf slice).foldl restoreLanes ((linksOf slice).foldl (fun x l =>
      if rd x (K.linkState l) == 2 && has failed l then bump x (K.eqAdaptFailures l) 1 else x) u) →
    exec (.maintOpen slice entry failed stack) s = .next (if stack then
        sliceFault (recalibrate (rebalance (spreadSlice v slice) slice) slice) slice 1 false
      else recalibrate (rebalance (spreadSlice v slice) slice) slice)) ∧
  (∀ (slice entry e : Nat) (s t : State), dueEntry s slice entry 7 = some e →
    t = { takeOccurrence s slice entry e with sch := { (takeOccurrence s slice entry e).sch with
      maint := without (takeOccurrence s slice entry e).sch.maint slice } } →
    exec (.maintClose slice entry) s = .next ((sliceQuires t slice).foldl (fun u p => match p.2.move with
      | some m => if m.target == 4 then dropMove u p.1 p.2 else u
      | none => u) t)) ∧
  (∀ (slice entry : Nat) (eqFailed : List Nat) (stackFailed : Bool) (s : State), (∀ k, dueEntry s slice entry k = none) →
    exec (.sweep slice entry) s = .next s ∧ exec (.admitOpen slice entry) s = .next s ∧ exec (.admitClose slice entry) s = .next s ∧
    exec (.commit slice entry) s = .next s ∧ exec (.mergeClose slice entry) s = .next s ∧
    exec (.maintOpen slice entry eqFailed stackFailed) s = .next s ∧ exec (.maintClose slice entry) s = .next s)

/-- Parts of R122, R273: a COMMIT that is due, with no append that waits for its tail Sheet, is carried out; with one it waits, and nothing of what appends and
tickets hold changes. TIER_STALL_LIMIT carries out the COMMITs that have waited tier_stall_limit_ns, and no others. One that is carried out
is done for its slice, and waits no longer. The commit of a Sheet with pending tokens makes them visible: its token count grows by
them, none stays pending, and its commit step is the COMMIT's. -/
def Obligations.CommitMakesTokensVisible : Prop :=
  (∀ (slice entry e : Nat) (s : State), dueEntry s slice entry 4 = some e → appendsWaiting s = false →
    exec (.commit slice entry) s = .next (doCommit (takeOccurrence s slice entry e) slice)) ∧
  (∀ (slice entry e : Nat) (s : State), dueEntry s slice entry 4 = some e → appendsWaiting s = true →
    ∃ t, exec (.commit slice entry) s = .next t ∧ has t.sch.commitWait slice = true ∧ tget t.sch.commitAt slice 0 = now s ∧
      t.kv = s.kv ∧ t.att = s.att ∧ t.mem = s.mem) ∧
  (∀ s : State, exec .tierStallLimit s = .next
    ((s.sch.commitWait.filter (fun sl => decide (tget s.sch.commitAt sl 0 + gv s K.tierStallLimitNs ≤ now s))).foldl doCommit s)) ∧
  (∀ (slice : Nat) (s : State), s.sch.commitWait = [slice] → tget s.sch.commitAt slice 0 + gv s K.tierStallLimitNs ≤ now s →
    exec .tierStallLimit s = .next (doCommit s slice)) ∧
  (∀ s : State, (∀ sl ∈ s.sch.commitWait, now s < tget s.sch.commitAt sl 0 + gv s K.tierStallLimitNs) →
    exec .tierStallLimit s = .next s) ∧
  (∀ (s : State) (slice : Nat), has (doCommit s slice).sch.commitDone slice = true ∧ has (doCommit s slice).sch.commitWait slice = false) ∧
  (∀ (n : Nat) (sh : Sheet), 0 < sh.pending → (commitSheet n sh).1.tokenCount = sh.tokenCount + sh.pending ∧
    (commitSheet n sh).1.pending = 0 ∧ (commitSheet n sh).1.commitStep = n)

/-! ## Tickets (R139 to R150, R77 to R81) -/

/-- Parts of R150, R222: the query at the head of the tickets taken, whose tree entry is a root of this node, whose fields, mask right, snapshot, areas
and Ream pass and whose parts are not poisoned, opens a merge context or waits for one, with the payload and bitmap that were read at its admission;
nodes that may hold parts of its range and are no members of its tree are named as gaps. -/
def Obligations.QueryIsAdmitted : Prop :=
  (∀ (s t0 t1 t2 t3 t4 u : State) (tk : Tk) (e : Tree) (snap : Nat) (payload bitmap : List Byte) (nodes : List Nat) (c : Ctx),
    takeHead s 1 = some (tk, t0) → tget? t0.trees (qTree tk.raw) = some e → e.depth = 0 → queryFieldsBad t0 tk.raw = false →
    (qMask tk.raw ≠ 4 ∨ tkTenant tk.raw = 0 ∨ on t0 (K.maskBitmapGrant (tkTenant tk.raw)) = true) →
    snapOf t0 (tkTenant tk.raw) (querySlice t0 tk) (qSnap tk.raw) = (t1, some snap) → queryAreas t1 tk.raw = 0 →
    reamCheck t1 tk.slice tk.raw = (t2, false) →
    partsPoisoned t2 tk (qPayload tk.raw) (queryPayload tk.raw (dimOf (qDim tk.raw))) (qMaskAddr tk.raw) (bitmapBytes tk.raw) = false →
    fetchParts t2 tk (qPayload tk.raw) (queryPayload tk.raw (dimOf (qDim tk.raw))) (qMaskAddr tk.raw) (bitmapBytes tk.raw)
      = (t3, payload, bitmap) →
    contributors t3 tk.slice (rd t3 K.mapEpoch) tk.raw = (t4, nodes) →
    addGaps t4 (newCtx tk true e payload bitmap snap (rd t3 K.mapEpoch))
      ((nodes.filter (fun n => !bitB e.members n)).map (fun n => rangeGap tk.raw St.bounds n)) = (u, c) →
    exec .query s = .next (openOrWait u c)) ∧
  (∀ (s t : State) (tk : Tk), takeHead s 1 = some (tk, t) → (∀ e, tget? t.trees (qTree tk.raw) = some e → e.depth ≠ 0 ∨ queryFieldsBad t tk.raw = true) →
    exec .query s = .next (refuse t tk St.bounds)) ∧
  (∀ s : State, takeHead s 1 = none → exec .query s = .next s)

/-- Parts of R120, R133, R144, R150: an append and a retire of a Ream whose home is this node: the append is admitted with its payload, the retire is
kept for the COMMIT of its step; for a home elsewhere both go there. An append that a handoff holds is held, and one whose fields or areas fail,
that lies outside its Ream, or whose Ream is unknown is refused with the code of the failing check. A second retire of the Ream completes with
0x22, one of an unknown Ream with 0x11. APPEND_ROOM_WAIT_END tries the waiting appends again. -/
def Obligations.AppendsAndRetiresAreAdmitted : Prop :=
  (∀ (s t0 t1 t2 : State) (tk : Tk) (payload rest : List Byte), takeHead s 2 = some (tk, t0) → handoffHolds t0 tk.raw = false →
    appendFieldsBad tk.raw = false → appendOutside t0 tk.raw = false → appendAreas t0 tk = 0 →
    homeOf t0 tk.slice (tkTenant tk.raw) (bReam tk.raw) = (t1, some (myNode t1)) →
    partsPoisoned t1 tk (aPayload tk.raw) (appendPayload tk.raw (dimOf (aDim tk.raw))) 0 0 = false →
    fetchParts t1 tk (aPayload tk.raw) (appendPayload tk.raw (dimOf (aDim tk.raw))) 0 0 = (t2, payload, rest) →
    myNode t2 = myNode t1 → exec .append s = .next (admitAppend t2 (newApp t2 tk payload))) ∧
  (∀ (s t0 t1 : State) (tk : Tk) (m : Ream), takeHead s 3 = some (tk, t0) →
    homeOf t0 tk.slice (tkTenant tk.raw) (bReam tk.raw) = (t1, some (myNode t1)) →
    knownReam t1 (tkTenant tk.raw) (bReam tk.raw) = some m → m.retiredSet = false →
    t1.att.retires.any (fun x => tkTenant x.raw == tkTenant tk.raw && bReam x.raw == bReam tk.raw) = false →
    exec .retire s = .next { t1 with att := { t1.att with retires := t1.att.retires ++ [tk] } }) ∧
  (∀ (s t0 t1 : State) (tk : Tk) (m : Ream), takeHead s 3 = some (tk, t0) →
    homeOf t0 tk.slice (tkTenant tk.raw) (bReam tk.raw) = (t1, some (myNode t1)) →
    knownReam t1 (tkTenant tk.raw) (bReam tk.raw) = some m → m.retiredSet = true ∨
      t1.att.retires.any (fun x => tkTenant x.raw == tkTenant tk.raw && bReam x.raw == bReam tk.raw) = true →
    exec .retire s = .next (complete t1 tk St.revoked 0 0)) ∧
  (∀ (s t0 t1 : State) (tk : Tk), takeHead s 3 = some (tk, t0) →
    homeOf t0 tk.slice (tkTenant tk.raw) (bReam tk.raw) = (t1, none) → exec .retire s = .next (refuse t1 tk St.bounds)) ∧
  (∀ s : State, exec .appendRoomWaitEnd s = .next (afterMove s)) ∧
  (∀ (s t0 t1 t2 : State) (tk : Tk) (h : Nat) (payload rest : List Byte), takeHead s 2 = some (tk, t0) → handoffHolds t0 tk.raw = false →
    appendFieldsBad tk.raw = false → appendAreas t0 tk = 0 → homeOf t0 tk.slice (tkTenant tk.raw) (bReam tk.raw) = (t1, some h) →
    h ≠ myNode t0 → partsPoisoned t1 tk (aPayload tk.raw) (appendPayload tk.raw (dimOf (aDim tk.raw))) 0 0 = false →
    fetchParts t1 tk (aPayload tk.raw) (appendPayload tk.raw (dimOf (aDim tk.raw))) 0 0 = (t2, payload, rest) → h ≠ myNode t2 →
    exec .append s = .next (forwardHome t2 tk h payload)) ∧
  (∀ (s t : State) (tk : Tk), takeHead s 2 = some (tk, t) → handoffHolds t tk.raw = true → exec .append s = .next (hold t tk 0xFF)) ∧
  (∀ (s t : State) (tk : Tk), takeHead s 2 = some (tk, t) → handoffHolds t tk.raw = false → appendFieldsBad tk.raw = true →
    exec .append s = .next (refuse t tk St.bounds)) ∧
  (∀ (s t0 t1 : State) (tk : Tk) (h : Nat), takeHead s 3 = some (tk, t0) →
    homeOf t0 tk.slice (tkTenant tk.raw) (bReam tk.raw) = (t1, some h) → h ≠ myNode t1 → exec .retire s = .next (forwardHome t1 tk h [])) ∧
  (∀ s : State, (takeHead s 2 = none → exec .append s = .next s) ∧ (takeHead s 3 = none → exec .retire s = .next s))

/-- Parts of R144, R223: the parts of a whole, which its source, lane, key and consecutive message IDs tell from others, are gathered in the order of their
offsets. The first takes space for the whole from the pools; the whole that is complete gives it back and arrives as one
ticket. A whole that stays incomplete for reassembly_timeout_ns after its first part is dropped, without an answer. QUERY_FORWARD_ARRIVE
is the arrival of a query that has been gathered. -/
def Obligations.WholesAreGathered : Prop :=
  (∀ (link src vl depth key id whole offset : Nat) (part : List Byte) (s t u : State) (g h : Gather),
    s.att.gathers.find? (fun g => g.src == src && g.vl == vl && g.key == key && g.base == partBase id offset) = none →
    openGather s link src vl key (partBase id offset) whole = (t, g) →
    h = { g with parts := [(offset, part)], got := 0 + part.length } →
    u = { t with att := { t.att with gathers := t.att.gathers.filter (fun x => x.buf != g.buf) ++ [h] } } →
    (part.length < whole → exec (.ticketMessage link src vl depth key whole offset ⟨id, part⟩) s = .next u) ∧
    (whole ≤ part.length → exec (.ticketMessage link src vl depth key whole offset ⟨id, part⟩) s
      = .next (arriveWhole (freeGather u h) link src vl depth key part))) ∧
  (∀ (link src vl depth key id whole offset : Nat) (part : List Byte) (s u : State) (g h : Gather),
    s.att.gathers.find? (fun g => g.src == src && g.vl == vl && g.key == key && g.base == partBase id offset) = some g →
    h = { g with parts := insPart (offset, part) g.parts, got := g.got + part.length } →
    u = { s with att := { s.att with gathers := s.att.gathers.filter (fun x => x.buf != g.buf) ++ [h] } } →
    (g.got + part.length < whole → exec (.ticketMessage link src vl depth key whole offset ⟨id, part⟩) s = .next u) ∧
    (whole ≤ g.got + part.length → exec (.ticketMessage link src vl depth key whole offset ⟨id, part⟩) s
      = .next (arriveWhole (freeGather u h) link src vl depth key (h.parts.flatMap Prod.snd)))) ∧
  (∀ (link src vl depth key : Nat) (whole : List Byte) (s : State), tkType (ofBytes (whole.take 128)) = 1 →
    exec (.queryForwardArrive link src vl depth key whole) s = .next (arriveWhole s link src vl depth key whole)) ∧
  (∀ (src vl : Nat) (g : Gather) (s : State),
    s.att.gathers.find? (fun g => g.src == src && g.vl == vl && passed s g.firstAt (rd s K.reassemblyTimeoutNs)) = some g →
    exec (.ticketWholeTimeout src vl) s = .next (freeGather s g)) ∧
  (∀ (src vl : Nat) (s : State), (∀ g ∈ s.att.gathers, passed s g.firstAt (rd s K.reassemblyTimeoutNs) = false) →
    exec (.ticketWholeTimeout src vl) s = .next s) ∧
  (∀ (link src vl key base whole : Nat) (s t : State) (g : Gather), openGather s link src vl key base whole = (t, g) →
    g.src = src ∧ g.vl = vl ∧ g.key = key ∧ g.base = base ∧ g.firstAt = s.tm.ec ∧ t.att = s.att) ∧
  (∀ (g : Gather) (s : State), ∀ x ∈ (freeGather s g).att.gathers, x.buf ≠ g.buf)

/-- Parts of R77, R80, R225, R227: a comparator fires once the comparator cycle of its deadline has ended, never before: a ticket's action is then
taken, held tickets for which the list has a place again are admitted, and an open merge context is closed with what it holds. A deadline that
has fired is off the list. -/
def Obligations.DeadlinesFireOnce : Prop :=
  (∀ (id slice : Nat) (s : State), ctxOf s id = none → deadlineFires s id = some slice →
    exec (.deadlineFire id) s = .next (releaseHeld (deadlineAction (takeFire s slice id) id))) ∧
  (∀ (id slice : Nat) (c : Ctx) (s : State), ctxOf s id = some c → deadlineFires s id = some slice →
    exec (.mergeDeadline id) s = .next (closeCtx (bump (takeFire s slice id) K.mergesClosedPartial 1) c)) ∧
  (∀ (id : Nat) (s : State), deadlineFires s id = none → exec (.deadlineFire id) s = .next s ∧ exec (.mergeDeadline id) s = .next s) ∧
  (∀ (id slice : Nat) (s : State), deadlineFires s id = some slice →
    ∃ d, (slice, d, id) ∈ s.att.dls ∧ cycleOf (d * 33) < cycleOf s.tm.ht) ∧
  (∀ (id slice : Nat) (s : State), ∀ x ∈ (takeFire s slice id).att.dls, x.2.2 ≠ id)

/-- Parts of R218, R224, R226: a query that waits opens its context once there is a place for it. A set that a child sends once for an open context is
taken: the child has answered, its gaps and status are kept, it is late after the deadline, its records are folded, and a context that is full
then leaves; one without rows only counts as an input. A set for work whose context has closed, from a child that had not answered, is counted
as a late discard, any other as an orphan; neither changes anything else. -/
def Obligations.SetsAreFolded : Prop :=
  (∀ (s : State) (c : Ctx) (place : Nat), s.ctxWait.find? (fun c => (ctxPlace s c).isSome) = some c → ctxPlace s c = some place →
    exec .mergeContextOpen s = .next (openCtx { s with ctxWait := s.ctxWait.filter (fun x => x.work != c.work) } c place)) ∧
  (∀ s : State, (∀ c ∈ s.ctxWait, ctxPlace s c = none) → exec .mergeContextOpen s = .next s) ∧
  (∀ (src : Nat) (m : RecSet) (c d e : Ctx) (s t : State),
    s.ctxs.find? (fun c => tkId c.tk.raw == m.ticketId && qTree c.tk.raw == m.treeId && has (childrenOf c.tree) src
      && !has c.slots src && !c.closed) = some c →
    d = markLate s { c with slots := c.slots ++ [src], setGaps := c.setGaps ++ m.gaps, late := c.late || m.late,
                            setStatus := if m.status = 0 then c.setStatus else c.setStatus ++ [m.status] } →
    (m.rows ≠ 0 → foldInput s d m.recs m.weights m.weightDropped = (t, e) → exec (.set src m) s = .next (settleCtx t e)) ∧
    (m.rows = 0 → exec (.set src m) s = .next (settleCtx s { d with inputs := d.inputs + 1 }))) ∧
  (∀ (src : Nat) (m : RecSet) (s : State),
    (∀ c ∈ s.ctxs, tkId c.tk.raw = m.ticketId → qTree c.tk.raw = m.treeId → has (childrenOf c.tree) src = true →
      has c.slots src = true ∨ c.closed = true) →
    ((∃ w, (m.treeId, m.ticketId, w) ∈ s.att.doneWork ∧ has w src = true) → exec (.set src m) s = .next (bump s K.lateDiscardCount 1)) ∧
    ((∀ w, (m.treeId, m.ticketId, w) ∈ s.att.doneWork → has w src = false) → exec (.set src m) s = .next (bump s K.orphanSets 1)))

/-! ## Shares and bursts (R151 to R172) -/

/-- Parts of R12, R151, R152, R153, R160, R173: with a place free, the next share of a slice hands on the Sheets that other slices hold, and is staged where the Quires
of the rest are here; else it parks, or waits where parked_limit is reached; one that keeps no Sheet is dropped. A parked share whose Quires have come
re-enters the queue. The first staged share, with the slice's and its carrying stack's grants, its query context and its Felt, enters the
free stream stage; without the grants it asks for them. A pass follows the pass before; after its last pass a share gives its record, and leaves. -/
def Obligations.SharesRunThroughTheirStages : Prop :=
  (∀ (slice : Nat) (s t : State) (x y z : Share) (c d : Ctx), placesUsed s slice < 16 → nextShare s slice = some x → ctxOf s x.ctx = some c →
    handStrays s c x = (t, d, y) → z = dropPoisoned t y →
    (y.sheets = [] → x.sheets ≠ [] →
      exec (.shareDispatch slice) s = .next (dropShare (putCtx t { d with ownOut := without d.ownOut x.id }) x)) ∧
    (y.sheets ≠ [] ∨ x.sheets = [] →
      (absentQuires t z = [] → exec (.shareDispatch slice) s = .next (stageShare t slice d z)) ∧
      (absentQuires t z ≠ [] → parkedNow t slice < rd t K.parkedLimit →
        exec (.shareDispatch slice) s = .next (parkShare t { z with meta_ := x.meta_ } (absentQuires t z))) ∧
      (absentQuires t z ≠ [] → rd t K.parkedLimit ≤ parkedNow t slice →
        exec (.shareDispatch slice) s = .next (putShare t { z with meta_ := x.meta_, stage := .waitPark })))) ∧
  (∀ (slice : Nat) (s : State), 16 ≤ placesUsed s slice ∨ nextShare s slice = none → exec (.shareDispatch slice) s = .next s) ∧
  (∀ (slice : Nat) (s : State) (x : Share),
    (sliceShares s slice).find? (fun x => x.stage == .parked && quiresHere s x) = some x →
    exec (.shareResume slice) s = .next (endPark s x ((stallCauses s x.wants).headD 4))) ∧
  (∀ (slice : Nat) (s : State), (∀ x ∈ sliceShares s slice, x.stage = .parked → quiresHere s x = false) →
    exec (.shareResume slice) s = .next s) ∧
  (∀ (slice v : Nat) (s t : State) (x y : Share) (c : Ctx), (∀ z ∈ sliceShares s slice, z.stage ≠ .stream) → stackReady s slice = true →
    hasEngines s slice = true → (sliceShares s slice).find? (fun z => z.stage == .staged) = some x → ctxOf s x.ctx = some c →
    v = stackHolder (carryingStack slice) → hasGrant s slice 0 = true → hasGrant s v 0 = true → t = loadContexts s slice →
    (arrayOn t slice = true → ctxLoaded (stackSt t slice) x = true) →
    (if x.felt != 0 then some x else takePass t x (cRows c)) = some y →
    exec (.shareStreamStart slice) s
      = .next (startPass (useGrant (useGrant t slice 0) v 0) { y with stage := .stream, streamAt := t.tm.ec } (cRows c))) ∧
  (∀ (slice v n : Nat) (s : State) (x : Share) (c : Ctx), (∀ z ∈ sliceShares s slice, z.stage ≠ .stream) → stackReady s slice = true →
    hasEngines s slice = true → (sliceShares s slice).find? (fun z => z.stage == .staged) = some x → ctxOf s x.ctx = some c →
    v = stackHolder (carryingStack slice) → n = streamSpan s x (cRows c) → hasGrant s slice 0 = false ∨ hasGrant s v 0 = false →
    exec (.shareStreamStart slice) s = .next (askGrant (askGrant s slice 0 n) v 0 n)) ∧
  (∀ (slice : Nat) (s t : State) (x y z : Share) (c : Ctx), (sliceShares s slice).find? (fun z => z.stage == .stream) = some x →
    ctxOf s x.ctx = some c → x.pass + (if x.felt = 0 then 0 else 1) < passCount (cRows c) x.sheets.length → endPass s c x = (t, y) →
    y.felt = 0 → takePass t y (cRows c) = some z → exec (.passStart slice) s = .next (startPass t z (cRows c))) ∧
  (∀ (slice : Nat) (s t : State) (x y : Share) (c : Ctx), (sliceShares s slice).find? (fun z => z.stage == .stream) = some x →
    ctxOf s x.ctx = some c → (if x.pass + 1 = passCount (cRows c) x.sheets.length then endPass s c x else (s, x)) = (t, y) →
    (passCount (cRows c) y.sheets.length ≤ y.pass →
      exec (.shareRecord slice) s = .next (loadContexts (dropShare (deliver t c y) y) slice)) ∧
    (y.pass < passCount (cRows c) y.sheets.length → exec (.shareRecord slice) s = .next s))

/-- Parts of R170 to R173: once the host accesses that may be served have been, a planned burst with its query context and a grant of its own starts: it takes its
halves off the plan, in the form that the node holds, and owns their bank sets. Without the grant it asks for one; a half that no longer fits a
burst goes to an engine. At its end a burst lets its bank sets go, those at a balance of −1 are refreshed, waiting host accesses are
served and idle sets are pulled in; before its end nothing happens. A refresh that falls due lowers the balance of its bank set, which is
pulled in to +1 at once where nothing holds the set. -/
def Obligations.BurstsOwnTheirBankSets : Prop :=
  (∀ (slice ns : Nat) (s u v : State) (x : Share) (c : Ctx) (run : List Nat), u = serveStack slice s → (stackSt u slice).burst = none →
    (stackSt u slice).planned ≠ [] → arrayOn u slice = true → (sliceShares u slice).find? (fun z => z.stage == .stream) = some x →
    ctxOf u x.ctx = some c → fitsBurst u (cRows c) (copyOf x ((stackSt u slice).planned.headD 0)) = true →
    v = loadContexts u slice → ctxLoaded (stackSt v slice) x = true →
    run = burstRun v (stackSt v slice) x (cRows c) (stackSt v slice).planned 0 → run ≠ [] →
    ns = ceilDiv (clocksOf x (cRows c) run * 5) 8 →
    (hasGrant v (stackHolder (scoringStack slice)) ns = true →
      exec (.burstStart slice) s = .next (bump (putStack (putShare (useGrant v (stackHolder (scoringStack slice)) ns)
          { x with kRead := run.foldl (fun m k => tset m k (readNow v x k).kHalf) x.kRead }) slice
        { stackSt v slice with
          burst := some { share := x.id, sheets := run, banks := (run.map (fun k => (copyOf x k).bankSet)).eraseDups,
                          startEc := v.tm.ec, plannedNs := ns },
          planned := (stackSt v slice).planned.drop run.length }) (K.burstsIssued slice) 1)) ∧
    (hasGrant v (stackHolder (scoringStack slice)) ns = false →
      exec (.burstStart slice) s = .next (askGrant v (stackHolder (scoringStack slice)) ns 2))) ∧
  (∀ (slice : Nat) (s u : State) (x y : Share) (c : Ctx), u = serveStack slice s → (stackSt u slice).burst = none →
    (stackSt u slice).planned ≠ [] → arrayOn u slice = true → (sliceShares u slice).find? (fun z => z.stage == .stream) = some x →
    ctxOf u x.ctx = some c → fitsBurst u (cRows c) (copyOf x ((stackSt u slice).planned.headD 0)) = false →
    y = { x with inStack := without x.inStack ((stackSt u slice).planned.headD 0) } →
    exec (.burstStart slice) s = .next (putShare (putStack u slice
      (endSequence { stackSt u slice with planned := (stackSt u slice).planned.drop 1 } y (cRows c))) y)) ∧
  (∀ (slice : Nat) (s t u : State) (b : Burst) (late : List Nat), (stackSt s slice).burst = some b → passed s b.startEc b.plannedNs = true →
    late = b.banks.filter (fun k => decide (balanceOf (stackSt s slice) k ≤ -1)) →
    t = bump (bump s (K.halvesScoredInStack slice) b.sheets.length) (K.refreshAtBoundary slice) late.length →
    u = refresh (putStack t slice (endBurst t slice b (stackSt s slice))) slice late (fun k => balanceOf (stackSt s slice) k + 1) →
    exec (.burstEnd slice) s = .next (loadContexts (pullIn (serveStack slice u) slice) slice)) ∧
  (∀ (s : State) (slice : Nat) (b : Burst) (t : StackSt), (endBurst s slice b t).burst = none) ∧
  (∀ (slice : Nat) (s : State) (b : Burst), (stackSt s slice).burst = some b → passed s b.startEc b.plannedNs = false →
    exec (.burstEnd slice) s = .next s) ∧
  (∀ (slice bankSet : Nat) (s : State), slice < 4 → bankSet < 64 →
    passed s (tget (stackSt s slice).due bankSet 0) (refreshNs s slice) = true →
    exec (.refreshDue slice bankSet) s = .next (pullIn (serveStack slice (putStack s slice { stackSt s slice with
      due := tset (stackSt s slice).due bankSet s.tm.ec,
      balance := tset (stackSt s slice).balance bankSet (balanceOf (stackSt s slice) bankSet - 1) })) slice)) ∧
  (∀ (slice bankSet : Nat) (s : State), slice < s.arrays.length → slice < 4 → bankSet < 64 →
    passed s (tget (stackSt s slice).due bankSet 0) (refreshNs s slice) = true → balanceOf (stackSt s slice) bankSet ≤ 1 →
    (stackSt s slice).burst = none → (stackSt s slice).readWait = [] → (stackSt s slice).writeBuf = [] →
    has (slotsNow s (stackSt s slice)) bankSet = false → (∀ x ∈ sliceShares s slice, x.stage ≠ .stream) →
    ∃ t, exec (.refreshDue slice bankSet) s = .next t ∧ balanceOf (stackSt t slice) bankSet = 1 ∧ t.mem = s.mem ∧ t.att = s.att) ∧
  (∀ (slice bankSet : Nat) (s : State), passed s (tget (stackSt s slice).due bankSet 0) (refreshNs s slice) = false →
    exec (.refreshDue slice bankSet) s = .next s)

/-! ## Host-visible memory (R174 to R181, R287) -/

/-- Parts of R174, R287: a host read of a mapped line whose bank set neither a burst owns nor an earlier access waits for answers the line's bytes with its
poison, and changes nothing else; any other read of a mapped line waits, and is counted; one of an unmapped address answers ones, poisoned,
and is counted; a link that is down takes none. -/
def Obligations.HostReadsAnswerTheLine : Prop :=
  (∀ (hpa dpa : Nat) (s : State), linkUp s = true → hostDpa s (hpa / 64 * 64) = some dpa →
    (∀ sl, scoringSliceOf s dpa = some sl → mustWait s sl dpa = false) →
    exec (.hostMemRead hpa) s
      = .next { s with out := .memData (hpa / 64 * 64) (Mem.read s.mem.cells dpa 64) (linePoisoned s dpa) :: s.out }) ∧
  (∀ (hpa dpa sl : Nat) (s : State), linkUp s = true → hostDpa s (hpa / 64 * 64) = some dpa → scoringSliceOf s dpa = some sl →
    mustWait s sl dpa = true →
    exec (.hostMemRead hpa) s = .next (bump (putStack s sl { stackSt s sl with
      readWait := (stackSt s sl).readWait ++ [(hpa / 64 * 64, dpa, s.tm.ec, (stackSt s sl).writeBuf.length)] }) (K.hostReadsWaited sl) 1)) ∧
  (∀ (hpa : Nat) (s : State), linkUp s = true → hostDpa s (hpa / 64 * 64) = none →
    exec (.hostMemRead hpa) s = .next (emit (bump s K.hdmUnmappedAccesses 1) (.memData (hpa / 64 * 64) (List.replicate 64 0xFF) true))) ∧
  (∀ (hpa : Nat) (s : State), linkUp s = false → exec (.hostMemRead hpa) s = .next s) ∧
  (∀ (s : State) (sl dpa : Nat), mustWait s sl dpa = true ↔
    (∃ b, (stackSt s sl).burst = some b ∧ has b.banks (dpaBank sl dpa) = true) ∨
    (∃ r ∈ (stackSt s sl).readWait, dpaBank sl r.2.1 = dpaBank sl dpa) ∨ (∃ w ∈ (stackSt s sl).writeBuf, dpaBank sl w.1 = dpaBank sl dpa))

/-- Parts of R175, R287, R356: a host write of a mapped line stores its bytes, up to the line's end, at the address that the HDM decoders give, and
every byte outside reads as before, where the line lies in no scoring stack, or in one where it need not wait and whose write buffer has space. One that
must wait is held in the write buffer and acknowledged; one that finds the buffer full waits for space; one of a published extent is discarded
and counted; one of an unmapped address is counted; a link that is down takes none: in each of these cases all of memory is unchanged. The
memory stays in its canonical form. -/
def Obligations.HostWritesStoreTheirBytes : Prop :=
  (∀ (hpa dpa : Nat) (data : List Byte) (s : State), linkUp s = true → hostDpa s hpa = some dpa → publishedAt s dpa = false →
    (∀ sl, scoringSliceOf s dpa = some sl → mustWait s sl dpa = false ∧ (stackSt s sl).writeBuf.length < 256) →
    exec (.hostMemWrite hpa data) s = .next (emit (lineWrite s dpa (data.take (64 - dpa % 64))) (.memDone hpa)) ∧
    ∃ t, exec (.hostMemWrite hpa data) s = .next t ∧
      (∀ i (h : i < (data.take (64 - dpa % 64)).length), Mem.get t.mem.cells (dpa + i) = (data.take (64 - dpa % 64))[i]) ∧
      (∀ a, a < dpa ∨ dpa + (data.take (64 - dpa % 64)).length ≤ a → Mem.get t.mem.cells a = Mem.get s.mem.cells a)) ∧
  (∀ (hpa : Nat) (data : List Byte) (s : State), linkUp s = true → hostDpa s hpa = none →
    exec (.hostMemWrite hpa data) s = .next (emit (bump s K.hdmUnmappedAccesses 1) (.memDone hpa))) ∧
  (∀ (hpa dpa : Nat) (data : List Byte) (s : State), linkUp s = true → hostDpa s hpa = some dpa → publishedAt s dpa = true →
    exec (.hostMemWrite hpa data) s = .next (emit (bump s K.readonlyWritesDiscarded 1) (.memDone hpa))) ∧
  (∀ (hpa dpa sl : Nat) (data : List Byte) (s : State), linkUp s = true → hostDpa s hpa = some dpa → publishedAt s dpa = false →
    scoringSliceOf s dpa = some sl →
    ((stackSt s sl).writeBuf.length < 256 → mustWait s sl dpa = true →
      exec (.hostMemWrite hpa data) s = .next (emit (bump (putStack s sl { stackSt s sl with
        writeBuf := (stackSt s sl).writeBuf ++ [(dpa, data.take (64 - dpa % 64))] }) (K.hostWritesHeld sl) 1) (.memDone hpa))) ∧
    (256 ≤ (stackSt s sl).writeBuf.length → exec (.hostMemWrite hpa data) s = .next (putStack s sl { stackSt s sl with
      writeWait := (stackSt s sl).writeWait ++ [(hpa, dpa, data.take (64 - dpa % 64))] }))) ∧
  (∀ (hpa : Nat) (data : List Byte) (s : State), linkUp s = false → exec (.hostMemWrite hpa data) s = .next s) ∧
  (∀ (hpa : Nat) (data : List Byte) (s t : State), Mem.wf s.mem.cells = true → exec (.hostMemWrite hpa data) s = .next t →
    Mem.wf t.mem.cells = true)

/-- Parts of R178 to R181, R290, R359: a flip whose range passes check 8 puts its blocks in device or in host bias, no others, and completes with 0x00; a fence
waits until the held writes that it covers have reached DRAM, and then completes, with 0x00, or with 0x22 where its holding was revoked meanwhile.
A ticket whose range fails is refused with the code of the check. A snoop response is taken off the lines that wait; the last one of a run
that is being unmapped ends its unmapping. -/
def Obligations.FlipsAndFencesComplete : Prop :=
  (∀ (s t : State) (tk : Tk), takeFence s (fun o => o == 1) = some (tk, t) →
    (fenceTest t tk.raw = 0 →
      exec .flipToDevice s = .next (complete (bump (toDevice t (fAddr tk.raw) (fLength tk.raw)) K.flipsCompleted 1) tk St.ok 0 0)) ∧
    (fenceTest t tk.raw ≠ 0 → exec .flipToDevice s = .next (refuseArea t tk (fenceTest t tk.raw)))) ∧
  (∀ (s t : State) (tk : Tk), takeFence s (fun o => o == 2) = some (tk, t) →
    (fenceTest t tk.raw = 0 →
      exec .flipToHost s = .next (complete (bump (toHost t (fAddr tk.raw) (fLength tk.raw)) K.flipsCompleted 1) tk St.ok 0 0)) ∧
    (fenceTest t tk.raw ≠ 0 → exec .flipToHost s = .next (refuseArea t tk (fenceTest t tk.raw)))) ∧
  (∀ (s t : State) (tk : Tk), takeFence s (fun o => o != 1 && o != 2) = some (tk, t) →
    (fenceTest t tk.raw = 0 → exec .fence s = .next { t with fences := t.fences ++
      [{ tk := tk, op := 3, base := fAddr tk.raw, len := fLength tk.raw, writes := heldWrites t (fAddr tk.raw) (fLength tk.raw) }] }) ∧
    (fenceTest t tk.raw ≠ 0 → exec .fence s = .next (refuseArea t tk (fenceTest t tk.raw)))) ∧
  (∀ s : State, (takeFence s (fun o => o == 1) = none → exec .flipToDevice s = .next s) ∧
    (takeFence s (fun o => o == 2) = none → exec .flipToHost s = .next s) ∧
    (takeFence s (fun o => o != 1 && o != 2) = none → exec .fence s = .next s)) ∧
  (∀ (s : State) (a n b : Nat),
    (b ∈ (toDevice s a n).mem.hostBias ↔ b ∈ s.mem.hostBias ∧ (b < a / blockBytes ∨ a / blockBytes + n / blockBytes ≤ b)) ∧
    (b ∈ (toHost s a n).mem.hostBias ↔ b ∈ s.mem.hostBias ∨ (a / blockBytes ≤ b ∧ b < a / blockBytes + n / blockBytes))) ∧
  (∀ (id : Nat) (s t : State) (f : Fence), s.fences.find? (fun f => f.tk.id == id && f.writes.isEmpty) = some f →
    t = { s with fences := s.fences.filter (fun x => x.tk.id != id) } →
    (areaAlive t (tkTenant f.tk.raw) f.base f.len 1 = true →
      exec (.fenceDone id) s = .next (complete (bump t K.fencesCompleted 1) f.tk St.ok 0 0)) ∧
    (areaAlive t (tkTenant f.tk.raw) f.base f.len 1 = false →
      exec (.fenceDone id) s = .next (complete (bump t K.revokedCompletions 1) f.tk St.revoked 0 0))) ∧
  (∀ (id : Nat) (s : State), (∀ f ∈ s.fences, f.tk.id = id → f.writes ≠ []) → exec (.fenceDone id) s = .next s) ∧
  (∀ (line : Nat) (s t : State), has s.mem.snoops line = true → t = { s with mem := { s.mem with snoops := without s.mem.snoops line } } →
    (∀ m, mapAt t (line * 64) = some m → m.unmapping = true → (∀ l ∈ t.mem.snoops, l < m.base / 64 ∨ m.base / 64 + m.blocks * 1024 ≤ l) →
      exec (.hostSnoopResponse line) s = .next (finishUnmap t m)) ∧
    ((∀ m, mapAt t (line * 64) = some m → m.unmapping = true → ∃ l ∈ t.mem.snoops, m.base / 64 ≤ l ∧ l < m.base / 64 + m.blocks * 1024) →
      exec (.hostSnoopResponse line) s = .next t)) ∧
  (∀ (line : Nat) (s : State), has s.mem.snoops line = false → exec (.hostSnoopResponse line) s = .next s)

/-! ## Tiers and moves (R184 to R194, R256 to R278) -/

/-- Parts of R186, R194, R211, R258, R260, R265, R266, R272, R281, R410: the copy of a move switches where nothing of R260 stands against it, and the Vat accesses
slower than vat_late_ns are counted first; where something does, the move meets it as an error. A rebalance copy switches within the maintenance
window. An error of a move is counted against its Vat region where it is an access error. A Deckle is built from the first queued build of the slice
whose K half is in HBM, while no selection or search waits. The demotion of a slice starts below the low mark and goes on below the high one, that
of a tenant runs while its policy asks for it; rebalancing, builds and demotions wait for a background grant, for which they ask. A region that
serves or drains is taken off line. Where there is no such move, build or Quire, nothing happens. -/
def Obligations.MovesSwitchWhenCopied : Prop :=
  (∀ (qk : Nat) (times : List Nat) (s : State) (q : Quire) (m : Move), tget? s.kv.quires qk = some q → q.move = some m →
    m.target ≠ 4 → m.target ≠ 7 →
    (moveOk s qk q m = true →
      exec (.quireMoveSwitch qk times) s = .next (settleLeases (afterMove (switchMove (countLate s q m times) qk q m)))) ∧
    (moveOk s qk q m = false →
      exec (.quireMoveSwitch qk times) s = .next (moveErrorAt (countLate s q m times) qk (accessFails s q m)))) ∧
  (∀ (s : State) (q : Quire) (m : Move) (times : List Nat) (n : Nat), n = (times.filter (fun t => decide (rd s K.vatLateNs < t))).length →
    (2 ≤ q.tier → countLate s q m times = bump s (K.vatLateCount q.region) n) ∧
    (q.tier < 2 → m.target = 2 ∨ m.target = 3 → countLate s q m times = bump s (K.vatLateCount m.region) n) ∧
    (q.tier < 2 → m.target ≠ 2 → m.target ≠ 3 → countLate s q m times = s)) ∧
  (∀ (qk : Nat) (times : List Nat) (s : State),
    (∀ q m, tget? s.kv.quires qk = some q → q.move = some m → m.target = 4 ∨ m.target = 7) →
    exec (.quireMoveSwitch qk times) s = .next s) ∧
  (∀ (qk : Nat) (s : State) (q : Quire) (m : Move), tget? s.kv.quires qk = some q → q.move = some m → m.target = 4 →
    has s.sch.maint q.slice = true →
    (bgReady s q.slice = true → exec (.quireRebalanceSwitch qk) s = .next (afterMove (switchMove s qk q m))) ∧
    (bgReady s q.slice = false → exec (.quireRebalanceSwitch qk) s = .next (askBudget s q.slice 3 8))) ∧
  (∀ (qk : Nat) (s : State),
    (∀ q m, tget? s.kv.quires qk = some q → q.move = some m → m.target ≠ 4 ∨ has s.sch.maint q.slice = false) →
    exec (.quireRebalanceSwitch qk) s = .next s) ∧
  (∀ (qk : Nat) (s : State), exec (.quireSourceFree qk) s = .next (settleLeases (afterMove (retryRoom (freeSources s qk))))) ∧
  (∀ (qk : Nat) (access : Bool) (s t : State) (q : Quire) (m : Move), tget? s.kv.quires qk = some q → q.move = some m → m.target ≠ 7 →
    t = (if access = false then s else if 2 ≤ q.tier then bump s (K.vatErrors q.region) 1
         else if m.target = 2 ∨ m.target = 3 then bump s (K.vatErrors m.region) 1 else s) →
    (m.target ≠ 5 → exec (.quireMoveError qk access) s = .next (afterMove (errorMove t qk q m))) ∧
    (m.target = 5 → exec (.quireMoveError qk access) s = .next (afterMove (endSalvage (errorMove t qk q m) qk)))) ∧
  (∀ (qk : Nat) (access : Bool) (s : State), (∀ q m, tget? s.kv.quires qk = some q → q.move = some m → m.target = 7) →
    exec (.quireMoveError qk access) s = .next s) ∧
  (∀ (slice k : Nat) (s : State) (sh : Sheet), on s K.deckleEnable = true → engineWaits s = false →
    s.kv.builds.find? (fun k => match tget? s.kv.quires (quireOfSheet k) with
      | some q => q.slice == slice && q.tier == 0 | none => false) = some k →
    (bgReady s slice = true → tget? s.kv.sheets k = some sh →
      ∃ t, exec (.deckleBuild slice) s = .next t ∧ tget? t.kv.deckles k = some (buildDeckle s sh) ∧ has t.kv.builds k = false ∧
        t = { s with kv := { s.kv with builds := t.kv.builds, deckles := t.kv.deckles, quires := t.kv.quires } }) ∧
    (bgReady s slice = true → tget? s.kv.sheets k = none →
      exec (.deckleBuild slice) s = .next { s with kv := { s.kv with builds := without s.kv.builds k } }) ∧
    (bgReady s slice = false → exec (.deckleBuild slice) s = .next (askBudget s slice 3 8))) ∧
  (∀ (slice : Nat) (s : State), on s K.deckleEnable = false ∨ engineWaits s = true ∨
    (∀ k ∈ s.kv.builds, ∀ q, tget? s.kv.quires (quireOfSheet k) = some q → q.slice ≠ slice ∨ q.tier ≠ 0) →
    exec (.deckleBuild slice) s = .next s) ∧
  (∀ (slice : Nat) (s t : State), on s K.vatEnable = true → slice < 4 →
    (slicePlan s slice < mib (gv s K.scoringReserveMib + gv s K.vatDemoteLowMib) ∨
      (has s.kv.demoting slice = true ∧ slicePlan s slice < mib (gv s K.vatDemoteHighMib))) →
    t = { s with kv := { s.kv with demoting := addNew s.kv.demoting slice } } →
    (∀ c, coderBusy t slice = false → (∀ x < 256, overNext t x = none) →
      coldestOf ((demoteCandidates t).filter (fun p => p.2.slice == slice)) = some c →
      (bgReady t slice = true → exec (.demotionStart slice) s = .next (demote t c)) ∧
      (bgReady t slice = false → exec (.demotionStart slice) s = .next (askBudget t slice 3 8))) ∧
    (coderBusy t slice = true ∨ (∃ x < 256, overNext t x ≠ none) ∨
      coldestOf ((demoteCandidates t).filter (fun p => p.2.slice == slice)) = none → exec (.demotionStart slice) s = .next t)) ∧
  (∀ (slice : Nat) (s : State), on s K.vatEnable = false ∨ 4 ≤ slice ∨
    (mib (gv s K.scoringReserveMib + gv s K.vatDemoteLowMib) ≤ slicePlan s slice ∧
      (has s.kv.demoting slice = false ∨ mib (gv s K.vatDemoteHighMib) ≤ slicePlan s slice)) →
    exec (.demotionStart slice) s = .next { s with kv := { s.kv with demoting := without s.kv.demoting slice } }) ∧
  (∀ (tenant : Nat) (s : State) (c : Nat × Quire), on s K.vatEnable = true → overNext s tenant = some c →
    (coderBusy s c.2.slice = true → exec (.overQuotaDemotion tenant) s = .next s) ∧
    (coderBusy s c.2.slice = false → bgReady s c.2.slice = true → exec (.overQuotaDemotion tenant) s = .next (demote s c)) ∧
    (coderBusy s c.2.slice = false → bgReady s c.2.slice = false →
      exec (.overQuotaDemotion tenant) s = .next (askBudget s c.2.slice 3 8))) ∧
  (∀ (tenant : Nat) (s : State), on s K.vatEnable = false ∨ overNext s tenant = none → exec (.overQuotaDemotion tenant) s = .next s) ∧
  (∀ (region : Nat) (s : State),
    (rd s (K.vatState region) = 1 ∨ rd s (K.vatState region) = 2 →
      exec (.vatRegionFail region) s = .next (wr s (K.vatState region) 3)) ∧
    (rd s (K.vatState region) ≠ 1 → rd s (K.vatState region) ≠ 2 → exec (.vatRegionFail region) s = .next s))

/-- Parts of R274, R276, R277, R278, R142: PREEMPT, RESUME, MOVE and PRESS. At the Ream's home: a PREEMPT that passes marks the Ream and is sent on to the other nodes that hold
some of it, its Quires here are sent to swap, and the ticket completes once every one of those nodes has answered; a RESUME undoes it; a MOVE takes
each Quire of its range to the target tier, here and there; a ticket that fails a test completes with the test's code. At another node a ticket of a
host goes to the home, and one from the fabric is carried out on what is held here and answered. A ticket of an unknown Ream, or
with fields out of range, is refused. PRESS codes its source, decodes it, or completes with 0x30 for poisoned bytes; without the background grant it
waits and asks for it. -/
def Obligations.TierTicketsAreCarriedOut : Prop :=
  (∀ (s t0 t1 t2 : State) (tk : Tk) (n c : Nat) (others : List Nat), takeHead s 6 = some (tk, t0) →
    homeOf t0 tk.slice (tkTenant tk.raw) (bReam tk.raw) = (t1, some (myNode t1)) →
    c = (if rd t1 (K.swapMib (tkTenant tk.raw)) = 0 then St.bounds else tierTest t1 tk.raw (some false)) →
    others = reamNodes t1 tk.slice (tkTenant tk.raw) (bReam tk.raw) →
    (c = 0 → preemptHere (sendOn (setPreempted t1 (tkTenant tk.raw) (bReam tk.raw) true) tk others) (tkTenant tk.raw) (bReam tk.raw) = (t2, n) →
      exec .preempt s = .next (waitAcks t2 tk others n)) ∧
    (c ≠ 0 → exec .preempt s = .next (tierRefuse t1 tk c))) ∧
  (∀ (s t0 t1 t2 : State) (tk : Tk) (n : Nat) (others : List Nat), takeHead s 7 = some (tk, t0) →
    homeOf t0 tk.slice (tkTenant tk.raw) (bReam tk.raw) = (t1, some (myNode t1)) →
    others = reamNodes t1 tk.slice (tkTenant tk.raw) (bReam tk.raw) →
    (tierTest t1 tk.raw (some true) = 0 →
      resumeHere (sendOn (setPreempted t1 (tkTenant tk.raw) (bReam tk.raw) false) tk others) (tkTenant tk.raw) (bReam tk.raw) = (t2, n) →
      exec .resume s = .next (waitAcks t2 tk others n)) ∧
    (tierTest t1 tk.raw (some true) ≠ 0 → exec .resume s = .next (tierRefuse t1 tk (tierTest t1 tk.raw (some true))))) ∧
  (∀ (s t0 t1 : State) (tk : Tk) (others : List Nat), takeHead s 8 = some (tk, t0) → moveFieldsBad t0 tk.raw = false →
    homeOf t0 tk.slice (tkTenant tk.raw) (bReam tk.raw) = (t1, some (myNode t1)) →
    others = reamNodes t1 tk.slice (tkTenant tk.raw) (bReam tk.raw) →
    (tierTest t1 tk.raw none = 0 → exec .move s = .next (runMove (sendOn t1 tk others) tk others)) ∧
    (tierTest t1 tk.raw none ≠ 0 → exec .move s = .next (tierRefuse t1 tk (tierTest t1 tk.raw none)))) ∧
  (∀ (s t0 t1 t2 : State) (tk : Tk) (h n : Nat), homeOf t0 tk.slice (tkTenant tk.raw) (bReam tk.raw) = (t1, some h) → h ≠ myNode t1 →
    (takeHead s 6 = some (tk, t0) → tk.fabric = true → preemptHere (dropDl t1 tk.id) (tkTenant tk.raw) (bReam tk.raw) = (t2, n) →
      exec .preempt s = .next (mgmt t2 tk.src (.preemptAck (tkTenant tk.raw) (bReam tk.raw) n))) ∧
    (takeHead s 7 = some (tk, t0) → tk.fabric = true → resumeHere (dropDl t1 tk.id) (tkTenant tk.raw) (bReam tk.raw) = (t2, n) →
      exec .resume s = .next (mgmt t2 tk.src (.resumeAck (tkTenant tk.raw) (bReam tk.raw) n))) ∧
    (takeHead s 8 = some (tk, t0) → moveFieldsBad t0 tk.raw = false → tk.fabric = true →
      exec .move s = .next (if has t1.kv.preempted (reamKey (tkTenant tk.raw) (bReam tk.raw)) then complete t1 tk St.preempted 0 0
        else runMove t1 tk [])) ∧
    (takeHead s 6 = some (tk, t0) → tk.fabric = false → exec .preempt s = .next (forwardHome t1 tk h [])) ∧
    (takeHead s 7 = some (tk, t0) → tk.fabric = false → exec .resume s = .next (forwardHome t1 tk h [])) ∧
    (takeHead s 8 = some (tk, t0) → moveFieldsBad t0 tk.raw = false → tk.fabric = false → exec .move s = .next (forwardHome t1 tk h []))) ∧
  (∀ (s t0 t1 : State) (tk : Tk), homeOf t0 tk.slice (tkTenant tk.raw) (bReam tk.raw) = (t1, none) →
    (takeHead s 6 = some (tk, t0) → exec .preempt s = .next (refuse t1 tk St.bounds)) ∧
    (takeHead s 7 = some (tk, t0) → exec .resume s = .next (refuse t1 tk St.bounds)) ∧
    (takeHead s 8 = some (tk, t0) → moveFieldsBad t0 tk.raw = false → exec .move s = .next (refuse t1 tk St.bounds))) ∧
  (∀ (s t : State) (tk : Tk), takeHead s 8 = some (tk, t) → moveFieldsBad t tk.raw = true → exec .move s = .next (refuse t tk St.bounds)) ∧
  (∀ (s t0 t1 : State) (tk : Tk) (data : List Byte) (a b : Nat), takeHead s 9 = some (tk, t0) →
    a = areaTest t0 (tkTenant tk.raw) (pSrc tk.raw) (pSrcLen tk.raw) 64 1 → b = areaTest t0 (tkTenant tk.raw) (pDst tk.raw) (pDstLen tk.raw) 64 2 →
    (pressFieldsBad tk.raw = true → exec .press s = .next (refuse t0 tk St.bounds)) ∧
    (pressFieldsBad tk.raw = false → a ≠ 0 → exec .press s = .next (refuseArea t0 tk a)) ∧
    (pressFieldsBad tk.raw = false → a = 0 → b ≠ 0 → exec .press s = .next (refuseArea t0 tk b)) ∧
    (pressFieldsBad tk.raw = false → a = 0 → b = 0 → bgReady s tk.slice = false → exec .press s = .next (askBudget s tk.slice 3 8)) ∧
    (pressFieldsBad tk.raw = false → a = 0 → b = 0 → bgReady s tk.slice = true →
      (nodeRead t0 (pSrc tk.raw) (pSrcLen tk.raw) = (t1, data, false) → exec .press s = .next (runPress t1 tk data)) ∧
      (nodeRead t0 (pSrc tk.raw) (pSrcLen tk.raw) = (t1, data, true) → exec .press s = .next (complete t1 tk St.poisoned 0 0)))) ∧
  (∀ s : State, (takeHead s 6 = none → exec .preempt s = .next s) ∧ (takeHead s 7 = none → exec .resume s = .next s) ∧
    (takeHead s 8 = none → exec .move s = .next s) ∧ (takeHead s 9 = none → exec .press s = .next s)) ∧
  (∀ (src tenant ream count : Nat) (s : State),
    exec (.preemptAck src tenant ream count) s = .next (ackPre s 6 src tenant ream count) ∧
    exec (.resumeAck src tenant ream count) s = .next (ackPre s 7 src tenant ream count)) ∧
  (∀ (type src tenant ream count : Nat) (s : State) (p : PreTk),
    s.kv.preTks.find? (fun p => tkType p.tk.raw == type && tkTenant p.tk.raw == tenant && bReam p.tk.raw == ream && has p.waiting src) = some p →
    without p.waiting src = [] →
    ackPre s type src tenant ream count
      = complete { s with kv := { s.kv with preTks := s.kv.preTks.filter (fun x => x.tk.id != p.tk.id) } } p.tk St.ok (p.count + count) 0)

/-! ## Vector search (R190 to R216) -/

/-- Parts of R142, R204, R205, R208, R210, R214: the seven operations of a SEARCH ticket. A ticket of this node whose tenant, fields, snapshot and areas pass and
whose parts are not poisoned runs its operation with the payload and bitmap read at its admission. One for an index or a filter bound to another
tenant completes with 0x13, ahead of 0x11 for fields out of range, of 0x21 for a stale snapshot, of the code of its areas, and of
0x30 for poisoned parts. One of a host whose target is another node is sent there with its parts, where they are in order. Where the ticket at the head is another's, or
there is none, nothing happens. -/
def Obligations.SearchTicketsRun : Prop :=
  (∀ (s t u v : State) (tk : Tk) (payload bitmap : List Byte), searchFieldsBad t tk.raw = false → searchCode u tk = 0 →
    searchPoisoned u tk = false → searchParts u tk = (v, payload, bitmap) →
    (SearchHere s 1 tk t → SearchOwned tk t → snapTest t 1 tk = (u, true) → exec .search s = .next (runSearch v tk payload bitmap)) ∧
    (SearchHere s 2 tk t → SearchOwned tk t → u = t → exec .insert s = .next (runInsert v tk payload bitmap)) ∧
    (SearchHere s 3 tk t → SearchOwned tk t → u = t → exec .delete s = .next (runDelete v tk payload bitmap)) ∧
    (SearchHere s 4 tk t → SearchOwned tk t → u = t → exec .filterStore s = .next (runFilterStore v tk payload bitmap)) ∧
    (SearchHere s 5 tk t → SearchOwned tk t → u = t → exec .filterDrop s = .next (runFilterDrop v tk payload bitmap)) ∧
    (SearchHere s 6 tk t → SearchOwned tk t → u = t → exec .loadCodebook s = .next (runLoadCodebook v tk payload bitmap)) ∧
    (SearchHere s 7 tk t → SearchOwned tk t → u = t → exec .dropCodebook s = .next (runDropCodebook v tk payload bitmap))) ∧
  (∀ (op : Nat) (c : Instr) (run : State → Tk → List Byte → List Byte → State) (s t u : State) (tk : Tk), (op, c, run) ∈ searchOps →
    SearchHere s op tk t →
    (¬SearchOwned tk t → exec c s = .next (refuse t tk St.tenant)) ∧
    (SearchOwned tk t → searchFieldsBad t tk.raw = true → exec c s = .next (refuse t tk St.bounds)) ∧
    (SearchOwned tk t → searchFieldsBad t tk.raw = false →
      (snapTest t op tk = (u, false) → exec c s = .next (refuse u tk St.staleEpoch)) ∧
      (snapTest t op tk = (u, true) → searchCode u tk ≠ 0 → exec c s = .next (refuseArea u tk (searchCode u tk))) ∧
      (snapTest t op tk = (u, true) → searchCode u tk = 0 → searchPoisoned u tk = true →
        exec c s = .next (complete u tk St.poisoned 0 0)))) ∧
  (∀ (op : Nat) (c : Instr) (run : State → Tk → List Byte → List Byte → State) (s t u : State) (tk : Tk) (payload bitmap : List Byte),
    (op, c, run) ∈ searchOps → takeHead s 5 = some (tk, t) → (hOp tk.raw = op ∨ (op = 1 ∧ (hOp tk.raw = 0 ∨ 7 < hOp tk.raw))) →
    tk.fabric = false → hTarget tk.raw ≠ 0 → hTarget tk.raw ≠ myNode t → namesBook tk.raw = false →
    (searchAreas t tk.raw ≠ 0 → exec c s = .next (refuseArea t tk (searchAreas t tk.raw))) ∧
    (searchAreas t tk.raw = 0 → searchPoisoned t tk = true → exec c s = .next (complete t tk St.poisoned 0 0)) ∧
    (searchAreas t tk.raw = 0 → searchPoisoned t tk = false → searchParts t tk = (u, payload, bitmap) →
      exec c s = .next (forwardTicket u tk (hTarget tk.raw) (payload ++ bitmap)))) ∧
  (∀ (op : Nat) (c : Instr) (run : State → Tk → List Byte → List Byte → State) (s : State), (op, c, run) ∈ searchOps →
    (∀ tk t, takeHead s 5 = some (tk, t) → hOp tk.raw ≠ op ∧ (op = 1 → 1 ≤ hOp tk.raw ∧ hOp tk.raw ≤ 7)) → exec c s = .next s)

/-! ## Window commands and writes with rows of their own -/

/-- Parts of R239, R240, R254: FIND, INSERT and REMOVE of the directory window are answered as the window finds; FIND leaves every entry, and what is refused
leaves the state, as it was. R323, R330: REGISTER with passing tests makes the selected region of the transport valid with the entry's fields and
the key's generation, and is else refused with the first reason; DEREGISTER ends a valid region, advances the generation
and starts the quarantine, and leaves one that is not valid as it is. -/
def Obligations.WindowOperationsAreDone : Prop :=
  (∀ (w : WReq) (s t : State) (r : Res), Allowed s w 0x4400 7 →
    (windowFind s = (t, r) → exec (.dirWindowFind w) s = .next (endTo t w 0x4400 7 0 [1] r)) ∧
    (windowInsert s = (t, r) → exec (.dirWindowInsert w) s = .next (endTo t w 0x4400 7 0 [2] r)) ∧
    (windowRemove s = (t, r) → exec (.dirWindowRemove w) s = .next (endTo t w 0x4400 7 0 [3] r))) ∧
  (∀ (s t : State) (r : Res), windowFind s = (t, r) → t.dirs = s.dirs ∧ t.mem = s.mem ∧ t.kv = s.kv ∧ (r = .done ∨ r = .refused 0x01 0x4400 7)) ∧
  (∀ (s t : State) (r : Res), windowInsert s = (t, r) → r = .done ∨ (t = s ∧ ∃ c, r = .refused c 0x4400 7)) ∧
  (∀ (s t : State) (r : Res), windowRemove s = (t, r) → r = .done ∨ (t = s ∧ r = .refused 0x01 0x4400 7)) ∧
  (∀ (w : WReq) (s : State) (r : Region), Allowed s w 0x6200 0x12 →
    r = regionFrom (rd s K.regionEntry) (regionAt s (rd s K.regionSelect)) →
    (firstFail (registerFails s (rd s K.regionSelect) r (regionAt s (rd s K.regionSelect))) = none →
      exec (.register w) s = .next (doneTo (showRegion (putRegion s (rd s K.regionSelect) r)) w 0x6200 0x12 0 [1]) ∧ r.valid = true ∧
        r.gen = (regionAt s (rd s K.regionSelect)).gen) ∧
    (∀ c k, firstFail (registerFails s (rd s K.regionSelect) r (regionAt s (rd s K.regionSelect))) = some (c, k) →
      exec (.register w) s = .next (endTo s w 0x6200 0x12 0 [1] (.refused c (k / 256) (k % 256))))) ∧
  (∀ (w : WReq) (s : State), Allowed s w 0x6200 0x12 →
    exec (.deregister w) s = .next (doneTo (deregRegion s (rd s K.regionSelect)) w 0x6200 0x12 0 [2])) ∧
  (∀ (i : Nat) (s : State) (r : Region), regionAt s i = r →
    (r.valid = true → regionAt (deregRegion s i) i = { r with valid := false, gen := (r.gen + 1) % 64, deregAt := some s.tm.ec }) ∧
    (r.valid = false → deregRegion s i = s))

/-- Parts of R387, R388, R410, R415: RESET, RUN and ABORT of the selected check-value context. Where it is locked each is refused with 0x09; where it runs RESET and RUN are
refused with 0x05, and a RUN whose range does not lie in an active extent with 0x01. RESET takes the running value to its start, RUN starts it,
and ABORT stops one that runs at the lines it has fed and changes nothing else. The end of a RUN, which waits for the throttle and for its background grant,
gives the final value, or state 3 where it met a poisoned line. -/
def Obligations.CheckValueOperations : Prop :=
  (∀ (w : WReq) (fed : Nat) (s : State), Allowed s w 0x8000 0x12 → cvLocked s = true →
    exec (.cvReset w) s = .next (endTo s w 0x8000 0x12 0 [1] (.refused 0x09 0x8000 0x10)) ∧
    exec (.cvRun w) s = .next (endTo s w 0x8000 0x12 0 [2] (.refused 0x09 0x8000 0x10)) ∧
    exec (.cvAbort w fed) s = .next (endTo s w 0x8000 0x12 0 [3] (.refused 0x09 0x8000 0x10))) ∧
  (∀ (w : WReq) (s : State) (v : Nat), Allowed s w 0x8000 0x12 → cvLocked s = false → v = cvOf s (rd s K.cvSelect) → cvStateOf v = 1 →
    exec (.cvReset w) s = .next (endTo s w 0x8000 0x12 0 [1] (.refused 0x05 0x8000 0x11)) ∧
    exec (.cvRun w) s = .next (endTo s w 0x8000 0x12 0 [2] (.refused 0x05 0x8000 0x11))) ∧
  (∀ (w : WReq) (s : State) (v : Nat), Allowed s w 0x8000 0x12 → cvLocked s = false → v = cvOf s (rd s K.cvSelect) → cvStateOf v ≠ 1 →
    exec (.cvReset w) s = .next (doneTo (putCv s (rd s K.cvSelect) (cvWord (cvInit (cvPoly v)) (bits v 128 64) (cvBase v) (cvLength v) 0 (cvPoly v)))
      w 0x8000 0x12 0 [1]) ∧
    (cvRangeOk s v = true → exec (.cvRun w) s = .next (doneTo (putCv s (rd s K.cvSelect)
      (cvWord (cvRunning v) (bits v 128 64) (cvBase v) (cvLength v) 1 (cvPoly v))) w 0x8000 0x12 0 [2])) ∧
    (cvRangeOk s v = false → exec (.cvRun w) s = .next (endTo s w 0x8000 0x12 0 [2] (.refused 0x01 0x8000 0x11)))) ∧
  (∀ (w : WReq) (fed : Nat) (s : State), Allowed s w 0x8000 0x12 → cvLocked s = false → cvStateOf (cvOf s (rd s K.cvSelect)) ≠ 1 →
    exec (.cvAbort w fed) s = .next (doneTo s w 0x8000 0x12 0 [3])) ∧
  (∀ (w : WReq) (fed r : Nat) (s t : State) (v : Nat) (hit : Bool), Allowed s w 0x8000 0x12 → cvLocked s = false →
    v = cvOf s (rd s K.cvSelect) → cvStateOf v = 1 →
    cvLines (cvPoly v) (upFrom (cvBase v / 64) (min fed (cvLength v / 64))) s (cvRunning v) = (t, r, hit) →
    exec (.cvAbort w fed) s = .next (doneTo (putCv t (rd s K.cvSelect)
      (cvWord r (bits v 128 64) (cvBase v) (cvLength v) (if hit then 3 else 0) (cvPoly v))) w 0x8000 0x12 0 [3])) ∧
  (∀ (ctx r : Nat) (s t : State) (v : Nat) (hit : Bool), v = cvOf s ctx → cvStateOf v = 1 → deferred s = false →
    (hasBudget s (ctx / 64) 3 = true →
      cvLines (cvPoly v) (upFrom (cvBase v / 64) (cvLength v / 64)) s (cvRunning v) = (t, r, hit) →
      exec (.cvRunDone ctx) s = .next (putCv t ctx (cvWord r
        (if hit then bits v 128 64 else if cvPoly v = 0 then r ^^^ 0xFFFFFFFF else r) (cvBase v) (cvLength v) (if hit then 3 else 2) (cvPoly v)))) ∧
    (hasBudget s (ctx / 64) 3 = false → exec (.cvRunDone ctx) s = .next (askBudget s (ctx / 64) 3 8))) ∧
  (∀ (ctx : Nat) (s : State), cvStateOf (cvOf s ctx) ≠ 1 ∨ deferred s = true → exec (.cvRunDone ctx) s = .next s)

/-- Writes of a value that has a row: a schedule entry or the whole table (R72, R75, R484), a tree entry (R220, R221), a session key (R432), the owner key (R438), the
firmware buffer (R439), the lanes to restore (R312), the drain of a Vat region (R281) and the slices to activate (R441). Each is answered DONE
with its effect where its value is taken, and is else refused with the state as it was; a buffer that another transport or a verification holds
refuses with 0x04. In recovery any value of fw_activate_slices resets the node. -/
def Obligations.ValueWritesAreDone : Prop :=
  (∀ (slice sub : Nat) (w : WReq) (l : List Byte) (s t : State) (r : Res), slice < 4 → Allowed s w (0x1210 + slice) sub →
    (1 ≤ sub → sub ≤ 64 → l.length = 8 → setEntries s slice [(sub, ofBytes l)] = (t, r) →
      exec (.scheduleTableWrite slice sub w l) s = .next (endTo t w (0x1210 + slice) sub 0 l r)) ∧
    (sub = 0 → l.length = 512 →
      setEntries s slice ((upFrom 1 64).map (fun k => (k, ofBytes ((l.drop (8 * (k - 1))).take 8)))) = (t, r) →
      exec (.scheduleTableWrite slice sub w l) s = .next (endTo t w (0x1210 + slice) sub 0 l r)) ∧
    (sub = 0 → l.length ≠ 512 → exec (.scheduleTableWrite slice sub w l) s = .next (endTo s w (0x1210 + slice) sub 0 l .length))) ∧
  (∀ (slice : Nat) (l : List (Nat × Nat)) (s t : State) (r : Res), setEntries s slice l = (t, r) →
    r = .done ∨ (t = s ∧ ∃ c i x, r = .refused c i x)) ∧
  (∀ (w : WReq) (l : List Byte) (s : State) (e : Nat), Allowed s w 0x4300 0x11 → l.length = 208 → e = ofBytes l →
    (teValid e = false → exec (.treeEntryWrite w l) s = .next (doneTo { s with trees := terase s.trees (rd s K.treeSelect) } w 0x4300 0x11 0 l)) ∧
    (teValid e = true → treeRangeBad s e = true → exec (.treeEntryWrite w l) s = .next (endTo s w 0x4300 0x11 0 l (.refused 0x01 0x4300 0x11))) ∧
    (teValid e = true → treeRangeBad s e = false → mapEpochOk s (teEpoch e) = false →
      exec (.treeEntryWrite w l) s = .next (endTo s w 0x4300 0x11 0 l (.refused 0x0A 0x4300 0x11))) ∧
    (teValid e = true → treeRangeBad s e = false → mapEpochOk s (teEpoch e) = true →
      ((tget? s.trees (rd s K.treeSelect)).isSome = true ∨ s.trees.length < 4096 → exec (.treeEntryWrite w l) s
        = .next (doneTo { s with trees := tset s.trees (rd s K.treeSelect) (treeOf e) } w 0x4300 0x11 0 l)) ∧
      (tget? s.trees (rd s K.treeSelect) = none → 4096 ≤ s.trees.length →
        exec (.treeEntryWrite w l) s = .next (endTo s w 0x4300 0x11 0 l (.refused 0x04 0x4300 0x11))))) ∧
  (∀ (entry : Nat) (w : WReq) (l : List Byte) (s : State), entry < 8 → Allowed s w 0xA000 (0x18 + entry) → l.length = 40 →
    (2 < skRights (ofBytes l) ∨ bits (ofBytes l) 264 56 ≠ 0 →
      exec (.sessionKeyWrite entry w l) s = .next (endTo s w 0xA000 (0x18 + entry) 0 l (.refused 0x01 0xA000 (0x18 + entry)))) ∧
    (skRights (ofBytes l) ≤ 2 → bits (ofBytes l) 264 56 = 0 →
      (on s K.mgmtSessionEnable = false ∨ runningFails enMgmtSession (wr s (K.sessionKey entry) (ofBytes l)) = none →
        exec (.sessionKeyWrite entry w l) s = .next (doneTo (closeSessions (wr s (K.sessionKey entry) (ofBytes l)) (fun _ x => x.entry == entry))
          w 0xA000 (0x18 + entry) 0 l)) ∧
      (∀ c k, on s K.mgmtSessionEnable = true → runningFails enMgmtSession (wr s (K.sessionKey entry) (ofBytes l)) = some (c, k) →
        exec (.sessionKeyWrite entry w l) s = .next (endTo s w 0xA000 (0x18 + entry) 0 l (.refused c (k / 256) (k % 256)))))) ∧
  (∀ (w : WReq) (l : List Byte) (s : State), Allowed s w 0xA000 0x10 → l.length = 32 →
    (w.via = .pf → rd s K.ownerKeyState = 0 →
      exec (.ownerKeyWrite w l) s = .next (doneTo (wr (wr s K.ownerKey (ofBytes l)) K.ownerKeyState 1) w 0xA000 0x10 0 l)) ∧
    (w.via ≠ .pf ∨ rd s K.ownerKeyState ≠ 0 →
      exec (.ownerKeyWrite w l) s = .next (endTo s w 0xA000 0x10 0 l (.refused 0x09 0xA000 0x10)))) ∧
  (∀ (w : WReq) (off : Nat) (l : List Byte) (s : State), Allowed s w 0xA100 4 → l ≠ [] → l.length ≤ 1024 → off + l.length ≤ 67108864 →
    (bufTaken s = false ∨ (s.sec.owner = viaTransport w.via ∧ rd s K.fwState = 1) →
      exec (.fwBufferWrite w off l) s
        = .next (doneTo (showStaged (fillBuf (if off = 0 then openBuf s (viaTransport w.via) else s) off l)) w 0xA100 4 off l)) ∧
    (bufTaken s = true → s.sec.owner ≠ viaTransport w.via ∨ rd s K.fwState ≠ 1 →
      exec (.fwBufferWrite w off l) s = .next (endTo s w 0xA100 4 off l (.refused 0x04 0xA100 1)))) ∧
  (∀ (link : Nat) (w : WReq) (v : Byte) (s : State), link < 36 → Allowed s w (0x6100 + link) 7 →
    exec (.laneRestore link w v) s
      = .next (doneTo (putLink s link { linkSt s link with restores := (linkSt s link).restores ||| v.toNat }) w (0x6100 + link) 7 0 [v])) ∧
  (∀ (region : Nat) (w : WReq) (v : Byte) (s : State), region < 16 → Allowed s w (0x5010 + region) 8 →
    (v = 1 → exec (.vatRegionDrain region w v) s = .next (doneTo (drainRegion s region) w (0x5010 + region) 8 0 [v])) ∧
    (v = 0 → exec (.vatRegionDrain region w v) s = .next (doneTo s w (0x5010 + region) 8 0 [v])) ∧
    (1 < v.toNat → exec (.vatRegionDrain region w v) s = .next (endTo s w (0x5010 + region) 8 0 [v] (.refused 0x01 (0x5010 + region) 8)))) ∧
  (∀ (w : WReq) (v : Byte) (s : State), Allowed s w 0xA100 7 →
    (inRecovery s = true → exec (.fwActivateSlices w v) s = .next (doneTo (boot (resetState s) false) w 0xA100 7 0 [v])) ∧
    (inRecovery s = false → v.toNat < 16 → (∀ sl < 4, bitB v.toNat sl = true → rd s (K.sliceState sl) = 3) →
      exec (.fwActivateSlices w v) s
        = .next (doneTo (activate s ((upFrom 0 4).filter (fun sl => bitB v.toNat sl))) w 0xA100 7 0 [v])) ∧
    (inRecovery s = false → 16 ≤ v.toNat ∨ (∃ sl < 4, bitB v.toNat sl = true ∧ rd s (K.sliceState sl) ≠ 3) →
      ∃ c i x, exec (.fwActivateSlices w v) s = .next (endTo s w 0xA100 7 0 [v] (.refused c i x)) ∧ (c = 0x01 ∨ c = 0x05)))

/-- Writes to a trigger with a row: attest_request (R436), fw_apply (R439), fw_abort (R439), svn_commit (R442), log_clear (R403). A write of 1 has its
effect and is answered DONE; fw_apply is refused with 0x04 while an image is verified or written, fw_abort leaves a buffer that neither receives nor was
rejected as it is, svn_commit is refused with 0x09 in recovery, and raises its event only where a floor changes. A write of 0 changes
nothing, and any other value is refused with 0x01. -/
def Obligations.TriggersAreDone : Prop :=
  (∀ (w : WReq) (s : State), Allowed s w 0xA000 0x31 →
    exec (.attestRequest w 1) s = .next (doneTo (wr s K.attestState 1) w 0xA000 0x31 0 [1])) ∧
  (∀ (w : WReq) (s : State), Allowed s w 0xA100 5 →
    (rd s K.fwState ≠ 2 → rd s K.fwState ≠ 3 → exec (.fwApply w 1) s = .next (doneTo (wr s K.fwState 2) w 0xA100 5 0 [1])) ∧
    (rd s K.fwState = 2 ∨ rd s K.fwState = 3 → exec (.fwApply w 1) s = .next (endTo s w 0xA100 5 0 [1] (.refused 0x04 0xA100 1)))) ∧
  (∀ (w : WReq) (s : State), Allowed s w 0xA100 6 →
    (rd s K.fwState = 1 ∨ rd s K.fwState = 5 → exec (.fwAbort w 1) s = .next (doneTo (wr (dropBuf s) K.fwState 0) w 0xA100 6 0 [1])) ∧
    (rd s K.fwState ≠ 1 → rd s K.fwState ≠ 5 → exec (.fwAbort w 1) s = .next (doneTo s w 0xA100 6 0 [1]))) ∧
  (∀ (w : WReq) (s : State), Allowed s w 0xA100 0x0C →
    (inRecovery s = true → exec (.svnCommit w 1) s = .next (endTo s w 0xA100 0x0C 0 [1] (.refused 0x09 0xA100 0x0C))) ∧
    (inRecovery s = false → newFloors s ≠ rd s K.svnFloor → exec (.svnCommit w 1) s
      = .next (doneTo (event (wr s K.svnFloor (newFloors s)) 0xA0 7 nodeSlice 1 (newFloors s)) w 0xA100 0x0C 0 [1])) ∧
    (inRecovery s = false → newFloors s = rd s K.svnFloor → exec (.svnCommit w 1) s = .next (doneTo s w 0xA100 0x0C 0 [1]))) ∧
  (∀ (w : WReq) (s : State), Allowed s w 0x8200 5 →
    ∃ t, exec (.logClear w 1) s = .next (doneTo t w 0x8200 5 0 [1]) ∧ t.log = [] ∧ rd t K.logHead = 0 ∧
      (∀ k, k ≠ K.logHead → rd t k = rd s k) ∧ t = { s with dict := t.dict, log := t.log }) ∧
  (∀ (w : WReq) (v : Byte) (s : State),
    (v = 0 →
      (Allowed s w 0xA000 0x31 → exec (.attestRequest w v) s = .next (doneTo s w 0xA000 0x31 0 [v])) ∧
      (Allowed s w 0xA100 5 → exec (.fwApply w v) s = .next (doneTo s w 0xA100 5 0 [v])) ∧
      (Allowed s w 0xA100 6 → exec (.fwAbort w v) s = .next (doneTo s w 0xA100 6 0 [v])) ∧
      (Allowed s w 0xA100 0x0C → exec (.svnCommit w v) s = .next (doneTo s w 0xA100 0x0C 0 [v])) ∧
      (Allowed s w 0x8200 5 → exec (.logClear w v) s = .next (doneTo s w 0x8200 5 0 [v]))) ∧
    (1 < v.toNat →
      (Allowed s w 0xA000 0x31 → exec (.attestRequest w v) s = .next (endTo s w 0xA000 0x31 0 [v] (.refused 0x01 0xA000 0x31))) ∧
      (Allowed s w 0xA100 5 → exec (.fwApply w v) s = .next (endTo s w 0xA100 5 0 [v] (.refused 0x01 0xA100 5))) ∧
      (Allowed s w 0xA100 6 → exec (.fwAbort w v) s = .next (endTo s w 0xA100 6 0 [v] (.refused 0x01 0xA100 6))) ∧
      (Allowed s w 0xA100 0x0C → exec (.svnCommit w v) s = .next (endTo s w 0xA100 0x0C 0 [v] (.refused 0x01 0xA100 0x0C))) ∧
      (Allowed s w 0x8200 5 → exec (.logClear w v) s = .next (endTo s w 0x8200 5 0 [v] (.refused 0x01 0x8200 5)))))

/-! ## Slices in service (R13, R389, R450 to R466) -/

/-- Parts of R461, R462: a slice operation that passes its tests runs: QUIESCE stops admission and evacuates, CANCEL drops the evacuation and returns to IN_SERVICE, RETRAIN
trains the enabled links of the slice, RETIRE retires it, READMIT takes it to STARTING. One that fails a test is refused with the reason of the first
failing one, and changes nothing but the answer and the refusal record. In RETIRED only READMIT passes. -/
def Obligations.SliceOperationsRun : Prop :=
  ∀ (slice : Nat) (w : WReq) (s : State), slice < 4 → Allowed s w (0x2000 + 0x100 * slice) 2 →
    (firstFail (opFails s slice 1) = none →
      exec (.quiesce slice w) s = .next (doneTo (evacuate (wr (setSlice s slice 2) (K.sliceOpState slice) 1) slice) w (0x2000 + 0x100 * slice) 2 0 [1])) ∧
    (firstFail (opFails s slice 2) = none →
      exec (.cancel slice w) s
        = .next (doneTo (wr (setSlice (dropEvacuation s slice) slice 1) (K.sliceOpState slice) 0) w (0x2000 + 0x100 * slice) 2 0 [2])) ∧
    (firstFail (opFails s slice 3) = none →
      exec (.retrain slice w) s = .next (doneTo (((linksOf slice).filter (fun l => on s (K.linkEnable l))).foldl train
        (wr s (K.sliceOpState slice) 3)) w (0x2000 + 0x100 * slice) 2 0 [3])) ∧
    (firstFail (opFails s slice 4) = none →
      exec (.retireSlice slice w) s
        = .next (doneTo (wr (setSlice s slice 4) (K.sliceOpState slice) 0) w (0x2000 + 0x100 * slice) 2 0 [4])) ∧
    (firstFail (opFails s slice 5) = none →
      exec (.readmit slice w) s = .next (doneTo (runOp s slice 5) w (0x2000 + 0x100 * slice) 2 0 [5]) ∧
        rd (runOp s slice 5) (K.sliceState slice) = 0 ∧ rd (runOp s slice 5) (K.sliceOpState slice) = 4) ∧
    (∀ r k,
      (firstFail (opFails s slice 1) = some (r, k) →
        exec (.quiesce slice w) s = .next (endTo s w (0x2000 + 0x100 * slice) 2 0 [1] (.refused r (k / 256) (k % 256)))) ∧
      (firstFail (opFails s slice 2) = some (r, k) →
        exec (.cancel slice w) s = .next (endTo s w (0x2000 + 0x100 * slice) 2 0 [2] (.refused r (k / 256) (k % 256)))) ∧
      (firstFail (opFails s slice 3) = some (r, k) →
        exec (.retrain slice w) s = .next (endTo s w (0x2000 + 0x100 * slice) 2 0 [3] (.refused r (k / 256) (k % 256)))) ∧
      (firstFail (opFails s slice 4) = some (r, k) →
        exec (.retireSlice slice w) s = .next (endTo s w (0x2000 + 0x100 * slice) 2 0 [4] (.refused r (k / 256) (k % 256)))) ∧
      (firstFail (opFails s slice 5) = some (r, k) →
        exec (.readmit slice w) s = .next (endTo s w (0x2000 + 0x100 * slice) 2 0 [5] (.refused r (k / 256) (k % 256))))) ∧
    (rd s (K.sliceState slice) = 4 → ∀ code, code = 1 ∨ code = 2 ∨ code = 3 ∨ code = 4 → firstFail (opFails s slice code) ≠ none)

/-- Parts of R9, R389, R451, R452, R463, R465, R466: the hardware's answer takes a slice from STARTING to IN_SERVICE, or to RETIRED where a stack or every engine failed; a
QUIESCING slice that is empty is QUIESCED; a retraining ends with its result; a READMIT puts the slice back, or retires it; the Lead folds a report into the
map, and a slice that comes into or leaves service is reported to the Lead; a slice whose watchdog expires faults, and is RETIRED.
Where the slice is in no such state, nothing happens. -/
def Obligations.SliceEventsMoveTheSlice : Prop :=
  (∀ (slice : Nat) (r : HwResult) (s t : State), slice < 4 → s.sec.held = false → rd s K.nodeStartState = 2 →
    rd s (K.sliceState slice) = 0 → t = selfTest s slice r →
    (r.scoringOk = true → r.carryingOk = true → noEngines t slice = false →
      exec (.sliceHardwareReady slice r) s = .next (leaveStart (setSlice t slice 1))) ∧
    (r.scoringOk = false ∨ r.carryingOk = false ∨ noEngines t slice = true →
      exec (.sliceHardwareReady slice r) s = .next (leaveStart (retireAtStart t slice r)))) ∧
  (∀ (slice : Nat) (r : HwResult) (s : State), 4 ≤ slice ∨ s.sec.held = true ∨ rd s K.nodeStartState ≠ 2 ∨ rd s (K.sliceState slice) ≠ 0 →
    exec (.sliceHardwareReady slice r) s = .next s) ∧
  (∀ (slice : Nat) (s : State), slice < 4 → rd s (K.sliceState slice) = 2 → sliceEmpty s slice = true →
    exec (.evacuationDone slice) s = .next (wr (setSlice s slice 3) (K.sliceOpState slice) 0) ∧
      rd (wr (setSlice s slice 3) (K.sliceOpState slice) 0) (K.sliceState slice) = 3) ∧
  (∀ (slice : Nat) (s : State), 4 ≤ slice ∨ rd s (K.sliceState slice) ≠ 2 ∨ sliceEmpty s slice = false →
    exec (.evacuationDone slice) s = .next s) ∧
  (∀ (slice : Nat) (s : State), slice < 4 → rd s (K.sliceOpState slice) = 3 → rd s (K.sliceState slice) = 3 →
    exec (.retrainDone slice true) s = .next (wr s (K.sliceOpState slice) 0) ∧
    exec (.retrainDone slice false) s = .next (wr (setSlice s slice 4) (K.sliceOpState slice) 5) ∧
    rd (wr (setSlice s slice 4) (K.sliceOpState slice) 5) (K.sliceState slice) = 4) ∧
  (∀ (slice : Nat) (ok : Bool) (s : State), 4 ≤ slice ∨ rd s (K.sliceOpState slice) ≠ 3 ∨ rd s (K.sliceState slice) ≠ 3 →
    exec (.retrainDone slice ok) s = .next s) ∧
  (∀ (slice : Nat) (r : HwResult) (s t u : State) (trains : Bool), slice < 4 → rd s (K.sliceOpState slice) = 4 → rd s (K.sliceState slice) = 0 →
    trains = has s.sec.fromRetired slice →
    t = selfTest { s with sec := { s.sec with fromRetired := without s.sec.fromRetired slice } } slice r →
    u = (if trains then markStacks t slice r else t) →
    (trains = false ∨ (r.scoringOk = true ∧ r.carryingOk = true) → noEngines u slice = false →
      exec (.readmitDone slice r) s = .next (afterMove (setSlice (wr (copyEntries
        (copyBooks (backSlice (clearPoison (clearSlice u slice) slice) slice) slice) slice) (K.sliceOpState slice) 0) slice 1))) ∧
    ((trains = true ∧ (r.scoringOk = false ∨ r.carryingOk = false)) ∨ noEngines u slice = true →
      exec (.readmitDone slice r) s = .next (wr (setSlice (startEvent u slice) slice 4) (K.sliceOpState slice) 5))) ∧
  (∀ (slice : Nat) (r : HwResult) (s : State), 4 ≤ slice ∨ rd s (K.sliceOpState slice) ≠ 4 ∨ rd s (K.sliceState slice) ≠ 0 →
    exec (.readmitDone slice r) s = .next s) ∧
  (∀ (src slice state : Nat) (s : State),
    (isLead s = false → exec (.sliceReport src slice state) s = .next (refuseMgmt s)) ∧
    (isLead s = true → exec (.sliceReport src slice state) s = .next (wantMap s (modEntry src (fun e =>
      { e with inService := e.inService - b2n (bitB e.inService slice) * 2 ^ slice + (if state == 1 then 2 ^ slice else 0) }))))) ∧
  (∀ (slice state : Nat) (s : State), (rd s (K.sliceState slice) = 1 ↔ state ≠ 1) → rd s K.membershipState ≠ 0 → myNode s ≠ 0xFFFF →
    setSlice s slice state = mgmt (wr s (K.sliceState slice) state) (leadNode s) (.sliceReport slice state)) ∧
  (∀ (slice : Nat) (answers : Bool) (s : State), exec (.sliceWatchdogTimeout slice answers) s = .next (sliceFault s slice 0 answers)) ∧
  (∀ (slice : Nat) (answers : Bool) (s : State), 4 ≤ slice ∨ rd s (K.sliceState slice) = 4 → sliceFault s slice 0 answers = s)

/-! ## The Lead, its deputy, and joining (R16 to R25, R456 to R459) -/

/-- Parts of R19 to R22: the deputy keeps the last copy of its Lead's state; with no announcement for lead_takeover_ns it asks every member of that
copy but itself, once in each such interval; a member answers with what it heard; the deputy counts the answers of those members and whether one has heard the Lead meanwhile, and takes over where at least half
of the members have answered and none has heard the Lead; not otherwise. A message from another node than these is counted as refused. -/
def Obligations.DeputyTakesOver : Prop :=
  (∀ (src : Nat) (img : LeadImage) (s : State), src = leadNode s → isLead s = false → on s K.deputyEnable = true →
    exec (.deputyState src img) s = .next { s with herd := { s.herd with image := some img } }) ∧
  (∀ (src : Nat) (img : LeadImage) (s : State), src ≠ leadNode s ∨ isLead s = true ∨ on s K.deputyEnable = false →
    exec (.deputyState src img) s = .next (refuseMgmt s)) ∧
  (∀ s : State, on s K.deputyEnable = true → has [2, 3, 5] (rd s K.membershipState) = true → s.tm.held = true → leadSilent s = true →
    s.herd.probing = false ∨ s.herd.probeAt + rd s K.leadTakeoverNs ≤ now s →
    ∃ t, exec .leadSilenceTimeout s = .next t ∧ t.herd.probing = true ∧ t.herd.probeReplies = [] ∧ t.herd.probeAt = now s ∧
      t.herd.leadHeard = false ∧ t.outbox = s.outbox ++ (copyMembers s).map
        (fun n => { dst := n, vl := 8, key := 0, off := 0, body := .probe s.tm.heardAt, fwd := none }) ∧
      t = { s with herd := t.herd, outbox := t.outbox }) ∧
  (∀ s : State, on s K.deputyEnable = false ∨ has [2, 3, 5] (rd s K.membershipState) = false ∨ s.tm.held = false ∨ leadSilent s = false ∨
    (s.herd.probing = true ∧ now s < s.herd.probeAt + rd s K.leadTakeoverNs) → exec .leadSilenceTimeout s = .next s) ∧
  (∀ (src heard : Nat) (s : State),
    ((∃ e ∈ members s.herd.map, e.node = src) → exec (.takeoverProbe src heard) s = .next (mgmt s src (.probeReply s.tm.heardAt))) ∧
    ((∀ e ∈ members s.herd.map, e.node ≠ src) → exec (.takeoverProbe src heard) s = .next (refuseMgmt s))) ∧
  (∀ (src heard : Nat) (s : State),
    (s.herd.probing = true → has (copyMembers s) src = true →
      exec (.probeReply src heard) s = .next { s with herd := { s.herd with
        probeReplies := addNew s.herd.probeReplies src,
        leadHeard := s.herd.leadHeard || decide (s.herd.probeAt < heard + rd s K.leadTakeoverNs) } }) ∧
    (s.herd.probing = false ∨ has (copyMembers s) src = false → exec (.probeReply src heard) s = .next (refuseMgmt s))) ∧
  (∀ (img : LeadImage) (s : State), s.herd.image = some img → mayTakeOver s = true → exec .leadTakeover s = .next (takeOver s img)) ∧
  (∀ s : State, s.herd.image = none ∨ mayTakeOver s = false → exec .leadTakeover s = .next s) ∧
  (∀ (img : LeadImage) (s : State), s.herd.image = some img → s.herd.leadHeard = true ∨ 2 * s.herd.probeReplies.length < (members img.map).length →
    mayTakeOver s = false)

/-- Parts of R456 to R459: the Lead numbers a member that may join, gives a spare an address, and refuses each case of R459 with its cause; a unit that it still holds
in its map as a member is lost first, and one accepted that the map does not show yet gets its reply again (the model's choice). A joining
node takes its number from the reply with its own unit_id, tells the Lead its span, and a spare is then in state 0x7; it leaves the Herd on a refusal, and asks again after
join_timeout_ms. A request to a node that is no Lead is counted as refused; any other reply, and an earlier timeout, changes nothing. -/
def Obligations.NodesJoin : Prop :=
  (∀ (r : JoinReq) (s : State), isLead s = true →
    (heldUnit s r.unitId = none → exec (.joinRequest r) s = .next (handleJoin s r)) ∧
    (∀ e c, heldUnit s r.unitId = some e → mapEntry? s.herd.map e.node = some c → c.role = 2 →
      exec (.joinRequest r) s = .next (handleJoin (loseNode s e.node) r)) ∧
    (∀ e c, heldUnit s r.unitId = some e → mapEntry? s.herd.map e.node = some c → c.role ≠ 2 →
      exec (.joinRequest r) s = .next (handleJoin s r)) ∧
    (∀ e, heldUnit s r.unitId = some e → mapEntry? s.herd.map e.node = none →
      (e.role = r.role → r.herdId = rd s K.herdId → exec (.joinRequest r) s
        = .next (sendReply s r.src { unitId := r.unitId, cause := 0, number := e.node })) ∧
      (e.role ≠ r.role ∨ r.herdId ≠ rd s K.herdId → exec (.joinRequest r) s = .next (handleJoin s r)))) ∧
  (∀ (r : JoinReq) (s : State),
    (joinCause s r = 0 → r.role = 2 → handleJoin s r = acceptMember s r) ∧
    (joinCause s r = 0 → r.role ≠ 2 → handleJoin s r = acceptSpare s r) ∧
    (joinCause s r ≠ 0 → handleJoin s r = sendReply s r.src { unitId := r.unitId, cause := joinCause s r, number := 0xFFFF })) ∧
  (∀ (r : JoinReq) (s : State),
    (r.herdId ≠ rd s K.herdId → joinCause s r = 1) ∧
    (r.herdId = rd s K.herdId →
      (r.role = 2 → (1023 ≤ (members (plannedMap s)).length → joinCause s r = 2) ∧ ((members (plannedMap s)).length < 1023 → joinCause s r = 0)) ∧
      (r.role = 3 → ((spareOf s r.spareGroup).isSome = true ∨ (∀ e ∈ members (plannedMap s), e.spareGroup ≠ r.spareGroup)) →
        joinCause s r = 3) ∧
      (r.role = 1 → joinCause s r = 4))) ∧
  (∀ (r : JoinReq) (s : State), isLead s = false → exec (.joinRequest r) s = .next (refuseMgmt s)) ∧
  (∀ (r : JoinRep) (s : State), r.unitId = rd s K.unitId → rd s K.membershipState = 1 → s.herd.joinSent = true →
    (r.cause = 0 → ∃ t, exec (.joinReply r) s = .next t ∧ rd t K.nodeNumber = r.number ∧
      rd t K.membershipState = (if rd s K.herdRole = 3 then 7 else 1) ∧ t.herd.joinSent = false ∧
      (∃ l, t.outbox = s.outbox ++ { dst := leadNode s, vl := 8, key := 0, off := 0, body := .span (rd s K.scheduleSpanNs), fwd := none } :: l) ∧
      t.kv = s.kv ∧ t.mem = s.mem) ∧
    (r.cause ≠ 0 → exec (.joinReply r) s
      = .next (wr (wr { s with herd := { s.herd with joinSent := false } } K.membershipState 0) K.joinRefusal r.cause))) ∧
  (∀ (r : JoinRep) (s : State), r.unitId ≠ rd s K.unitId ∨ rd s K.membershipState ≠ 1 ∨ s.herd.joinSent = false →
    exec (.joinReply r) s = .next s) ∧
  (∀ s : State,
    (rd s K.membershipState = 1 → s.herd.joinSent = true → passed s s.herd.joinAt (rd s K.joinTimeoutMs * 1000000) = true →
      exec .joinTimeout s = .next (sendJoin s)) ∧
    (rd s K.membershipState ≠ 1 ∨ s.herd.joinSent = false ∨ passed s s.herd.joinAt (rd s K.joinTimeoutMs * 1000000) = false →
      exec .joinTimeout s = .next s))

/-! ## The map and handoffs (R373 to R377, R398) -/

/-- Parts of R373, R376, R398: a map of another epoch is kept until that epoch begins, and one of a begun epoch that waits for it is installed, and is else without effect. An order makes
the node its source, or its destination once the copies have room, and a second copy of it changes nothing. A complete copy is reported ready, after the appends' hold where the home moves, which waits for phase 0 of the
next step and for the appends that are admitted; at the destination the Quires copied again take the place of the copies before. The Lead takes a
ready handoff into the next map, once all of a replacement's are ready; a reverted one is kept for the window's end. What does not come from the Lead, or
comes to a node that is not the Lead, is counted as refused. -/
def Obligations.HandoffsFollowTheLead : Prop :=
  (∀ (src : Nat) (m : MapMsg) (s : State), src = leadNode s → isLead s = false →
    (m.epoch ≠ rd s K.mapEpoch → exec (.mapUpdate src m) s = .next { s with herd := { s.herd with mapNext := some m } }) ∧
    (m.epoch = rd s K.mapEpoch → s.herd.mapWait = true → exec (.mapUpdate src m) s = .next (releaseHeld (installMap s m))) ∧
    (m.epoch = rd s K.mapEpoch → s.herd.mapWait = false → exec (.mapUpdate src m) s = .next s)) ∧
  (∀ (src : Nat) (m : MapMsg) (s : State), src ≠ leadNode s ∨ isLead s = true → exec (.mapUpdate src m) s = .next (refuseMgmt s)) ∧
  (∀ (src : Nat) (o : Handoff) (copies : List QuireImage) (s : State), src = leadNode s → findHandoff s o = none → o.src ≠ o.dst →
    (o.src = myNode s → exec (.handoffOrder src o copies) s
      = .next { s with comp := { s.comp with handoffs := s.comp.handoffs ++ [{ order := o, source := true, phase := 1, holdFrom := 0 }] } }) ∧
    (∀ t, o.src ≠ myNode s → o.dst = myNode s →
      placeImages (copies.filter (fun im => inOrder o im.tenant im.ream im.layer im.head im.num)) s = some t →
      exec (.handoffOrder src o copies) s
        = .next { t with comp := { t.comp with handoffs := t.comp.handoffs ++ [{ order := o, source := false, phase := 1, holdFrom := 0 }] } }) ∧
    (o.src ≠ myNode s → o.dst = myNode s →
      placeImages (copies.filter (fun im => inOrder o im.tenant im.ream im.layer im.head im.num)) s = none →
      exec (.handoffOrder src o copies) s = .next s) ∧
    (o.src ≠ myNode s → o.dst ≠ myNode s → exec (.handoffOrder src o copies) s = .next s)) ∧
  (∀ (src : Nat) (o : Handoff) (copies : List QuireImage) (s : State),
    (src ≠ leadNode s → exec (.handoffOrder src o copies) s = .next (refuseMgmt s)) ∧
    (src = leadNode s → (findHandoff s o).isSome = true ∨ o.src = o.dst → exec (.handoffOrder src o copies) s = .next s)) ∧
  (∀ (o : Handoff) (copies : List QuireImage) (s : State) (h : HandoffSt), findHandoff s o = some h → h.source = true →
    (h.phase = 1 → h.order.homeMoves = true →
      exec (.handoffCopyDone ⟨o, copies⟩) s = .next (putHandoff s { h with phase := 2, holdFrom := rd s K.currentStep + 1 })) ∧
    ((h.phase = 1 ∧ h.order.homeMoves = false) ∨
      (h.phase = 2 ∧ h.holdFrom ≤ rd s K.currentStep ∧ noPending s o.tenant o.ream = true) →
      exec (.handoffCopyDone ⟨o, copies⟩) s
        = .next (mgmt (putHandoff s { h with phase := 3 }) (leadNode s) (.handoffReady (currentOrder s h.order)))) ∧
    ((h.phase ≠ 1 ∧ h.phase ≠ 2) ∨ (h.phase = 2 ∧ (rd s K.currentStep < h.holdFrom ∨ noPending s o.tenant o.ream = false)) →
      exec (.handoffCopyDone ⟨o, copies⟩) s = .next s)) ∧
  (∀ (o : Handoff) (copies : List QuireImage) (s : State) (h : HandoffSt), findHandoff s o = some h → h.source = false →
    (h.phase < 4 → exec (.handoffCopyDone ⟨o, copies⟩) s
      = .next ((copies.filter (fun im => inOrder o im.tenant im.ream im.layer im.head im.num)).foldl takeCopy s)) ∧
    (4 ≤ h.phase → exec (.handoffCopyDone ⟨o, copies⟩) s = .next s)) ∧
  (∀ (o : Handoff) (copies : List QuireImage) (s : State), findHandoff s o = none → exec (.handoffCopyDone ⟨o, copies⟩) s = .next s) ∧
  (∀ (src : Nat) (o : Handoff) (s t : State), isLead s = true →
    t = { s with herd := { s.herd with
      readyWant := s.herd.readyWant.filter (fun x => !sameOrder x o) ++ [o],
      leaving := s.herd.leaving.map (fun l => { l with orders := l.orders.filter (fun x => !sameOrder x o) }) } } →
    ((∃ l ∈ t.herd.leaving, l.spare = o.dst ∧ l.orders ≠ []) → exec (.handoffReady src o) s = .next (settleLeaving t)) ∧
    ((∀ l ∈ t.herd.leaving, l.spare = o.dst → l.orders = []) → exec (.handoffReady src o) s = .next (tryMap (settleLeaving t)))) ∧
  (∀ (src : Nat) (o : Handoff) (s : State), isLead s = false → exec (.handoffReady src o) s = .next (refuseMgmt s)) ∧
  (∀ (src : Nat) (o : Handoff) (s : State), src = leadNode s →
    (∀ h, findHandoff s o = some h → h.source = true → h.phase = 4 →
      exec (.handoffRevert src o) s = .next (putHandoff s { h with phase := 5 })) ∧
    ((∀ h, findHandoff s o = some h → h.source = false ∨ h.phase ≠ 4) → exec (.handoffRevert src o) s = .next s)) ∧
  (∀ (src : Nat) (o : Handoff) (s : State), src ≠ leadNode s → exec (.handoffRevert src o) s = .next (refuseMgmt s))

/-! ## Health and the journal (R392 to R401) -/

/-- Parts of R392 to R397: a member reports its penalties and clears them once in each interval; the Lead lowers the score by each penalty's weight, or raises it by
health_recover, up to 1,000, where there is none, and then decides on the member; a missed interval costs its weight; a member silent for long enough, or that its neighbours report, is lost; a spare keeps the order to
stand in. The decision is taken at a report, and where the score falls below health_expel_below. What comes from another node is counted as refused. -/
def Obligations.HealthIsReportedAndScored : Prop :=
  (∀ s : State, on s K.healthEnable = true → isLead s = false → has [2, 3, 5] (rd s K.membershipState) = true →
    s.rel.reportAt + rd s K.healthReportNs ≤ now s →
    ∃ t, exec .healthReportDue s = .next t ∧ t.rel.penalties = [] ∧ t.rel.unmirrored = 0 ∧ t.rel.reportAt = now s ∧
      t.outbox = s.outbox ++ [{ dst := leadNode s, vl := 8, key := 0, off := 0, fwd := none,
                                body := .healthReport ((upFrom 0 7).map (fun i => tget s.rel.penalties i 0)) s.rel.unmirrored }] ∧
      t = { s with rel := t.rel, outbox := t.outbox }) ∧
  (∀ s : State, on s K.healthEnable = false ∨ isLead s = true ∨ has [2, 3, 5] (rd s K.membershipState) = false ∨
    now s < s.rel.reportAt + rd s K.healthReportNs → exec .healthReportDue s = .next s) ∧
  (∀ (src : Nat) (counts : List Nat) (u : Nat) (s t : State), isLead s = true → (∃ e ∈ members s.herd.map, e.node = src) →
    on s K.healthEnable = true →
    t = { s with rel := { s.rel with reports := tset s.rel.reports src (now s), silent := terase s.rel.silent src } } →
    ((∀ n ∈ counts, n = 0) → u = 0 → exec (.healthReport src counts u) s
      = .next (newScore t src (min 1000 (scoreOf s src - reportCost s counts u + rd s K.healthRecover)) true)) ∧
    ((∃ n ∈ counts, n ≠ 0) ∨ u ≠ 0 → exec (.healthReport src counts u) s
      = .next (newScore t src (scoreOf s src - reportCost s counts u) true))) ∧
  (∀ (src : Nat) (counts : List Nat) (u : Nat) (s : State),
    (isLead s = false ∨ (∀ e ∈ members s.herd.map, e.node ≠ src) → exec (.healthReport src counts u) s = .next (refuseMgmt s)) ∧
    (isLead s = true → (∃ e ∈ members s.herd.map, e.node = src) → on s K.healthEnable = false →
      exec (.healthReport src counts u) s = .next s)) ∧
  (∀ (node k : Nat) (s t : State), isLead s = true → on s K.healthEnable = true → (∃ e ∈ members s.herd.map, e.node = node) →
    k = tget s.rel.silent node 0 →
    (tget s.rel.reports node 0 + (k + 1) * rd s K.healthReportNs ≤ now s →
      t = { s with rel := { s.rel with silent := tset s.rel.silent node (k + 1) } } →
      exec (.healthReportMissed node) s = .next (newScore t node (scoreOf s node - weightOf s 8) false)) ∧
    (now s < tget s.rel.reports node 0 + (k + 1) * rd s K.healthReportNs → exec (.healthReportMissed node) s = .next s)) ∧
  (∀ (node : Nat) (s : State), isLead s = false ∨ on s K.healthEnable = false ∨ (∀ e ∈ members s.herd.map, e.node ≠ node) →
    exec (.healthReportMissed node) s = .next s) ∧
  (∀ (s : State) (n v : Nat) (report : Bool),
    (report = true ∨ (rd s K.healthExpelBelow ≤ scoreOf s n ∧ v < rd s K.healthExpelBelow) →
      newScore s n v report = decideNode (setScore s n v) n (decide (rd s K.healthExpelBelow ≤ scoreOf s n) && decide (v < rd s K.healthExpelBelow))) ∧
    (report = false → scoreOf s n < rd s K.healthExpelBelow ∨ rd s K.healthExpelBelow ≤ v → newScore s n v report = setScore s n v)) ∧
  (∀ (node : Nat) (neighbours : Bool) (s : State),
    (isLead s = true → on s K.healthEnable = true → (∃ e ∈ members (plannedMap s), e.node = node) →
      (neighbours = true ∨ rd s K.healthSilentReports ≤ tget s.rel.silent node 0) →
      exec (.nodeLost node neighbours) s = .next (loseNode s node)) ∧
    (isLead s = false ∨ on s K.healthEnable = false ∨ (∀ e ∈ members (plannedMap s), e.node ≠ node) ∨
      (neighbours = false ∧ tget s.rel.silent node 0 < rd s K.healthSilentReports) → exec (.nodeLost node neighbours) s = .next s)) ∧
  (∀ (src node : Nat) (s : State),
    (src = leadNode s → rd s K.membershipState = 7 →
      exec (.standInOrder src node) s = .next { s with rel := { s.rel with standFor := node } }) ∧
    (src ≠ leadNode s ∨ rd s K.membershipState ≠ 7 → exec (.standInOrder src node) s = .next (refuseMgmt s)))

/-- Parts of R399 to R401: the partner takes a mirror that fits its reserve, and answers whether it did; the home completes the commit that an answer of its partner acknowledges, and counts the
tokens of one that was not taken, or that waited journal_ack_ns, as unmirrored; the partner returns what it holds, and the home rebuilds its tails from it; lost ranges that the Lead
names are kept, but for the Sheets of a rebuilt tail, and are cleared on every node when the Lead is told. What comes from another node is counted as refused. -/
def Obligations.JournalAndLostRanges : Prop :=
  (∀ (src step : Nat) (toks l : List JournalTok) (s : State), (∃ e ∈ members s.herd.map, e.node = src) →
    l = keepTails ((if step == 0 then [] else tget s.rel.jstore src []).filter
      (fun t => !toks.any (fun u => tokGroup u == tokGroup t && u.position == t.position)) ++ toks) →
    (on s K.journalEnable = true → storeBytes (tset s.rel.jstore src l) ≤ journalBytes s →
      exec (.journalMirror src step toks) s
        = .next (mgmt { s with rel := { s.rel with jstore := tset s.rel.jstore src l } } src (.journalAck step true))) ∧
    (on s K.journalEnable = false ∨ journalBytes s < storeBytes (tset s.rel.jstore src l) →
      exec (.journalMirror src step toks) s = .next (mgmt s src (.journalAck step false)))) ∧
  (∀ (src step : Nat) (toks : List JournalTok) (s : State), (∀ e ∈ members s.herd.map, e.node ≠ src) →
    exec (.journalMirror src step toks) s = .next (refuseMgmt s)) ∧
  (∀ (src step : Nat) (taken : Bool) (s : State),
    (src ≠ rd s K.journalPartner → exec (.journalAck src step taken) s = .next (refuseMgmt s)) ∧
    (∀ m, src = rd s K.journalPartner → s.rel.jmirrors.find? (fun m => m.1 == step) = some m →
      exec (.journalAck src step taken) s = .next (releaseCommit (if taken then s else countUnmirrored s m.2.1) step)) ∧
    (src = rd s K.journalPartner → s.rel.jmirrors.find? (fun m => m.1 == step) = none → exec (.journalAck src step taken) s = .next s)) ∧
  (∀ (s : State) (m : Nat × Nat × Nat), s.rel.jmirrors.find? (fun m => passed s m.2.2 (rd s K.journalAckNs)) = some m →
    exec .journalAckTimeout s = .next (releaseCommit (event (countUnmirrored s m.2.1) 0x81 5 nodeSlice 2
      (packBits [(16, rd s K.journalPartner), (32, m.2.1)])) m.1)) ∧
  (∀ s : State, (∀ m ∈ s.rel.jmirrors, passed s m.2.2 (rd s K.journalAckNs) = false) → exec .journalAckTimeout s = .next s) ∧
  (∀ (src lost : Nat) (toks : List JournalTok) (s : State),
    (src = myNode s → exec (.journalFetch src lost toks) s = .next (rebuildAll s toks)) ∧
    (src ≠ myNode s → (∃ e ∈ s.herd.map, e.node = src) →
      exec (.journalFetch src lost toks) s = .next (mgmt s src (.journalTail lost (tget s.rel.jstore lost [])))) ∧
    (src ≠ myNode s → (∀ e ∈ s.herd.map, e.node ≠ src) → exec (.journalFetch src lost toks) s = .next (refuseMgmt s))) ∧
  (∀ (src : Nat) (l : List LostRange) (s : State),
    (src = leadNode s → (∀ r ∈ l, ∀ p ∈ s.kv.sheets, p.2.tenant ≠ r.tenant ∨ p.2.ream ≠ r.ream) →
      exec (.lostRanges src l) s = .next (l.foldl addLost s)) ∧
    (src ≠ leadNode s → exec (.lostRanges src l) s = .next (refuseMgmt s))) ∧
  (∀ (src tail : Nat) (r : LostRange) (rest : List Nat) (s : State), src = leadNode s →
    (s.kv.sheets.filter (fun p => p.2.tenant == r.tenant && p.2.ream == r.ream)).map (fun p => p.2.num) = tail :: rest →
    (∀ r', beforeTail r.tenant r.ream (maxNat (tail :: rest)) r = some r' → exec (.lostRanges src [r]) s = .next (addLost s r')) ∧
    (beforeTail r.tenant r.ream (maxNat (tail :: rest)) r = none → exec (.lostRanges src [r]) s = .next s)) ∧
  (∀ (src tenant ream : Nat) (s : State),
    (isLead s = true → exec (.lostRangeClear src tenant ream) s = .next (((s.herd.map.map MapEntry.node).filter (fun n => n != myNode s)).foldl
      (fun t n => mgmt t n (.lostRangeClear tenant ream)) (dropLost s tenant ream))) ∧
    (isLead s = false → src = leadNode s → exec (.lostRangeClear src tenant ream) s = .next (dropLost s tenant ream)) ∧
    (isLead s = false → src ≠ leadNode s → exec (.lostRangeClear src tenant ream) s = .next (refuseMgmt s)))

/-! ## Links and the transport (R310 to R335, R348) -/

/-- Parts of R312, R313, R316: a training link, or one reported down that may train, comes up at the smaller of both ends' offers where that is 1, 2, 4 or 8, with its buckets full; a training that
lasts 100 µs is reported down, with the event the first time or where the far end's signal was seen; a link reported down is trained again, unless it is held or has no good
lane. A lane at its flap limit is retired and the link trains again; below the limit a lane lost on a link that is up or held takes it out of service, and the link trains. LINK blocks are
sent at each training and every 1 ms; a received one whose type and CRC hold names the peer, and may hold the link, or end its hold; any other is discarded. The offer
is a power of two, and a LINK block spells its fields. -/
def Obligations.LinksTrainAndRetire : Prop :=
  (∀ (link farOffer w : Nat) (s : State), w = min (widthOffer s link) farOffer →
    (trains s link = true ∨ mayRetry s link = true → has [1, 2, 4, 8] w = true →
      exec (.linkTrained link farOffer) s = .next (checkHold (goUp (fillBuckets s link) link w) link)) ∧
    ((trains s link = false ∧ mayRetry s link = false) ∨ has [1, 2, 4, 8] w = false → exec (.linkTrained link farOffer) s = .next s)) ∧
  (∀ (s : State) (link : Nat), has [0, 1, 2, 4, 8] (widthOffer s link) = true) ∧
  (∀ (link : Nat) (signal : Bool) (s t : State), trains s link = true → passed s (linkSt s link).trainAt 100000 = true →
    t = putLink (wr s (K.linkState link) 3) link { linkSt s link with width := 0 } →
    ((linkSt s link).said = false ∨ (linkSt s link).width ≠ 0 ∨ signal = true → exec (.linkTrainingTimeout link signal) s = .next (sayDown t link 2)) ∧
    ((linkSt s link).said = true → (linkSt s link).width = 0 → signal = false → exec (.linkTrainingTimeout link signal) s = .next t)) ∧
  (∀ (link : Nat) (signal : Bool) (s : State), trains s link = false ∨ passed s (linkSt s link).trainAt 100000 = false →
    exec (.linkTrainingTimeout link signal) s = .next s) ∧
  (∀ (link : Nat) (s : State), (mayRetry s link = true → exec (.linkRetrainAttempt link) s = .next (train s link)) ∧
    (mayRetry s link = false → exec (.linkRetrainAttempt link) s = .next s)) ∧
  (∀ (link : Nat) (s : State), mayRetry s link = true ↔ link < 36 ∧ on s (K.linkEnable link) = true ∧ rd s (K.linkState link) = 3 ∧
    (linkSt s link).held = false ∧ goodCount s link ≠ 0) ∧
  (∀ (link lane : Nat) (far up : Bool) (s t : State), link < 36 → lane < 8 → on s (K.linkEnable link) = true → bitB (goodLanes s link) lane = true →
    up = (rd s (K.linkState link) == 2 || (linkSt s link).held) → up = true ∨ (rd s (K.linkState link) = 1 ∧ far = true) →
    t = putLink s link { linkSt s link with
      flaps := (linkSt s link).flaps.filter (fun f => decide (minuteNow s < f.2 + 60)) ++ [(lane, minuteNow s)] } →
    (rd t K.laneFlapLimit ≤ flapCount t link lane → exec (.laneFlap link lane far) s = .next (retireLane t link lane)) ∧
    (flapCount t link lane < rd t K.laneFlapLimit → exec (.laneFlap link lane far) s = .next (if up then train t link else t))) ∧
  (∀ (link lane : Nat) (far : Bool) (s : State), 36 ≤ link ∨ 8 ≤ lane ∨ on s (K.linkEnable link) = false ∨ bitB (goodLanes s link) lane = false ∨
    (rd s (K.linkState link) ≠ 2 ∧ (linkSt s link).held = false ∧ (rd s (K.linkState link) ≠ 1 ∨ far = false)) →
    exec (.laneFlap link lane far) s = .next s) ∧
  (∀ (link : Nat) (s t : State), link < 36 →
    t = putLink (emit s (.control link (linkBlockWord (linkBlockOf s link)))) link { linkSt s link with blockAt := some s.tm.ec } →
    ((rd s (K.linkState link) = 2 ∨ (linkSt s link).held = true) →
      ((linkSt s link).blockAt = none ∨ ∃ e, (linkSt s link).blockAt = some e ∧ passed s e 1000000 = true) →
      exec (.linkBlockSend link) s = .next (checkHold t link)) ∧
    (trains s link = true → (linkSt s link).held = false → (linkSt s link).blockAt = none → exec (.linkBlockSend link) s = .next t)) ∧
  (∀ (link : Nat) (s : State), 36 ≤ link ∨ (trains s link = false ∧ rd s (K.linkState link) ≠ 2 ∧ (linkSt s link).held = false) ∨
    (∃ e, (linkSt s link).blockAt = some e ∧ passed s e 1000000 = false) → exec (.linkBlockSend link) s = .next s) ∧
  (∀ (link block : Nat) (b : LinkBlock) (up : Bool) (s t : State), blockOk 0x02 block = true → b = linkBlockFrom block → link < 36 →
    up = (rd s (K.linkState link) == 2 || (linkSt s link).held) → trains s link = true ∨ up = true →
    t = putLink (wr (wr s (K.peerNode link) b.node) (K.peerLink link) b.link) link { linkSt s link with peerHerd := b.herdId } →
    exec (.linkBlock link block) s = .next (if up then checkHold t link else t)) ∧
  (∀ (link block : Nat) (s : State), blockOk 0x02 block = false ∨ 36 ≤ link ∨
    (trains s link = false ∧ rd s (K.linkState link) ≠ 2 ∧ (linkSt s link).held = false) → exec (.linkBlock link block) s = .next s) ∧
  (∀ b : LinkBlock, b.node < 2 ^ 16 → b.link < 2 ^ 8 → b.herdId < 2 ^ 32 → b.goodLanes < 2 ^ 8 → b.widthOffer < 2 ^ 4 →
    linkBlockFrom (linkBlockWord b) = b)

/-- Parts of R317, R318, R321, R322, R346: a packet on a link that is up is taken, after its FEC counts, unless a flit fails its check, its flits or its header
are malformed, or it finds too few tokens: each of these is counted and the packet discarded; where a flit fails, the flits before it may have been
forwarded already. A packet that is taken is a broadcast, passed on to another node, or received here, where its virtual lane is on. A link that is not
up takes none. -/
def Obligations.PacketsAreTakenOrDiscarded : Prop :=
  (∀ (link c u : Nat) (flits : List (List Byte)) (p : Packet) (s t : State), link < 36 → rd s (K.linkState link) = 2 →
    (∀ f ∈ flits, flitOk f = true) → p = packetFrom flits true → framed flits = true → badPacket p = false →
    (police (countFec s link c u) link p = (t, true) → exec (.packetReceive link flits c u) s = .next (handlePacket t link p)) ∧
    (police (countFec s link c u) link p = (t, false) → exec (.packetReceive link flits c u) s = .next t)) ∧
  (∀ (link c u : Nat) (flits : List (List Byte)) (s : State), link < 36 → rd s (K.linkState link) = 2 → (∀ f ∈ flits, flitOk f = true) →
    framed flits = false ∨ badPacket (packetFrom flits true) = true →
    exec (.packetReceive link flits c u) s = .next (bump (countFec s link c u) K.malformedPackets 1)) ∧
  (∀ (link c u k : Nat) (flits : List (List Byte)) (s t : State), link < 36 → rd s (K.linkState link) = 2 →
    flits.findIdx? (fun f => !flitOk f) = some k → t = bump (countFec s link c u) (K.flitsDiscarded link) 1 →
    exec (.packetReceive link flits c u) s = .next (cutThrough t link flits k) ∧
    (k = 0 ∨ (packetFrom (flits.take (k + 1)) false).dst = myNode t ∨ (packetFrom (flits.take (k + 1)) false).dst = 0xFFFF →
      cutThrough t link flits k = { t with free := t.free + 1 })) ∧
  (∀ (link c u : Nat) (flits : List (List Byte)) (s : State), 36 ≤ link ∨ rd s (K.linkState link) ≠ 2 →
    exec (.packetReceive link flits c u) s = .next s) ∧
  (∀ (link : Nat) (p : Packet) (s : State),
    (p.dst = 0xFFFF → handlePacket s link p = takeCast s link p.src p.msgId p.hopsLeft (.bytes 7 p.payload) (takeOwn p)) ∧
    (p.dst ≠ 0xFFFF → p.dst ≠ myNode s → handlePacket s link p = passOn s link p) ∧
    (p.dst ≠ 0xFFFF → p.dst = myNode s → laneOn s p.vl = false → handlePacket s link p = s) ∧
    (p.dst ≠ 0xFFFF → p.dst = myNode s → laneOn s p.vl = true → p.kind = 8 ∨ p.kind = 9 → handlePacket s link p = recvEntries s p) ∧
    (p.dst ≠ 0xFFFF → p.dst = myNode s → laneOn s p.vl = true → p.kind ≠ 8 → p.kind ≠ 9 →
      handlePacket s link p = serveFabric (recvPkt s p) s.out.length))

/-- Parts of R332, R333, R335, R348: a link chooses its next packet after the messages waiting have been cut; ACK and NAK entries reach the message
they name, on a lane that is on; what was not acknowledged is sent again after rto_ns, or after rnr_delay_ns where it was refused for want of room, and given up after retry_limit; a receiver acknowledges after
ack_delay_ns, with one entry for each run of 32 packets that has packets not acknowledged, and drops a message left incomplete for reassembly_timeout_ns; a rate falls by its shift after an echo and rises by its step without one, once in each
interval. None of these acts before its time, or on a message that is gone. -/
def Obligations.TransportTimersAct : Prop :=
  (∀ (link : Nat) (s : State), (link < 36 → exec (.egressSelect link) s = .next (selectOn (feed s) link)) ∧
    (36 ≤ link → exec (.egressSelect link) s = .next s)) ∧
  (∀ (src vl msgId status : Nat) (e : AckEntry) (s : State),
    (laneOn s vl = true → exec (.ack src vl e) s = .next (takeAck s src vl e) ∧ exec (.nak src vl msgId status) s = .next (takeNak s src vl msgId status)) ∧
    (laneOn s vl = false → exec (.ack src vl e) s = .next s ∧ exec (.nak src vl msgId status) s = .next s)) ∧
  (∀ (dst vl id packet : Nat) (s : State) (m : SMsg) (k : SPkt), findMsg s dst vl id = some m →
    k = nth m.pkts packet ⟨none, 0, true, false, false⟩ →
    (∀ e, k.sentAt = some e → k.acked = false → k.waits = false → m.nakAt = none → passed s e (rd s K.rtoNs) = true →
      (k.tries < rd s K.retryLimit → exec (.retransmitTimeout dst vl id packet) s = .next (bump (putMsg s { m with
        pkts := setNth m.pkts packet { k with sentAt := none, tries := k.tries + 1, waits := true } }) K.packetsRetransmitted 1)) ∧
      (rd s K.retryLimit ≤ k.tries → exec (.retransmitTimeout dst vl id packet) s = .next (unreachable s m))) ∧
    (k.sentAt = none ∨ k.acked = true ∨ k.waits = true ∨ m.nakAt ≠ none ∨ (∃ e, k.sentAt = some e ∧ passed s e (rd s K.rtoNs) = false) →
      exec (.retransmitTimeout dst vl id packet) s = .next s)) ∧
  (∀ (dst vl id : Nat) (s : State) (m : SMsg), findMsg s dst vl id = some m →
    (∀ e, m.nakAt = some e → passed s e (rd s K.rnrDelayNs) = true →
      ((∀ k ∈ m.pkts, k.tries < rd s K.retryLimit) → exec (.rnrDelayExpire dst vl id) s = .next (bump (putMsg s { m with
        nakAt := none,
        pkts := m.pkts.map (fun k => { k with tries := k.tries + 1, waits := true, free := true, acked := false }) })
        K.packetsRetransmitted m.pkts.length)) ∧
      ((∃ k ∈ m.pkts, rd s K.retryLimit ≤ k.tries) → exec (.rnrDelayExpire dst vl id) s = .next (unreachable s m))) ∧
    ((∀ e, m.nakAt = some e → passed s e (rd s K.rnrDelayNs) = false) → exec (.rnrDelayExpire dst vl id) s = .next s)) ∧
  (∀ (dst vl id packet : Nat) (s : State), findMsg s dst vl id = none →
    exec (.retransmitTimeout dst vl id packet) s = .next s ∧ exec (.rnrDelayExpire dst vl id) s = .next s) ∧
  (∀ (src vl id : Nat) (s : State) (c : RCtx), findRctx s src vl id = some c →
    (c.unacked ≠ [] → passed s c.ackFrom (rd s K.ackDelayNs) = true →
      exec (.ackDelayExpire src vl id) s = .next (putRctx (((c.unacked.map (fun i => i / 32)).eraseDups).foldl (fun t b =>
        sendEntry t src vl 8 (ackWord {
          msgId := id, complete := false, ceEcho := c.ce, base := b,
          bitmap := sumNat ((c.map.filter (fun i => i / 32 == b)).map (fun i => 2 ^ (i % 32))) })) s) { c with unacked := [], ce := false })) ∧
    (c.unacked = [] ∨ passed s c.ackFrom (rd s K.ackDelayNs) = false → exec (.ackDelayExpire src vl id) s = .next s) ∧
    (passed s c.openedAt (rd s K.reassemblyTimeoutNs) = true → exec (.reassemblyTimeout src vl id) s = .next (timeoutRctx s c)) ∧
    (passed s c.openedAt (rd s K.reassemblyTimeoutNs) = false → exec (.reassemblyTimeout src vl id) s = .next s)) ∧
  (∀ (src vl id : Nat) (s : State), findRctx s src vl id = none →
    exec (.ackDelayExpire src vl id) s = .next s ∧ exec (.reassemblyTimeout src vl id) s = .next s) ∧
  (∀ (dst : Nat) (s : State), passed s (rateOf s dst).adjustedAt (rd s K.ccIntervalNs) = true →
    ((rateOf s dst).echo = true → exec (.ccInterval dst) s = .next (putRate s dst { rateOf s dst with
      rate := max (rd s K.ccMinMbs) (rateNow s (rateOf s dst) - rateNow s (rateOf s dst) / 2 ^ rd s K.ccDecreaseShift),
      echo := false, adjustedAt := s.tm.ec })) ∧
    ((rateOf s dst).echo = false → exec (.ccInterval dst) s = .next (putRate s dst { rateOf s dst with
      rate := min (rd s K.ccMaxMbs) (rateNow s (rateOf s dst) + rd s K.ccIncreaseMbs), echo := false, adjustedAt := s.tm.ec }))) ∧
  (∀ (dst : Nat) (s : State), passed s (rateOf s dst).adjustedAt (rd s K.ccIntervalNs) = false → exec (.ccInterval dst) s = .next s)

/-! ## The host port (R283 to R307) -/

/-- Parts of R283, R287, R300, R302, R304: an unlocked decoder takes its window, and a locked one keeps it. A completion write that failed is issued again, its following lines before its first, three times in all, and then
counted. The CXL link comes up, where it is down and the width is 4, 8 or 16, in the highest mode of both ends. A link loss takes the mode and the width to 0 and is met by every Vat
access that runs; a conventional reset does the same, drops the completion writes of every area, clears the decoders, the DOE sessions, the IDE state and the VF count; a function-level reset of a VF drops the completion writes of
its areas and what its mailbox waits for. Each of the three is counted and raises an event. Memory and the cache stay as they were at a reset of a link that is down. -/
def Obligations.HostPortEvents : Prop :=
  (∀ (decoder hpa size dpa : Nat) (lock commit : Bool) (s : State),
    (decoder < 4 → (∀ h, tget? s.host.hdm decoder = some h → h.lock = false) →
      exec (.hdmDecoderProgram decoder hpa size dpa lock commit) s = .next { s with host := { s.host with
        hdm := tset s.host.hdm decoder { hpa := hpa, size := size, dpa := dpa, lock := lock, commit := commit } } }) ∧
    (4 ≤ decoder ∨ (∃ h, tget? s.host.hdm decoder = some h ∧ h.lock = true) →
      exec (.hdmDecoderProgram decoder hpa size dpa lock commit) s = .next s)) ∧
  (∀ (id : Nat) (s : State) (w : CWrite), tget? s.host.writes id = some w →
    (w.attempts < 3 → linkUp s = true → ∃ t, t = writeCompletion s w.addr w.record w.gaps ∧ exec (.completionWriteError id) s
      = .next { t with host := { t.host with writes := tset t.host.writes id { w with attempts := w.attempts + 1 } } }) ∧
    (3 ≤ w.attempts ∨ linkUp s = false → exec (.completionWriteError id) s
      = .next (bump { s with host := { s.host with writes := terase s.host.writes id } } K.completionWriteErrors 1))) ∧
  (∀ (s : State) (addr record : Nat) (gaps : List Gap), ∃ l,
    writeCompletion s addr record gaps = { s with out := .completion addr record (gaps.take 1) (rd s K.completionPath == 1) :: l ++ s.out } ∧
    (gaps.length ≤ 1 → l = []) ∧
    ∀ o ∈ l, ∃ n b, o = .completionLine (addr + 64 * n) b (rd s K.completionPath == 1) ∧ 1 ≤ n) ∧
  (∀ (id : Nat) (s : State), tget? s.host.writes id = none → exec (.completionWriteError id) s = .next s) ∧
  (∀ (hostMode width : Nat) (s : State),
    (has [4, 8, 16] width = true → linkUp s = false → exec (.cxlLinkUp hostMode width) s
      = .next (wr (wr s K.cxlModeNow (min hostMode (rd s K.cxlModeMax) + 1)) K.linkWidth width)) ∧
    (has [4, 8, 16] width = false ∨ linkUp s = true → exec (.cxlLinkUp hostMode width) s = .next s)) ∧
  (∀ s : State,
    (linkUp s = true → exec .cxlLinkDown s = .next (freeEvent (bump (vatLost (wr (wr s K.cxlModeNow 0) K.linkWidth 0)) K.linkResets 1) 0x70 nodeSlice)) ∧
    (linkUp s = false → exec .cxlLinkDown s = .next s)) ∧
  (∀ s t : State, t = (upFrom 0 64).foldl dropAreaWrites (if linkUp s then vatLost (wr (wr s K.cxlModeNow 0) K.linkWidth 0) else s) →
    exec .conventionalReset s = .next (freeEvent (bump (wr (wr { t with host := { t.host with hdm := [], doe := [] } } K.ideState 0) K.vfEnabled 0)
      K.linkResets 1) 0x70 nodeSlice)) ∧
  (∀ s : State, linkUp s = false → ∃ t, exec .conventionalReset s = .next t ∧ t.mem = s.mem ∧ t.kv = s.kv ∧ t.host.hdm = [] ∧ t.host.doe = [] ∧
    (s.host.writes.all (fun p => decide (p.2.area < 64)) = true → t.host.writes = [])) ∧
  (∀ (vf : Nat) (s t : State),
    (1 ≤ vf → vf ≤ 255 → t = { s with dq := { s.dq with mbox := s.dq.mbox.filter (fun m => m.1 != vf) } } →
      exec (.functionLevelReset vf) s = .next (freeEvent (bump
        (((areasOn s).filter (fun a => rd s (K.areaFunction a) == vf)).foldl dropAreaWrites t) K.linkResets 1) 0x70 nodeSlice)) ∧
    (vf = 0 ∨ 255 < vf → exec (.functionLevelReset vf) s = .next s)) ∧
  (∀ (s : State) (a : Nat), ∀ p ∈ (dropAreaWrites s a).host.writes, p.2.area ≠ a)

/-- Parts of R307, R444: the mailbox answers on a link that is up. Get Event Records, Clear Event Records, Get FW Info, Get Supported Logs, Get Log and Identify Memory Device are the PF's alone, and refused
as unsupported to a VF and in recovery; a log or an event handle that does not exist is refused; any other command is unsupported. Command 0xC100 is answered with Success and the response,
at once or once it comes; its length is checked first. Nothing answers on a link that is down. -/
def Obligations.MailboxAnswers : Prop :=
  (∀ (handles : List Nat) (s : State), linkUp s = true → inRecovery s = false →
    exec (.getEventRecords 0) s = .next (mailbox s 0 mbSuccess (eventPayload s.host.events)) ∧
    exec (.getFwInfo 0) s = .next (mailbox s 0 mbSuccess
      (toBytes 16 (packBits [(8, 1), (3, 1), (3, b2n (rd s K.fwState == 4)), (2, 0), (8, 1)])
       ++ (upFrom 0 6).flatMap (fun i => toBytes 4 (rd s (K.fwFlashVersion i))))) ∧
    exec (.getSupportedLogs 0) s = .next (mailbox s 0 mbSuccess (toBytes 2 1 ++ toBytes 4 (4 * mbOpcodes.length))) ∧
    exec (.identifyMemoryDevice 0) s = .next (mailbox s 0 mbSuccess (toBytes 8 (dpaBytes s) ++ toBytes 8 (dpaBytes s) ++ toBytes 8 0)) ∧
    (∃ t l, exec (.getLog 0 0) s = .next (mailbox t 0 mbSuccess l) ∧ t = { s with free := t.free } ∧ l.length = 4 * mbOpcodes.length) ∧
    (∀ log, log ≠ 0 → exec (.getLog 0 log) s = .next (mailbox s 0 mbInvalidInput [])) ∧
    ((∀ h ∈ handles, (tget? s.host.events h).isSome = true) → exec (.clearEventRecords 0 handles) s = .next (mailbox { s with host := { s.host with
      events := s.host.events.filter (fun p => !has handles p.1) } } 0 mbSuccess [])) ∧
    ((∃ h ∈ handles, tget? s.host.events h = none) → exec (.clearEventRecords 0 handles) s = .next (mailbox s 0 mbInvalidHandle []))) ∧
  (∀ (fn : Nat) (handles : List Nat) (log : Nat) (s : State), linkUp s = true → fn ≠ 0 ∨ inRecovery s = true →
    exec (.getEventRecords fn) s = .next (mailbox s fn mbUnsupported []) ∧ exec (.getFwInfo fn) s = .next (mailbox s fn mbUnsupported []) ∧
    exec (.clearEventRecords fn handles) s = .next (mailbox s fn mbUnsupported []) ∧
    exec (.getSupportedLogs fn) s = .next (mailbox s fn mbUnsupported []) ∧ exec (.getLog fn log) s = .next (mailbox s fn mbUnsupported []) ∧
    exec (.identifyMemoryDevice fn) s = .next (mailbox s fn mbUnsupported [])) ∧
  (∀ (fn opcode : Nat) (s : State), linkUp s = true → exec (.mailboxUnsupported fn opcode) s = .next (mailbox s fn mbUnsupported [])) ∧
  (∀ (fn opcode log : Nat) (handles : List Nat) (l : List Byte) (s : State), linkUp s = false →
    exec (.getEventRecords fn) s = .next s ∧ exec (.getFwInfo fn) s = .next s ∧ exec (.clearEventRecords fn handles) s = .next s ∧
    exec (.getSupportedLogs fn) s = .next s ∧ exec (.getLog fn log) s = .next s ∧ exec (.identifyMemoryDevice fn) s = .next s ∧
    exec (.mailboxUnsupported fn opcode) s = .next s ∧ exec (.mailboxUzoenePdu fn l) s = .next s) ∧
  (∀ (fn : Nat) (via : Via) (l : List Byte) (s t : State), s.sec.held = false → linkUp s = true → 20 ≤ l.length → l.length ≤ 1044 →
    via = (if fn == 0 then Via.pf else .vf fn) → t = takePdu s via (pduOf l) (fun s => servePdu s via (pduOf l)) →
    (∀ r, newResponse t.out s.out.length = some r → exec (.mailboxUzoenePdu fn l) s = .next (mailbox t fn mbSuccess (pduWire r))) ∧
    (newResponse t.out s.out.length = none → exec (.mailboxUzoenePdu fn l) s
      = .next { t with dq := { t.dq with mbox := t.dq.mbox.filter (fun m => m.1 != fn) ++ [(fn, (pduOf l).transaction)] } })) ∧
  (∀ (fn : Nat) (l : List Byte) (s : State), s.sec.held = false → linkUp s = true → l.length < 20 ∨ 1044 < l.length →
    exec (.mailboxUzoenePdu fn l) s = .next (mailbox s fn mbInvalidLength [])) ∧
  (∀ (fn : Nat) (l : List Byte) (s : State), s.sec.held = true → exec (.mailboxUzoenePdu fn l) s = .next s) ∧
  (∀ (s : State) (fn : Nat) (via : Via) (r : Pdu), mailboxFn via = some fn → (fn, r.transaction) ∈ s.dq.mbox →
    endMailbox s via r = emit { s with dq := { s.dq with mbox := s.dq.mbox.filter (fun m => !(m == (fn, r.transaction))) } }
      (.mailbox fn mbSuccess (pduWire r)))

/-! ## Trust and firmware (R306, R425 to R443) -/

/-- Parts of R305, R306, R425 to R428, R432, R436: measurements are answered by block, the fuse record at 11, a new report at 0x40, an error elsewhere. A key exchange on the DOE mailbox opens one of four sessions;
one on the management port with a listed key that verifies opens a session with that key's rights, and one with another key or a signature that does not verify only raises the event; a fifth session
is answered busy, and in recovery or with the enable at 0 there is none. An idle session ends. A datagram that opens is served in its session; one that does not is counted and raises the event. A report is
kept when it is made. Debug access of a development unit is recorded, measured the first time. Boundary scan clears memory and its poison while every slice is STARTING. A stream's IDE state is set or cleared over
an open DOE session. Each leaves the state as it is where its conditions fail. -/
def Obligations.SecurityCommands : Prop :=
  (∀ (index nonce : Nat) (s : State), s.sec.held = false →
    ((1 ≤ index ∧ index ≤ 10) ∨ index = 12 → exec (.getMeasurements index nonce) s = .next (spdm s 0 (toBytes 64 (measOf s index)))) ∧
    (index = 11 → exec (.getMeasurements index nonce) s = .next (spdm s 0 (toBytes 16 (fuseRecord s)))) ∧
    (∀ t r, index = 0x40 → makeReport s 1 nonce = (t, r) → exec (.getMeasurements index nonce) s = .next (spdm t 0 r)) ∧
    (index = 0 ∨ (12 < index ∧ index ≠ 0x40) → exec (.getMeasurements index nonce) s = .next (spdm s 1 []))) ∧
  (∀ (key : Nat) (tr sg : List Byte) (s : State), s.sec.held = false → inRecovery s = false →
    (s.host.doe.length < 4 → ∃ n, exec (.keyExchange true key tr sg) s
      = .next (spdm { s with host := { s.host with doe := s.host.doe ++ [n] } } 3 (toBytes 1 n)) ∧ n < 4 ∧ has s.host.doe n = false) ∧
    (4 ≤ s.host.doe.length → exec (.keyExchange true key tr sg) s = .next (spdm s 2 []))) ∧
  (∀ (key i : Nat) (tr sg : List Byte) (s : State), s.sec.held = false → inRecovery s = false → on s K.mgmtSessionEnable = true →
    s.sessions.length < 4 →
    (upFrom 0 8).find? (fun i => skKey (rd s (K.sessionKey i)) == key && skRights (rd s (K.sessionKey i)) != 0) = some i →
    (Config.ed25519Verify key tr sg = true → ∃ t n, exec (.keyExchange false key tr sg) s = .next t ∧
      tget? t.sessions n = some { entry := i, rights := skRights (rd s (K.sessionKey i)), lastEc := s.tm.ec } ∧ tget? s.sessions n = none ∧
      rd t K.sessionsOpen = t.sessions.length ∧ t = { s with sessions := t.sessions, dict := t.dict, out := t.out }) ∧
    (Config.ed25519Verify key tr sg = false → exec (.keyExchange false key tr sg) s = .next (authEvent s 1))) ∧
  (∀ (key : Nat) (tr sg : List Byte) (s : State), s.sec.held = false → inRecovery s = false → on s K.mgmtSessionEnable = true →
    (s.sessions.length < 4 → (∀ i < 8, skKey (rd s (K.sessionKey i)) ≠ key ∨ skRights (rd s (K.sessionKey i)) = 0) →
      exec (.keyExchange false key tr sg) s = .next (authEvent s 1)) ∧
    (4 ≤ s.sessions.length → exec (.keyExchange false key tr sg) s = .next (spdm s 2 []))) ∧
  (∀ (doe : Bool) (key : Nat) (tr sg : List Byte) (s : State),
    s.sec.held = true ∨ inRecovery s = true ∨ (doe = false ∧ on s K.mgmtSessionEnable = false) → exec (.keyExchange doe key tr sg) s = .next s) ∧
  (∀ (n : Nat) (s : State),
    (∀ x, tget? s.sessions n = some x → passed s x.lastEc (rd s K.sessionIdleS * 1000000000) = true →
      exec (.sessionIdleTimeout n) s = .next (closeSessions s (fun m _ => m == n))) ∧
    ((∀ x, tget? s.sessions n = some x → passed s x.lastEc (rd s K.sessionIdleS * 1000000000) = false) →
      exec (.sessionIdleTimeout n) s = .next s)) ∧
  (∀ (n : Nat) (x : Sess) (l : List Byte) (s t : State), s.sec.held = false → tget? s.sessions n = some x →
    t = { s with sessions := tset s.sessions n { x with lastEc := s.tm.ec } } →
    (∀ app, Config.aeadOpen n l = some app →
      (20 ≤ app.length → exec (.mgmtSecureDatagram n l) s = .next (takePdu t (.session n) (pduOf app) (fun s => servePdu s (.session n) (pduOf app)))) ∧
      (app.length < 20 → exec (.mgmtSecureDatagram n l) s = .next t)) ∧
    (Config.aeadOpen n l = none → exec (.mgmtSecureDatagram n l) s = .next (authEvent (bump s K.authFailures 1) 1))) ∧
  (∀ (n : Nat) (l : List Byte) (s : State), s.sec.held = true ∨ tget? s.sessions n = none → exec (.mgmtSecureDatagram n l) s = .next s) ∧
  (∀ (s t : State) (r : List Byte), rd s K.attestState = 1 → makeReport s 3 (rd s K.attestNonce) = (t, r) →
    exec .attestReportReady s = .next (wr { t with sec := { t.sec with report := r } } K.attestState 2)) ∧
  (∀ s : State, rd s K.attestState ≠ 1 → exec .attestReportReady s = .next s) ∧
  (∀ s t : State, t = wr s K.debugState 2 → rd s K.lifecycle = 2 → s.sec.held = false →
    (rd s K.debugState = 2 → exec .debugAttached s = .next (event t 0xA0 5 nodeSlice 2 0)) ∧
    (rd s K.debugState ≠ 2 → exec .debugAttached s
      = .next (event (measure t 11 (Config.sha512 (toBytes 16 (fuseRecord t)))) 0xA0 5 nodeSlice 2 0))) ∧
  (∀ s : State, rd s K.lifecycle ≠ 2 ∨ s.sec.held = true → exec .debugAttached s = .next s) ∧
  (∀ s : State, s.sec.held = false → (∀ sl < 4, rd s (K.sliceState sl) = 0) →
    exec .extest s = .next ((upFrom 0 4).foldl clearPoison (setCells s []))) ∧
  (∀ s : State, s.sec.held = true ∨ (∃ sl < 4, rd s (K.sliceState sl) ≠ 0) → exec .extest s = .next s) ∧
  (∀ (session stream : Nat) (s : State), has s.host.doe session = true → stream ≤ 1 →
    (bitB (rd s K.ideState) stream = false → exec (.ideKm session stream true) s = .next (wr s K.ideState (rd s K.ideState + 2 ^ stream)) ∧
      exec (.ideKm session stream false) s = .next (wr s K.ideState (rd s K.ideState))) ∧
    (bitB (rd s K.ideState) stream = true → exec (.ideKm session stream true) s = .next (wr s K.ideState (rd s K.ideState)) ∧
      exec (.ideKm session stream false) s = .next (wr s K.ideState (rd s K.ideState - 2 ^ stream)))) ∧
  (∀ (session stream : Nat) (est : Bool) (s : State), has s.host.doe session = false ∨ 1 < stream → exec (.ideKm session stream est) s = .next s)

/-- Parts of R439, R440, R441: a staged image that verifies goes on to be written over its flash copy, or is carried out; one that does not is rejected with its
reason and event, and the mailbox that sent it is told; a written image becomes the flash copy of its type, and runs in nothing yet; a buffer not written for 10 s is abandoned; an activated slice runs the flash copies of types 4 to 6. The mailbox moves an
image whole or in parts: an initiating part opens the buffer, later ones go into it, the end asks for verification, an abort drops it; it is turned away while another holds the buffer, and out of order; an
activation is at once for QUIESCED slices, or waits for the reset. Each leaves the state as it is where its conditions fail. -/
def Obligations.FirmwareIsStagedVerifiedAndWritten : Prop :=
  (∀ (s : State) (t : Nat), rd s K.fwState = 2 → imgReject s (stagedImage s) = 0 → t = bits (ofBytes ((stagedImage s).take 256)) 376 8 →
    (t ≤ 6 → exec .fwVerifyDone s = .next (wr s K.fwState 3)) ∧
    (6 < t → exec .fwVerifyDone s = .next (carryOut s t ((stagedImage s).drop 256)))) ∧
  (∀ (s t : State) (r : Nat), rd s K.fwState = 2 → imgReject s (stagedImage s) = r → r ≠ 0 →
    t = wr (wr s K.fwState 5) K.fwRejectReason r →
    exec .fwVerifyDone s = .next (event (if s.sec.owner = 3 then mailbox t 0 mbFwAuthFailed [] else t) 0xA0 1 nodeSlice 2
      (packBits [(8, bits (ofBytes ((stagedImage s).take 256)) 376 8), (8, r)]))) ∧
  (∀ s : State, rd s K.fwState ≠ 2 → exec .fwVerifyDone s = .next s) ∧
  (∀ (s : State) (h t : Nat), rd s K.fwState = 3 → h = ofBytes ((stagedImage s).take 256) → t = bits h 376 8 →
    ∃ u, exec .fwWriteDone s = .next (event u 0xA0 2 nodeSlice 0 (packBits [(8, t), (32, bits h 448 32)])) ∧
      tget? u.sec.flash t = some { version := bits h 448 32, svn := bits h 416 32, key := bits h 368 8, debug := bitB h 360,
                                   digest := some (Config.sha512 (stagedImage s)), ok := true } ∧
      rd u K.fwState = 4 ∧ u.sec.running = s.sec.running ∧ u = { s with dict := u.dict, sec := u.sec }) ∧
  (∀ s : State, rd s K.fwState ≠ 3 → exec .fwWriteDone s = .next s) ∧
  (∀ s : State,
    (rd s K.fwState = 1 → passed s s.sec.wroteAt 10000000000 = true → exec .fwBufferTimeout s = .next (wr (dropBuf s) K.fwState 0)) ∧
    (rd s K.fwState ≠ 1 ∨ passed s s.sec.wroteAt 10000000000 = false → exec .fwBufferTimeout s = .next s)) ∧
  (∀ (slice : Nat) (s : State),
    (has s.sec.activating slice = true → exec (.imageActivated slice) s
      = .next ((upFrom 4 3).foldl (runIn slice) { s with sec := { s.sec with activating := without s.sec.activating slice } })) ∧
    (has s.sec.activating slice = false → exec (.imageActivated slice) s = .next s)) ∧
  (∀ (slot offset : Nat) (data : List Byte) (s t : State), linkUp s = true → rd s K.fwState = 1 → s.sec.owner = 3 →
    t = wr (showStaged (fillBuf s (offset * 128) data)) K.fwLength (offset * 128 + data.length) →
    exec (.transferFw 0 2 slot offset data) s = .next (mailbox t 0 mbSuccess []) ∧
    exec (.transferFw 0 3 1 offset data) s = .next (mailbox (wr t K.fwState 2) 0 mbSuccess []) ∧
    exec (.transferFw 0 4 slot offset data) s = .next (mailbox (wr (dropBuf s) K.fwState 0) 0 mbSuccess [])) ∧
  (∀ (slot offset : Nat) (data : List Byte) (s t : State), linkUp s = true → bufTaken s = false ∨ (rd s K.fwState = 1 ∧ s.sec.owner = 3) →
    t = wr (showStaged (fillBuf (openBuf s 3) (offset * 128) data)) K.fwLength (offset * 128 + data.length) →
    exec (.transferFw 0 1 slot offset data) s = .next (mailbox t 0 mbSuccess []) ∧
    exec (.transferFw 0 0 1 offset data) s = .next (mailbox (wr t K.fwState 2) 0 mbSuccess [])) ∧
  (∀ (slot offset : Nat) (data : List Byte) (s : State), linkUp s = true → ¬(rd s K.fwState = 1 ∧ s.sec.owner = 3) →
    (bufTaken s = true → exec (.transferFw 0 1 slot offset data) s = .next (mailbox s 0 mbBusy []) ∧
      exec (.transferFw 0 0 1 offset data) s = .next (mailbox s 0 mbBusy [])) ∧
    exec (.transferFw 0 2 slot offset data) s = .next (mailbox s 0 mbFwOutOfOrder []) ∧
    exec (.transferFw 0 3 1 offset data) s = .next (mailbox s 0 mbFwOutOfOrder []) ∧
    exec (.transferFw 0 4 slot offset data) s = .next (mailbox (if rd s K.fwState = 5 then wr (dropBuf s) K.fwState 0 else s) 0 mbSuccess [])) ∧
  (∀ (fn action slot offset : Nat) (data : List Byte) (s : State),
    (linkUp s = false → exec (.transferFw fn action slot offset data) s = .next s ∧ exec (.activateFw fn action slot) s = .next s) ∧
    (linkUp s = true → fn ≠ 0 → exec (.transferFw fn action slot offset data) s = .next (mailbox s fn mbUnsupported []) ∧
      exec (.activateFw fn action slot) s = .next (mailbox s fn mbUnsupported [])) ∧
    (linkUp s = true → slot ≠ 1 → exec (.transferFw 0 0 slot offset data) s = .next (mailbox s 0 mbFwInvalidSlot []) ∧
      exec (.transferFw 0 3 slot offset data) s = .next (mailbox s 0 mbFwInvalidSlot []) ∧
      exec (.activateFw 0 action slot) s = .next (mailbox s 0 mbFwInvalidSlot []))) ∧
  (∀ (action offset slot : Nat) (data : List Byte) (s : State), linkUp s = true → 4 < action →
    exec (.transferFw 0 action slot offset data) s = .next (mailbox s 0 mbInvalidInput [])) ∧
  (∀ (action : Nat) (s : State), linkUp s = true →
    (inRecovery s = true → exec (.activateFw 0 action 1) s = .next (boot (resetState (mailbox s 0 mbSuccess [])) false)) ∧
    (inRecovery s = false →
      (action = 0 → exec (.activateFw 0 action 1) s
        = .next (mailbox (activate s ((upFrom 0 4).filter (fun sl => rd s (K.sliceState sl) == 3))) 0 mbSuccess [])) ∧
      (action = 1 → exec (.activateFw 0 action 1) s = .next (mailbox s 0 mbSuccess [])) ∧
      (1 < action → exec (.activateFw 0 action 1) s = .next (mailbox s 0 mbInvalidInput []))))

/-! ## Extents, leases, shares and the pool (R354 to R370) -/

/-- Parts of R177, R354 to R359, R445: CREATE and SET_GRANTS of the selected extent take effect where their tests pass, and are refused, changing nothing else,
where one fails; REVOKE begins its drain. A created extent's blocks start in host bias. A revoked extent whose drain is over is unmapped, and cleared
where it was mapped; else a drained grant ends; one whose drain goes on waits. A clearing that ends gives its space back. A tenant's lease that
expires is taken off, its leased grants are revoked and its opens released; its event is a free value: the manual does not give it. -/
def Obligations.ExtentsAreCreatedRevokedAndCleared : Prop :=
  (∀ (w : WReq) (s : State) (i r : Nat), Allowed s w 0x7100 0x12 → i = rd s K.extentSelect → r = rd s K.extentEntry →
    (firstFail (createFails s i r) = none → exec (.create w) s = .next (doneTo (createExtent s i r) w 0x7100 0x12 0 [1])) ∧
    (∀ c k, firstFail (createFails s i r) = some (c, k) →
      exec (.create w) s = .next (endTo s w 0x7100 0x12 0 [1] (.refused c (k / 256) (k % 256)))) ∧
    (firstFail (setGrantsFails s i r) = none → exec (.setGrants w) s = .next (doneTo (showExtent (leaseGrants
      ((upFrom 1 7).foldl (fun t k => replaceGrant t i k (exGrant r k)) s)
      (match extentAt s i with | some e => e.grants | none => []) (exGrants r))) w 0x7100 0x12 0 [2])) ∧
    (∀ c k, firstFail (setGrantsFails s i r) = some (c, k) →
      exec (.setGrants w) s = .next (endTo s w 0x7100 0x12 0 [2] (.refused c (k / 256) (k % 256)))) ∧
    exec (.revoke w) s = .next (doneTo (revokeExtent s i) w 0x7100 0x12 0 [3])) ∧
  (∀ (s : State) (i r : Nat), extentAt (createExtent s i r) i = some (extentFrom r) ∧
    (createExtent s i r).mem.hostBias = s.mem.hostBias ++ upFrom ((extentFrom r).base / blockBytes) (extentFrom r).blocks) ∧
  (∀ (s : State) (i : Nat) (e : Extent), extentAt s i = some e → e.state = 1 →
    extentAt (revokeExtent s i) i = some { e with state := 2, since := s.tm.ec }) ∧
  (∀ (s : State) (i : Nat), (∀ e, extentAt s i = some e → e.state ≠ 1) → revokeExtent s i = s) ∧
  (∀ (x : Nat) (s t : State) (e : Extent), extentAt s x = some e → e.state = 2 → drainOver s e none e.since = true →
    t = putExtent s x { e with state := 3, drains := [] } →
    (∀ m, t.mem.maps.find? (fun m => m.holder == .extent x) = some m → exec (.extentDrainEnd x) s = .next (showExtent (beginUnmap t m))) ∧
    (t.mem.maps.find? (fun m => m.holder == .extent x) = none → exec (.extentDrainEnd x) s = .next (showExtent t))) ∧
  (∀ (x : Nat) (s : State) (e : Extent), extentAt s x = some e → e.state = 2 → drainOver s e none e.since = false →
    exec (.extentDrainEnd x) s = .next s) ∧
  (∀ (x : Nat) (s : State) (e : Extent), extentAt s x = some e → e.state ≠ 2 →
    exec (.extentDrainEnd x) s
      = .next (showExtent ((e.drains.filter (fun d => drainOver s e (some d.tenant) d.since)).foldl (fun t d => endGrant t x d) s))) ∧
  (∀ (x : Nat) (s : State), extentAt s x = none → exec (.extentDrainEnd x) s = .next s) ∧
  (∀ (c : Nat) (s t : State), (∃ h ∈ s.holds, h.kind = .clearing ∧ h.id = c) →
    t = { s with holds := s.holds.filter (fun h => !(h.kind == .clearing && h.id == c)),
                 comp := { s.comp with extents := s.comp.extents.filter (fun p => !(p.2.state == 3 && p.2.clr == c)) } } →
    exec (.memoryClearDone c) s = .next (afterMove (retryRoom (showExtent t)))) ∧
  (∀ (c : Nat) (s : State), (∀ h ∈ s.holds, h.kind = .clearing → h.id ≠ c) → exec (.memoryClearDone c) s = .next s) ∧
  (∀ (tenant x : Nat) (s t u : State), tget? s.comp.tleases tenant = some x → x ≤ now s →
    t = { s with comp := { s.comp with tleases := terase s.comp.tleases tenant } } →
    u = t.comp.extents.foldl (fun v p => (upFrom 0 8).foldl (fun a k =>
      if p.2.state == 1 && gValid (nth p.2.grants k 0) && gLeased (nth p.2.grants k 0) && gTenant (nth p.2.grants k 0) == tenant
        && !p.2.drains.any (fun d => d.grant == k && d.rights == 3) then revokeGrant a p.1 k 3 0 else a) v) t →
    exec (.tenantLeaseExpire tenant) s
      = .next (freeEvent (bump ((u.comp.opens.filter (fun o => o.1 == tenant)).foldl releaseOpen u) K.leasesExpired 1) 0x71 nodeSlice)) ∧
  (∀ (tenant : Nat) (s : State), (∀ x, tget? s.comp.tleases tenant = some x → now s < x) → exec (.tenantLeaseExpire tenant) s = .next s)

/-- Parts of R357, R365 to R370: RENEW extends the tenant's lease, where it has one, and counts what it keeps. OPEN, CLOSE and PUBLISH are sent to the Lead: OPEN after the
check of its result area and of opens_max, PUBLISH of an extent after its test and preparation, and of a Ream once it is sealed at the COMMIT of its home; a kind
the manual does not give is refused. The Lead answers a request in order, and another node takes none; the reply completes the ticket, keeps or drops the
open, and renews the lease. A released version's extent is revoked, where it is published, and its Ream retired at the next COMMIT. -/
def Obligations.ShareTicketsGoToTheLead : Prop :=
  (∀ (k : Nat) (c : Instr) (s : State), (k, c) ∈ ([(0xA, .open), (0xB, .close), (0xC, .publish), (0xD, .renew)] : List (Nat × Instr)) →
    takeHead s k = none → exec c s = .next s) ∧
  (∀ (s t u : State) (tk : Tk), takeHead s 0xD = some (tk, t) → u = renewLease t (tkTenant tk.raw) →
    ((tget? t.comp.tleases (tkTenant tk.raw)).isSome = true → exec .renew s = .next (complete u tk St.ok (leasedCount u (tkTenant tk.raw)) 0)) ∧
    (tget? t.comp.tleases (tkTenant tk.raw) = none → exec .renew s = .next (complete t tk St.ok 0 0))) ∧
  (∀ (s t : State) (tk : Tk) (c : Nat), takeHead s 0xA = some (tk, t) → areaTest t (tkTenant tk.raw) (sResult tk.raw) 32 32 2 = c →
    (c = 0 → t.comp.opens.length < rd t K.opensMax → exec .open s = .next (askLead t tk 0 0 0 0)) ∧
    (c = 0 → rd t K.opensMax ≤ t.comp.opens.length → exec .open s = .next (complete t tk St.quota 0 0)) ∧
    (c ≠ 0 → exec .open s = .next (refuseArea t tk c))) ∧
  (∀ (s t : State) (tk : Tk), takeHead s 0xB = some (tk, t) → exec .close s = .next (askLead t tk 0 0 0 0)) ∧
  (∀ (s t : State) (tk : Tk), takeHead s 0xC = some (tk, t) → sKind tk.raw = 0 → exec .publish s = .next (askLead t tk 0 0 0 0)) ∧
  (∀ (s t : State) (tk : Tk), takeHead s 0xC = some (tk, t) → 2 < sKind tk.raw → exec .publish s = .next (refuse t tk St.bounds)) ∧
  (∀ (s t : State) (tk : Tk) (e : Extent) (c : Nat), takeHead s 0xC = some (tk, t) → sKind tk.raw = 1 →
    publishTest t (sObject tk.raw) (tkTenant tk.raw) = c →
    (c = 0 → extentAt t (sObject tk.raw) = some e →
      exec .publish s = .next (askLead (preparePublish t (sObject tk.raw) e) tk 1 (sObject tk.raw) (myNode t) e.base)) ∧
    (c ≠ 0 → exec .publish s = .next (complete t tk c 0 0))) ∧
  (∀ (s t u : State) (tk : Tk) (home : Option Nat), takeHead s 0xC = some (tk, t) → sKind tk.raw = 2 →
    homeOf t tk.slice (tkTenant tk.raw) (sObject tk.raw) = (u, home) →
    (home = none → exec .publish s = .next (refuse u tk St.bounds)) ∧
    (∀ h, home = some h → h ≠ myNode u → exec .publish s = .next (forwardHome u tk h [])) ∧
    (home = some (myNode u) → knownReam u (tkTenant tk.raw) (sObject tk.raw) = none → exec .publish s = .next (complete u tk St.bounds 0 0)) ∧
    (∀ m, home = some (myNode u) → knownReam u (tkTenant tk.raw) (sObject tk.raw) = some m →
      (m.retiredSet = true ∨ m.preempted = true → exec .publish s = .next (complete u tk St.bounds 0 0)) ∧
      (m.retiredSet = false → m.preempted = false →
        exec .publish s = .next { u with att := { u.att with seals := u.att.seals ++ [tk] } }))) ∧
  (∀ (m : ShareMsg) (s t : State) (st n : Nat) (v : Option Version) (w : Version), orderShare s m = (t, st, n, v) →
    w = v.getD { num := 0, kind := 0, object := 0, node := 0, base := 0, opens := [] } →
    (isLead s = true → exec (.shareReq m) s = .next (mgmt t m.src (.shareReply
      { ticketId := m.ticketId, tenant := m.tenant, status := st, count := n, kind := w.kind, object := w.object, node := w.node, base := w.base }))) ∧
    (isLead s = false → exec (.shareReq m) s = .next s)) ∧
  (∀ (a : ShareAns) (s : State), s.comp.asks.find? (fun t => tkId t.raw == a.ticketId && tkTenant t.raw == a.tenant) = none →
    exec (.shareReply a) s = .next s) ∧
  (∀ (a : ShareAns) (s t : State) (tk : Tk) (o : Nat × Nat × Nat),
    s.comp.asks.find? (fun t => tkId t.raw == a.ticketId && tkTenant t.raw == a.tenant) = some tk →
    t = { s with comp := { s.comp with asks := s.comp.asks.filter (fun t => t.id != tk.id) } } → o = (tkTenant tk.raw, sShare tk.raw, a.count) →
    ((tkType tk.raw ≠ 0xA ∧ tkType tk.raw ≠ 0xB) ∨ (tkType tk.raw = 0xA ∧ a.status ≠ St.ok) ∨ (tkType tk.raw = 0xB ∧ a.status ≠ St.ok) →
      exec (.shareReply a) s = .next (complete t tk a.status a.count 0)) ∧
    (tkType tk.raw = 0xA → a.status = St.ok → has t.att.dead tk.id = true →
      exec (.shareReply a) s = .next (releaseOpen (complete t tk a.status a.count 0) o)) ∧
    (tkType tk.raw = 0xA → a.status = St.ok → has t.att.dead tk.id = false →
      exec (.shareReply a) s = .next (completeResult (renewLease { t with comp := { t.comp with opens := t.comp.opens ++ [o] } } (tkTenant tk.raw))
        tk (sResult tk.raw) (openRecord a (sShare tk.raw)) St.ok a.count)) ∧
    (tkType tk.raw = 0xB → a.status = St.ok →
      exec (.shareReply a) s = .next (complete
        { t with comp := { t.comp with opens := t.comp.opens.erase (tkTenant tk.raw, sShare tk.raw, sVersion tk.raw) } } tk a.status a.count 0))) ∧
  (∀ (object tenant : Nat) (s : State),
    (∀ e, extentAt s object = some e → e.kind = 2 → exec (.versionRelease 1 object tenant) s = .next (revokeExtent s object)) ∧
    ((∀ e, extentAt s object = some e → e.kind ≠ 2) → exec (.versionRelease 1 object tenant) s = .next s)) ∧
  (∀ (kind object tenant : Nat) (s : State), kind ≠ 1 → exec (.versionRelease kind object tenant) s
    = .next { s with comp := { s.comp with releases := s.comp.releases ++ [(tenant, object)] } })

/-- Parts of R360 to R364: a request for MiB in the value set is passed to the Lead and shows state 1; one while pool_enable reads 0 is refused with 0x06, and one
outside the value set with 0x01; a release of a lease held drains it, and of another is refused. The Lead grants the lowest free run of a pool range, or refuses,
renews a lease of its holder, takes a lease off at its release, and lets one lapse at its expiry; another node does nothing. A member that asked keeps
a granted lease, once it has cleared the run where it must; a renewal's answer moves the expiry on; it asks for renewal a quarter of the lease time after the last,
drains at a revocation, and stops its regions pool_guard_ns before the expiry. -/
def Obligations.PoolLeasesAreGrantedAndEnded : Prop :=
  (∀ (w : WReq) (mib : Nat) (s : State), Allowed s w 0x7110 5 → mib < 2 ^ 32 →
    (on s K.poolEnable = true → mib % 256 = 0 → 256 ≤ mib → mib ≤ 262144 →
      exec (.poolRequestMib w mib) s = .next (doneTo (mgmt (wr { s with comp := { s.comp with poolAsk := mib } } K.poolResultState 1)
        (leadNode s) (.poolReq mib)) w 0x7110 5 0 (toBytes 4 mib))) ∧
    (on s K.poolEnable = false → exec (.poolRequestMib w mib) s
      = .next (endTo s w 0x7110 5 0 (toBytes 4 mib) (.refused 0x06 (K.poolEnable / 256) (K.poolEnable % 256)))) ∧
    (on s K.poolEnable = true → mib % 256 ≠ 0 ∨ mib < 256 ∨ 262144 < mib →
      exec (.poolRequestMib w mib) s = .next (endTo s w 0x7110 5 0 (toBytes 4 mib) (.refused 0x01 0x7110 5)))) ∧
  (∀ (w : WReq) (lease : Nat) (s : State), Allowed s w 0x7110 6 → lease < 2 ^ 32 →
    ((∃ h ∈ s.comp.held, h.id = lease) → exec (.poolRelease w lease) s = .next (doneTo (drainLease s lease 1 0) w 0x7110 6 0 (toBytes 4 lease))) ∧
    ((∀ h ∈ s.comp.held, h.id ≠ lease) →
      exec (.poolRelease w lease) s = .next (endTo s w 0x7110 6 0 (toBytes 4 lease) (.refused 0x01 0x7110 6)))) ∧
  (∀ (src mib : Nat) (s t : State), isLead s = true → t = reapLeases s →
    (∀ b, on t K.poolEnable = true → lowestRun t mib = some b →
      exec (.poolLeaseReq src mib) s = .next (mgmt { t with comp := { t.comp with
          leases := t.comp.leases ++ [{ id := t.comp.nextLease, holder := src, base := b, mib := mib, expiry := now t + rd t K.poolLeaseNs,
                                        lapsed := false }],
          nextLease := t.comp.nextLease + 1 } } src (.poolGrant
            { granted := true, id := t.comp.nextLease, base := b, mib := mib, mustClear := t.comp.dirty.any (fun d => has (unitsOf b mib) d.1) }))) ∧
    (on t K.poolEnable = false ∨ lowestRun t mib = none →
      exec (.poolLeaseReq src mib) s
        = .next (mgmt t src (.poolGrant { granted := false, id := 0, base := 0, mib := mib, mustClear := false })))) ∧
  (∀ (src lease mib : Nat) (drained : Bool) (s : State), isLead s = false → exec (.poolLeaseReq src mib) s = .next s ∧
    exec (.poolLeaseRenew src lease) s = .next s ∧ exec (.poolLeaseRelease src lease drained) s = .next s ∧ exec (.poolLeaseLapse lease) s = .next s) ∧
  (∀ (g : PoolGrant) (s : State), (∃ h ∈ s.comp.held, h.id = g.id) → g.granted = true →
    exec (.poolLeaseGrant g) s = .next (modHeld s g.id (fun h => { h with expiry := h.renewedAt + rd s K.poolLeaseNs }))) ∧
  (∀ (g : PoolGrant) (s t : State), (∀ h ∈ s.comp.held, h.id ≠ g.id) ∨ g.granted = false → t = { s with comp := { s.comp with poolAsk := 0 } } →
    (s.comp.poolAsk = 0 → exec (.poolLeaseGrant g) s = .next s) ∧
    (s.comp.poolAsk ≠ 0 → g.granted = false → exec (.poolLeaseGrant g) s = .next (wr t K.poolResultState 3)) ∧
    (∀ u, s.comp.poolAsk ≠ 0 → g.granted = true →
      u = wr { t with comp := { t.comp with held := t.comp.held ++
        [⟨g.id, g.base, g.mib, now s + rd s K.poolLeaseNs, now s, 0, 0, g.mustClear, false⟩] } } K.poolResult (poolResultWord g) →
      (g.mustClear = false → exec (.poolLeaseGrant g) s = .next (wr u K.poolResultState 2)) ∧
      (g.mustClear = true → exec (.poolLeaseGrant g) s = .next (emit (wr u K.poolResultState 4) (.vatWrite g.base (g.mib * 2 ^ 20) true))))) ∧
  (∀ (lease : Nat) (s t : State), t = modHeld s lease (fun h => { h with clearing := false }) →
    ((∃ h ∈ s.comp.held, h.id = lease ∧ h.clearing = true) → rd t K.poolResult % 2 ^ 32 = lease →
      exec (.poolRunCleared lease) s = .next (wr t K.poolResultState 2)) ∧
    ((∃ h ∈ s.comp.held, h.id = lease ∧ h.clearing = true) → rd t K.poolResult % 2 ^ 32 ≠ lease → exec (.poolRunCleared lease) s = .next t) ∧
    ((∀ h ∈ s.comp.held, h.id = lease → h.clearing = false) → exec (.poolRunCleared lease) s = .next s)) ∧
  (∀ (lease : Nat) (h : HeldLease) (s : State), s.comp.held.find? (fun h => h.id == lease) = some h →
    (h.renewedAt + rd s K.poolLeaseNs / 4 ≤ now s → h.failed = false →
      exec (.poolLeaseRenewDue lease) s
        = .next (mgmt (modHeld s lease (fun h => { h with renewedAt := now s })) (leadNode s) (.poolRenew lease))) ∧
    (now s < h.renewedAt + rd s K.poolLeaseNs / 4 ∨ h.failed = true → exec (.poolLeaseRenewDue lease) s = .next s) ∧
    (∀ t, t = modHeld s lease (fun h => { h with failed := true }) → h.failed = false → h.expiry ≤ now s + rd s K.poolGuardNs →
      exec (.poolLeaseGuardExpire lease) s = .next ((leaseRegions t lease).foldl (fun t v => wr t (K.vatState v) 3) t)) ∧
    (h.failed = true ∨ now s + rd s K.poolGuardNs < h.expiry → exec (.poolLeaseGuardExpire lease) s = .next s)) ∧
  (∀ (lease : Nat) (s : State), (∀ h ∈ s.comp.held, h.id ≠ lease) → exec (.poolLeaseRenewDue lease) s = .next s ∧
    exec (.poolLeaseGuardExpire lease) s = .next s) ∧
  (∀ (src lease : Nat) (l m : PoolLease) (s : State), isLead s = true →
    s.comp.leases.find? (fun l => l.id == lease && l.holder == src && !l.lapsed) = some l → m = { l with expiry := now s + rd s K.poolLeaseNs } →
    exec (.poolLeaseRenew src lease) s
      = .next (mgmt { s with comp := { s.comp with leases := s.comp.leases.map (fun x => if x.id == lease then m else x) } } src
          (.poolGrant { granted := true, id := l.id, base := l.base, mib := l.mib, mustClear := false }))) ∧
  (∀ (src lease : Nat) (s : State), s.comp.leases.find? (fun l => l.id == lease && l.holder == src && !l.lapsed) = none →
    exec (.poolLeaseRenew src lease) s = .next s) ∧
  (∀ (src lease : Nat) (drained : Bool) (l : PoolLease) (s : State) (d : List (Nat × Nat)), isLead s = true →
    s.comp.leases.find? (fun l => l.id == lease && l.holder == src) = some l → d = s.comp.dirty.filter (fun x => !has (unitsOf l.base l.mib) x.1) →
    exec (.poolLeaseRelease src lease drained) s
      = .next { s with comp := { s.comp with leases := s.comp.leases.filter (fun x => x.id != lease),
                                             dirty := if drained then d else d ++ (unitsOf l.base l.mib).map (fun x => (x, 256)) } }) ∧
  (∀ (src lease : Nat) (drained : Bool) (s : State), s.comp.leases.find? (fun l => l.id == lease && l.holder == src) = none →
    exec (.poolLeaseRelease src lease drained) s = .next s) ∧
  (∀ (lease drainNs : Nat) (s : State), exec (.poolLeaseRevoke lease drainNs) s = .next (drainLease s lease 2 (now s + drainNs))) ∧
  (∀ (lease : Nat) (l : PoolLease) (s : State), s.comp.leases.find? (fun l => l.id == lease && !l.lapsed) = some l →
    (isLead s = true → l.expiry ≤ now s → exec (.poolLeaseLapse lease) s
      = .next (bump { s with comp := { s.comp with leases := s.comp.leases.map (fun x => if x.id == lease then { x with lapsed := true } else x) } }
          K.poolLeasesLapsed 1)) ∧
    (now s < l.expiry → exec (.poolLeaseLapse lease) s = .next s)) ∧
  (∀ (lease : Nat) (s : State), s.comp.leases.find? (fun l => l.id == lease && !l.lapsed) = none → exec (.poolLeaseLapse lease) s = .next s)

/-! ## Integrity, the log, and power (R380 to R424) -/

/-- Parts of R115, R380 to R382, R385, R402, R403: a failed check of a word is replayed up to three times, and each replay is counted; the third failed one poisons the word.
A stale record is counted as stale, and a guarded record of a Sheet or a Deckle whose check fails is counted as a failed metadata check, before any
replay. The Lead logs a forwarded entry at or above log_min_severity as it came, and drops one below; another node keeps none. An entry of the log goes where
log_head points, and log_head moves on by one, round the 4,096 places. -/
def Obligations.ReplaysPoisonAndLog : Prop :=
  (∀ (a : ParityAt) (check : RecordCheck) (failed : Nat) (s : State),
    (failed < 3 → exec (.parityError a check failed) s = .next (bump (countCheck s a check) K.replaysTotal (failed + 1))) ∧
    (3 ≤ failed → exec (.parityError a check failed) s = .next (poisonWord (bump (countCheck s a check) K.replaysTotal 3) a))) ∧
  (∀ (a : ParityAt) (s : State), countCheck s a .none = s) ∧
  (∀ (a : ParityAt) (key : Nat) (check : RecordCheck) (s : State),
    ((∃ addr, a = .feltHome key addr) ∨ (∃ st addr, a = .sheetLine key st addr) ∨ (∃ st addr, a = .deckleLine key st addr)) → check ≠ .none →
    countCheck s a check = bump (if check = .stale then bump s K.staleRecords 1 else s)
      (K.metadataCheckFailures (quireSliceOf s (quireOfSheet key))) 1) ∧
  (∀ (a : ParityAt) (check : RecordCheck) (s : State), check ≠ .none → (∀ key addr, a ≠ .feltHome key addr) → (∀ key st addr, a ≠ .sheetLine key st addr) →
    (∀ key st addr, a ≠ .deckleLine key st addr) → countCheck s a check = if check = .stale then bump s K.staleRecords 1 else s) ∧
  (∀ (src entry : Nat) (s : State),
    (isLead s = true → rd s K.logMinSeverity ≤ bits entry 104 4 → exec (.event src entry) s = .next (logPut s (entry % 2 ^ 256))) ∧
    (isLead s = false ∨ bits entry 104 4 < rd s K.logMinSeverity → exec (.event src entry) s = .next s)) ∧
  (∀ (s : State) (e : Nat), tget? (logPut s e).log (rd s K.logHead % 4096) = some e ∧
    rd (logPut s e) K.logHead = (rd s K.logHead % 4096 + 1) % 4096)

/-- Parts of R409 to R424: when a window ends, the throttle level follows what its causes ask: it rises at once, and falls past a level only where that level's causes have
been away for 1 ms; the grants of the next window are made, and a change of level is logged; a second call in the same window changes nothing. A request made in an earlier window, alone and not
held back by the throttle, is granted where it fits, and else waits. A trip stops every slice, records the die and drives the pin. A sensor reading shows the
hottest die and sets the level that dies and stacks ask for; a rail reading shows the node's power, and marks a rail above its peak. -/
def Obligations.PowerWindowsAndTrips : Prop :=
  (∀ (s t u v : State) (want cause new : Nat), s.pow.win < windowNow s →
    t = { s with pow := { s.pow with started := on s K.powerEnable, slow := rd s K.throttleLevel } } → askedLevel t = (want, cause) →
    u = keepWarm t want → new = nextLevel u want (rd u K.throttleLevel) → v = grantWindow u (windowNow s) →
    (new = rd u K.throttleLevel → exec .powerWindow s = .next v) ∧
    (new ≠ rd u K.throttleLevel → ∀ c, c = (if want = 0 then v.pow.cause else cause) → exec .powerWindow s
      = .next (releaseHeld (event { wr v K.throttleLevel new with pow := { v.pow with cause := c } } 0x90 1 nodeSlice 1
          (packBits [(8, rd u K.throttleLevel), (8, new), (8, c)]))))) ∧
  (∀ s : State, windowNow s ≤ s.pow.win → exec .powerWindow s = .next s) ∧
  (∀ (s : State) (want cur : Nat), want ≤ nextLevel s want cur ∧ nextLevel s want cur ≤ max want cur ∧
    ((∀ l e, tget? s.pow.warm l = some e → passed s e 1000000 = true) → nextLevel s want cur = want)) ∧
  (∀ (s t : State) (r g : Budget) (old : List Budget) (w : Nat), w = s.pow.win + 1 → s.pow.reqs = [r] → r.madeIn < w →
    (r.cls = 3 → rd s K.throttleLevel = 0) → g = { r with first := max r.first w } →
    old = s.pow.grants.filter (fun g => decide (w < g.first + g.span)) → t = grantWindow s w →
    (fits s (floors s) w old r g.first = true → t.pow.grants = old ++ [g] ∧ t.pow.reqs = []) ∧
    (fits s (floors s) w old r g.first = false →
      t.pow.grants = old ∧ t.pow.reqs = [{ r with waited := r.waited || decide (r.first ≤ w) }])) ∧
  (∀ (att : Bool) (die : Nat) (s t : State), t = stopSlices s →
    exec (.thermTrip att die) s = .next (emit (wr t K.lastTrip ((if att then 0x10 else 0x20) + die)) (.pin .thermTripN false)) ∧
    (∀ sl < 4, rd t (K.sliceState sl) = 4)) ∧
  (∀ (x : Temps) (s : State), ∃ t, exec (.thermalSample x) s = .next t ∧ rd t K.tjMaxNowC = maxNat (x.att ++ x.port) ∧
    t.pow.asked = max (maxNat ((upFrom 1 4).filter (fun l => decide (dieAt s l ≤ maxNat (x.att ++ x.port)))))
      (maxNat ((upFrom 1 4).filter (fun l => match hbmAt s l with | some h => decide (h ≤ maxNat x.hbm) | none => false))) ∧
    t.mem = s.mem ∧ t.kv = s.kv ∧ t.att = s.att) ∧
  (∀ (rails : List RailSample) (w : List Nat) (s : State), ∃ t, exec (.powerSample rails w) s = .next t ∧
    rd t K.nodePowerW = f32Div (sumNat ((rails.take 9).map RailSample.milliwatts)) 1000 ∧
    (((rails.take 9).zip railPeaks).any (fun p => decide (p.2 < p.1.amps)) = true → t.pow.railEc = some s.tm.ec) ∧
    t.mem = s.mem ∧ t.kv = s.kv ∧ t.att = s.att)

/-! ## Resets and start-up (R427, R443 to R455, R479, R480) -/

/-- R479, and parts of R403, R422, R426, R427, R443, R450, R454, R478, R480: a node reset takes every object that is not kept to its default, and the node boots; a node held in reset takes
none. The third watchdog expiry in a row before the slices have started enters recovery, and one before it boots the node again; later, and in recovery, it does nothing. The reset
input holds the node in reset, and its release boots it, or enters recovery by the strap; a power input that falls holds it. The log and an open debug
state are lost when the core rails come up, and the always-on objects take their defaults when VDD_AUX comes up. An autostart entry whose condition holds is
written, and the list goes on, or stops where the write fails; one whose condition does not come in time ends it. -/
def Obligations.ResetsTakeDefaults : Prop :=
  (∀ s : State, (s.sec.held = false → exec .nodeReset s = .next (boot (resetState s) false)) ∧
    (s.sec.held = true → exec .nodeReset s = .next s)) ∧
  (∀ (s : State) (k : Nat), (keptAtReset k = false → rd (resetState s) k = keyDflt k) ∧ (keptAtReset k = true → rd (resetState s) k = rd s k)) ∧
  (∀ s : State, (resetState s).mem.cells = [] ∧ (resetState s).log = s.log ∧ (resetState s).dq.banks = s.dq.banks ∧
    (resetState s).kv = KvSt.reset) ∧
  (∀ (s t : State), s.sec.held = false → inRecovery s = false → rd s K.nodeStartState < 3 →
    t = resetState (wr s K.bootFailures (min 255 (rd s K.bootFailures + 1))) →
    (rd s K.bootFailures < 2 → exec .controlCoreWatchdog s = .next (boot t false)) ∧
    (2 ≤ rd s K.bootFailures → exec .controlCoreWatchdog s = .next (recover (loadStore t) 4 0))) ∧
  (∀ s : State, s.sec.held = true ∨ inRecovery s = true ∨ 3 ≤ rd s K.nodeStartState → exec .controlCoreWatchdog s = .next s) ∧
  (∀ (s t : State), t = resetState s →
    (s.sec.rstLow = false → exec .nodeRstNAssert s = .next { t with sec := { t.sec with rstLow := true, held := true } }) ∧
    (s.sec.rstLow = true → exec .nodeRstNAssert s = .next s) ∧
    exec .pwrOkCoreDrop s = .next { t with sec := { t.sec with held := true } }) ∧
  (∀ (strap : Bool) (s : State),
    (s.sec.rstLow = true → exec (.nodeRstNRelease strap) s
      = .next (boot (resetState { s with sec := { s.sec with rstLow := false, held := false } }) strap)) ∧
    (s.sec.rstLow = false → exec (.nodeRstNRelease strap) s = .next s)) ∧
  (∀ s : State, rd (boot s true) K.nodeStartState = 5 ∧ rd (boot s true) K.recoveryReason = 3) ∧
  (∀ s : State, ∃ t, exec .coreRailsPowerUp s = .next t ∧ t.log = [] ∧ rd t K.logHead = 0 ∧ rd t K.logCount = 0 ∧
    rd t K.debugState = (if rd s K.debugState = 2 then (if rd s K.lifecycle = 2 then 1 else 0) else rd s K.debugState) ∧
    (∀ k, k ≠ K.logHead → k ≠ K.logCount → k ≠ K.debugState → rd t k = rd s k)) ∧
  (∀ s : State, ∃ t, exec .vddAuxPowerUp s = .next t ∧ t = { s with dict := t.dict } ∧
    ∀ k, rd t k = if persOf k = some .alwaysOn then keyDflt k else rd s k) ∧
  (∀ (s t : State) (ok : Bool), rd s K.autostartState = 1 → autoReady s (autoEntry s) = true →
    internalWrite handler s (bits (autoEntry s) 48 16) (bits (autoEntry s) 40 8) [1] = (t, ok) →
    (ok = true → exec .autostartWaitEnd s = .next (autoAt t (rd s K.autostartPosition + 1))) ∧
    (ok = false → exec .autostartWaitEnd s = .next (wr t K.autostartState 3))) ∧
  (∀ s : State, rd s K.autostartState ≠ 1 ∨ autoReady s (autoEntry s) = false → exec .autostartWaitEnd s = .next s) ∧
  (∀ s : State,
    (rd s K.autostartState = 1 → autoReady s (autoEntry s) = false → autoOver s = true →
      exec .autostartTimeout s = .next (wr s K.autostartState 4)) ∧
    (rd s K.autostartState ≠ 1 ∨ autoReady s (autoEntry s) = true ∨ autoOver s = false → exec .autostartTimeout s = .next s))

/-! ## Reset, frames and invariants -/

/-- Parts of R35, R450: after reset every object of the dictionary reads its default, no slice is in service, nothing is held or waiting, and
memory lists nothing. (What the model adds beside the manual's objects, its free values and ids, is the model's own.) -/
def Obligations.ResetLeavesDefaults : Prop :=
  (∀ k, rd State.reset k = keyDflt k) ∧ State.reset.pending = [] ∧ State.reset.mem.cells = [] ∧ State.reset.att.taken = [] ∧
  State.reset.dirs = [] ∧ State.reset.log = [] ∧ (∀ sl < 4, rd State.reset (K.sliceState sl) = 0) ∧
  (∀ k ∈ enableKeys, rd State.reset k = 0) ∧ rd State.reset K.htState = 0 ∧ rd State.reset K.nodeNumber = 0xFFFF ∧
  rd State.reset K.membershipState = 0

/-- The invariant holds at reset. -/
def Obligations.ResetMeetsTheInvariant : Prop := State.reset.Inv

/-- Every step keeps the invariant: the memory, the dictionary and the log stay in their canonical forms, and there are four scoring
stacks. -/
def Obligations.EveryStepKeepsTheInvariant : Prop := ∀ s t : State, s.Inv → step s = .next t → t.Inv

/-- The frame of the commands of Herd Time, steps, the Herd's messages, links, the mailbox and power that only keep or send what they say:
every byte of memory, the cache, the directory and the scoring stacks stay as they were. -/
def Obligations.MessagesLeaveMemoryAlone : Prop :=
  ∀ (c : Instr) (s t : State), sendsOnly c = true → exec c s = .next t → t.mem = s.mem ∧ t.kv = s.kv ∧ t.dirs = s.dirs ∧ t.arrays = s.arrays

/-- Every command ends in a next state, whatever the state: none faults and none is refused (NOTES.md, Stops). -/
def Obligations.EveryCommandCompletes : Prop := ∀ (c : Instr) (s : State), Completes (exec c s)
end

