-- ==== Sys2Proof/Laws/Dict.lean ====
section
/-! SUPPORT. What the front end of the dictionary does: a write that is taken and allowed reaches its handler, and is
answered with the handler's outcome. -/

namespace Sys2Proof.Machine

theorem vendorRange_eq_false {idx : Nat} (h : idx < 0xF000) : vendorRange idx = false := by
  simp [vendorRange]; omega

/-- The request of a row is well formed. -/
@[simp] theorem malformed_rowPdu (w : WReq) (idx sub off : Nat) (l : List Byte) : malformed (rowPdu w idx sub off l) = false := by
  simp [malformed, rowPdu]

@[simp] theorem rowPdu_index (w : WReq) (idx sub off : Nat) (l : List Byte) : (rowPdu w idx sub off l).index = idx := rfl
@[simp] theorem rowPdu_subindex (w : WReq) (idx sub off : Nat) (l : List Byte) : (rowPdu w idx sub off l).subindex = sub := rfl
@[simp] theorem rowPdu_offset (w : WReq) (idx sub off : Nat) (l : List Byte) : (rowPdu w idx sub off l).offset = off := rfl
@[simp] theorem rowPdu_payload (w : WReq) (idx sub off : Nat) (l : List Byte) : (rowPdu w idx sub off l).payload = l := rfl
@[simp] theorem rowPdu_transaction (w : WReq) (idx sub off : Nat) (l : List Byte) :
    (rowPdu w idx sub off l).transaction = w.txn := rfl
@[simp] theorem rowPdu_crcOk (w : WReq) (idx sub off : Nat) (l : List Byte) : (rowPdu w idx sub off l).crcOk = true := rfl

/-- A request that is taken for the first time is served. -/
theorem takePdu_taken {s : State} {via : Via} {p : Pdu} (serve : State → State) (h : Taken s via p.transaction)
    (hc : p.crcOk = true) (hm : malformed p = false) : takePdu s via p serve = serve s := by
  obtain ⟨h1, h2, h3⟩ := h
  simp [takePdu, h1, h2, h3, hc, hm]

/-- Whether an object takes a payload of one value: its class lets it be written and its size fits (R31, R32). -/
def Fits (o : Obj) (payload : List Byte) : Prop :=
  o.acc ≠ .ro ∧ o.acc ≠ .const ∧ payload.length = o.ty.size ∧ payload.length ≤ 1024

/-- A write that is taken and allowed, of an object that fits, is answered with what its handler says. -/
theorem rowWrite_handled {s : State} {w : WReq} {idx sub : Nat} {payload : List Byte} {o : Obj} (h : Handler)
    (ht : Taken s w.via w.txn) (hw : MayWriteTo s w.via idx sub) (hi : idx < 0xF000) (ho : findObj idx sub = some o)
    (hf : Fits o payload) (ha : (sub == 0 && (arrayCount idx).isSome) = false) :
    rowWrite s w idx sub 0 payload h
      = finish (h s w payload).1 w.via (rowPdu w idx sub 0 payload) (h s w payload).2 := by
  obtain ⟨hw1, hw2, hw3⟩ := hw
  obtain ⟨f1, f2, f3, f4⟩ := hf
  have hr : (inRecovery s && !recoveryServes idx sub true) = false := by
    rcases hw2 with h | h <;> simp [h]
  unfold rowWrite
  rw [takePdu_taken (p := rowPdu w idx sub 0 payload) _ ht rfl (malformed_rowPdu ..)]
  simp only [serveWrite, rowPdu_index, rowPdu_subindex, rowPdu_payload, rowPdu_offset, rowPdu_transaction,
    vendorRange_eq_false hi, hw1, hr, ho, ha, hw3, Bool.false_eq_true, ↓reduceIte, Bool.not_true, Bool.not_false,
    Bool.true_and, f3]
  have e1 : (o.acc == Acc.ro || o.acc == Acc.const) = false := by simp [f1, f2]
  simp only [e1, Bool.false_eq_true, ↓reduceIte, bne_self_eq_false, Bool.or_self]
  cases hty : o.ty <;> simp_all [Ty.size] <;> omega

end Sys2Proof.Machine
end

