-- ==== Sys2Proof/Laws/Table.lean ====
section
/-! SUPPORT. Tables and memory: what an entry reads as after each operation, and that the canonical form is kept. -/

namespace Sys2Proof.Machine

variable {α : Type}

theorem tget?_terase (t : Tbl α) (n m : Nat) : tget? (terase t n) m = if m = n then none else tget? t m := by
  induction t with
  | nil => simp [terase, tget?]
  | cons p t ih =>
    obtain ⟨k, v⟩ := p
    by_cases h : k = n
    · subst h
      simp only [terase, ↓reduceIte, ih, tget?]
      by_cases hm : m = k <;> simp [hm, eq_comm]
    · simp only [terase, h, ↓reduceIte, tget?, ih]
      by_cases hm : m = n
      · subst hm; simp [h]
      · simp [hm]

/-- No entry of a table has a key. -/
def Free (t : Tbl α) (n : Nat) : Prop := ∀ p ∈ t, p.1 ≠ n

theorem free_terase (t : Tbl α) (n : Nat) : Free (terase t n) n := by
  induction t with
  | nil => simp [Free, terase]
  | cons p t ih =>
    obtain ⟨k, v⟩ := p
    by_cases h : k = n
    · simpa [terase, h] using ih
    · simp only [terase, h, ↓reduceIte]
      intro q hq
      rcases List.mem_cons.mp hq with rfl | hq
      · exact h
      · exact ih q hq

theorem tget?_tput (t : Tbl α) (n m : Nat) (v : α) (hf : Free t n) :
    tget? (tput t n v) m = if m = n then some v else tget? t m := by
  induction t with
  | nil => simp [tput, tget?, eq_comm]
  | cons p t ih =>
    obtain ⟨k, w⟩ := p
    have hk : k ≠ n := hf (k, w) List.mem_cons_self
    have hf' : Free t n := fun q hq => hf q (List.mem_cons_of_mem _ hq)
    simp only [tput]
    by_cases h : n < k
    · simp only [h, ↓reduceIte, tget?]
      by_cases hm : m = n
      · subst hm; simp
      · simp [hm, Ne.symm hm]
    · simp only [h, ↓reduceIte, tget?, ih hf']
      by_cases hm : m = n
      · subst hm; simp [hk]
      · simp [hm]

@[simp] theorem tget?_tset (t : Tbl α) (n m : Nat) (v : α) :
    tget? (tset t n v) m = if m = n then some v else tget? t m := by
  rw [tset, tget?_tput _ _ _ _ (free_terase t n), tget?_terase]
  by_cases h : m = n <;> simp [h]

@[simp] theorem tget_tset (t : Tbl α) (n m : Nat) (v d : α) :
    tget (tset t n v) m d = if m = n then v else tget t m d := by
  simp only [tget, tget?_tset]; split <;> simp

theorem tget_tsetD [DecidableEq α] (t : Tbl α) (n m : Nat) (v d : α) :
    tget (tsetD t n v d) m d = if m = n then v else tget t m d := by
  unfold tsetD
  split
  · next h => simp only [tget, tget?_terase]; split <;> simp_all
  · simp

/-- Filtering by key keeps or drops an entry by its key. -/
theorem tget?_filter (t : Tbl α) (f : Nat → Bool) (m : Nat) :
    tget? (t.filter (fun p => f p.1)) m = if f m then tget? t m else none := by
  induction t with
  | nil => simp [tget?]
  | cons p t ih =>
    obtain ⟨k, v⟩ := p
    by_cases hk : f k = true
    · simp only [List.filter_cons, hk, ↓reduceIte, tget?, ih]
      by_cases hm : k = m
      · subst hm; simp [hk]
      · simp [hm]
    · simp only [List.filter_cons, hk, tget?, Bool.false_eq_true, ↓reduceIte]
      by_cases hm : k = m
      · subst hm; simpa [hk] using ih
      · simpa [hm] using ih

/-! ## The canonical form -/

/-- Every key of a table is above a bound. -/
def Above (n : Nat) (t : Tbl α) : Prop := ∀ p ∈ t, n < p.1

theorem twf_cons {k : Nat} {v : α} {t : Tbl α} : twf ((k, v) :: t) = true ↔ Above k t ∧ twf t = true := by
  induction t generalizing k v with
  | nil => simp [twf, Above]
  | cons q t ih =>
    obtain ⟨b, w⟩ := q
    simp only [twf, Bool.and_eq_true, decide_eq_true_eq]
    constructor
    · rintro ⟨h, ht⟩
      refine ⟨?_, ht⟩
      intro p hp
      rcases List.mem_cons.mp hp with rfl | hp
      · exact h
      · exact Nat.lt_trans h ((ih.mp ht).1 p hp)
    · rintro ⟨h, ht⟩
      exact ⟨h (b, w) List.mem_cons_self, ht⟩

theorem twf_filter {t : Tbl α} (f : Nat × α → Bool) (h : twf t = true) : twf (t.filter f) = true := by
  induction t with
  | nil => simp [twf]
  | cons p t ih =>
    obtain ⟨k, v⟩ := p
    obtain ⟨ha, ht⟩ := twf_cons.mp h
    by_cases hf : f (k, v) = true
    · simp only [List.filter_cons, hf, ↓reduceIte]
      exact twf_cons.mpr ⟨fun q hq => ha q (List.mem_filter.mp hq).1, ih ht⟩
    · simpa [List.filter_cons, hf] using ih ht

theorem terase_eq_filter (t : Tbl α) (n : Nat) : terase t n = t.filter (fun p => p.1 != n) := by
  induction t with
  | nil => rfl
  | cons p t ih =>
    obtain ⟨k, v⟩ := p
    by_cases h : k = n <;> simp [terase, h, ih]

theorem twf_terase {t : Tbl α} (n : Nat) (h : twf t = true) : twf (terase t n) = true := by
  rw [terase_eq_filter]; exact twf_filter _ h

theorem above_tput {t : Tbl α} {k n : Nat} {v : α} (h : Above k t) (hk : k < n) : Above k (tput t n v) := by
  induction t with
  | nil => intro p hp; simp [tput] at hp; subst hp; exact hk
  | cons q t ih =>
    obtain ⟨b, w⟩ := q
    have hb : k < b := h (b, w) List.mem_cons_self
    have h' : Above k t := fun p hp => h p (List.mem_cons_of_mem _ hp)
    simp only [tput]
    split
    · intro p hp
      rcases List.mem_cons.mp hp with rfl | hp
      · exact hk
      · exact h p hp
    · intro p hp
      rcases List.mem_cons.mp hp with rfl | hp
      · exact hb
      · exact ih h' p hp

theorem twf_tput {t : Tbl α} {n : Nat} {v : α} (hf : Free t n) (h : twf t = true) : twf (tput t n v) = true := by
  induction t with
  | nil => simp [tput, twf]
  | cons q t ih =>
    obtain ⟨b, w⟩ := q
    obtain ⟨ha, ht⟩ := twf_cons.mp h
    have hb : b ≠ n := hf (b, w) List.mem_cons_self
    simp only [tput]
    split
    · next hlt =>
      refine twf_cons.mpr ⟨?_, h⟩
      intro p hp
      rcases List.mem_cons.mp hp with rfl | hp
      · exact hlt
      · exact Nat.lt_trans hlt (ha p hp)
    · next hlt =>
      exact twf_cons.mpr ⟨above_tput ha (by omega), ih (fun p hp => hf p (List.mem_cons_of_mem _ hp)) ht⟩

theorem twf_tset {t : Tbl α} (n : Nat) (v : α) (h : twf t = true) : twf (tset t n v) = true :=
  twf_tput (free_terase t n) (twf_terase n h)

/-! ## Memory -/

theorem mem_tput {t : Tbl α} {n : Nat} {v : α} {p : Nat × α} (hp : p ∈ tput t n v) : p = (n, v) ∨ p ∈ t := by
  induction t with
  | nil => simpa [tput] using hp
  | cons q t ih =>
    obtain ⟨b, w⟩ := q
    simp only [tput] at hp
    split at hp
    · simpa using hp
    · rcases List.mem_cons.mp hp with rfl | hp
      · simp
      · rcases ih hp with h | h <;> simp [h]

theorem memWf_filter {m : List Host.Cell} (f : Host.Cell → Bool) (h : Mem.wf m = true) : Mem.wf (m.filter f) = true := by
  simp only [Mem.wf, Bool.and_eq_true, List.all_eq_true] at h ⊢
  exact ⟨twf_filter f h.1, fun c hc => h.2 c (List.mem_filter.mp hc).1⟩

/-- Writing a byte keeps the canonical form. -/
theorem memWf_set {m : List Host.Cell} (a : Nat) (b : Byte) (h : Mem.wf m = true) : Mem.wf (Mem.set m a b) = true := by
  have he : Mem.wf (terase m a) = true := by rw [terase_eq_filter]; exact memWf_filter _ h
  unfold Mem.set tsetD
  split
  · exact he
  · next hb =>
    simp only [Mem.wf, Bool.and_eq_true, List.all_eq_true] at he ⊢
    refine ⟨twf_tput (free_terase m a) he.1, fun c hc => ?_⟩
    rcases mem_tput hc with rfl | hc
    · simpa using hb
    · exact he.2 c hc

/-- Writing bytes keeps the canonical form. -/
theorem memWf_write {m : List Host.Cell} (a : Nat) (l : List Byte) (h : Mem.wf m = true) : Mem.wf (Mem.write m a l) = true := by
  induction l generalizing m a with
  | nil => simpa [Mem.write] using h
  | cons b r ih => simpa [Mem.write] using ih (a + 1) (memWf_set a b h)

/-- Clearing a range keeps the canonical form. -/
theorem memWf_clear {m : List Host.Cell} (a n : Nat) (h : Mem.wf m = true) : Mem.wf (Mem.clear m a n) = true := memWf_filter _ h

/-- A byte reads as it was written, and every other byte as before. -/
theorem memGet_set (m : List Host.Cell) (a c : Nat) (b : Byte) : Mem.get (Mem.set m a b) c = if c = a then b else Mem.get m c :=
  tget_tsetD m a c b 0

/-- Bytes outside a write read as before. -/
theorem memGet_write_outside (m : List Host.Cell) (a c : Nat) (l : List Byte) (h : c < a ∨ a + l.length ≤ c) :
    Mem.get (Mem.write m a l) c = Mem.get m c := by
  induction l generalizing m a with
  | nil => rfl
  | cons b r ih =>
    simp only [List.length_cons] at h
    rw [Mem.write, ih _ _ (by omega), memGet_set, if_neg (by omega)]

theorem mem_upFrom {a n k : Nat} : k ∈ upFrom a n ↔ a ≤ k ∧ k < a + n := by
  induction n generalizing a with
  | zero => simp [upFrom]
  | succ n ih => simp only [upFrom, List.mem_cons, ih]; omega

end Sys2Proof.Machine
end

