-- ==== Sys2Proof/Laws/State.lean ====
section
/-! SUPPORT. One lemma per field per update of the state: an operation changes its own field and leaves the others. -/

namespace Sys2Proof.Machine

@[simp] theorem wr_pending (s : State) (k v : Nat) : (wr s k v).pending = s.pending := rfl
@[simp] theorem wr_out (s : State) (k v : Nat) : (wr s k v).out = s.out := rfl
@[simp] theorem wr_free (s : State) (k v : Nat) : (wr s k v).free = s.free := rfl
@[simp] theorem wr_nextId (s : State) (k v : Nat) : (wr s k v).nextId = s.nextId := rfl
@[simp] theorem wr_dq (s : State) (k v : Nat) : (wr s k v).dq = s.dq := rfl
@[simp] theorem wr_tm (s : State) (k v : Nat) : (wr s k v).tm = s.tm := rfl
@[simp] theorem wr_herd (s : State) (k v : Nat) : (wr s k v).herd = s.herd := rfl
@[simp] theorem wr_sch (s : State) (k v : Nat) : (wr s k v).sch = s.sch := rfl
@[simp] theorem wr_att (s : State) (k v : Nat) : (wr s k v).att = s.att := rfl
@[simp] theorem wr_kv (s : State) (k v : Nat) : (wr s k v).kv = s.kv := rfl
@[simp] theorem wr_dirs (s : State) (k v : Nat) : (wr s k v).dirs = s.dirs := rfl
@[simp] theorem wr_trees (s : State) (k v : Nat) : (wr s k v).trees = s.trees := rfl
@[simp] theorem wr_ctxs (s : State) (k v : Nat) : (wr s k v).ctxs = s.ctxs := rfl
@[simp] theorem wr_ctxWait (s : State) (k v : Nat) : (wr s k v).ctxWait = s.ctxWait := rfl
@[simp] theorem wr_arrays (s : State) (k v : Nat) : (wr s k v).arrays = s.arrays := rfl
@[simp] theorem wr_fences (s : State) (k v : Nat) : (wr s k v).fences = s.fences := rfl
@[simp] theorem wr_mem (s : State) (k v : Nat) : (wr s k v).mem = s.mem := rfl
@[simp] theorem wr_log (s : State) (k v : Nat) : (wr s k v).log = s.log := rfl
@[simp] theorem wr_outbox (s : State) (k v : Nat) : (wr s k v).outbox = s.outbox := rfl
@[simp] theorem wr_sessions (s : State) (k v : Nat) : (wr s k v).sessions = s.sessions := rfl
@[simp] theorem wr_holds (s : State) (k v : Nat) : (wr s k v).holds = s.holds := rfl
@[simp] theorem wr_dirTaken (s : State) (k v : Nat) : (wr s k v).dirTaken = s.dirTaken := rfl
@[simp] theorem wr_comp (s : State) (k v : Nat) : (wr s k v).comp = s.comp := rfl
@[simp] theorem wr_host (s : State) (k v : Nat) : (wr s k v).host = s.host := rfl
@[simp] theorem wr_rel (s : State) (k v : Nat) : (wr s k v).rel = s.rel := rfl
@[simp] theorem wr_srch (s : State) (k v : Nat) : (wr s k v).srch = s.srch := rfl
@[simp] theorem wr_pow (s : State) (k v : Nat) : (wr s k v).pow = s.pow := rfl
@[simp] theorem wr_net (s : State) (k v : Nat) : (wr s k v).net = s.net := rfl
@[simp] theorem wr_sec (s : State) (k v : Nat) : (wr s k v).sec = s.sec := rfl

@[simp] theorem bump_pending (s : State) (k n : Nat) : (bump s k n).pending = s.pending := rfl
@[simp] theorem bump_out (s : State) (k n : Nat) : (bump s k n).out = s.out := rfl
@[simp] theorem bump_free (s : State) (k n : Nat) : (bump s k n).free = s.free := rfl
@[simp] theorem bump_nextId (s : State) (k n : Nat) : (bump s k n).nextId = s.nextId := rfl
@[simp] theorem bump_dq (s : State) (k n : Nat) : (bump s k n).dq = s.dq := rfl
@[simp] theorem bump_tm (s : State) (k n : Nat) : (bump s k n).tm = s.tm := rfl
@[simp] theorem bump_herd (s : State) (k n : Nat) : (bump s k n).herd = s.herd := rfl
@[simp] theorem bump_sch (s : State) (k n : Nat) : (bump s k n).sch = s.sch := rfl
@[simp] theorem bump_att (s : State) (k n : Nat) : (bump s k n).att = s.att := rfl
@[simp] theorem bump_kv (s : State) (k n : Nat) : (bump s k n).kv = s.kv := rfl
@[simp] theorem bump_dirs (s : State) (k n : Nat) : (bump s k n).dirs = s.dirs := rfl
@[simp] theorem bump_trees (s : State) (k n : Nat) : (bump s k n).trees = s.trees := rfl
@[simp] theorem bump_ctxs (s : State) (k n : Nat) : (bump s k n).ctxs = s.ctxs := rfl
@[simp] theorem bump_ctxWait (s : State) (k n : Nat) : (bump s k n).ctxWait = s.ctxWait := rfl
@[simp] theorem bump_arrays (s : State) (k n : Nat) : (bump s k n).arrays = s.arrays := rfl
@[simp] theorem bump_fences (s : State) (k n : Nat) : (bump s k n).fences = s.fences := rfl
@[simp] theorem bump_mem (s : State) (k n : Nat) : (bump s k n).mem = s.mem := rfl
@[simp] theorem bump_log (s : State) (k n : Nat) : (bump s k n).log = s.log := rfl
@[simp] theorem bump_outbox (s : State) (k n : Nat) : (bump s k n).outbox = s.outbox := rfl
@[simp] theorem bump_sessions (s : State) (k n : Nat) : (bump s k n).sessions = s.sessions := rfl
@[simp] theorem bump_holds (s : State) (k n : Nat) : (bump s k n).holds = s.holds := rfl
@[simp] theorem bump_dirTaken (s : State) (k n : Nat) : (bump s k n).dirTaken = s.dirTaken := rfl
@[simp] theorem bump_comp (s : State) (k n : Nat) : (bump s k n).comp = s.comp := rfl
@[simp] theorem bump_host (s : State) (k n : Nat) : (bump s k n).host = s.host := rfl
@[simp] theorem bump_rel (s : State) (k n : Nat) : (bump s k n).rel = s.rel := rfl
@[simp] theorem bump_srch (s : State) (k n : Nat) : (bump s k n).srch = s.srch := rfl
@[simp] theorem bump_pow (s : State) (k n : Nat) : (bump s k n).pow = s.pow := rfl
@[simp] theorem bump_net (s : State) (k n : Nat) : (bump s k n).net = s.net := rfl
@[simp] theorem bump_sec (s : State) (k n : Nat) : (bump s k n).sec = s.sec := rfl

@[simp] theorem emit_pending (s : State) (o : Out) : (emit s o).pending = s.pending := rfl
@[simp] theorem emit_free (s : State) (o : Out) : (emit s o).free = s.free := rfl
@[simp] theorem emit_nextId (s : State) (o : Out) : (emit s o).nextId = s.nextId := rfl
@[simp] theorem emit_dict (s : State) (o : Out) : (emit s o).dict = s.dict := rfl
@[simp] theorem emit_dq (s : State) (o : Out) : (emit s o).dq = s.dq := rfl
@[simp] theorem emit_tm (s : State) (o : Out) : (emit s o).tm = s.tm := rfl
@[simp] theorem emit_herd (s : State) (o : Out) : (emit s o).herd = s.herd := rfl
@[simp] theorem emit_sch (s : State) (o : Out) : (emit s o).sch = s.sch := rfl
@[simp] theorem emit_att (s : State) (o : Out) : (emit s o).att = s.att := rfl
@[simp] theorem emit_kv (s : State) (o : Out) : (emit s o).kv = s.kv := rfl
@[simp] theorem emit_dirs (s : State) (o : Out) : (emit s o).dirs = s.dirs := rfl
@[simp] theorem emit_trees (s : State) (o : Out) : (emit s o).trees = s.trees := rfl
@[simp] theorem emit_ctxs (s : State) (o : Out) : (emit s o).ctxs = s.ctxs := rfl
@[simp] theorem emit_ctxWait (s : State) (o : Out) : (emit s o).ctxWait = s.ctxWait := rfl
@[simp] theorem emit_arrays (s : State) (o : Out) : (emit s o).arrays = s.arrays := rfl
@[simp] theorem emit_fences (s : State) (o : Out) : (emit s o).fences = s.fences := rfl
@[simp] theorem emit_mem (s : State) (o : Out) : (emit s o).mem = s.mem := rfl
@[simp] theorem emit_log (s : State) (o : Out) : (emit s o).log = s.log := rfl
@[simp] theorem emit_outbox (s : State) (o : Out) : (emit s o).outbox = s.outbox := rfl
@[simp] theorem emit_sessions (s : State) (o : Out) : (emit s o).sessions = s.sessions := rfl
@[simp] theorem emit_holds (s : State) (o : Out) : (emit s o).holds = s.holds := rfl
@[simp] theorem emit_dirTaken (s : State) (o : Out) : (emit s o).dirTaken = s.dirTaken := rfl
@[simp] theorem emit_comp (s : State) (o : Out) : (emit s o).comp = s.comp := rfl
@[simp] theorem emit_host (s : State) (o : Out) : (emit s o).host = s.host := rfl
@[simp] theorem emit_rel (s : State) (o : Out) : (emit s o).rel = s.rel := rfl
@[simp] theorem emit_srch (s : State) (o : Out) : (emit s o).srch = s.srch := rfl
@[simp] theorem emit_pow (s : State) (o : Out) : (emit s o).pow = s.pow := rfl
@[simp] theorem emit_net (s : State) (o : Out) : (emit s o).net = s.net := rfl
@[simp] theorem emit_sec (s : State) (o : Out) : (emit s o).sec = s.sec := rfl

@[simp] theorem post_pending (s : State) (d v : Nat) (b : Body) : (post s d v b).pending = s.pending := rfl
@[simp] theorem post_out (s : State) (d v : Nat) (b : Body) : (post s d v b).out = s.out := rfl
@[simp] theorem post_free (s : State) (d v : Nat) (b : Body) : (post s d v b).free = s.free := rfl
@[simp] theorem post_nextId (s : State) (d v : Nat) (b : Body) : (post s d v b).nextId = s.nextId := rfl
@[simp] theorem post_dict (s : State) (d v : Nat) (b : Body) : (post s d v b).dict = s.dict := rfl
@[simp] theorem post_dq (s : State) (d v : Nat) (b : Body) : (post s d v b).dq = s.dq := rfl
@[simp] theorem post_tm (s : State) (d v : Nat) (b : Body) : (post s d v b).tm = s.tm := rfl
@[simp] theorem post_herd (s : State) (d v : Nat) (b : Body) : (post s d v b).herd = s.herd := rfl
@[simp] theorem post_sch (s : State) (d v : Nat) (b : Body) : (post s d v b).sch = s.sch := rfl
@[simp] theorem post_att (s : State) (d v : Nat) (b : Body) : (post s d v b).att = s.att := rfl
@[simp] theorem post_kv (s : State) (d v : Nat) (b : Body) : (post s d v b).kv = s.kv := rfl
@[simp] theorem post_dirs (s : State) (d v : Nat) (b : Body) : (post s d v b).dirs = s.dirs := rfl
@[simp] theorem post_trees (s : State) (d v : Nat) (b : Body) : (post s d v b).trees = s.trees := rfl
@[simp] theorem post_ctxs (s : State) (d v : Nat) (b : Body) : (post s d v b).ctxs = s.ctxs := rfl
@[simp] theorem post_ctxWait (s : State) (d v : Nat) (b : Body) : (post s d v b).ctxWait = s.ctxWait := rfl
@[simp] theorem post_arrays (s : State) (d v : Nat) (b : Body) : (post s d v b).arrays = s.arrays := rfl
@[simp] theorem post_fences (s : State) (d v : Nat) (b : Body) : (post s d v b).fences = s.fences := rfl
@[simp] theorem post_mem (s : State) (d v : Nat) (b : Body) : (post s d v b).mem = s.mem := rfl
@[simp] theorem post_log (s : State) (d v : Nat) (b : Body) : (post s d v b).log = s.log := rfl
@[simp] theorem post_sessions (s : State) (d v : Nat) (b : Body) : (post s d v b).sessions = s.sessions := rfl
@[simp] theorem post_holds (s : State) (d v : Nat) (b : Body) : (post s d v b).holds = s.holds := rfl
@[simp] theorem post_dirTaken (s : State) (d v : Nat) (b : Body) : (post s d v b).dirTaken = s.dirTaken := rfl
@[simp] theorem post_comp (s : State) (d v : Nat) (b : Body) : (post s d v b).comp = s.comp := rfl
@[simp] theorem post_host (s : State) (d v : Nat) (b : Body) : (post s d v b).host = s.host := rfl
@[simp] theorem post_rel (s : State) (d v : Nat) (b : Body) : (post s d v b).rel = s.rel := rfl
@[simp] theorem post_srch (s : State) (d v : Nat) (b : Body) : (post s d v b).srch = s.srch := rfl
@[simp] theorem post_pow (s : State) (d v : Nat) (b : Body) : (post s d v b).pow = s.pow := rfl
@[simp] theorem post_net (s : State) (d v : Nat) (b : Body) : (post s d v b).net = s.net := rfl
@[simp] theorem post_sec (s : State) (d v : Nat) (b : Body) : (post s d v b).sec = s.sec := rfl

@[simp] theorem postFor_pending (s : State) (g d v : Nat) (b : Body) : (postFor s g d v b).pending = s.pending := rfl
@[simp] theorem postFor_out (s : State) (g d v : Nat) (b : Body) : (postFor s g d v b).out = s.out := rfl
@[simp] theorem postFor_free (s : State) (g d v : Nat) (b : Body) : (postFor s g d v b).free = s.free := rfl
@[simp] theorem postFor_nextId (s : State) (g d v : Nat) (b : Body) : (postFor s g d v b).nextId = s.nextId := rfl
@[simp] theorem postFor_dict (s : State) (g d v : Nat) (b : Body) : (postFor s g d v b).dict = s.dict := rfl
@[simp] theorem postFor_dq (s : State) (g d v : Nat) (b : Body) : (postFor s g d v b).dq = s.dq := rfl
@[simp] theorem postFor_tm (s : State) (g d v : Nat) (b : Body) : (postFor s g d v b).tm = s.tm := rfl
@[simp] theorem postFor_herd (s : State) (g d v : Nat) (b : Body) : (postFor s g d v b).herd = s.herd := rfl
@[simp] theorem postFor_sch (s : State) (g d v : Nat) (b : Body) : (postFor s g d v b).sch = s.sch := rfl
@[simp] theorem postFor_att (s : State) (g d v : Nat) (b : Body) : (postFor s g d v b).att = s.att := rfl
@[simp] theorem postFor_kv (s : State) (g d v : Nat) (b : Body) : (postFor s g d v b).kv = s.kv := rfl
@[simp] theorem postFor_dirs (s : State) (g d v : Nat) (b : Body) : (postFor s g d v b).dirs = s.dirs := rfl
@[simp] theorem postFor_trees (s : State) (g d v : Nat) (b : Body) : (postFor s g d v b).trees = s.trees := rfl
@[simp] theorem postFor_ctxs (s : State) (g d v : Nat) (b : Body) : (postFor s g d v b).ctxs = s.ctxs := rfl
@[simp] theorem postFor_ctxWait (s : State) (g d v : Nat) (b : Body) : (postFor s g d v b).ctxWait = s.ctxWait := rfl
@[simp] theorem postFor_arrays (s : State) (g d v : Nat) (b : Body) : (postFor s g d v b).arrays = s.arrays := rfl
@[simp] theorem postFor_fences (s : State) (g d v : Nat) (b : Body) : (postFor s g d v b).fences = s.fences := rfl
@[simp] theorem postFor_mem (s : State) (g d v : Nat) (b : Body) : (postFor s g d v b).mem = s.mem := rfl
@[simp] theorem postFor_log (s : State) (g d v : Nat) (b : Body) : (postFor s g d v b).log = s.log := rfl
@[simp] theorem postFor_sessions (s : State) (g d v : Nat) (b : Body) : (postFor s g d v b).sessions = s.sessions := rfl
@[simp] theorem postFor_holds (s : State) (g d v : Nat) (b : Body) : (postFor s g d v b).holds = s.holds := rfl
@[simp] theorem postFor_dirTaken (s : State) (g d v : Nat) (b : Body) : (postFor s g d v b).dirTaken = s.dirTaken := rfl
@[simp] theorem postFor_comp (s : State) (g d v : Nat) (b : Body) : (postFor s g d v b).comp = s.comp := rfl
@[simp] theorem postFor_host (s : State) (g d v : Nat) (b : Body) : (postFor s g d v b).host = s.host := rfl
@[simp] theorem postFor_rel (s : State) (g d v : Nat) (b : Body) : (postFor s g d v b).rel = s.rel := rfl
@[simp] theorem postFor_srch (s : State) (g d v : Nat) (b : Body) : (postFor s g d v b).srch = s.srch := rfl
@[simp] theorem postFor_pow (s : State) (g d v : Nat) (b : Body) : (postFor s g d v b).pow = s.pow := rfl
@[simp] theorem postFor_net (s : State) (g d v : Nat) (b : Body) : (postFor s g d v b).net = s.net := rfl
@[simp] theorem postFor_sec (s : State) (g d v : Nat) (b : Body) : (postFor s g d v b).sec = s.sec := rfl

@[simp] theorem mgmt_pending (s : State) (d : Nat) (b : Body) : (mgmt s d b).pending = s.pending := rfl
@[simp] theorem mgmt_out (s : State) (d : Nat) (b : Body) : (mgmt s d b).out = s.out := rfl
@[simp] theorem mgmt_free (s : State) (d : Nat) (b : Body) : (mgmt s d b).free = s.free := rfl
@[simp] theorem mgmt_nextId (s : State) (d : Nat) (b : Body) : (mgmt s d b).nextId = s.nextId := rfl
@[simp] theorem mgmt_dict (s : State) (d : Nat) (b : Body) : (mgmt s d b).dict = s.dict := rfl
@[simp] theorem mgmt_dq (s : State) (d : Nat) (b : Body) : (mgmt s d b).dq = s.dq := rfl
@[simp] theorem mgmt_tm (s : State) (d : Nat) (b : Body) : (mgmt s d b).tm = s.tm := rfl
@[simp] theorem mgmt_herd (s : State) (d : Nat) (b : Body) : (mgmt s d b).herd = s.herd := rfl
@[simp] theorem mgmt_sch (s : State) (d : Nat) (b : Body) : (mgmt s d b).sch = s.sch := rfl
@[simp] theorem mgmt_att (s : State) (d : Nat) (b : Body) : (mgmt s d b).att = s.att := rfl
@[simp] theorem mgmt_kv (s : State) (d : Nat) (b : Body) : (mgmt s d b).kv = s.kv := rfl
@[simp] theorem mgmt_dirs (s : State) (d : Nat) (b : Body) : (mgmt s d b).dirs = s.dirs := rfl
@[simp] theorem mgmt_trees (s : State) (d : Nat) (b : Body) : (mgmt s d b).trees = s.trees := rfl
@[simp] theorem mgmt_ctxs (s : State) (d : Nat) (b : Body) : (mgmt s d b).ctxs = s.ctxs := rfl
@[simp] theorem mgmt_ctxWait (s : State) (d : Nat) (b : Body) : (mgmt s d b).ctxWait = s.ctxWait := rfl
@[simp] theorem mgmt_arrays (s : State) (d : Nat) (b : Body) : (mgmt s d b).arrays = s.arrays := rfl
@[simp] theorem mgmt_fences (s : State) (d : Nat) (b : Body) : (mgmt s d b).fences = s.fences := rfl
@[simp] theorem mgmt_mem (s : State) (d : Nat) (b : Body) : (mgmt s d b).mem = s.mem := rfl
@[simp] theorem mgmt_log (s : State) (d : Nat) (b : Body) : (mgmt s d b).log = s.log := rfl
@[simp] theorem mgmt_sessions (s : State) (d : Nat) (b : Body) : (mgmt s d b).sessions = s.sessions := rfl
@[simp] theorem mgmt_holds (s : State) (d : Nat) (b : Body) : (mgmt s d b).holds = s.holds := rfl
@[simp] theorem mgmt_dirTaken (s : State) (d : Nat) (b : Body) : (mgmt s d b).dirTaken = s.dirTaken := rfl
@[simp] theorem mgmt_comp (s : State) (d : Nat) (b : Body) : (mgmt s d b).comp = s.comp := rfl
@[simp] theorem mgmt_host (s : State) (d : Nat) (b : Body) : (mgmt s d b).host = s.host := rfl
@[simp] theorem mgmt_rel (s : State) (d : Nat) (b : Body) : (mgmt s d b).rel = s.rel := rfl
@[simp] theorem mgmt_srch (s : State) (d : Nat) (b : Body) : (mgmt s d b).srch = s.srch := rfl
@[simp] theorem mgmt_pow (s : State) (d : Nat) (b : Body) : (mgmt s d b).pow = s.pow := rfl
@[simp] theorem mgmt_net (s : State) (d : Nat) (b : Body) : (mgmt s d b).net = s.net := rfl
@[simp] theorem mgmt_sec (s : State) (d : Nat) (b : Body) : (mgmt s d b).sec = s.sec := rfl

@[simp] theorem setCells_pending (s : State) (m : List Host.Cell) : (setCells s m).pending = s.pending := rfl
@[simp] theorem setCells_out (s : State) (m : List Host.Cell) : (setCells s m).out = s.out := rfl
@[simp] theorem setCells_free (s : State) (m : List Host.Cell) : (setCells s m).free = s.free := rfl
@[simp] theorem setCells_nextId (s : State) (m : List Host.Cell) : (setCells s m).nextId = s.nextId := rfl
@[simp] theorem setCells_dict (s : State) (m : List Host.Cell) : (setCells s m).dict = s.dict := rfl
@[simp] theorem setCells_dq (s : State) (m : List Host.Cell) : (setCells s m).dq = s.dq := rfl
@[simp] theorem setCells_tm (s : State) (m : List Host.Cell) : (setCells s m).tm = s.tm := rfl
@[simp] theorem setCells_herd (s : State) (m : List Host.Cell) : (setCells s m).herd = s.herd := rfl
@[simp] theorem setCells_sch (s : State) (m : List Host.Cell) : (setCells s m).sch = s.sch := rfl
@[simp] theorem setCells_att (s : State) (m : List Host.Cell) : (setCells s m).att = s.att := rfl
@[simp] theorem setCells_kv (s : State) (m : List Host.Cell) : (setCells s m).kv = s.kv := rfl
@[simp] theorem setCells_dirs (s : State) (m : List Host.Cell) : (setCells s m).dirs = s.dirs := rfl
@[simp] theorem setCells_trees (s : State) (m : List Host.Cell) : (setCells s m).trees = s.trees := rfl
@[simp] theorem setCells_ctxs (s : State) (m : List Host.Cell) : (setCells s m).ctxs = s.ctxs := rfl
@[simp] theorem setCells_ctxWait (s : State) (m : List Host.Cell) : (setCells s m).ctxWait = s.ctxWait := rfl
@[simp] theorem setCells_arrays (s : State) (m : List Host.Cell) : (setCells s m).arrays = s.arrays := rfl
@[simp] theorem setCells_fences (s : State) (m : List Host.Cell) : (setCells s m).fences = s.fences := rfl
@[simp] theorem setCells_log (s : State) (m : List Host.Cell) : (setCells s m).log = s.log := rfl
@[simp] theorem setCells_outbox (s : State) (m : List Host.Cell) : (setCells s m).outbox = s.outbox := rfl
@[simp] theorem setCells_sessions (s : State) (m : List Host.Cell) : (setCells s m).sessions = s.sessions := rfl
@[simp] theorem setCells_holds (s : State) (m : List Host.Cell) : (setCells s m).holds = s.holds := rfl
@[simp] theorem setCells_dirTaken (s : State) (m : List Host.Cell) : (setCells s m).dirTaken = s.dirTaken := rfl
@[simp] theorem setCells_comp (s : State) (m : List Host.Cell) : (setCells s m).comp = s.comp := rfl
@[simp] theorem setCells_host (s : State) (m : List Host.Cell) : (setCells s m).host = s.host := rfl
@[simp] theorem setCells_rel (s : State) (m : List Host.Cell) : (setCells s m).rel = s.rel := rfl
@[simp] theorem setCells_srch (s : State) (m : List Host.Cell) : (setCells s m).srch = s.srch := rfl
@[simp] theorem setCells_pow (s : State) (m : List Host.Cell) : (setCells s m).pow = s.pow := rfl
@[simp] theorem setCells_net (s : State) (m : List Host.Cell) : (setCells s m).net = s.net := rfl
@[simp] theorem setCells_sec (s : State) (m : List Host.Cell) : (setCells s m).sec = s.sec := rfl

@[simp] theorem emit_out (s : State) (o : Out) : (emit s o).out = o :: s.out := rfl
@[simp] theorem setCells_cells (s : State) (m : List Host.Cell) : (setCells s m).mem.cells = m := rfl
@[simp] theorem setCells_maps (s : State) (m : List Host.Cell) : (setCells s m).mem.maps = s.mem.maps := rfl
@[simp] theorem wr_dict (s : State) (k v : Nat) : (wr s k v).dict = tset s.dict k v := rfl

/-! ## Reading an object after a write -/

@[simp] theorem rd_wr (s : State) (k v m : Nat) : rd (wr s k v) m = if m = k then v else rd s m := by
  simp [rd, wr]

theorem rd_wr_same (s : State) (k v : Nat) : rd (wr s k v) k = v := by simp
theorem rd_wr_other (s : State) {k m : Nat} (v : Nat) (h : m ≠ k) : rd (wr s k v) m = rd s m := by simp [h]

@[simp] theorem rd_bump (s : State) (k n m : Nat) : rd (bump s k n) m = if m = k then (rd s k + n) % 2 ^ 64 else rd s m := by
  simp [bump]

@[simp] theorem rd_emit (s : State) (o : Out) (k : Nat) : rd (emit s o) k = rd s k := rfl
@[simp] theorem rd_post (s : State) (d v : Nat) (b : Body) (k : Nat) : rd (post s d v b) k = rd s k := rfl
@[simp] theorem rd_postFor (s : State) (g d v : Nat) (b : Body) (k : Nat) : rd (postFor s g d v b) k = rd s k := rfl
@[simp] theorem rd_mgmt (s : State) (d : Nat) (b : Body) (k : Nat) : rd (mgmt s d b) k = rd s k := rfl
@[simp] theorem rd_setCells (s : State) (m : List Host.Cell) (k : Nat) : rd (setCells s m) k = rd s k := rfl

/-- What an object reads as depends on the dictionary only. -/
theorem rd_congr {s t : State} (h : t.dict = s.dict) (k : Nat) : rd t k = rd s k := by simp [rd, h]

end Sys2Proof.Machine
end

