-- ==== Sys2Proof/Laws/Answers.lean ====
section
/-! SUPPORT. What an answer changes: the output list, the outbox and the kept responses, and the record of the last refusal. -/

namespace Sys2Proof.Machine

theorem sba_refl (s : State) : SameButAnswers s s := ⟨fun _ _ => rfl, rfl⟩

theorem sba_trans {s t u : State} (h : SameButAnswers s t) (g : SameButAnswers t u) : SameButAnswers s u := by
  refine ⟨fun k hk => (g.1 k hk).trans (h.1 k hk), ?_⟩
  rw [g.2, h.2]

theorem sba_emit (s : State) (o : Out) : SameButAnswers s (emit s o) :=
  ⟨fun _ _ => rfl, by simp only [emit]⟩

theorem sba_post (s : State) (dest vlane : Nat) (b : Body) : SameButAnswers s (post s dest vlane b) :=
  ⟨fun _ _ => rfl, by simp only [post]⟩

theorem sba_mgmt (s : State) (dest : Nat) (b : Body) : SameButAnswers s (mgmt s dest b) := sba_post s dest 8 b

theorem sba_keep (s : State) (l : List Kept) : SameButAnswers s { s with dq := { s.dq with kept := l } } :=
  ⟨fun _ _ => rfl, by simp only []⟩

theorem sba_mbox (s : State) (l : List (Nat × Nat)) : SameButAnswers s { s with dq := { s.dq with mbox := l } } :=
  ⟨fun _ _ => rfl, by simp only []⟩

theorem sba_endMailbox (s : State) (via : Via) (p : Pdu) : SameButAnswers s (endMailbox s via p) := by
  unfold endMailbox
  repeat' split
  all_goals with_reducible first
    | exact sba_refl _
    | exact sba_trans (sba_mbox ..) (sba_emit ..)

theorem sba_note (s : State) (via : Via) (r k : Nat) : SameButAnswers s (noteRefusal s via r k) := by
  refine ⟨fun m hm => ?_, by simp only [noteRefusal, wr]⟩
  simp only [isRefusalKey, beq_eq_false_iff_ne] at hm
  simp only [noteRefusal, rd_wr]
  repeat (split; · omega)
  rfl

theorem sba_answer (s : State) (via : Via) (p : Pdu) : SameButAnswers s (answer s via p) := by
  have h : ∀ o v, SameButAnswers s (endMailbox (emit s o) v p) := fun o v => sba_trans (sba_emit s o) (sba_endMailbox ..)
  have g : ∀ d b, SameButAnswers s (mgmt s d b) := sba_mgmt s
  cases via <;> simp only [answer, viaKeeps, Bool.false_eq_true, ↓reduceIte]
  all_goals first
    | exact sba_trans (g ..) (sba_keep ..)
    | exact sba_trans (h ..) (sba_keep ..)
    | exact h ..
    | exact sba_refl _

theorem sba_finish (s : State) (via : Via) (p : Pdu) (r : Res) (h : ∀ a b, r ≠ .checkFailed a b) :
    SameButAnswers s (finish s via p r) := by
  cases r <;> simp only [finish]
  case refused => exact sba_trans (sba_note ..) (sba_answer ..)
  case checkFailed => exact absurd rfl (h _ _)
  case later => exact sba_refl s
  all_goals exact sba_answer ..

/-- A request that is turned away, discarded or answered again changes only answers; one that is served changes what serving changes. -/
theorem sba_take (s : State) (via : Via) (p : Pdu) (f : State → State) (h : SameButAnswers s (f s)) :
    SameButAnswers s (takePdu s via p f) := by
  unfold takePdu
  repeat' split
  all_goals with_reducible first
    | exact h
    | exact sba_refl _
    | exact sba_answer ..
    | exact sba_emit ..
    | exact sba_mgmt ..

end Sys2Proof.Machine
end

