-- ==== Sys2Proof/Laws/Enables.lean ====
section
/-! SUPPORT. A write to an enable that has a row: the request that is taken and allowed reaches the enable's handler. -/

namespace Sys2Proof.Machine

/-- Whether a key names a BOOL object of class RW, outside the vendor range and outside last_refusal. -/
def isEnableObj (k : Nat) : Bool :=
  decide (k / 256 < 0xF000) && k % 256 != 0 && k / 256 != 0x10F0
  && (match findObj (k / 256) (k % 256) with | some o => o.acc == .rw && o.ty == .bool | none => false)

set_option maxRecDepth 4000 in
theorem tenantEnable_obj : (upFrom 0 256).all (fun n => isEnableObj (K.tenantEnable n)) = true := by decide
theorem linkEnable_obj : (upFrom 0 36).all (fun n => isEnableObj (K.linkEnable n)) = true := by decide
theorem scheduleEnable_obj : (upFrom 0 4).all (fun n => isEnableObj (K.scheduleEnable n)) = true := by decide
set_option maxRecDepth 4000 in
theorem vindexEnable_obj : (upFrom 0 128).all (fun n => isEnableObj (K.vindexEnable n)) = true := by decide
theorem vatRegionEnable_obj : (upFrom 0 16).all (fun n => isEnableObj (K.vatRegionEnable n)) = true := by decide
set_option maxRecDepth 4000 in
theorem slotAreaEnable_obj : (upFrom 0 64).all (fun n => isEnableObj (K.slotAreaEnable n)) = true := by decide

theorem all_upFrom {n k : Nat} {f : Nat → Bool} (h : (upFrom 0 n).all f = true) (hk : k < n) : f k = true := by
  rw [List.all_eq_true] at h
  exact h k (by rw [mem_upFrom]; omega)

/-- A command that writes an enable runs the enable's row, and its object takes the write. -/
theorem enable_obj (c : Instr) (e : Enable) (w : WReq) (v : Byte) (hwf : c.wf = true) (h : enableCmd c = some (e, w, v)) :
    exec c = enableRow e w v ∧ isEnableObj e.key = true := by
  cases c <;> simp only [enableCmd, reduceCtorEq, Option.some.injEq, Prod.mk.injEq] at h <;> obtain ⟨rfl, rfl, rfl⟩ := h
  case tenantEnable n _ _ =>
    simp only [Instr.wf, Bool.and_eq_true, decide_eq_true_eq] at hwf
    exact ⟨rfl, show isEnableObj (K.tenantEnable n) = true from all_upFrom (f := fun n => isEnableObj (K.tenantEnable n)) tenantEnable_obj hwf.1⟩
  case linkEnable n _ _ =>
    simp only [Instr.wf, Bool.and_eq_true, decide_eq_true_eq] at hwf
    exact ⟨rfl, show isEnableObj (K.linkEnable n) = true from all_upFrom (f := fun n => isEnableObj (K.linkEnable n)) linkEnable_obj hwf.1⟩
  case scheduleEnable n _ _ =>
    simp only [Instr.wf, Bool.and_eq_true, decide_eq_true_eq] at hwf
    exact ⟨rfl, show isEnableObj (K.scheduleEnable n) = true from all_upFrom (f := fun n => isEnableObj (K.scheduleEnable n)) scheduleEnable_obj hwf.1⟩
  case vindexEnable n _ _ =>
    simp only [Instr.wf, Bool.and_eq_true, decide_eq_true_eq] at hwf
    exact ⟨rfl, show isEnableObj (K.vindexEnable n) = true from all_upFrom (f := fun n => isEnableObj (K.vindexEnable n)) vindexEnable_obj hwf.1⟩
  case vatRegionEnable n _ _ =>
    simp only [Instr.wf, Bool.and_eq_true, decide_eq_true_eq] at hwf
    exact ⟨rfl, show isEnableObj (K.vatRegionEnable n) = true from all_upFrom (f := fun n => isEnableObj (K.vatRegionEnable n)) vatRegionEnable_obj hwf.1⟩
  case slotAreaEnable n _ _ =>
    simp only [Instr.wf, Bool.and_eq_true, decide_eq_true_eq] at hwf
    exact ⟨rfl, show isEnableObj (K.slotAreaEnable n) = true from all_upFrom (f := fun n => isEnableObj (K.slotAreaEnable n)) slotAreaEnable_obj hwf.1⟩
  case deputyEnable => exact ⟨rfl, show isEnableObj K.deputyEnable = true by decide⟩
  all_goals exact ⟨rfl, by decide⟩

/-- An allowed write to an enable is answered with what the enable's handler says. -/
theorem enable_run {c : Instr} {e : Enable} {w : WReq} {v : Byte} {s : State} (hwf : c.wf = true)
    (hc : enableCmd c = some (e, w, v)) (ha : Allowed s w (e.key / 256) (e.key % 256)) :
    exec c s = .next (finish (enableWrite e s w [v]).1 w.via (enablePdu e w v) (enableWrite e s w [v]).2)
      ∧ e.key / 256 ≠ 0x10F0 := by
  obtain ⟨hx, hk⟩ := enable_obj c e w v hwf hc
  simp only [isEnableObj, Bool.and_eq_true, decide_eq_true_eq, bne_iff_ne] at hk
  obtain ⟨⟨⟨hk, h0⟩, h10⟩, h3⟩ := hk
  refine ⟨?_, h10⟩
  cases ho1 : findObj (e.key / 256) (e.key % 256) with
  | none => simp [ho1] at h3
  | some o =>
    simp only [ho1, Bool.and_eq_true, beq_iff_eq] at h3
    obtain ⟨ho2, ho3⟩ := h3
    rw [show exec c s = enableRow e w v s from congrFun hx s]
    simp only [enableRow]
    rw [rowWrite_handled (o := o) _ ha.1 ha.2 hk ho1 ⟨by simp [ho2], by simp [ho2], by simp [ho3, Ty.size], by simp⟩
      (by simp [h0])]
    rfl

end Sys2Proof.Machine
end

