-- ==== Sys2Proof/Laws/Rows.lean ====
section
/-! SUPPORT. The writes that have rows of their own: a write that is taken and allowed is answered with what its handler says; the
objects of the enables and of the other rows. -/

namespace Sys2Proof.Machine

/-- Whether an object takes a one-value payload of n bytes. -/
def takesRow (idx sub n : Nat) : Bool :=
  decide (idx < 0xF000) && !(sub == 0 && (arrayCount idx).isSome) && decide (n ≤ 1024)
  && (match findObj idx sub with | some o => o.acc != .ro && o.acc != .const && o.ty.size == n | none => false)

/-- A row's write that is allowed, of an object that takes its payload, is answered with its handler's outcome. -/
theorem row_handled {s : State} {w : WReq} {idx sub : Nat} {l : List Byte} (h : Handler) (ha : Allowed s w idx sub)
    (ht : takesRow idx sub l.length = true) :
    rowWrite s w idx sub 0 l h = finish (h s w l).1 w.via (rowPdu w idx sub 0 l) (h s w l).2 := by
  simp only [takesRow, Bool.and_eq_true, decide_eq_true_eq] at ht
  obtain ⟨⟨⟨h1, h2⟩, h3⟩, h4⟩ := ht
  cases ho : findObj idx sub with
  | none => simp [ho] at h4
  | some o =>
    simp only [ho, Bool.and_eq_true, bne_iff_ne, beq_iff_eq] at h4
    exact rowWrite_handled h ha.1 ha.2 h1 ho ⟨h4.1.1, h4.1.2, h4.2.symm, h3⟩ (by cases hb : (sub == 0 && (arrayCount idx).isSome) with | true => rw [hb] at h2; exact absurd h2 (by decide) | false => rfl)

/-- A row's write whose handler is done is answered DONE. -/
theorem row_done {s t : State} {w : WReq} {idx sub : Nat} {l : List Byte} {h : Handler} (ha : Allowed s w idx sub)
    (ht : takesRow idx sub l.length = true) (hh : h s w l = (t, .done)) :
    rowWrite s w idx sub 0 l h = doneTo t w idx sub 0 l := by
  rw [row_handled h ha ht, hh]; rfl

/-- A row's write that its handler refuses. -/
theorem row_refused {s t : State} {w : WReq} {idx sub r i j : Nat} {l : List Byte} {h : Handler} (ha : Allowed s w idx sub)
    (ht : takesRow idx sub l.length = true) (hh : h s w l = (t, .refused r i j)) :
    rowWrite s w idx sub 0 l h = finish t w.via (rowPdu w idx sub 0 l) (.refused r i j) := by
  rw [row_handled h ha ht, hh]

/-- A trigger written 1. -/
@[simp] theorem trigger_one (idx sub : Nat) (f : State → State × Res) (s : State) (w : WReq) : trigger idx sub f s w [1] = f s := by
  have : ofBytes [1#8] = 1 := by decide
  simp [trigger, this]

/-! ## The objects of the rows -/

theorem takes_store_commit : takesRow 0x1010 1 1 = true := by decide
theorem takes_store_defaults : takesRow 0x1010 2 1 = true := by decide
theorem takes_bundle_apply : takesRow 0x1010 6 1 = true := by decide
theorem takes_dir_window_op : takesRow 0x4400 7 1 = true := by decide
theorem takes_region_op : takesRow 0x6200 0x12 1 = true := by decide
theorem takes_extent_op : takesRow 0x7100 0x12 1 = true := by decide
theorem takes_cv_op : takesRow 0x8000 0x12 1 = true := by decide
theorem takes_pool_request : takesRow 0x7110 5 4 = true := by decide
theorem takes_pool_release : takesRow 0x7110 6 4 = true := by decide
theorem takes_tree_entry : takesRow 0x4300 0x11 208 = true := by decide
theorem takes_owner_key : takesRow 0xA000 0x10 32 = true := by decide
theorem takes_attest_request : takesRow 0xA000 0x31 1 = true := by decide
theorem takes_fw_apply : takesRow 0xA100 5 1 = true := by decide
theorem takes_fw_abort : takesRow 0xA100 6 1 = true := by decide
theorem takes_fw_activate : takesRow 0xA100 7 1 = true := by decide
theorem takes_svn_commit : takesRow 0xA100 0x0C 1 = true := by decide
theorem takes_log_clear : takesRow 0x8200 5 1 = true := by decide
theorem takes_slice_op : ∀ sl < 4, takesRow (0x2000 + 0x100 * sl) 2 1 = true := by decide
theorem takes_session_key : ∀ i < 8, takesRow 0xA000 (0x18 + i) 40 = true := by decide
theorem takes_lane_restore : ∀ l < 36, takesRow (0x6100 + l) 7 1 = true := by decide
theorem takes_vat_drain : ∀ v < 16, takesRow (0x5010 + v) 8 1 = true := by decide
theorem takes_schedule_entry : ∀ sl < 4, ∀ k < 64, takesRow (0x1210 + sl) (k + 1) 8 = true := by decide

end Sys2Proof.Machine
end

