-- ==== Sys2Proof/Tests/Slice0.lean ====
section
/-! SUPPORT. Tests of single commands, and for each statement a state and operands that meet its hypotheses. -/

namespace Sys2Proof.Tests

set_option Elab.async false

open Sys2Proof.Machine

/-! ## Small states -/

/-- The reset state with some values of the dictionary. -/
def st (l : List (Nat × Nat)) : State := { State.reset with dict := l }

/-- A requester: the physical function's mailbox. -/
def pf : WReq := { via := .pf, txn := 1 }

/-- A request PDU. -/
def pdu (opcode index subindex : Nat) (payload : List Byte) : Pdu :=
  { version := 1, opcode := opcode, flags := 0, transaction := 1, index := index, subindex := subindex, result := 0, reason := 0,
    length := payload.length, offset := 0, reserved := 0, payload := payload, crcOk := true }

/-- A record as a number: each field with its lowest bit. -/
def fields (l : List (Nat × Nat)) : Nat := l.foldl (fun a p => a + p.2 * 2 ^ p.1) 0

/-- A ticket that a fabric peer sent, its 128 bytes as a number. -/
def tick (raw : Nat) : Tk :=
  { id := 1, raw := raw, cls := 0, slice := 0, die := 0, area := 0, slot := 0, fabric := true, src := 5, depth := 0, at_ := 0, step := 0,
    deadline := 0, gapMax := 0, gen := 0, stray := false, data := [], cause := 0, waitNs := 0 }

/-- A state that has taken a ticket. -/
def took (l : List (Nat × Nat)) (raw : Nat) : State := { st l with att := { AttSt.reset with taken := [tick raw] } }

/-- A member of the map, or its Lead. -/
def entry (role node : Nat) : MapEntry := { node := node, role := role, membership := 2, inService := 15, retrieval := 0, spareGroup := 0xFFFF }

/-- A state whose map has node 1 as its Lead and the nodes 2 and 3 as members. -/
def herd (l : List (Nat × Nat)) : State := { st l with herd := { HerdSt.reset with map := [entry 1 1, entry 2 2, entry 2 3] } }

/-- A Herd Time of so many ns, and an engine clock. -/
def at_ (s : State) (ns ec : Nat) : State := { s with tm := { s.tm with ht := ns * 33, held := true, ec := ec } }

/-- A REAM entry of tenant 0's Ream 7 in the directory of slice 0, with node 5 as its home. -/
def reamEnt : Ent :=
  { dir := 0, key := dirKey 3 0 7 0 0 0, care := 2 ^ 96 - 2 ^ 53, prio := 0xFF, data := 5 * 2 ^ 40, place := some 0, backed := false, searched := 0 }

/-- That Ream at its home. -/
def ream7 : Ream :=
  { tenant := 0, id := 7, layers := 1, heads := 1, dim := 0, retired := 0, retiredSet := false, preempted := false, sealed := false,
    reclaimed := false }

/-- A state of that home. -/
def home (s : State) (m : Ream) : State :=
  { s with dict := tset s.dict K.nodeNumber 5, dirs := [reamEnt], kv := { s.kv with reams := [(7, m)] } }

/-- A tree entry of one node. -/
def tree0 : Tree :=
  { id := 3, members := 2 ^ 5, children := [], parent := 0, epoch := 0, childCount := 0, depth := 0, contributes := true, stepBound := false }

/-- A merge context of one query, with its shares' work id. -/
def ctx1 (raw : Nat) : Ctx := newCtx (tick raw) true tree0 [] [] 0 0

/-- A share of that context in slice 0. -/
def share1 (stage : Stage) : Share :=
  { id := 9, ctx := 1, slice := 0, sheets := [], refs := [], meta_ := [], stage := stage, wasParked := false, pass := 0, felt := 0,
    inStack := [], kRead := [], acc := [], wts := [], missing := [], parkAt := 0, streamAt := 0, wants := [] }

/-- A Quire of tenant 0's Ream 7 in slice 0. -/
def quire1 (tier : Nat) (move : Option Move) : Quire :=
  { tenant := 0, ream := 7, layer := 0, head := 0, num := 0, slice := 0, tier := tier, kCarrying := false, tookIn := false,
    departing := false, record := 0, touch := 0, kShare := 0, vShare := 0, region := 0, kib := 0, vatPoison := false,
    move := move, place := 0, deckled := [], start := 0 }

/-- A move of a Quire. -/
def move1 (target : Nat) : Move :=
  { target := target, restarts := 0, region := 0, kib := 0, tk := 0, slice := 0, bytesK := 0, bytesV := 0, kCarrying := false, start := 0 }

/-- Sixteen blocks of host-visible memory from DPA 0 on, in the carrying stack of slice 0 (or its scoring stack), as an extent of tenant 0 with both rights. -/
def blocks (s : State) (stackKind kind : Nat) : State :=
  { s with
    mem := { s.mem with maps := [⟨0, 16, .extent 0, stackKind, 0, [], false⟩] },
    comp := { s.comp with extents := [(0, ⟨0, 16, 0, kind, 1, stackKind, 0, [11], [], 0, 0⟩)] },
    host := { s.host with hdm := [(0, ⟨0, 2 ^ 20, 0, false, true⟩)] } }

/-- A grant of a slice's background budget in the first window. -/
def granted (s : State) (holder cls : Nat) : State := { s with pow := { s.pow with grants := [⟨holder, cls, 0, 1000, 1, 0, false, 0, false⟩] } }

/-- A burst of slice 0 with every bank set. -/
def burst1 : Burst := { share := 9, sheets := [], banks := upFrom 0 64, startEc := 0, plannedNs := 0 }

/-- A state with a scoring stack 0. -/
def stack0 (s : State) (x : StackSt) : State := { s with arrays := [x, StackSt.reset, StackSt.reset, StackSt.reset] }

/-- A bank set that lies below 64 is one of all 64. -/
theorem all_banks (n : Nat) : has (upFrom 0 64) (n % 64) = true := by
  have h : ∀ k < 64, has (upFrom 0 64) k = true := by decide +kernel
  exact h _ (Nat.mod_lt _ (by decide))

/-- A due occurrence of an action in entry 64 of slice 3's table. -/
def sched (l : List (Nat × Nat)) (action : Nat) : State :=
  { at_ (st ([(K.htState, 2), (K.scheduleEnable 3, 1), (entryKey 3 64, action * 2 ^ 33)] ++ l)) 10 0 with
    sch := { SchedSt.reset with running := [3] } }

/-- A deadline of slice 0 that has passed, for work 1. -/
def deadline1 (s : State) : State :=
  { at_ { s with dict := tset s.dict (K.comparatorOwner 0 15) K.deadlineEnable } 100 0 with att := { s.att with dls := [(0, 5, 1)] } }

/-- A condition on what an option holds, where it holds nothing. -/
theorem of_none {α : Type} {o : Option α} {P : α → Prop} (h : o = none) : ∀ x, o = some x → P x := by
  intro x hx; rw [h] at hx; cases hx

/-- lane_flap_limit has no row and no handler of its own. -/
theorem plain_laneFlapLimit : Plain 0x6000 1 := by
  intro b o
  unfold handlerOf
  simp only [show enableOf (keyOf 0x6000 1) = none from rfl]
  rfl

/-- A query over Ream 7 with one row, through tree entry 3. -/
def query7 : Nat := fields [(32, 1), (256, 7), (320, 15), (480, 4096), (688, 3)]

/-- An append of 64 tokens to Ream 7. -/
def append7 : Nat := fields [(32, 2), (256, 7), (432, 1), (464, 1), (496, 1), (520, 64)]

/-- An empty record set from node 4 for that query. -/
def set4 (status rows : Nat) : RecSet :=
  { ticketId := 0, treeId := 3, sender := 4, epoch := 0, rows := rows, status := status, late := false, recs := [], gaps := [], weights := [],
    weightDropped := 0 }

/-- The key of Sheet 0 of Ream 7. -/
def key7 : Nat := sheetKey 0 7 0 0 0

/-- A committed Sheet of Ream 7. -/
def sheet7 (num : Nat) : Sheet := { newSheet 0 7 0 0 num 0 3 3 with tokenCount := 64 }

/-- A ticket that came with its payload. -/
def Tk.carries (k : Tk) (n : Nat) : Tk := { k with data := List.replicate n 0 }

/-- Taking the ticket at the head. -/
theorem take_head {s : State} {tk : Tk} {r : List Tk} {ty : Nat} (h : s.att.taken = tk :: r) (e : (tkType tk.raw == ty) = true) :
    takeHead s ty = some (tk, { s with att := { s.att with taken := r } }) := by
  simp only [takeHead, h, e, if_true]

/-- Taking a fence at the head. -/
theorem take_fence {s : State} {tk : Tk} {r : List Tk} {p : Nat → Bool} (h : s.att.taken = tk :: r) (e : (tkType tk.raw == 4) = true)
    (o : p (fOp tk.raw) = true) : takeFence s p = some (tk, { s with att := { s.att with taken := r } }) := by
  simp only [takeFence, take_head h e, o, if_true]

theorem pair_of {α β : Type} {p : α × β} {b : β} (h : p.2 = b) : p = (p.1, b) := by rw [← h]

theorem pair {α β : Type} (p : α × β) : p = (p.1, p.2) := rfl

theorem triple {α β γ : Type} (p : α × β × γ) : p = (p.1, p.2.1, p.2.2) := rfl

theorem triple_of {α β γ : Type} {p : α × β × γ} {c : γ} (h : p.2.2 = c) : p = (p.1, p.2.1, c) := by rw [← h]

/-- A search ticket's state: vector index 0 of tenant 0 with one list, loaded, and one stored filter. -/
def finds (raw n : Nat) : State :=
  { took [(K.vindexEnable 0, 1), (K.vindexTenant 0, 0), (K.vindexLists 0, 1), (K.vindexCapacity 0, 64)] raw with
    att := { AttSt.reset with taken := [{ tick raw with data := List.replicate n 0 }] }
    srch := { SearchSt.reset with
      codebooks := [(0, (0, []))], centroids := [(0, (0, []))], filters := [(1, ⟨0, 0, [], [], none, false⟩)] } }

/-- A window's state: a REAM entry of Ream 7 in the window of slice 0's directory. -/
def window (kind prio : Nat) : State :=
  st [(K.tenantEnable 0, 1), (K.dirWindowEntry, dirKey kind 0 7 0 0 0 * 2 ^ 160 + (2 ^ 96 - 2 ^ 53) * 2 ^ 64 + prio * 2 ^ 56)]

/-- A member of a Herd. -/
def member (l : List (Nat × Nat)) : State := herd ([(K.membershipState, 2), (K.nodeNumber, 2)] ++ l)

/-- The Lead. -/
def lead (l : List (Nat × Nat)) : State := herd ([(K.membershipState, 6), (K.nodeNumber, 1)] ++ l)

/-- A Lead's copy with one member more. -/
def image1 : LeadImage := { epoch := 0, map := [entry 1 1, entry 2 4], leases := [], shares := [], scores := [], step := 0, stepStart := 0, spans := [] }

/-- A handoff of Ream 7. -/
def order (src dst : Nat) (homeMoves : Bool) : Handoff :=
  { src := src, dst := dst, tenant := 0, ream := 7, layerFirst := 0, layerLast := 0, headFirst := 0, headLast := 0, quireFirst := 0,
    quireLast := 0, homeMoves := homeMoves, layers := 1, heads := 1, dim := 0, retired := 0, retiredSet := false, preempted := false,
    sealed := false }

/-- A member's state with one handoff of which it is the source. -/
def handing (phase : Nat) (homeMoves : Bool) : State :=
  { member [] with comp := { CompSt.reset with handoffs := [⟨order 2 3 homeMoves, true, phase, 0⟩] } }

/-- A link of its slice that trains, and one that is up. -/
def linked (l state ec : Nat) (x : LinkSt) : State :=
  { st [(K.linkEnable l, 1), (K.linkState l, state)] with net := { NetSt.reset with links := [(l, x)] }, tm := { TimeSt.reset with ec := ec } }

/-- A one-byte packet. -/
def packet1 : Packet :=
  { dst := 5, src := 1, vl := 0, kind := 1, msgId := 0, lengthM1 := 0, offset := 0, key := 0, remoteOffset := 0, ce := false, hopsLeft := 1,
    flits := 1, intact := true, payload := [0] }

/-- A message being sent to node 1, with one packet. -/
def msg1 (k : SPkt) (nak : Option Nat) : SMsg :=
  { dst := 1, vl := 0, id := 0, kind := 1, key := 0, off := 0, data := [], pkts := [k], nakAt := nak, quota := false, ticket := 0, ctx := none }

/-- A reassembly of two packets from node 1 with the last not acknowledged. -/
def rctx1 : RCtx :=
  { src := 1, vl := 0, id := 0, kind := 1, key := 0, off := 0, len := 1920, map := [31], unacked := [31], count := 2, parts := [], openedAt := 0,
    ackFrom := 0, ce := false, buf := 0, bufAddr := 0 }

/-- The transport's part of a state, at an engine clock. -/
def net (x : NetSt) (ec : Nat) : State := { st [] with net := x, tm := { TimeSt.reset with ec := ec } }

/-- A state with its CXL link up. -/
def host (l : List (Nat × Nat)) : State := st ([(K.cxlModeNow, 1)] ++ l)

/-- An extent of tenant 0 in a state of its own. -/
def extent1 (state kind : Nat) : Extent :=
  { base := 0, blocks := 16, owner := 0, kind := kind, state := state, stack := 0, slice := 0, grants := [11], drains := [], since := 0, clr := 0 }

/-- A pool lease as the Lead keeps it, and as its holder does. -/
def lease1 : PoolLease := { id := 1, holder := 2, base := 0, mib := 256, expiry := 0, lapsed := false }

def held1 (clearing : Bool) : HeldLease :=
  { id := 1, base := 0, mib := 256, expiry := 0, renewedAt := 0, releasing := 0, drainEnd := 0, clearing := clearing, failed := false }

/-- A state with parts of its composition. -/
def comp (s : State) (x : CompSt) : State := { s with comp := x }

/-- A condition on what an option holds, where it holds one thing. -/
theorem of_some {α : Type} {o : Option α} {P : α → Prop} {a : α} (h : o = some a) (p : P a) : ∀ x, o = some x → P x := by
  intro x hx; rw [h] at hx; cases hx; exact p

/-- A flit of a packet of one flit, with zeros after the payload. -/
def flitOf (p : Packet) : List Byte :=
  let b := (toBytes 32 (headerWord p) ++ p.payload ++ List.replicate 248 0).take 248
  b ++ trailer b true false

/-- A ticket of this node's own at the head. -/
def own (s : State) (raw : Nat) : State := { s with att := { AttSt.reset with taken := [{ tick raw with fabric := false }] } }

/-- One complete Quire of Ream 7, and its cache. -/
def cold7 : Nat × Quire := (quireOfSheet key7, quire1 0 none)
def coldKv : KvSt := { KvSt.reset with sheets := [(key7 + 15, sheet7 15)], quires := [cold7], demoting := [0] }

/-- A state that holds it, with a Vat quota. -/
def cold (quota : Nat) (l : List (Nat × Nat)) : State := { st ([(K.vatEnable, 1), (K.vatQuotaMib 0, quota)] ++ l) with kv := coldKv }

/-- The quota that takes it. -/
def kib7 : Nat := pressKib { st [] with kv := coldKv } cold7

theorem kib_of {s t : State} {p : Nat × Quire} (h : on s K.pressEnable = on t K.pressEnable) (k : s.kv.sheets = t.kv.sheets) : pressKib s p = pressKib t p := by
  simp only [pressKib, pressQuire, h, quireSheets, k]

theorem spare7 {s : State} (h : holdingVat s 0 = 0) (r : rd s (K.vatQuotaMib 0) = kib7) (e : on s K.pressEnable = on (st []) K.pressEnable)
    (k : s.kv.sheets = coldKv.sheets) : vatSpare s 0 (pressKib s cold7) = true := by
  have q : pressKib s cold7 = kib7 := kib_of (t := { st [] with kv := coldKv }) e k
  simp only [vatSpare, h, r, q, mib, decide_eq_true_eq]; omega

theorem coldest7 {s : State} (k : s.kv.quires = [cold7]) (d : demotable s cold7 = true)
    (v : vatSpare s 0 (pressKib s cold7) = true) : coldestOf ((demoteCandidates s).filter (fun p => p.2.slice == 0)) = some cold7 := by
  have v' : vatSpare s cold7.2.tenant (pressKib s cold7) = true := v
  have l : (cold7.2.slice == 0) = true := rfl
  simp [demoteCandidates, k, d, v', l, coldestOf]

theorem next7 {s : State} {l : List (Nat × Quire)} (o : overDemotes s 0 = true) (k : s.kv.quires = l ++ [cold7])
    (i : l.filter (fun p => p.2.tenant == 0 && demotable s p) = []) (d : demotable s cold7 = true)
    (v : vatSpare s 0 (pressKib s cold7) = true) : overNext s 0 = some cold7 := by
  have n : (cold7.2.tenant == 0) = true := rfl
  simp only [overNext, o, k, List.filter_append, i]
  simp [n, d, v, coldestOf, Option.filter]


/-- The flit of that packet, as a link carries it: its header, its byte, zeros, and the trailer. -/
def head1 : List Byte := [0, 0, 0, 0, 0, 0, 0, 0, 0, 1, 0, 0, 0, 0, 0, 0, 0, 0, 0, 0, 0, 0, 0, 0, 0, 0, 0, 1, 1, 0, 5, 0]
def body1 : List Byte := head1 ++ (List.replicate 116 0 ++ List.replicate 100 0)
def flit1 : List Byte := body1 ++ [2, 0, 0, 128, 58, 241, 7, 167]

theorem crc_of {a b c : List Byte} {x y z : Nat} (h : a.foldl (crcByte 0x82F63B78) 0xFFFFFFFF = x) (h1 : b.foldl (crcByte 0x82F63B78) x = y)
    (h2 : c.foldl (crcByte 0x82F63B78) y = z) : crc32c (a ++ (b ++ c)) = z ^^^ 0xFFFFFFFF := by
  rw [crc32c, List.foldl_append, List.foldl_append, h, h1, h2]

theorem flit_of {f b t : List Byte} {c p : Nat} (hb : f.take 248 = b) (ht : f.drop 248 = t) (hl : f.length = 256) (hc : crc32c b = c)
    (hp : flitParity b = p) (h : (bits (ofBytes t) 32 32 == c && bits (ofBytes t) 0 31 == p) = true) : flitOk f = true := by
  rw [Bool.and_eq_true] at h
  simp only [flitOk, hb, ht, hl, hc, hp, h.1, h.2, beq_self_eq_true, Bool.and_self]

theorem flit1_ok : flitOk flit1 = true :=
  flit_of (b := body1) (by decide +kernel) (by decide +kernel) (by decide +kernel)
    (crc_of (a := head1) (x := 3099657682) (y := 1166373558) (z := 1492651717) (by decide +kernel) (by decide +kernel) (by decide +kernel))
    (p := 2) (by decide +kernel) (t := [2, 0, 0, 128, 58, 241, 7, 167]) (by decide +kernel)

theorem framed1 : framed [flit1] = true := by
  have t : flit1.drop 248 = [2, 0, 0, 128, 58, 241, 7, 167] := by decide +kernel
  simp only [framed, flitLast, List.reverse_singleton, t]
  decide +kernel
theorem packet_flit1 : packetFrom [flit1] true = packet1 := by decide +kernel

/-! ## The hypotheses of each statement are met -/

theorem witness_StepRunsFrontCommand :
    ∃ (c : Instr) (rest : List Instr) (s : State), s.pending = c :: rest :=
  ⟨.query, [], { st [] with pending := [.query] }, (by decide +kernel)⟩

theorem witness_EmptyQueueLetsOneClockPass :
    (∃ (s : State), s.pending = []) ∧
    (∃ (s : State), s.pending = [] ∧ s.dq.commit = none ∧ (∀ sl < 4, (stackSt s sl).readWait = [] ∧ (stackSt s sl).writeBuf = []) ∧ (∀ c ∈ s.ctxs, c.closing = none)) ∧
    (∃ (s : State) (c : StoreCommit), s.dq.commit = some c) :=
  ⟨⟨st [], (by decide +kernel)⟩,
    ⟨st [], (by decide +kernel), (by decide +kernel), (by decide +kernel), (by decide +kernel)⟩,
    ⟨{ st [] with dq := { DictSt.reset with commit := some ⟨[], .pf, 1, true⟩ } }, _, rfl⟩⟩

theorem witness_CommandsLeaveTheQueue :
    ∃ (c : Instr) (s t : State), exec c s = .next t :=
  ⟨.htLost, st [], _, rfl⟩

theorem witness_EnablesFollowTheirCheck :
    (∃ (c : Instr) (e : Enable) (w : WReq) (s : State), c.wf = true ∧ enableCmd c = some (e, w, 1) ∧ Allowed s w (e.key / 256) (e.key % 256) ∧ isStopping s e.key = false ∧ on s e.key = false ∧ firstFail (enableFails e s) = none) ∧
    (∃ (c : Instr) (e : Enable) (w : WReq) (s : State) (reason key : Nat), c.wf = true ∧ enableCmd c = some (e, w, 1) ∧ Allowed s w (e.key / 256) (e.key % 256) ∧ isStopping s e.key = false ∧ on s e.key = false ∧ firstFail (enableFails e s) = some (reason, key)) ∧
    (∃ (c : Instr) (e : Enable) (w : WReq) (v : Byte) (s : State), c.wf = true ∧ enableCmd c = some (e, w, v) ∧ v.toNat ≤ 1 ∧ Allowed s w (e.key / 256) (e.key % 256) ∧ isStopping s e.key = false ∧ b2n (on s e.key) = v.toNat) ∧
    (∃ (w : WReq) (s : State), Allowed s w 0x1100 8 ∧ isStopping s K.herdEnable = false ∧ on s K.herdEnable = false ∧ rd s K.nodeStartState < 3 ∧ (rd s K.herdRole = 1 → on s K.htSourceEnable = true) ∧ on s K.transportEnable = true) :=
  ⟨⟨.traceTriggerEnable pf 1, _, pf, st [], (by decide +kernel), rfl, (by decide +kernel), (by decide +kernel), (by decide +kernel), (by decide +kernel)⟩,
    ⟨.deadlineEnable pf 1, _, pf, st [], _, _, (by decide +kernel), rfl, (by decide +kernel), (by decide +kernel), (by decide +kernel), rfl⟩,
    ⟨.traceTriggerEnable pf 0, _, pf, 0, st [], (by decide +kernel), rfl, (by decide +kernel), (by decide +kernel), (by decide +kernel), (by decide +kernel)⟩,
    ⟨pf, st [(K.transportEnable, 1), (K.nodeStartState, 2)], (by decide +kernel), (by decide +kernel), (by decide +kernel), (by decide +kernel), (by decide +kernel), (by decide +kernel)⟩⟩

theorem witness_EnablesStopAndAnswer :
    (∃ (c : Instr) (e : Enable) (w : WReq) (s : State) (r k : Nat), c.wf = true ∧ enableCmd c = some (e, w, 0) ∧ Allowed s w (e.key / 256) (e.key % 256) ∧ isStopping s e.key = false ∧ on s e.key = true ∧ (firstFail ((e.users s).map (fun k => (some (0x06, k) : Fail))) = some (r, k) ∨ (e.users s = [] ∧ firstFail (e.halts s) = some (r, k)))) ∧
    (∃ (c : Instr) (e : Enable) (w : WReq) (v : Byte) (s : State), c.wf = true ∧ enableCmd c = some (e, w, v) ∧ 1 < v.toNat ∧ Allowed s w (e.key / 256) (e.key % 256) ∧ isStopping s e.key = false) ∧
    (∃ (c : Instr) (e : Enable) (w : WReq) (s t : State), c.wf = true ∧ enableCmd c = some (e, w, 0) ∧ Allowed s w (e.key / 256) (e.key % 256) ∧ isStopping s e.key = false ∧ on s e.key = true ∧ e.users s = [] ∧ firstFail (e.halts s) = none ∧ t = e.stop (wr s e.key 0) ∧ e.stopped t = true) ∧
    (∃ (c : Instr) (e : Enable) (w : WReq) (s t : State), c.wf = true ∧ enableCmd c = some (e, w, 0) ∧ Allowed s w (e.key / 256) (e.key % 256) ∧ isStopping s e.key = false ∧ on s e.key = true ∧ e.users s = [] ∧ firstFail (e.halts s) = none ∧ t = e.stop (wr s e.key 0) ∧ e.stopped t = false) ∧
    (∃ (c : Instr) (e : Enable) (w : WReq) (v : Byte) (s : State), c.wf = true ∧ enableCmd c = some (e, w, v) ∧ Allowed s w (e.key / 256) (e.key % 256) ∧ isStopping s e.key = true) ∧
    (∃ (key : Nat) (e : Enable) (p : Stop) (s : State), enableOf key = some e ∧ e.key = key ∧ s.dq.stopping.find? (fun q => q.key == key) = some p ∧ e.stopped s = true) ∧
    (∃ (key : Nat) (e : Enable) (s : State), enableOf key = some e ∧ e.key = key ∧ (e.stopped s = false ∨ (∀ q ∈ s.dq.stopping, q.key ≠ key))) ∧
    (∃ (key : Nat), enableOf key = none) :=
  ⟨⟨.deadlineEnable pf 0, _, pf, st [(K.deadlineEnable, 1), (K.mergeEnable, 1)], _, K.mergeEnable, (by decide +kernel), rfl, (by decide +kernel), (by decide +kernel), (by decide +kernel), .inl rfl⟩,
    ⟨.traceTriggerEnable pf 2, _, pf, 2, st [], (by decide +kernel), rfl, (by decide +kernel), (by decide +kernel), (by decide +kernel)⟩,
    ⟨.traceTriggerEnable pf 0, _, pf, st [(K.traceTriggerEnable, 1)], _, (by decide +kernel), rfl, (by decide +kernel), (by decide +kernel), (by decide +kernel), (by decide +kernel), (by decide +kernel), rfl, (by decide +kernel)⟩,
    ⟨.mergeEnable pf 0, _, pf, { st [(K.mergeEnable, 1)] with ctxs := [ctx1 query7] }, _, (by decide +kernel), rfl, (by decide +kernel), (by decide +kernel), (by decide +kernel), (by decide +kernel), (by decide +kernel), rfl, (by decide +kernel)⟩,
    ⟨.traceTriggerEnable pf 1, _, pf, 1, { st [] with dq := { DictSt.reset with stopping := [⟨K.traceTriggerEnable, .noSession, 1⟩] } }, (by decide +kernel), rfl, (by decide +kernel), (by decide +kernel)⟩,
    ⟨K.traceTriggerEnable, _, ⟨K.traceTriggerEnable, .pf, 1⟩, { st [] with dq := { DictSt.reset with stopping := [⟨K.traceTriggerEnable, .pf, 1⟩] } }, rfl, (by decide +kernel), (by decide +kernel), (by decide +kernel)⟩,
    ⟨K.deadlineEnable, _, { st [] with att := { AttSt.reset with dls := [(0, 5, 1)] } }, rfl, (by decide +kernel), (by decide +kernel)⟩,
    ⟨0, (by decide +kernel)⟩⟩

theorem witness_ReadsAreAnswered :
    (∃ (via : Via) (p : Pdu) (o : Obj) (s : State), p.opcode = 1 ∧ p.crcOk = true ∧ malformed p = false ∧ Taken s via p.transaction ∧ vendorRange p.index = false ∧ mayRead s via p.index = true ∧ inRecovery s = false ∧ findObj p.index p.subindex = some o ∧ o.acc ≠ .wo ∧ p.payload = [] ∧ badOffset o p.offset = false) ∧
    (∃ (via : Via) (p : Pdu) (o : Obj) (s : State), p.opcode = 3 ∧ p.crcOk = true ∧ malformed p = false ∧ Taken s via p.transaction ∧ vendorRange p.index = false ∧ mayRead s via p.index = true ∧ inRecovery s = false ∧ findObj p.index p.subindex = some o ∧ p.payload = []) ∧
    (∃ (via : Via) (p : Pdu) (s : State), p.opcode = 4 ∧ p.crcOk = true ∧ malformed p = false ∧ Taken s via p.transaction ∧ vendorRange p.index = false ∧ mayRead s via p.index = true ∧ inRecovery s = false ∧ (pageOf p.index).any (fun o => o.hasIdx p.index) = true ∧ (packRange s p.index (upFrom p.subindex p.length)).length ≤ 1024) ∧
    (∃ (via : Via) (p : Pdu) (c : Instr) (s t : State), (c = .read via p ∨ c = .describe via p ∨ c = .readBlock via p) ∧ exec c s = .next t) :=
  ⟨⟨.pf, pdu 1 0x1200 4 [], _, st [], (by decide +kernel), (by decide +kernel), (by decide +kernel), (by decide +kernel), (by decide +kernel), (by decide +kernel), (by decide +kernel), rfl, (by decide +kernel), (by decide +kernel), (by decide +kernel)⟩,
    ⟨.pf, pdu 3 0x1200 4 [], _, st [], (by decide +kernel), (by decide +kernel), (by decide +kernel), (by decide +kernel), (by decide +kernel), (by decide +kernel), (by decide +kernel), rfl, (by decide +kernel)⟩,
    ⟨.pf, { pdu 4 0x1200 1 [] with length := 4 }, st [], (by decide +kernel), (by decide +kernel), (by decide +kernel), (by decide +kernel), (by decide +kernel), (by decide +kernel), (by decide +kernel), (by decide +kernel), (by decide +kernel)⟩,
    ⟨.pf, pdu 1 0x1200 4 [], .read .pf (pdu 1 0x1200 4 []), st [], _, (by decide +kernel), rfl⟩⟩

theorem witness_AccessClassesAreKept :
    (∃ (via : Via) (p : Pdu) (o : Obj) (s : State), p.opcode = 2 ∧ p.crcOk = true ∧ malformed p = false ∧ Taken s via p.transaction ∧ vendorRange p.index = false ∧ MayWriteTo s via p.index p.subindex ∧ findObj p.index p.subindex = some o ∧ (o.acc = .ro ∨ o.acc = .const) ∧ (p.subindex = 0 → arrayCount p.index = none)) ∧
    (∃ (via : Via) (p : Pdu) (o : Obj) (s : State), p.opcode = 1 ∧ p.crcOk = true ∧ malformed p = false ∧ Taken s via p.transaction ∧ vendorRange p.index = false ∧ mayRead s via p.index = true ∧ inRecovery s = false ∧ findObj p.index p.subindex = some o ∧ o.acc = .wo) ∧
    (∃ (via : Via) (p : Pdu) (o : Obj) (n : Nat) (s t : State) (r : Res), p.opcode = 2 ∧ p.crcOk = true ∧ malformed p = false ∧ Taken s via p.transaction ∧ MayWriteTo s via p.index 0 ∧ (p.index = 0x4001 ∨ p.index = 0x6301 ∨ p.index = 0x7008) ∧ p.subindex = 0 ∧ arrayCount p.index = some n ∧ findObj p.index 0 = some o ∧ hArray p.index n s { via := via, txn := p.transaction } p.payload = (t, r)) ∧
    (∃ (o : Obj), (lookupObj 0x4001 1 = some o ∨ lookupObj 0x6301 1 = some o ∨ lookupObj 0x7008 1 = some o ∨ lookupObj 0x1210 1 = some o)) :=
  ⟨⟨.pf, pdu 2 0x1200 4 [], _, st [], (by decide +kernel), (by decide +kernel), (by decide +kernel), (by decide +kernel), (by decide +kernel), (by decide +kernel), rfl, (by decide +kernel), (by decide +kernel)⟩,
    ⟨.pf, pdu 1 0x1010 1 [], _, st [], (by decide +kernel), (by decide +kernel), (by decide +kernel), (by decide +kernel), (by decide +kernel), (by decide +kernel), (by decide +kernel), rfl, (by decide +kernel)⟩,
    ⟨.pf, pdu 2 0x4001 0 [], _, _, st [], _, _, (by decide +kernel), (by decide +kernel), (by decide +kernel), (by decide +kernel), (by decide +kernel), (by decide +kernel), (by decide +kernel), rfl, rfl, rfl⟩,
    ⟨_, .inl rfl⟩⟩

theorem witness_PlainWriteStoresItsValue :
    (∃ (via : Via) (p : Pdu) (o : Obj) (s t : State) (r : Res), p.opcode = 2 ∧ p.crcOk = true ∧ malformed p = false ∧ Taken s via p.transaction ∧ MayWriteTo s via p.index p.subindex ∧ p.index < 0xF000 ∧ findObj p.index p.subindex = some o ∧ o.acc ≠ .ro ∧ o.acc ≠ .const ∧ (p.subindex = 0 → arrayCount p.index = none) ∧ p.payload.length = o.ty.size ∧ o.ty.size ≤ 1024 ∧ p.offset = 0 ∧ handler p.index p.subindex p.offset s { via := via, txn := p.transaction } p.payload = (t, r)) ∧
    (∃ (idx sub : Nat) (o : Obj) (l : List Byte) (s : State), lookupObj idx sub = some o ∧ plainFail s o idx [(keyOf idx sub, ofBytes l)] = none ∧ runChecks (storeOne s o (keyOf idx sub) (ofBytes l)) [keyOf idx sub] = none) ∧
    (∃ (idx sub r k : Nat) (o : Obj) (l : List Byte) (s : State), lookupObj idx sub = some o ∧ plainFail s o idx [(keyOf idx sub, ofBytes l)] = some (r, k)) ∧
    (∃ (idx sub r k : Nat) (o : Obj) (l : List Byte) (s : State), lookupObj idx sub = some o ∧ plainFail s o idx [(keyOf idx sub, ofBytes l)] = none ∧ runChecks (storeOne s o (keyOf idx sub) (ofBytes l)) [keyOf idx sub] = some (r, k)) ∧
    (∃ (o : Obj) (k : Nat) (s : State), isPolice k = false ∧ (o.stepBound = false ∨ runsSteps s = false)) ∧
    (∃ (o : Obj) (s : State), o.stepBound = true ∧ runsSteps s = true) ∧
    (∃ (k : Nat) (s : State), isPolice k = true ∧ runsSteps s = false) ∧
    (∃ (k : Nat), k ≠ K.regionSelect ∧ k ≠ K.extentSelect ∧ k ≠ K.stepGuardNs) :=
  ⟨⟨.pf, pdu 2 0x6000 1 [255], _, st [], _, _, (by decide +kernel), (by decide +kernel), (by decide +kernel), (by decide +kernel), (by decide +kernel), (by decide +kernel), rfl, (by decide +kernel), (by decide +kernel), (by decide +kernel), (by decide +kernel), (by decide +kernel), (by decide +kernel), pair _⟩,
    ⟨0x6000, 1, _, [255], st [], rfl, (by decide +kernel), (by decide +kernel)⟩,
    ⟨0x6000, 1, 1, 0x600001, _, [0], st [], rfl, (by decide +kernel)⟩,
    ⟨4624, 1, 6, 1114113, _, [0], st [(K.scheduleEnable 0, 1)], (rfl), (by decide +kernel), (by decide +kernel)⟩,
    ⟨lookupObj 0x6000 1 |>.get (by decide), 0, st [], (by decide +kernel), (by decide +kernel)⟩,
    ⟨lookupObj 0x6310 0x20 |>.get (by decide), st [(K.currentStep, 1)], (by decide +kernel), (by decide +kernel)⟩,
    ⟨0x631020, st [], (by decide +kernel), (by decide +kernel)⟩,
    ⟨0, (by decide +kernel), (by decide +kernel), (by decide +kernel)⟩⟩

theorem witness_RepeatedRequestIsAnsweredAgain :
    (∃ (via : Via) (p r : Pdu) (c : Instr) (s : State) (src : _), (c = .read via p ∨ c = .write via p ∨ c = .describe via p ∨ c = .readBlock via p) ∧ s.sec.held = false ∧ p.crcOk = true ∧ queueFull s via = false ∧ keptFor s via p.transaction = some r ∧ via = .fabric src) ∧
    (∃ (via : Via) (p r : Pdu) (c : Instr) (s : State), (c = .read via p ∨ c = .write via p ∨ c = .describe via p ∨ c = .readBlock via p) ∧ s.sec.held = false ∧ p.crcOk = true ∧ queueFull s via = false ∧ keptFor s via p.transaction = some r ∧ (∀ src, via ≠ .fabric src)) ∧
    (∃ (via : Via) (p : Pdu) (c : Instr), (c = .read via p ∨ c = .write via p ∨ c = .describe via p ∨ c = .readBlock via p) ∧ p.crcOk = false ∧ ((∃ n, via = .session n) ∨ via = .noSession ∨ (∃ src, via = .fabric src))) ∧
    (∃ (via : Via) (p : Pdu) (c : Instr) (k n : Nat) (s : State), (k, c) ∈ [(1, Instr.read via p), (2, .write via p), (3, .describe via p), (4, .readBlock via p)] ∧ s.sec.held = false ∧ p.crcOk = false ∧ isMailbox via = true ∧ n = (if queueFull s via then 6 else 7)) ∧
    (∃ (via : Via) (r : Pdu) (s : State), viaKeeps via = true ∧ keptFor s via r.transaction = none) ∧
    (∃ (via : Via) (r : Pdu) (s : State), viaKeeps via = true ∧ keptFor s via r.transaction = none ∧ (s.dq.kept.filter (fun k => k.via == via)).length ≤ 16) :=
  ⟨⟨.fabric 0xFFFF, pdu 1 0x1200 4 [], _, .read (.fabric 0xFFFF) (pdu 1 0x1200 4 []), { st [] with dq := { DictSt.reset with kept := [⟨.fabric 0xFFFF, 1, pdu 1 0x1200 4 []⟩] } }, 0xFFFF, .inl rfl, (by decide +kernel), (by decide +kernel), (by decide +kernel), rfl, rfl⟩,
    ⟨.session 3, pdu 1 0x1200 4 [], pdu 1 0x1200 4 [], .read (.session 3) (pdu 1 0x1200 4 []), { st [] with dq := { DictSt.reset with kept := [⟨.session 3, 1, pdu 1 0x1200 4 []⟩] } }, (by decide +kernel), (by decide +kernel), (by decide +kernel), (by decide +kernel), (by decide +kernel), (by simp)⟩,
    ⟨.fabric 0xFFFF, { pdu 1 0x1200 4 [] with crcOk := false }, .describe (.fabric 0xFFFF) { pdu 1 0x1200 4 [] with crcOk := false }, (by decide +kernel), (by decide +kernel), (by simp)⟩,
    ⟨.pf, { pdu 1 0x1200 4 [] with crcOk := false }, .read .pf { pdu 1 0x1200 4 [] with crcOk := false }, 1, _, st [], (by simp), (by decide +kernel), (by decide +kernel), (by decide +kernel), rfl⟩,
    ⟨.fabric 0xFFFF, pdu 1 0x1200 4 [], st [], (by decide +kernel), (by decide +kernel)⟩,
    ⟨.fabric 0xFFFF, pdu 1 0x1200 4 [], st [], (by decide +kernel), (by decide +kernel), (by decide +kernel)⟩⟩

theorem witness_StoreIsCommittedAndDefaulted :
    (∃ (w : WReq) (s t : State), Allowed s w 0x1010 1 ∧ w.via ≠ .internal ∧ t = endCommit s ∧ (∀ c, s.dq.commit = some c → c.via ≠ w.via ∨ c.txn ≠ w.txn)) ∧
    (∃ (w : WReq) (s : State), Allowed s w 0x1010 1) ∧
    (∃ (w : WReq) (s : State), Allowed s w 0x1010 2 ∧ enableKeys.find? (fun k => on s k) = none) ∧
    (∃ (w : WReq) (s : State) (k : Nat), Allowed s w 0x1010 2 ∧ enableKeys.find? (fun k => on s k) = some k) :=
  ⟨⟨pf, st [], _, (by decide +kernel), (by decide +kernel), rfl, (by decide +kernel)⟩,
    ⟨pf, st [], (by decide +kernel)⟩,
    ⟨pf, st [], (by decide +kernel), (by decide +kernel)⟩,
    ⟨pf, st [(K.powerEnable, 1)], K.powerEnable, (by decide +kernel), (by decide +kernel)⟩⟩

theorem witness_BundleIsAppliedOrRejected :
    ∃ (w : WReq) (s : State) (n : Nat), Allowed s w 0x1010 6 ∧ bundleTest s (getBytes s.dq.bundle 0 (rd s K.bundleLength)) = .inl n :=
  ⟨pf, st [], 1, (by decide +kernel), (by decide +kernel)⟩

theorem witness_TrainedLinksSendTimeSymbols :
    (∃ (link : Nat) (s : State), link < 36 ∧ rd s (K.linkState link) = 2) ∧
    (∃ (link : Nat) (s : State), rd s (K.linkState link) ≠ 2) ∧
    (∃ (s : State), passesTime s = true) ∧
    (∃ (s : State), passesTime s = false) ∧
    (∃ (b : TimeBlock), b.hops < 2 ^ 8 ∧ b.ht < 2 ^ 64 ∧ b.turnaroundPs < 2 ^ 32 ∧ b.node < 2 ^ 16 ∧ b.leadTerm < 2 ^ 32) :=
  ⟨⟨35, st [(K.linkState 35, 2)], (by decide +kernel), (by decide +kernel)⟩,
    ⟨36, st [], (by decide +kernel)⟩,
    ⟨at_ (st [(K.htState, 3), (K.herdRole, 1)]) 5 5, (by decide +kernel)⟩,
    ⟨st [(K.linkState 35, 2)], (by decide +kernel)⟩,
    ⟨⟨0, 10, 0, 1, 0⟩, (by decide +kernel), (by decide +kernel), (by decide +kernel), (by decide +kernel), (by decide +kernel)⟩⟩

theorem witness_SymbolsSetAndSteerHerdTime :
    (∃ (link block d h l : Nat) (b : TimeBlock) (s t : State), blockOk 0x01 block = true ∧ b = timeBlockFrom block ∧ link < 36 ∧ rd s (K.linkState link) = 2 ∧ d = oneWayPs s link b.turnaroundPs ∧ t = { wr s (K.oneWayDelayPs link) (d % 2 ^ 32) with tm := { s.tm with linkRx := tset s.tm.linkRx link s.tm.ec, linkHops := tset s.tm.linkHops link b.hops, symAt := s.tm.ec } } ∧ b.hops ≠ 0xFF ∧ followsLinks s = true ∧ upstreamOf t = some (h, l) ∧ l = link) ∧
    (∃ (link block d h l : Nat) (b : TimeBlock) (s t : State), blockOk 0x01 block = true ∧ b = timeBlockFrom block ∧ link < 36 ∧ rd s (K.linkState link) = 2 ∧ d = oneWayPs s link b.turnaroundPs ∧ t = { wr s (K.oneWayDelayPs link) (d % 2 ^ 32) with tm := { s.tm with linkRx := tset s.tm.linkRx link s.tm.ec, linkHops := tset s.tm.linkHops link b.hops, symAt := s.tm.ec } } ∧ b.hops ≠ 0xFF ∧ followsLinks s = true ∧ upstreamOf t = some (h, l) ∧ l ≠ link) ∧
    (∃ (link block : Nat) (b : TimeBlock) (s : State), blockOk 0x01 block = true ∧ b = timeBlockFrom block ∧ link < 36 ∧ rd s (K.linkState link) = 2 ∧ (b.hops = 0xFF ∨ followsLinks s = false)) ∧
    (∃ (link block : Nat) (s : State), (blockOk 0x01 block = false ∨ rd s (K.linkState link) ≠ 2 ∨ 36 ≤ link)) ∧
    (∃ (s : State), s.tm.held = false) ∧
    (∃ (s : State) (v : Nat), s.tm.held = true ∧ rd s K.htState = 1 ∧ within20 ((v : Int) - htNs s) = true ∧ s.tm.lockRun < 63) ∧
    (∃ (s : State) (v : Nat), s.tm.held = true ∧ rd s K.htState = 1 ∧ within20 ((v : Int) - htNs s) = true ∧ 63 ≤ s.tm.lockRun) ∧
    (∃ (s : State) (v : Nat), s.tm.held = true ∧ rd s K.htState = 1 ∧ within20 ((v : Int) - htNs s) = false) ∧
    (∃ (s : State) (v : Nat), s.tm.held = true ∧ rd s K.htState = 2 ∧ within20 ((v : Int) - htNs s) = true) ∧
    (∃ (s : State) (v : Nat), s.tm.held = true ∧ rd s K.htState = 2 ∧ within20 ((v : Int) - htNs s) = true) ∧
    (∃ (s : State) (v : Nat), s.tm.held = true ∧ rd s K.htState = 2 ∧ within20 ((v : Int) - htNs s) = true ∧ htNs s ≤ v) ∧
    (∃ (s : State) (v : Nat), s.tm.held = true ∧ rd s K.htState = 2 ∧ within20 ((v : Int) - htNs s) = true ∧ v < htNs s) ∧
    (∃ (s : State) (v : Nat), s.tm.held = true ∧ (rd s K.htState = 2 ∨ rd s K.htState = 3) ∧ within20 ((v : Int) - htNs s) = false) ∧
    (∃ (s : State) (v : Nat), s.tm.held = true ∧ rd s K.htState = 3 ∧ within20 ((v : Int) - htNs s) = true) ∧
    (∃ (s : State) (v : Nat), s.tm.held = true ∧ 1 ≤ rd s K.htState ∧ rd s K.htState ≤ 3 ∧ htNs s + 20 < v) ∧
    (∃ (s : State) (v : Nat), s.tm.held = true ∧ 1 ≤ rd s K.htState ∧ rd s K.htState ≤ 3 ∧ v + 20 < htNs s) :=
  ⟨⟨35, timeBlockWord ⟨0xFE, 10, 0, 1, 0⟩, _, 0xFE, 35, _, st [(K.linkState 35, 2), (K.herdEnable, 1), (K.herdRole, 2)], _, (by decide +kernel), rfl, (by decide +kernel), (by decide +kernel), rfl, rfl, (by decide +kernel), (by decide +kernel), (by decide +kernel), (by decide +kernel)⟩,
    ⟨35, timeBlockWord ⟨0xFE, 10, 0, 1, 0⟩, _, 1, 0, _, { st [(K.linkState 35, 2), (K.linkState 0, 2), (K.herdEnable, 1), (K.herdRole, 2)] with tm := { TimeSt.reset with linkHops := [(0, 1)], linkRx := [(0, 0)] } }, _, (by decide +kernel), rfl, (by decide +kernel), (by decide +kernel), rfl, rfl, (by decide +kernel), (by decide +kernel), (by decide +kernel), (by decide +kernel)⟩,
    ⟨35, timeBlockWord ⟨0xFF, 10, 0, 1, 0⟩, _, st [(K.linkState 35, 2)], (by decide +kernel), rfl, (by decide +kernel), (by decide +kernel), (by decide +kernel)⟩,
    ⟨35, 0, st [(K.linkState 35, 2), (K.herdEnable, 1), (K.herdRole, 2)], (by decide +kernel)⟩,
    ⟨st [(K.linkState 35, 2), (K.herdEnable, 1), (K.herdRole, 2)], (by decide +kernel)⟩,
    ⟨at_ (st [(K.htState, 1)]) 0 0, 20, (by decide +kernel), (by decide +kernel), (by decide +kernel), (by decide +kernel)⟩,
    ⟨{ st [(K.htState, 1)] with tm := { TimeSt.reset with held := true, lockRun := 63 } }, 20, (by decide +kernel), (by decide +kernel), (by decide +kernel), (by decide +kernel)⟩,
    ⟨at_ (st [(K.htState, 1)]) 0 0, 21, (by decide +kernel), (by decide +kernel), (by decide +kernel)⟩,
    ⟨at_ (st [(K.htState, 2)]) 0 0, 20, (by decide +kernel), (by decide +kernel), (by decide +kernel)⟩,
    ⟨at_ (st [(K.htState, 2)]) 0 0, 20, (by decide +kernel), (by decide +kernel), (by decide +kernel)⟩,
    ⟨at_ (st [(K.htState, 2)]) 0 0, 0, (by decide +kernel), (by decide +kernel), (by decide +kernel), (by decide +kernel)⟩,
    ⟨at_ (st [(K.htState, 2)]) 20 0, 0, (by decide +kernel), (by decide +kernel), (by decide +kernel), (by decide +kernel)⟩,
    ⟨at_ (st [(K.htState, 2)]) 0 0, 21, (by decide +kernel), (by decide +kernel), (by decide +kernel)⟩,
    ⟨at_ (st [(K.htState, 3)]) 0 0, 20, (by decide +kernel), (by decide +kernel), (by decide +kernel)⟩,
    ⟨at_ (st [(K.htState, 2)]) 0 0, 21, (by decide +kernel), (by decide +kernel), (by decide +kernel), (by decide +kernel)⟩,
    ⟨at_ (st [(K.htState, 2)]) 21 0, 0, (by decide +kernel), (by decide +kernel), (by decide +kernel), (by decide +kernel)⟩⟩

theorem witness_TimeTimersActWhenDue :
    (∃ (s : State), followsLinks s = true ∧ rd s K.htState = 2 ∧ passed s s.tm.symAt 4000 = true) ∧
    (∃ (s : State), (followsLinks s = false ∨ rd s K.htState ≠ 2 ∨ passed s s.tm.symAt 4000 = false)) ∧
    (∃ (s : State), followsLinks s = true ∧ rd s K.htState = 3 ∧ passed s s.tm.holdAt (gv s K.htHoldoverNs) = true) ∧
    (∃ (s : State), (followsLinks s = false ∨ rd s K.htState ≠ 3 ∨ passed s s.tm.holdAt (gv s K.htHoldoverNs) = false)) ∧
    (∃ (s t : State), onRef s = true ∧ t = { s with tm := { s.tm with refAt := s.tm.ec, refSeen := true } } ∧ s.tm.held = false) ∧
    (∃ (s t : State), onRef s = true ∧ t = { s with tm := { s.tm with refAt := s.tm.ec, refSeen := true } } ∧ s.tm.held = true) ∧
    (∃ (s : State), onRef s = false) ∧
    (∃ (s : State), onRef s = true ∧ s.tm.refSeen = true ∧ rd s K.htState = 2 ∧ passed s s.tm.refAt 1100000000 = true) ∧
    (∃ (s : State), (onRef s = false ∨ s.tm.refSeen = false ∨ rd s K.htState ≠ 2 ∨ passed s s.tm.refAt 1100000000 = false)) :=
  ⟨⟨at_ (st [(K.herdEnable, 1), (K.herdRole, 3), (K.htState, 2)]) 0 13200, (by decide +kernel), (by decide +kernel), (by decide +kernel)⟩,
    ⟨st [], (by decide +kernel)⟩,
    ⟨at_ (st [(K.herdEnable, 1), (K.herdRole, 3), (K.htState, 3)]) 0 (2 ^ 60), (by decide +kernel), (by decide +kernel), (by decide +kernel)⟩,
    ⟨at_ (st [(K.herdEnable, 1), (K.herdRole, 3), (K.htState, 2)]) 0 13200, (by decide +kernel)⟩,
    ⟨st [(K.htSource, 2), (K.htRefEnable, 1), (K.htSourceEnable, 1)], _, (by decide +kernel), rfl, (by decide +kernel)⟩,
    ⟨at_ (st [(K.htSource, 2), (K.htRefEnable, 1), (K.htSourceEnable, 1)]) 0 0, _, (by decide +kernel), rfl, (by decide +kernel)⟩,
    ⟨at_ (st [(K.herdEnable, 1), (K.herdRole, 3), (K.htState, 2)]) 0 13200, (by decide +kernel)⟩,
    ⟨{ st [(K.htSource, 2), (K.htRefEnable, 1), (K.htSourceEnable, 1), (K.htState, 2)] with tm := { TimeSt.reset with refSeen := true, ec := 2 ^ 40 } }, (by decide +kernel), (by decide +kernel), (by decide +kernel), (by decide +kernel)⟩,
    ⟨at_ (st [(K.herdEnable, 1), (K.herdRole, 3), (K.htState, 2)]) 0 13200, (by decide +kernel)⟩⟩

theorem witness_StepsAreAnnouncedAndBegun :
    (∃ (s : State), isLead s = true ∧ s.tm.held = true ∧ s.tm.next = none ∧ (s.herd.lastAnn = 0 ∨ (rd s K.currentStep = s.herd.lastAnn ∧ s.herd.lastAnnStart + stepLen s ≤ now s + 2000))) ∧
    (∃ (s : State), (isLead s = false ∨ s.tm.held = false ∨ s.tm.next ≠ none ∨ (s.herd.lastAnn ≠ 0 ∧ (rd s K.currentStep ≠ s.herd.lastAnn ∨ now s + 2000 < s.herd.lastAnnStart + stepLen s)))) ∧
    (∃ (s : State) (a : Announce), dueStep s = some a) ∧
    (∃ (s : State), dueStep s = none) ∧
    (∃ (link src msgId hops : Nat) (a : Announce) (s u v : State), castNew s src msgId = some u ∧ v = { u with outbox := u.outbox ++ [{ dst := 0xFFFF, vl := 8, key := 0, off := 0, body := .stepAnnounce a, fwd := some (src, msgId, hops, link) }] } ∧ src ≠ leadNode s) ∧
    (∃ (link src msgId hops : Nat) (a : Announce) (s u v : State), castNew s src msgId = some u ∧ v = { u with outbox := u.outbox ++ [{ dst := 0xFFFF, vl := 8, key := 0, off := 0, body := .stepAnnounce a, fwd := some (src, msgId, hops, link) }] } ∧ src = leadNode s ∧ isLead s = false ∧ rd s K.leadTerm ≤ a.leadTerm) ∧
    (∃ (link src msgId hops : Nat) (a : Announce) (s u v : State), castNew s src msgId = some u ∧ v = { u with outbox := u.outbox ++ [{ dst := 0xFFFF, vl := 8, key := 0, off := 0, body := .stepAnnounce a, fwd := some (src, msgId, hops, link) }] } ∧ src = leadNode s ∧ isLead s = false ∧ a.leadTerm < rd s K.leadTerm) ∧
    (∃ (link src msgId hops : Nat) (a : Announce) (s u v : State), castNew s src msgId = some u ∧ v = { u with outbox := u.outbox ++ [{ dst := 0xFFFF, vl := 8, key := 0, off := 0, body := .stepAnnounce a, fwd := some (src, msgId, hops, link) }] } ∧ src = leadNode s ∧ isLead s = true ∧ rd s K.leadTerm < a.leadTerm) ∧
    (∃ (link src msgId hops unit : Nat) (a : Announce) (s u v : State), castNew s src msgId = some u ∧ v = { u with outbox := u.outbox ++ [{ dst := 0xFFFF, vl := 8, key := 0, off := 0, body := .stepAnnounce a, fwd := some (src, msgId, hops, link) }] } ∧ src = leadNode s ∧ isLead s = true ∧ (a.leadTerm < rd s K.leadTerm ∨ (a.leadTerm = rd s K.leadTerm ∧ rd s K.unitId ≤ unit))) ∧
    (∃ (link src msgId hops unit : Nat) (a : Announce) (s u v : State), castNew s src msgId = some u ∧ v = { u with outbox := u.outbox ++ [{ dst := 0xFFFF, vl := 8, key := 0, off := 0, body := .stepAnnounce a, fwd := some (src, msgId, hops, link) }] } ∧ src = leadNode s ∧ isLead s = true ∧ a.leadTerm = rd s K.leadTerm ∧ unit < rd s K.unitId) ∧
    (∃ (src msgId : Nat) (s : State), castNew s src msgId = none) ∧
    (∃ (s : State), rd s K.mapEpochPrevious ≠ 0 ∧ rd s K.drainEndStep ≤ rd s K.currentStep) ∧
    (∃ (s : State), (rd s K.mapEpochPrevious = 0 ∨ rd s K.currentStep < rd s K.drainEndStep)) :=
  ⟨⟨{ at_ (st [(K.membershipState, 6), (K.currentStep, 1)]) 200000 0 with herd := { HerdSt.reset with lastAnn := 1, lastAnnStart := 2000 } }, (by decide +kernel), (by decide +kernel), (by decide +kernel), (by decide +kernel)⟩,
    ⟨{ st [(K.htState, 2)] with tm := { TimeSt.reset with held := true, ht := 165, next := some ⟨2, 5, 0, 1⟩ } }, (by decide +kernel)⟩,
    ⟨{ st [(K.htState, 2)] with tm := { TimeSt.reset with held := true, ht := 165, next := some ⟨2, 5, 0, 1⟩ } }, ⟨2, 5, 0, 1⟩, (by decide +kernel)⟩,
    ⟨{ at_ (st [(K.membershipState, 6), (K.currentStep, 1)]) 200000 0 with herd := { HerdSt.reset with lastAnn := 1, lastAnnStart := 2000 } }, (by decide +kernel)⟩,
    ⟨0, 0, 0, 0, ⟨2, 5, 0, 1⟩, lead [], _, _, rfl, rfl, (by decide +kernel)⟩,
    ⟨0, _, 0, 0, ⟨2, 5, 0, 1⟩, { st [(K.htState, 2)] with tm := { TimeSt.reset with held := true, ht := 165, next := some ⟨2, 5, 0, 1⟩ } }, _, _, rfl, rfl, rfl, (by decide +kernel), (by decide +kernel)⟩,
    ⟨0, 1, 0xFFFF, 1, ⟨2, 5, 0, 1⟩, herd [(K.leadTerm, 1)], _, _, rfl, rfl, (by decide +kernel), (by decide +kernel), (by decide +kernel)⟩,
    ⟨0, 1, 0xFFFF, 1, ⟨2, 5, 1, 1⟩, lead [], _, _, rfl, rfl, (by decide +kernel), (by decide +kernel), (by decide +kernel)⟩,
    ⟨0, 1, 0xFFFF, 0, 2, ⟨2, 5, 0, 1⟩, lead [], _, _, rfl, rfl, (by decide +kernel), (by decide +kernel), (by decide +kernel)⟩,
    ⟨0, _, 0, 0, 0, ⟨2, 5, 0, 1⟩, { at_ (st [(K.membershipState, 6), (K.currentStep, 1)]) 200000 0 with herd := { HerdSt.reset with lastAnn := 1, lastAnnStart := 2000 } }, _, _, rfl, rfl, rfl, (by decide +kernel), (by decide +kernel), (by decide +kernel)⟩,
    ⟨1, 0, { st [] with herd := { HerdSt.reset with bseen := [(1, (0, [0]))] } }, (by decide +kernel)⟩,
    ⟨st [(K.mapEpochPrevious, 1), (K.drainEndStep, 5), (K.currentStep, 5)], (by decide +kernel), (by decide +kernel)⟩,
    ⟨{ at_ (st [(K.membershipState, 6), (K.currentStep, 1)]) 200000 0 with herd := { HerdSt.reset with lastAnn := 1, lastAnnStart := 2000 } }, (by decide +kernel)⟩⟩

theorem witness_GuardPointTellsTheLead :
    (∃ (s : State), rd s K.currentStep ≠ 0 ∧ s.tm.guardDone = false ∧ refLength s - gv s K.stepGuardNs ≤ phaseNow s ∧ s.sch.running.all (fun sl => has s.sch.commitDone sl) = false ∧ isLead s = false) ∧
    (∃ (s : State), rd s K.currentStep ≠ 0 ∧ s.tm.guardDone = false ∧ refLength s - gv s K.stepGuardNs ≤ phaseNow s ∧ s.sch.running.all (fun sl => has s.sch.commitDone sl) = false ∧ isLead s = true) ∧
    (∃ (s : State), rd s K.currentStep ≠ 0 ∧ s.tm.guardDone = false ∧ refLength s - gv s K.stepGuardNs ≤ phaseNow s ∧ s.sch.running.all (fun sl => has s.sch.commitDone sl) = true) ∧
    (∃ (s : State), s.tm.guardDone = true) ∧
    (∃ (src step : Nat) (s : State), isLead s = true ∧ (mapEntry? s.herd.map src).isSome = true ∧ step = s.herd.lastAnn) ∧
    (∃ (s : State), isLead s = false) ∧
    (∃ (s : State), isLead s = true) ∧
    (∃ (s : State), isLead s = false) :=
  ⟨⟨{ at_ (st [(K.htState, 3), (K.currentStep, 1)]) 196000 0 with sch := { SchedSt.reset with running := [0] } }, (by decide +kernel), (by decide +kernel), (by decide +kernel), (by decide +kernel), (by decide +kernel)⟩,
    ⟨{ at_ (st [(K.currentStep, 1), (K.membershipState, 6)]) 196000 0 with sch := { SchedSt.reset with running := [0] } }, (by decide +kernel), (by decide +kernel), (by decide +kernel), (by decide +kernel), (by decide +kernel)⟩,
    ⟨{ at_ (st [(K.currentStep, 1)]) 196000 0 with sch := { SchedSt.reset with running := [] } }, (by decide +kernel), (by decide +kernel), (by decide +kernel), (by decide +kernel)⟩,
    ⟨{ st [] with tm := { TimeSt.reset with guardDone := true } }, (by decide +kernel)⟩,
    ⟨3, 0, herd [(K.membershipState, 6)], (by decide +kernel), (by decide +kernel), (by decide +kernel)⟩,
    ⟨{ at_ (st [(K.htState, 3), (K.currentStep, 1)]) 196000 0 with sch := { SchedSt.reset with running := [0] } }, (by decide +kernel)⟩,
    ⟨herd [(K.membershipState, 6)], (by decide +kernel)⟩,
    ⟨{ at_ (st [(K.htState, 3), (K.currentStep, 1)]) 196000 0 with sch := { SchedSt.reset with running := [0] } }, (by decide +kernel)⟩⟩

theorem witness_DueOccurrencesRun :
    (∃ (slice entry e : Nat) (s t : State), dueEntry s slice entry 2 = some e ∧ t = takeOccurrence s slice entry e) ∧
    (∃ (slice entry e : Nat) (s t : State), dueEntry s slice entry 3 = some e ∧ t = takeOccurrence s slice entry e) ∧
    (∃ (slice entry e : Nat) (s : State), dueEntry s slice entry 1 = some e ∧ sweepAreaOk s slice (enParam e) = true) ∧
    (∃ (slice entry e : Nat) (s : State), dueEntry s slice entry 1 = some e ∧ sweepAreaOk s slice (enParam e) = false) ∧
    (∃ (slice entry e : Nat) (s t : State), dueEntry s slice entry 5 = some e ∧ t = takeOccurrence s slice entry e) ∧
    (∃ (slice entry e : Nat) (failed : List Nat) (s t u v : State), dueEntry s slice entry 6 = some e ∧ t = takeOccurrence s slice entry e ∧ u = { t with sch := { t.sch with maint := addNew t.sch.maint slice }, rel := { t.rel with laneFails := t.rel.laneFails.filter (fun p => p.1 / 64 / 64 != slice) } } ∧ v = (linksOf slice).foldl restoreLanes ((linksOf slice).foldl (fun x l => if rd x (K.linkState l) == 2 && has failed l then bump x (K.eqAdaptFailures l) 1 else x) u)) ∧
    (∃ (slice entry e : Nat) (s t : State), dueEntry s slice entry 7 = some e ∧ t = { takeOccurrence s slice entry e with sch := { (takeOccurrence s slice entry e).sch with maint := without (takeOccurrence s slice entry e).sch.maint slice } }) ∧
    (∃ (slice entry : Nat) (s : State), (∀ k, dueEntry s slice entry k = none)) :=
  ⟨⟨3, 64, 2 * 2 ^ 33, sched [] 2, _, (by decide +kernel), rfl⟩,
    ⟨3, 64, 3 * 2 ^ 33, sched [] 3, _, (by decide +kernel), rfl⟩,
    ⟨3, 64, 1 * 2 ^ 33, sched [(K.slotAreaEnable 0, 1), (K.areaSlice 0, 3)] 1, (by decide +kernel), (by decide +kernel)⟩,
    ⟨3, 64, 1 * 2 ^ 33, sched [] 1, (by decide +kernel), (by decide +kernel)⟩,
    ⟨3, 64, 5 * 2 ^ 33, sched [] 5, _, (by decide +kernel), rfl⟩,
    ⟨3, 64, 6 * 2 ^ 33, [], sched [] 6, _, _, _, (by decide +kernel), rfl, rfl, rfl⟩,
    ⟨3, 64, 7 * 2 ^ 33, sched [] 7, _, (by decide +kernel), rfl⟩,
    ⟨0, 1, st [], fun _ => rfl⟩⟩

theorem witness_CommitMakesTokensVisible :
    (∃ (slice entry e : Nat) (s : State), dueEntry s slice entry 4 = some e ∧ appendsWaiting s = false) ∧
    (∃ (slice entry e : Nat) (s : State), dueEntry s slice entry 4 = some e ∧ appendsWaiting s = true) ∧
    (∃ (slice : Nat) (s : State), s.sch.commitWait = [slice] ∧ tget s.sch.commitAt slice 0 + gv s K.tierStallLimitNs ≤ now s) ∧
    (∃ (s : State), (∀ sl ∈ s.sch.commitWait, now s < tget s.sch.commitAt sl 0 + gv s K.tierStallLimitNs)) ∧
    (∃ (sh : Sheet), 0 < sh.pending) :=
  ⟨⟨3, 64, 4 * 2 ^ 33, sched [] 4, (by decide +kernel), (by decide +kernel)⟩,
    ⟨3, 64, 4 * 2 ^ 33, { sched [] 4 with att := { AttSt.reset with appends := [⟨tick 0, [], 1, 0, 0, 0, []⟩] } }, (by decide +kernel), (by decide +kernel)⟩,
    ⟨3, { at_ (st []) (2 ^ 60) 0 with sch := { SchedSt.reset with commitWait := [3] } }, (by decide +kernel), (by decide +kernel)⟩,
    ⟨sched [] 4, (by decide +kernel)⟩,
    ⟨{ sheet7 0 with pending := 1 }, (by decide +kernel)⟩⟩

theorem witness_QueryIsAdmitted :
    (∃ (s t0 t1 t2 t3 t4 u : State) (tk : Tk) (e : Tree) (snap : Nat) (payload bitmap : List Byte) (nodes : List Nat) (c : Ctx), takeHead s 1 = some (tk, t0) ∧ tget? t0.trees (qTree tk.raw) = some e ∧ e.depth = 0 ∧ queryFieldsBad t0 tk.raw = false ∧ (qMask tk.raw ≠ 4 ∨ tkTenant tk.raw = 0 ∨ on t0 (K.maskBitmapGrant (tkTenant tk.raw)) = true) ∧ snapOf t0 (tkTenant tk.raw) (querySlice t0 tk) (qSnap tk.raw) = (t1, some snap) ∧ queryAreas t1 tk.raw = 0 ∧ reamCheck t1 tk.slice tk.raw = (t2, false) ∧ partsPoisoned t2 tk (qPayload tk.raw) (queryPayload tk.raw (dimOf (qDim tk.raw))) (qMaskAddr tk.raw) (bitmapBytes tk.raw) = false ∧ fetchParts t2 tk (qPayload tk.raw) (queryPayload tk.raw (dimOf (qDim tk.raw))) (qMaskAddr tk.raw) (bitmapBytes tk.raw) = (t3, payload, bitmap) ∧ contributors t3 tk.slice (rd t3 K.mapEpoch) tk.raw = (t4, nodes) ∧ addGaps t4 (newCtx tk true e payload bitmap snap (rd t3 K.mapEpoch)) ((nodes.filter (fun n => !bitB e.members n)).map (fun n => rangeGap tk.raw St.bounds n)) = (u, c)) ∧
    (∃ (s t : State) (tk : Tk), takeHead s 1 = some (tk, t) ∧ (∀ e, tget? t.trees (qTree tk.raw) = some e → e.depth ≠ 0 ∨ queryFieldsBad t tk.raw = true)) ∧
    (∃ (s : State), takeHead s 1 = none) :=
  ⟨⟨{ home (blocks (took [] query7) 0 1) ream7 with trees := [(3, tree0)] }, _, _, _, _, _, _, _, tree0, 0, _, _, [5], _, take_head rfl (by decide +kernel), (by decide +kernel), (by decide +kernel), (by decide +kernel), (by decide +kernel), pair_of (by decide +kernel), (by decide +kernel), pair_of (by decide +kernel), (by decide +kernel), triple _, pair_of (by decide +kernel), pair _⟩,
    ⟨took [] query7, _, _, take_head rfl (by decide +kernel), of_none (by decide +kernel)⟩,
    ⟨st [], (by decide +kernel)⟩⟩

theorem witness_AppendsAndRetiresAreAdmitted :
    (∃ (s t0 t1 t2 : State) (tk : Tk) (payload rest : List Byte), takeHead s 2 = some (tk, t0) ∧ handoffHolds t0 tk.raw = false ∧ appendFieldsBad tk.raw = false ∧ appendOutside t0 tk.raw = false ∧ appendAreas t0 tk = 0 ∧ homeOf t0 tk.slice (tkTenant tk.raw) (bReam tk.raw) = (t1, some (myNode t1)) ∧ partsPoisoned t1 tk (aPayload tk.raw) (appendPayload tk.raw (dimOf (aDim tk.raw))) 0 0 = false ∧ fetchParts t1 tk (aPayload tk.raw) (appendPayload tk.raw (dimOf (aDim tk.raw))) 0 0 = (t2, payload, rest) ∧ myNode t2 = myNode t1) ∧
    (∃ (s t0 t1 : State) (tk : Tk) (m : Ream), takeHead s 3 = some (tk, t0) ∧ homeOf t0 tk.slice (tkTenant tk.raw) (bReam tk.raw) = (t1, some (myNode t1)) ∧ knownReam t1 (tkTenant tk.raw) (bReam tk.raw) = some m ∧ m.retiredSet = false ∧ t1.att.retires.any (fun x => tkTenant x.raw == tkTenant tk.raw && bReam x.raw == bReam tk.raw) = false) ∧
    (∃ (s t0 t1 : State) (tk : Tk) (m : Ream), takeHead s 3 = some (tk, t0) ∧ homeOf t0 tk.slice (tkTenant tk.raw) (bReam tk.raw) = (t1, some (myNode t1)) ∧ knownReam t1 (tkTenant tk.raw) (bReam tk.raw) = some m ∧ (m.retiredSet = true ∨ t1.att.retires.any (fun x => tkTenant x.raw == tkTenant tk.raw && bReam x.raw == bReam tk.raw) = true)) ∧
    (∃ (s t0 t1 : State) (tk : Tk), takeHead s 3 = some (tk, t0) ∧ homeOf t0 tk.slice (tkTenant tk.raw) (bReam tk.raw) = (t1, none)) ∧
    (∃ (s t0 t1 t2 : State) (tk : Tk) (h : Nat) (payload rest : List Byte), takeHead s 2 = some (tk, t0) ∧ handoffHolds t0 tk.raw = false ∧ appendFieldsBad tk.raw = false ∧ appendAreas t0 tk = 0 ∧ homeOf t0 tk.slice (tkTenant tk.raw) (bReam tk.raw) = (t1, some h) ∧ h ≠ myNode t0 ∧ partsPoisoned t1 tk (aPayload tk.raw) (appendPayload tk.raw (dimOf (aDim tk.raw))) 0 0 = false ∧ fetchParts t1 tk (aPayload tk.raw) (appendPayload tk.raw (dimOf (aDim tk.raw))) 0 0 = (t2, payload, rest) ∧ h ≠ myNode t2) ∧
    (∃ (s t : State) (tk : Tk), takeHead s 2 = some (tk, t) ∧ handoffHolds t tk.raw = true) ∧
    (∃ (s t : State) (tk : Tk), takeHead s 2 = some (tk, t) ∧ handoffHolds t tk.raw = false ∧ appendFieldsBad tk.raw = true) ∧
    (∃ (s t0 t1 : State) (tk : Tk) (h : Nat), takeHead s 3 = some (tk, t0) ∧ homeOf t0 tk.slice (tkTenant tk.raw) (bReam tk.raw) = (t1, some h) ∧ h ≠ myNode t1) ∧
    (∃ (s : State), takeHead s 2 = none) ∧
    (∃ (s : State), takeHead s 3 = none) :=
  ⟨⟨home ({ st [(K.ticketPayloadMaxMib, 1)] with att := { AttSt.reset with taken := [Tk.carries (tick (append7)) (appendPayload (append7) 64)] } }) ream7, _, _, _, _, _, _, rfl, (by decide +kernel), (by decide +kernel), (by decide +kernel), (by decide +kernel), rfl, (by decide +kernel), rfl, (by decide +kernel)⟩,
    ⟨home (took [] (fields [(32, 3), (256, 7)])) ream7, _, _, _, ream7, rfl, rfl, (by decide +kernel), (by decide +kernel), (by decide +kernel)⟩,
    ⟨home (took [] (fields [(32, 3), (256, 7)])) { ream7 with retiredSet := true }, _, _, _, { ream7 with retiredSet := true }, rfl, rfl, (by decide +kernel), (by decide +kernel)⟩,
    ⟨took [] (fields [(32, 3), (256, 7)]), _, _, _, rfl, rfl⟩,
    ⟨{ home ({ st [(K.ticketPayloadMaxMib, 1)] with att := { AttSt.reset with taken := [Tk.carries (tick append7) (appendPayload append7 64)] } }) ream7 with dict := [(K.ticketPayloadMaxMib, 1)] }, _, _, _, _, 5, _, _, take_head rfl (by decide +kernel), (by decide +kernel), (by decide +kernel), (by decide +kernel), pair_of (by decide +kernel), (by decide +kernel), (by decide +kernel), triple _, (by decide +kernel)⟩,
    ⟨{ handing 1 true with comp := { CompSt.reset with handoffs := [{ (⟨order 2 3 true, true, 1, 1⟩ : HandoffSt) with }] }, dict := [(K.currentStep, 1)], att := { AttSt.reset with taken := [tick append7] } }, _, _, take_head rfl (by decide +kernel), (by decide +kernel)⟩,
    ⟨took [] (fields [(32, 2)]), _, _, take_head rfl (by decide +kernel), (by decide +kernel), (by decide +kernel)⟩,
    ⟨{ home (took [] (fields [(32, 3), (256, 7)])) ream7 with dict := [] }, _, _, _, 5, take_head rfl (by decide +kernel), pair_of (by decide +kernel), (by decide +kernel)⟩,
    ⟨home (took [] (fields [(32, 3), (256, 7)])) ream7, (by decide +kernel)⟩,
    ⟨home ({ st [(K.ticketPayloadMaxMib, 1)] with att := { AttSt.reset with taken := [Tk.carries (tick (append7)) (appendPayload (append7) 64)] } }) ream7, (by decide +kernel)⟩⟩

theorem witness_WholesAreGathered :
    (∃ (link src vl key id whole offset : Nat) (part : List Byte) (s t u : State) (g h : Gather), s.att.gathers.find? (fun g => g.src == src && g.vl == vl && g.key == key && g.base == partBase id offset) = none ∧ openGather s link src vl key (partBase id offset) whole = (t, g) ∧ h = { g with parts := [(offset, part)], got := 0 + part.length } ∧ u = { t with att := { t.att with gathers := t.att.gathers.filter (fun x => x.buf != g.buf) ++ [h] } } ∧ part.length < whole) ∧
    (∃ (link src vl key id whole offset : Nat) (part : List Byte) (s t u : State) (g h : Gather), s.att.gathers.find? (fun g => g.src == src && g.vl == vl && g.key == key && g.base == partBase id offset) = none ∧ openGather s link src vl key (partBase id offset) whole = (t, g) ∧ h = { g with parts := [(offset, part)], got := 0 + part.length } ∧ u = { t with att := { t.att with gathers := t.att.gathers.filter (fun x => x.buf != g.buf) ++ [h] } } ∧ whole ≤ part.length) ∧
    (∃ (src vl key id whole offset : Nat) (part : List Byte) (s u : State) (g h : Gather), s.att.gathers.find? (fun g => g.src == src && g.vl == vl && g.key == key && g.base == partBase id offset) = some g ∧ h = { g with parts := insPart (offset, part) g.parts, got := g.got + part.length } ∧ u = { s with att := { s.att with gathers := s.att.gathers.filter (fun x => x.buf != g.buf) ++ [h] } } ∧ g.got + part.length < whole) ∧
    (∃ (src vl key id whole offset : Nat) (part : List Byte) (s u : State) (g h : Gather), s.att.gathers.find? (fun g => g.src == src && g.vl == vl && g.key == key && g.base == partBase id offset) = some g ∧ h = { g with parts := insPart (offset, part) g.parts, got := g.got + part.length } ∧ u = { s with att := { s.att with gathers := s.att.gathers.filter (fun x => x.buf != g.buf) ++ [h] } } ∧ whole ≤ g.got + part.length) ∧
    (∃ (whole : List Byte), tkType (ofBytes (whole.take 128)) = 1) ∧
    (∃ (src vl : Nat) (g : Gather) (s : State), s.att.gathers.find? (fun g => g.src == src && g.vl == vl && passed s g.firstAt (rd s K.reassemblyTimeoutNs)) = some g) ∧
    (∃ (s : State), (∀ g ∈ s.att.gathers, passed s g.firstAt (rd s K.reassemblyTimeoutNs) = false)) ∧
    (∃ (link src vl key base whole : Nat) (s t : State) (g : Gather), openGather s link src vl key base whole = (t, g)) ∧
    (∃ (g : Gather) (s : State) (x : _), x ∈ (freeGather s g).att.gathers) :=
  ⟨⟨0, 4, 7, 1, 0, 3, 0, [0, 0], st [], _, _, _, _, (by decide +kernel), rfl, rfl, rfl, (by decide +kernel)⟩,
    ⟨0, 4, 7, 1, 0, 2, 0, [0, 0], st [], _, _, _, _, (by decide +kernel), rfl, rfl, rfl, (by decide +kernel)⟩,
    ⟨4, 7, 1, 0, 3, 0, [], { st [] with att := { AttSt.reset with gathers := [⟨4, 7, 1, 35, 3, 2, [(0, [0, 0])], 0, 0, 0⟩] } }, _, _, _, rfl, rfl, rfl, (by decide +kernel)⟩,
    ⟨4, 7, 1, 0, 3, 0, [0], { st [] with att := { AttSt.reset with gathers := [⟨4, 7, 1, 35, 3, 2, [(0, [0, 0])], 0, 0, 0⟩] } }, _, _, _, rfl, rfl, rfl, (by decide +kernel)⟩,
    ⟨toBytes 128 query7, (by decide +kernel)⟩,
    ⟨4, 7, ⟨4, 7, 1, 35, 3, 2, [(0, [0, 0])], 0, 0, 0⟩, { at_ (st []) 0 (2 ^ 40) with att := { AttSt.reset with gathers := [⟨4, 7, 1, 35, 3, 2, [(0, [0, 0])], 0, 0, 0⟩] } }, rfl⟩,
    ⟨st [], (by decide +kernel)⟩,
    ⟨0, 4, 7, 1, 0, 2, st [], _, _, rfl⟩,
    ⟨⟨4, 7, 1, 35, 3, 2, [(0, [0, 0])], 0, 0, 1⟩, { st [] with att := { AttSt.reset with gathers := [⟨4, 7, 1, 35, 3, 2, [(0, [0, 0])], 0, 0, 0⟩] } }, ⟨4, 7, 1, 35, 3, 2, [(0, [0, 0])], 0, 0, 0⟩, (by decide +kernel)⟩⟩

theorem witness_DeadlinesFireOnce :
    (∃ (id slice : Nat) (s : State), ctxOf s id = none ∧ deadlineFires s id = some slice) ∧
    (∃ (id slice : Nat) (c : Ctx) (s : State), ctxOf s id = some c ∧ deadlineFires s id = some slice) ∧
    (∃ (id : Nat) (s : State), deadlineFires s id = none) ∧
    (∃ (id slice : Nat) (s : State), deadlineFires s id = some slice) ∧
    (∃ (id slice : Nat) (s : State) (x : _), x ∈ (takeFire s slice id).att.dls) :=
  ⟨⟨1, 0, deadline1 (st []), (by decide +kernel), (by decide +kernel)⟩,
    ⟨1, 0, ctx1 0, deadline1 { st [] with ctxs := [ctx1 0] }, (by decide +kernel), (by decide +kernel)⟩,
    ⟨1, st [], (by decide +kernel)⟩,
    ⟨1, 0, deadline1 (st []), (by decide +kernel)⟩,
    ⟨1, 0, { st [] with att := { AttSt.reset with dls := [(0, 5, 2)] } }, (0, 5, 2), (by decide +kernel)⟩⟩

theorem witness_SetsAreFolded :
    (∃ (s : State) (c : Ctx) (place : Nat), s.ctxWait.find? (fun c => (ctxPlace s c).isSome) = some c ∧ ctxPlace s c = some place) ∧
    (∃ (s : State), (∀ c ∈ s.ctxWait, ctxPlace s c = none)) ∧
    (∃ (src : Nat) (m : RecSet) (c d e : Ctx) (s t : State), s.ctxs.find? (fun c => tkId c.tk.raw == m.ticketId && qTree c.tk.raw == m.treeId && has (childrenOf c.tree) src && !has c.slots src && !c.closed) = some c ∧ d = markLate s { c with slots := c.slots ++ [src], setGaps := c.setGaps ++ m.gaps, late := c.late || m.late, setStatus := if m.status = 0 then c.setStatus else c.setStatus ++ [m.status] } ∧ m.rows ≠ 0 ∧ foldInput s d m.recs m.weights m.weightDropped = (t, e)) ∧
    (∃ (src : Nat) (m : RecSet) (c d : Ctx) (s : State), s.ctxs.find? (fun c => tkId c.tk.raw == m.ticketId && qTree c.tk.raw == m.treeId && has (childrenOf c.tree) src && !has c.slots src && !c.closed) = some c ∧ d = markLate s { c with slots := c.slots ++ [src], setGaps := c.setGaps ++ m.gaps, late := c.late || m.late, setStatus := if m.status = 0 then c.setStatus else c.setStatus ++ [m.status] } ∧ m.rows = 0) ∧
    (∃ (src : Nat) (m : RecSet) (s : State), (∀ c ∈ s.ctxs, tkId c.tk.raw = m.ticketId → qTree c.tk.raw = m.treeId → has (childrenOf c.tree) src = true → has c.slots src = true ∨ c.closed = true) ∧ (∃ w, (m.treeId, m.ticketId, w) ∈ s.att.doneWork ∧ has w src = true)) ∧
    (∃ (src : Nat) (m : RecSet) (s : State), (∀ c ∈ s.ctxs, tkId c.tk.raw = m.ticketId → qTree c.tk.raw = m.treeId → has (childrenOf c.tree) src = true → has c.slots src = true ∨ c.closed = true) ∧ (∀ w, (m.treeId, m.ticketId, w) ∈ s.att.doneWork → has w src = false)) :=
  ⟨⟨{ st [(K.mergeEnable, 1), (K.sliceState 0, 1)] with ctxWait := [ctx1 query7] }, ctx1 query7, 0, (by decide +kernel), (by decide +kernel)⟩,
    ⟨st [], (by decide +kernel)⟩,
    ⟨4, set4 0 1, { ctx1 query7 with tree := { tree0 with children := [4] } }, _, _, { st [] with ctxs := [{ ctx1 query7 with tree := { tree0 with children := [4] } }] }, _, (by decide +kernel), rfl, (by decide +kernel), rfl⟩,
    ⟨4, set4 0 0, { ctx1 query7 with tree := { tree0 with children := [4] } }, _, { st [] with ctxs := [{ ctx1 query7 with tree := { tree0 with children := [4] } }] }, rfl, rfl, (by decide +kernel)⟩,
    ⟨4, set4 0 1, { st [] with att := { AttSt.reset with doneWork := [(3, 0, [4])] } }, (by decide +kernel), ⟨[4], by decide⟩⟩,
    ⟨0, set4 0 1, { st [(K.mergeEnable, 1), (K.sliceState 0, 1)] with ctxWait := [ctx1 query7] }, (by decide +kernel), fun _ h => by cases h⟩⟩

theorem witness_SharesRunThroughTheirStages :
    (∃ (slice : Nat) (s t : State) (x y z : Share) (c d : Ctx), placesUsed s slice < 16 ∧ nextShare s slice = some x ∧ ctxOf s x.ctx = some c ∧ handStrays s c x = (t, d, y) ∧ z = dropPoisoned t y ∧ y.sheets = [] ∧ x.sheets ≠ []) ∧
    (∃ (slice : Nat) (s t : State) (x y z : Share) (c d : Ctx), placesUsed s slice < 16 ∧ nextShare s slice = some x ∧ ctxOf s x.ctx = some c ∧ handStrays s c x = (t, d, y) ∧ z = dropPoisoned t y ∧ (y.sheets ≠ [] ∨ x.sheets = []) ∧ absentQuires t z = []) ∧
    (∃ (slice : Nat) (s t : State) (x y z : Share) (c d : Ctx), placesUsed s slice < 16 ∧ nextShare s slice = some x ∧ ctxOf s x.ctx = some c ∧ handStrays s c x = (t, d, y) ∧ z = dropPoisoned t y ∧ (y.sheets ≠ [] ∨ x.sheets = []) ∧ absentQuires t z ≠ [] ∧ parkedNow t slice < rd t K.parkedLimit) ∧
    (∃ (slice : Nat) (s t : State) (x y z : Share) (c d : Ctx), placesUsed s slice < 16 ∧ nextShare s slice = some x ∧ ctxOf s x.ctx = some c ∧ handStrays s c x = (t, d, y) ∧ z = dropPoisoned t y ∧ (y.sheets ≠ [] ∨ x.sheets = []) ∧ absentQuires t z ≠ [] ∧ rd t K.parkedLimit ≤ parkedNow t slice) ∧
    (∃ (slice : Nat) (s : State), (16 ≤ placesUsed s slice ∨ nextShare s slice = none)) ∧
    (∃ (slice : Nat) (s : State) (x : Share), (sliceShares s slice).find? (fun x => x.stage == .parked && quiresHere s x) = some x) ∧
    (∃ (slice : Nat) (s : State), (∀ x ∈ sliceShares s slice, x.stage = .parked → quiresHere s x = false)) ∧
    (∃ (slice v : Nat) (s t : State) (x y : Share) (c : Ctx), (∀ z ∈ sliceShares s slice, z.stage ≠ .stream) ∧ stackReady s slice = true ∧ hasEngines s slice = true ∧ (sliceShares s slice).find? (fun z => z.stage == .staged) = some x ∧ ctxOf s x.ctx = some c ∧ v = stackHolder (carryingStack slice) ∧ hasGrant s slice 0 = true ∧ hasGrant s v 0 = true ∧ t = loadContexts s slice ∧ (arrayOn t slice = true → ctxLoaded (stackSt t slice) x = true) ∧ (if x.felt != 0 then some x else takePass t x (cRows c)) = some y) ∧
    (∃ (slice v n : Nat) (s : State) (x : Share) (c : Ctx), (∀ z ∈ sliceShares s slice, z.stage ≠ .stream) ∧ stackReady s slice = true ∧ hasEngines s slice = true ∧ (sliceShares s slice).find? (fun z => z.stage == .staged) = some x ∧ ctxOf s x.ctx = some c ∧ v = stackHolder (carryingStack slice) ∧ n = streamSpan s x (cRows c) ∧ (hasGrant s slice 0 = false ∨ hasGrant s v 0 = false)) ∧
    (∃ (slice : Nat) (s t : State) (x y z : Share) (c : Ctx), (sliceShares s slice).find? (fun z => z.stage == .stream) = some x ∧ ctxOf s x.ctx = some c ∧ x.pass + (if x.felt = 0 then 0 else 1) < passCount (cRows c) x.sheets.length ∧ endPass s c x = (t, y) ∧ y.felt = 0 ∧ takePass t y (cRows c) = some z) ∧
    (∃ (slice : Nat) (s t : State) (x y : Share) (c : Ctx), (sliceShares s slice).find? (fun z => z.stage == .stream) = some x ∧ ctxOf s x.ctx = some c ∧ (if x.pass + 1 = passCount (cRows c) x.sheets.length then endPass s c x else (s, x)) = (t, y) ∧ passCount (cRows c) y.sheets.length ≤ y.pass) ∧
    (∃ (slice : Nat) (s t : State) (x y : Share) (c : Ctx), (sliceShares s slice).find? (fun z => z.stage == .stream) = some x ∧ ctxOf s x.ctx = some c ∧ (if x.pass + 1 = passCount (cRows c) x.sheets.length then endPass s c x else (s, x)) = (t, y) ∧ y.pass < passCount (cRows c) y.sheets.length) :=
  ⟨⟨0, { at_ (st [(K.sliceState 1, 1)]) 0 0 with att := { AttSt.reset with shares := [{ share1 .queued with sheets := [key7] }] }, ctxs := [ctx1 query7], kv := { KvSt.reset with sheets := [(key7, sheet7 0)], quires := [(quireOfSheet key7, { quire1 0 none with slice := 1 })] } }, _, _, _, _, _, _, (by decide +kernel), rfl, rfl, triple _, rfl, (by decide +kernel), (by decide +kernel)⟩,
    ⟨0, { at_ (st []) 0 0 with att := { AttSt.reset with shares := [share1 .queued] }, ctxs := [ctx1 query7] }, _, share1 .queued, _, _, ctx1 query7, _, (by decide +kernel), (by decide +kernel), (by decide +kernel), rfl, rfl, (by decide +kernel), (by decide +kernel)⟩,
    ⟨0, { at_ (st []) 0 0 with att := { AttSt.reset with shares := [{ share1 .queued with sheets := [key7] }] }, ctxs := [ctx1 query7], kv := { KvSt.reset with sheets := [(key7, sheet7 0)], quires := [(quireOfSheet key7, quire1 2 none)] } }, _, { share1 .queued with sheets := [key7] }, _, _, ctx1 query7, _, (by decide +kernel), (by decide +kernel), (by decide +kernel), rfl, rfl, (by decide +kernel), (by decide +kernel), (by decide +kernel)⟩,
    ⟨0, { at_ (st [(K.parkedLimit, 0)]) 0 0 with att := { AttSt.reset with shares := [{ share1 .queued with sheets := [key7] }] }, ctxs := [ctx1 query7], kv := { KvSt.reset with sheets := [(key7, sheet7 0)], quires := [(quireOfSheet key7, { quire1 2 none with slice := 0 })] } }, _, _, _, _, _, _, (by decide +kernel), rfl, rfl, triple _, rfl, (by decide +kernel), (by decide +kernel), (by decide +kernel)⟩,
    ⟨0, { at_ (st []) 0 0 with att := { AttSt.reset with shares := [share1 .parked] }, ctxs := [ctx1 query7] }, (by decide +kernel)⟩,
    ⟨0, { at_ (st []) 0 0 with att := { AttSt.reset with shares := [share1 .parked] }, ctxs := [ctx1 query7] }, share1 .parked, (by decide +kernel)⟩,
    ⟨0, { at_ (st []) 0 0 with att := { AttSt.reset with shares := [share1 .queued] }, ctxs := [ctx1 query7] }, (by decide +kernel)⟩,
    ⟨0, _, { at_ (st [(K.enginesInService 0, 32)]) 0 0 with att := { AttSt.reset with shares := [{ share1 .staged with felt := 1 }] }, ctxs := [ctx1 query7], pow := { PowerSt.reset with grants := [⟨0, 1, 0, 1, 1, 0, false, 0, false⟩, ⟨stackHolder (carryingStack 0), 1, 0, 1, 1, 0, false, 1, false⟩] } }, _, _, _, _, (by decide +kernel), (by decide +kernel), (by decide +kernel), rfl, rfl, rfl, (by decide +kernel), (by decide +kernel), rfl, (by decide +kernel), rfl⟩,
    ⟨0, _, _, { at_ (st [(K.enginesInService 0, 32)]) 0 0 with att := { AttSt.reset with shares := [{ share1 .staged with felt := 1 }] }, ctxs := [ctx1 query7] }, _, _, (by decide +kernel), (by decide +kernel), (by decide +kernel), rfl, rfl, rfl, rfl, (by decide +kernel)⟩,
    ⟨0, { at_ (st []) 0 0 with att := { AttSt.reset with shares := [{ share1 .stream with sheets := List.replicate 257 key7 }] }, ctxs := [ctx1 query7] }, _, _, _, _, _, rfl, rfl, (by decide +kernel), pair _, (by decide +kernel), (Option.some_get (by decide +kernel)).symm⟩,
    ⟨0, { at_ (st []) 0 0 with att := { AttSt.reset with shares := [{ share1 .stream with pass := 1 }] }, ctxs := [ctx1 query7] }, _, { share1 .stream with pass := 1 }, { share1 .stream with pass := 1 }, ctx1 query7, (by decide +kernel), (by decide +kernel), if_neg (by decide +kernel), (by decide +kernel)⟩,
    ⟨0, { at_ (st []) 0 0 with att := { AttSt.reset with shares := [{ share1 .stream with sheets := [key7] }] }, ctxs := [ctx1 query7] }, _, _, _, _, rfl, rfl, pair _, (by decide +kernel)⟩⟩

theorem witness_BurstsOwnTheirBankSets :
    (∃ (slice ns : Nat) (s u v : State) (x : Share) (c : Ctx) (run : List Nat), u = serveStack slice s ∧ (stackSt u slice).burst = none ∧ (stackSt u slice).planned ≠ [] ∧ arrayOn u slice = true ∧ (sliceShares u slice).find? (fun z => z.stage == .stream) = some x ∧ ctxOf u x.ctx = some c ∧ fitsBurst u (cRows c) (copyOf x ((stackSt u slice).planned.headD 0)) = true ∧ v = loadContexts u slice ∧ ctxLoaded (stackSt v slice) x = true ∧ run = burstRun v (stackSt v slice) x (cRows c) (stackSt v slice).planned 0 ∧ run ≠ [] ∧ ns = ceilDiv (clocksOf x (cRows c) run * 5) 8 ∧ hasGrant v (stackHolder (scoringStack slice)) ns = true) ∧
    (∃ (slice ns : Nat) (s u v : State) (x : Share) (c : Ctx) (run : List Nat), u = serveStack slice s ∧ (stackSt u slice).burst = none ∧ (stackSt u slice).planned ≠ [] ∧ arrayOn u slice = true ∧ (sliceShares u slice).find? (fun z => z.stage == .stream) = some x ∧ ctxOf u x.ctx = some c ∧ fitsBurst u (cRows c) (copyOf x ((stackSt u slice).planned.headD 0)) = true ∧ v = loadContexts u slice ∧ ctxLoaded (stackSt v slice) x = true ∧ run = burstRun v (stackSt v slice) x (cRows c) (stackSt v slice).planned 0 ∧ run ≠ [] ∧ ns = ceilDiv (clocksOf x (cRows c) run * 5) 8 ∧ hasGrant v (stackHolder (scoringStack slice)) ns = false) ∧
    (∃ (slice : Nat) (s u : State) (x y : Share) (c : Ctx), u = serveStack slice s ∧ (stackSt u slice).burst = none ∧ (stackSt u slice).planned ≠ [] ∧ arrayOn u slice = true ∧ (sliceShares u slice).find? (fun z => z.stage == .stream) = some x ∧ ctxOf u x.ctx = some c ∧ fitsBurst u (cRows c) (copyOf x ((stackSt u slice).planned.headD 0)) = false ∧ y = { x with inStack := without x.inStack ((stackSt u slice).planned.headD 0) }) ∧
    (∃ (slice : Nat) (s t u : State) (b : Burst) (late : List Nat), (stackSt s slice).burst = some b ∧ passed s b.startEc b.plannedNs = true ∧ late = b.banks.filter (fun k => decide (balanceOf (stackSt s slice) k ≤ -1)) ∧ t = bump (bump s (K.halvesScoredInStack slice) b.sheets.length) (K.refreshAtBoundary slice) late.length ∧ u = refresh (putStack t slice (endBurst t slice b (stackSt s slice))) slice late (fun k => balanceOf (stackSt s slice) k + 1)) ∧
    (∃ (slice : Nat) (s : State) (b : Burst), (stackSt s slice).burst = some b ∧ passed s b.startEc b.plannedNs = false) ∧
    (∃ (slice bankSet : Nat) (s : State), slice < 4 ∧ bankSet < 64 ∧ passed s (tget (stackSt s slice).due bankSet 0) (refreshNs s slice) = true) ∧
    (∃ (slice bankSet : Nat) (s : State), slice < s.arrays.length ∧ slice < 4 ∧ bankSet < 64 ∧ passed s (tget (stackSt s slice).due bankSet 0) (refreshNs s slice) = true ∧ balanceOf (stackSt s slice) bankSet ≤ 1 ∧ (stackSt s slice).burst = none ∧ (stackSt s slice).readWait = [] ∧ (stackSt s slice).writeBuf = [] ∧ has (slotsNow s (stackSt s slice)) bankSet = false ∧ (∀ x ∈ sliceShares s slice, x.stage ≠ .stream)) ∧
    (∃ (slice bankSet : Nat) (s : State), passed s (tget (stackSt s slice).due bankSet 0) (refreshNs s slice) = false) :=
  ⟨⟨0, _, stack0 ({ at_ (st [(K.scoringEnable, 1)]) 0 0 with att := { AttSt.reset with shares := [{ share1 .stream with sheets := [key7], meta_ := [sheet7 0] }] }, ctxs := [ctx1 query7], pow := { PowerSt.reset with grants := [⟨stackHolder (scoringStack 0), 1, 0, 1, 1, 0, false, 0, false⟩] } }) { StackSt.reset with planned := [key7], ctxs := [⟨9, [], []⟩] }, _, _, { share1 .stream with sheets := [key7], meta_ := [sheet7 0] }, ctx1 query7, _, (rfl), (by decide +kernel), (by decide +kernel), (by decide +kernel), (by decide +kernel), (by decide +kernel), (by decide +kernel), (rfl), (by decide +kernel), (rfl), (by decide +kernel), (rfl), (by decide +kernel)⟩,
    ⟨0, _, stack0 ({ at_ (st [(K.scoringEnable, 1)]) 0 0 with att := { AttSt.reset with shares := [{ share1 .stream with sheets := [key7], meta_ := [sheet7 0] }] }, ctxs := [ctx1 query7], pow := { PowerSt.reset with grants := [] } }) { StackSt.reset with planned := [key7], ctxs := [⟨9, [], []⟩] }, _, _, { share1 .stream with sheets := [key7], meta_ := [sheet7 0] }, ctx1 query7, _, (rfl), (by decide +kernel), (by decide +kernel), (by decide +kernel), (by decide +kernel), (by decide +kernel), (by decide +kernel), (rfl), (by decide +kernel), (rfl), (by decide +kernel), (rfl), (by decide +kernel)⟩,
    ⟨0, stack0 ({ at_ (st [(K.scoringEnable, 1), (K.burstMaxNs, 0)]) 0 0 with att := { AttSt.reset with shares := [{ share1 .stream with sheets := [key7], meta_ := [sheet7 0] }] }, ctxs := [ctx1 query7], pow := { PowerSt.reset with grants := [] } }) { StackSt.reset with planned := [key7] }, _, { share1 .stream with sheets := [key7], meta_ := [sheet7 0] }, _, ctx1 query7, rfl, (by decide +kernel), (by decide +kernel), (by decide +kernel), (by decide +kernel), (by decide +kernel), (by decide +kernel), rfl⟩,
    ⟨0, stack0 (at_ (st []) 0 0) { StackSt.reset with burst := some burst1 }, _, _, burst1, _, (by decide +kernel), (by decide +kernel), rfl, rfl, rfl⟩,
    ⟨0, stack0 (at_ (st []) 0 0) { StackSt.reset with burst := some { burst1 with plannedNs := 10 } }, { burst1 with plannedNs := 10 }, (by decide +kernel), (by decide +kernel)⟩,
    ⟨0, 63, stack0 (at_ (st []) 0 12870) { StackSt.reset with burst := some burst1 }, (by decide +kernel), (by decide +kernel), (by decide +kernel)⟩,
    ⟨3, 63, at_ (st []) 0 12870, (by decide +kernel), (by decide +kernel), (by decide +kernel), (by decide +kernel), (by decide +kernel), (by decide +kernel), (by decide +kernel), (by decide +kernel), (by decide +kernel), (by decide +kernel)⟩,
    ⟨0, 0, stack0 (at_ (st []) 0 0) { StackSt.reset with burst := some burst1 }, (by decide +kernel)⟩⟩

theorem witness_HostReadsAnswerTheLine :
    (∃ (hpa dpa : Nat) (s : State), linkUp s = true ∧ hostDpa s (hpa / 64 * 64) = some dpa ∧ (∀ sl, scoringSliceOf s dpa = some sl → mustWait s sl dpa = false)) ∧
    (∃ (hpa dpa sl : Nat) (s : State), linkUp s = true ∧ hostDpa s (hpa / 64 * 64) = some dpa ∧ scoringSliceOf s dpa = some sl ∧ mustWait s sl dpa = true) ∧
    (∃ (hpa : Nat) (s : State), linkUp s = true ∧ hostDpa s (hpa / 64 * 64) = none) ∧
    (∃ (s : State), linkUp s = false) :=
  ⟨⟨0xFFFFF, 0xFFFC0, blocks (st [(K.cxlModeNow, 1), (K.hostPortEnable, 1)]) 0 1, (by decide +kernel), (by decide +kernel), (by decide +kernel)⟩,
    ⟨0, 0, 0, stack0 (blocks (st [(K.cxlModeNow, 1), (K.hostPortEnable, 1)]) 1 1) { StackSt.reset with burst := some burst1 }, (by decide +kernel), (by decide +kernel), (by decide +kernel), (by show mustWait _ 0 0 = true; unfold mustWait; rw [Bool.or_eq_true]; exact .inl (all_banks _))⟩,
    ⟨0x100000, blocks (st [(K.cxlModeNow, 1), (K.hostPortEnable, 1)]) 0 1, (by decide +kernel), (by decide +kernel)⟩,
    ⟨st [], (by decide +kernel)⟩⟩

theorem witness_HostWritesStoreTheirBytes :
    (∃ (hpa dpa : Nat) (s : State), linkUp s = true ∧ hostDpa s hpa = some dpa ∧ publishedAt s dpa = false ∧ (∀ sl, scoringSliceOf s dpa = some sl → mustWait s sl dpa = false ∧ (stackSt s sl).writeBuf.length < 256)) ∧
    (∃ (hpa dpa : Nat) (s : State), linkUp s = true ∧ hostDpa s hpa = some dpa ∧ publishedAt s dpa = false ∧ (∀ sl, scoringSliceOf s dpa = some sl → mustWait s sl dpa = false ∧ (stackSt s sl).writeBuf.length < 256)) ∧
    (∃ (hpa dpa : Nat) (s : State), linkUp s = true ∧ hostDpa s hpa = some dpa ∧ publishedAt s dpa = false ∧ (∀ sl, scoringSliceOf s dpa = some sl → mustWait s sl dpa = false ∧ (stackSt s sl).writeBuf.length < 256)) ∧
    (∃ (hpa dpa : Nat) (data : List Byte) (s : State) (a : _), linkUp s = true ∧ hostDpa s hpa = some dpa ∧ publishedAt s dpa = false ∧ (∀ sl, scoringSliceOf s dpa = some sl → mustWait s sl dpa = false ∧ (stackSt s sl).writeBuf.length < 256) ∧ (a < dpa ∨ dpa + (data.take (64 - dpa % 64)).length ≤ a)) ∧
    (∃ (hpa : Nat) (s : State), linkUp s = true ∧ hostDpa s hpa = none) ∧
    (∃ (hpa dpa : Nat) (s : State), linkUp s = true ∧ hostDpa s hpa = some dpa ∧ publishedAt s dpa = true) ∧
    (∃ (hpa dpa sl : Nat) (s : State), linkUp s = true ∧ hostDpa s hpa = some dpa ∧ publishedAt s dpa = false ∧ scoringSliceOf s dpa = some sl ∧ (stackSt s sl).writeBuf.length < 256 ∧ mustWait s sl dpa = true) ∧
    (∃ (hpa dpa sl : Nat) (s : State), linkUp s = true ∧ hostDpa s hpa = some dpa ∧ publishedAt s dpa = false ∧ scoringSliceOf s dpa = some sl ∧ 256 ≤ (stackSt s sl).writeBuf.length) ∧
    (∃ (s : State), linkUp s = false) ∧
    (∃ (hpa : Nat) (data : List Byte) (s t : State), Mem.wf s.mem.cells = true ∧ exec (.hostMemWrite hpa data) s = .next t) :=
  ⟨⟨0xFFFFF, 0xFFFFF, blocks (st [(K.cxlModeNow, 1), (K.hostPortEnable, 1)]) 0 1, (by decide +kernel), (by decide +kernel), (by decide +kernel), (by decide +kernel)⟩,
    ⟨0xFFFFF, 0xFFFFF, blocks (st [(K.cxlModeNow, 1), (K.hostPortEnable, 1)]) 0 1, (by decide +kernel), (by decide +kernel), (by decide +kernel), (by decide +kernel)⟩,
    ⟨0xFFFFF, 0xFFFFF, blocks (st [(K.cxlModeNow, 1), (K.hostPortEnable, 1)]) 0 1, (by decide +kernel), (by decide +kernel), (by decide +kernel), (by decide +kernel)⟩,
    ⟨0xFFFFF, 0xFFFFF, [1, 2], blocks (st [(K.cxlModeNow, 1), (K.hostPortEnable, 1)]) 0 1, 0x100000, (by decide +kernel), (by decide +kernel), (by decide +kernel), of_none (by decide +kernel), (by decide +kernel)⟩,
    ⟨0x100000, blocks (st [(K.cxlModeNow, 1), (K.hostPortEnable, 1)]) 0 1, (by decide +kernel), (by decide +kernel)⟩,
    ⟨0, 0, blocks (st [(K.cxlModeNow, 1), (K.hostPortEnable, 1)]) 0 2, (by decide +kernel), (by decide +kernel), (by decide +kernel)⟩,
    ⟨0, 0, 0, stack0 (blocks (st [(K.cxlModeNow, 1), (K.hostPortEnable, 1)]) 1 1) { StackSt.reset with burst := some burst1 }, (by decide +kernel), (by decide +kernel), (by decide +kernel), (by decide +kernel), (by decide +kernel), (by show mustWait _ 0 0 = true; unfold mustWait; rw [Bool.or_eq_true]; exact .inl (all_banks _))⟩,
    ⟨0, 0, 0, stack0 (blocks (st [(K.cxlModeNow, 1), (K.hostPortEnable, 1)]) 1 1) { StackSt.reset with writeBuf := List.replicate 256 (0, [0]) }, (by decide +kernel), (by decide +kernel), (by decide +kernel), (by decide +kernel), (by decide +kernel)⟩,
    ⟨st [], (by decide +kernel)⟩,
    ⟨0xFFFFF, [], blocks (st [(K.cxlModeNow, 1), (K.hostPortEnable, 1)]) 0 1, _, (by decide +kernel), rfl⟩⟩

theorem witness_FlipsAndFencesComplete :
    (∃ (s t : State) (tk : Tk), takeFence s (fun o => o == 1) = some (tk, t) ∧ fenceTest t tk.raw = 0) ∧
    (∃ (s t : State) (tk : Tk), takeFence s (fun o => o == 1) = some (tk, t) ∧ fenceTest t tk.raw ≠ 0) ∧
    (∃ (s t : State) (tk : Tk), takeFence s (fun o => o == 2) = some (tk, t) ∧ fenceTest t tk.raw = 0) ∧
    (∃ (s t : State) (tk : Tk), takeFence s (fun o => o == 2) = some (tk, t) ∧ fenceTest t tk.raw ≠ 0) ∧
    (∃ (s t : State) (tk : Tk), takeFence s (fun o => o != 1 && o != 2) = some (tk, t) ∧ fenceTest t tk.raw = 0) ∧
    (∃ (s t : State) (tk : Tk), takeFence s (fun o => o != 1 && o != 2) = some (tk, t) ∧ fenceTest t tk.raw ≠ 0) ∧
    (∃ (s : State), takeFence s (fun o => o == 1) = none) ∧
    (∃ (s : State), takeFence s (fun o => o == 2) = none) ∧
    (∃ (s : State), takeFence s (fun o => o != 1 && o != 2) = none) ∧
    (∃ (id : Nat) (s t : State) (f : Fence), s.fences.find? (fun f => f.tk.id == id && f.writes.isEmpty) = some f ∧ t = { s with fences := s.fences.filter (fun x => x.tk.id != id) } ∧ areaAlive t (tkTenant f.tk.raw) f.base f.len 1 = true) ∧
    (∃ (id : Nat) (s t : State) (f : Fence), s.fences.find? (fun f => f.tk.id == id && f.writes.isEmpty) = some f ∧ t = { s with fences := s.fences.filter (fun x => x.tk.id != id) } ∧ areaAlive t (tkTenant f.tk.raw) f.base f.len 1 = false) ∧
    (∃ (id : Nat) (s : State), (∀ f ∈ s.fences, f.tk.id = id → f.writes ≠ [])) ∧
    (∃ (line : Nat) (s t : State) (m : _), has s.mem.snoops line = true ∧ t = { s with mem := { s.mem with snoops := without s.mem.snoops line } } ∧ mapAt t (line * 64) = some m ∧ m.unmapping = true ∧ (∀ l ∈ t.mem.snoops, l < m.base / 64 ∨ m.base / 64 + m.blocks * 1024 ≤ l)) ∧
    (∃ (line : Nat) (s t : State), has s.mem.snoops line = true ∧ t = { s with mem := { s.mem with snoops := without s.mem.snoops line } } ∧ (∀ m, mapAt t (line * 64) = some m → m.unmapping = true → ∃ l ∈ t.mem.snoops, m.base / 64 ≤ l ∧ l < m.base / 64 + m.blocks * 1024)) ∧
    (∃ (line : Nat) (s : State), has s.mem.snoops line = false) :=
  ⟨⟨blocks (took [] (fields [(32, 4), (384, 1), (320, 65536)])) 0 1, _, _, take_fence rfl (by decide +kernel) (by decide +kernel), (by decide +kernel)⟩,
    ⟨took [] (fields [(32, 4), (384, 1), (320, 65536)]), _, _, take_fence rfl (by decide +kernel) (by decide +kernel), (by decide +kernel)⟩,
    ⟨blocks (took [] (fields [(32, 4), (384, 2), (320, 0x100000)])) 0 1, _, _, take_fence rfl (by decide +kernel) (by decide +kernel), (by decide +kernel)⟩,
    ⟨took [] (fields [(32, 4), (384, 2), (320, 0x100000)]), _, _, take_fence rfl (by decide +kernel) (by decide +kernel), (by decide +kernel)⟩,
    ⟨blocks (took [] (fields [(32, 4), (384, 3), (320, 64)])) 0 1, _, _, take_fence rfl (by decide +kernel) (by decide +kernel), (by decide +kernel)⟩,
    ⟨took [] (fields [(32, 4), (384, 3), (320, 64)]), _, _, take_fence rfl (by decide +kernel) (by decide +kernel), (by decide +kernel)⟩,
    ⟨st [], rfl⟩,
    ⟨blocks (took [] (fields [(32, 4), (384, 1), (320, 65536)])) 0 1, (by decide +kernel)⟩,
    ⟨blocks (took [] (fields [(32, 4), (384, 1), (320, 65536)])) 0 1, (by decide +kernel)⟩,
    ⟨1, { blocks (st []) 0 1 with fences := [⟨tick (fields [(32, 4), (384, 3), (320, 64)]), 3, 0, 64, []⟩] }, _, ⟨tick (fields [(32, 4), (384, 3), (320, 64)]), 3, 0, 64, []⟩, (by decide +kernel), rfl, (by decide +kernel)⟩,
    ⟨1, { st [] with fences := [⟨tick 0, 3, 0, 64, []⟩] }, _, ⟨tick 0, 3, 0, 64, []⟩, (by decide +kernel), rfl, (by decide +kernel)⟩,
    ⟨0, blocks (took [] (fields [(32, 4), (384, 1), (320, 65536)])) 0 1, (by decide +kernel)⟩,
    ⟨5, { st [] with mem := { MemSt.reset with snoops := [5], maps := [⟨0, 16, .extent 0, 0, 0, [], true⟩] } }, _, ⟨0, 16, .extent 0, 0, 0, [], true⟩, (by decide +kernel), rfl, (by decide +kernel), (by decide +kernel), (by decide +kernel)⟩,
    ⟨5, { st [] with mem := { MemSt.reset with snoops := [5] } }, _, (by decide +kernel), rfl, (by decide +kernel)⟩,
    ⟨0, blocks (took [] (fields [(32, 4), (384, 1), (320, 65536)])) 0 1, (by decide +kernel)⟩⟩

theorem witness_MovesSwitchWhenCopied :
    (∃ (qk : Nat) (s : State) (q : Quire) (m : Move), tget? s.kv.quires qk = some q ∧ q.move = some m ∧ m.target ≠ 4 ∧ m.target ≠ 7 ∧ moveOk s qk q m = true) ∧
    (∃ (qk : Nat) (s : State) (q : Quire) (m : Move), tget? s.kv.quires qk = some q ∧ q.move = some m ∧ m.target ≠ 4 ∧ m.target ≠ 7 ∧ moveOk s qk q m = false) ∧
    (∃ (s : State) (q : Quire) (times : List Nat) (n : Nat), n = (times.filter (fun t => decide (rd s K.vatLateNs < t))).length ∧ 2 ≤ q.tier) ∧
    (∃ (s : State) (q : Quire) (m : Move) (times : List Nat) (n : Nat), n = (times.filter (fun t => decide (rd s K.vatLateNs < t))).length ∧ q.tier < 2 ∧ (m.target = 2 ∨ m.target = 3)) ∧
    (∃ (s : State) (q : Quire) (m : Move) (times : List Nat) (n : Nat), n = (times.filter (fun t => decide (rd s K.vatLateNs < t))).length ∧ q.tier < 2 ∧ m.target ≠ 2 ∧ m.target ≠ 3) ∧
    (∃ (qk : Nat) (s : State), (∀ q m, tget? s.kv.quires qk = some q → q.move = some m → m.target = 4 ∨ m.target = 7)) ∧
    (∃ (qk : Nat) (s : State) (q : Quire) (m : Move), tget? s.kv.quires qk = some q ∧ q.move = some m ∧ m.target = 4 ∧ has s.sch.maint q.slice = true ∧ bgReady s q.slice = true) ∧
    (∃ (qk : Nat) (s : State) (q : Quire) (m : Move), tget? s.kv.quires qk = some q ∧ q.move = some m ∧ m.target = 4 ∧ has s.sch.maint q.slice = true ∧ bgReady s q.slice = false) ∧
    (∃ (qk : Nat) (s : State), (∀ q m, tget? s.kv.quires qk = some q → q.move = some m → m.target ≠ 4 ∨ has s.sch.maint q.slice = false)) ∧
    (∃ (qk : Nat) (access : Bool) (s t : State) (q : Quire) (m : Move), tget? s.kv.quires qk = some q ∧ q.move = some m ∧ m.target ≠ 7 ∧ (t = (if access = false then s else if 2 ≤ q.tier then bump s (K.vatErrors q.region) 1 else if m.target = 2 ∨ m.target = 3 then bump s (K.vatErrors m.region) 1 else s)) ∧ m.target ≠ 5) ∧
    (∃ (qk : Nat) (access : Bool) (s t : State) (q : Quire) (m : Move), tget? s.kv.quires qk = some q ∧ q.move = some m ∧ m.target ≠ 7 ∧ (t = (if access = false then s else if 2 ≤ q.tier then bump s (K.vatErrors q.region) 1 else if m.target = 2 ∨ m.target = 3 then bump s (K.vatErrors m.region) 1 else s)) ∧ m.target = 5) ∧
    (∃ (qk : Nat) (s : State), (∀ q m, tget? s.kv.quires qk = some q → q.move = some m → m.target = 7)) ∧
    (∃ (slice k : Nat) (s : State) (sh : Sheet), on s K.deckleEnable = true ∧ engineWaits s = false ∧ s.kv.builds.find? (fun k => match tget? s.kv.quires (quireOfSheet k) with | some q => q.slice == slice && q.tier == 0 | none => false) = some k ∧ bgReady s slice = true ∧ tget? s.kv.sheets k = some sh) ∧
    (∃ (slice k : Nat) (s : State), on s K.deckleEnable = true ∧ engineWaits s = false ∧ s.kv.builds.find? (fun k => match tget? s.kv.quires (quireOfSheet k) with | some q => q.slice == slice && q.tier == 0 | none => false) = some k ∧ bgReady s slice = true ∧ tget? s.kv.sheets k = none) ∧
    (∃ (slice k : Nat) (s : State), on s K.deckleEnable = true ∧ engineWaits s = false ∧ s.kv.builds.find? (fun k => match tget? s.kv.quires (quireOfSheet k) with | some q => q.slice == slice && q.tier == 0 | none => false) = some k ∧ bgReady s slice = false) ∧
    (∃ (slice : Nat) (s : State), (on s K.deckleEnable = false ∨ engineWaits s = true ∨ (∀ k ∈ s.kv.builds, ∀ q, tget? s.kv.quires (quireOfSheet k) = some q → q.slice ≠ slice ∨ q.tier ≠ 0))) ∧
    (∃ (slice : Nat) (s t : State) (c : _), on s K.vatEnable = true ∧ slice < 4 ∧ (slicePlan s slice < mib (gv s K.scoringReserveMib + gv s K.vatDemoteLowMib) ∨ (has s.kv.demoting slice = true ∧ slicePlan s slice < mib (gv s K.vatDemoteHighMib))) ∧ t = { s with kv := { s.kv with demoting := addNew s.kv.demoting slice } } ∧ coderBusy t slice = false ∧ (∀ x < 256, overNext t x = none) ∧ coldestOf ((demoteCandidates t).filter (fun p => p.2.slice == slice)) = some c ∧ bgReady t slice = true) ∧
    (∃ (slice : Nat) (s t : State) (c : _), on s K.vatEnable = true ∧ slice < 4 ∧ (slicePlan s slice < mib (gv s K.scoringReserveMib + gv s K.vatDemoteLowMib) ∨ (has s.kv.demoting slice = true ∧ slicePlan s slice < mib (gv s K.vatDemoteHighMib))) ∧ t = { s with kv := { s.kv with demoting := addNew s.kv.demoting slice } } ∧ coderBusy t slice = false ∧ (∀ x < 256, overNext t x = none) ∧ coldestOf ((demoteCandidates t).filter (fun p => p.2.slice == slice)) = some c ∧ bgReady t slice = false) ∧
    (∃ (slice : Nat) (s t : State), on s K.vatEnable = true ∧ slice < 4 ∧ (slicePlan s slice < mib (gv s K.scoringReserveMib + gv s K.vatDemoteLowMib) ∨ (has s.kv.demoting slice = true ∧ slicePlan s slice < mib (gv s K.vatDemoteHighMib))) ∧ t = { s with kv := { s.kv with demoting := addNew s.kv.demoting slice } } ∧ (coderBusy t slice = true ∨ (∃ x < 256, overNext t x ≠ none) ∨ coldestOf ((demoteCandidates t).filter (fun p => p.2.slice == slice)) = none)) ∧
    (∃ (slice : Nat) (s : State), (on s K.vatEnable = false ∨ 4 ≤ slice ∨ (mib (gv s K.scoringReserveMib + gv s K.vatDemoteLowMib) ≤ slicePlan s slice ∧ (has s.kv.demoting slice = false ∨ mib (gv s K.vatDemoteHighMib) ≤ slicePlan s slice)))) ∧
    (∃ (tenant : Nat) (s : State) (c : Nat × Quire), on s K.vatEnable = true ∧ overNext s tenant = some c ∧ coderBusy s c.2.slice = true) ∧
    (∃ (tenant : Nat) (s : State) (c : Nat × Quire), on s K.vatEnable = true ∧ overNext s tenant = some c ∧ coderBusy s c.2.slice = false ∧ bgReady s c.2.slice = true) ∧
    (∃ (tenant : Nat) (s : State) (c : Nat × Quire), on s K.vatEnable = true ∧ overNext s tenant = some c ∧ coderBusy s c.2.slice = false ∧ bgReady s c.2.slice = false) ∧
    (∃ (tenant : Nat) (s : State), (on s K.vatEnable = false ∨ overNext s tenant = none)) ∧
    (∃ (region : Nat) (s : State), (rd s (K.vatState region) = 1 ∨ rd s (K.vatState region) = 2)) ∧
    (∃ (region : Nat) (s : State), rd s (K.vatState region) ≠ 1 ∧ rd s (K.vatState region) ≠ 2) :=
  ⟨⟨0, { st [] with kv := { KvSt.reset with quires := [(0, quire1 0 (some (move1 1)))] } }, quire1 0 (some (move1 1)), move1 1, (by decide +kernel), (by decide +kernel), (by decide +kernel), (by decide +kernel), (by decide +kernel)⟩,
    ⟨0, { st [] with kv := { KvSt.reset with quires := [(0, quire1 2 (some (move1 0)))] } }, quire1 2 (some (move1 0)), move1 0, (by decide +kernel), (by decide +kernel), (by decide +kernel), (by decide +kernel), (by decide +kernel)⟩,
    ⟨{ st [(K.cxlModeNow, 1), (K.vatState 0, 2)] with kv := { KvSt.reset with quires := [(0, quire1 2 (some (move1 0)))] } }, quire1 2 (some (move1 0)), [], _, rfl, (by decide +kernel)⟩,
    ⟨st [], quire1 0 none, move1 2, [5], _, rfl, (by decide +kernel), (by decide +kernel)⟩,
    ⟨{ st [] with kv := { KvSt.reset with quires := [(0, quire1 0 (some (move1 1)))] } }, quire1 0 (some (move1 1)), move1 1, [], _, rfl, (by decide +kernel), (by decide +kernel), (by decide +kernel)⟩,
    ⟨0, st [], fun _ _ h _ => by cases h⟩,
    ⟨0, granted { st [] with kv := { KvSt.reset with quires := [(0, quire1 0 (some (move1 4)))] }, sch := { SchedSt.reset with maint := [0] } } 0 3, quire1 0 (some (move1 4)), move1 4, (by decide +kernel), (by decide +kernel), (by decide +kernel), (by decide +kernel), (by decide +kernel)⟩,
    ⟨0, { { st [] with kv := { KvSt.reset with quires := [(0, quire1 0 (some (move1 4)))] } } with sch := { SchedSt.reset with maint := [0] } }, quire1 0 (some (move1 4)), move1 4, (by decide +kernel), (by decide +kernel), (by decide +kernel), (by decide +kernel), (by decide +kernel)⟩,
    ⟨0, st [], fun _ _ h _ => by cases h⟩,
    ⟨0, false, { st [] with kv := { KvSt.reset with quires := [(0, quire1 0 (some (move1 1)))] } }, _, quire1 0 (some (move1 1)), move1 1, (by decide +kernel), (by decide +kernel), (by decide +kernel), rfl, (by decide +kernel)⟩,
    ⟨0, false, { st [] with kv := { KvSt.reset with quires := [(0, quire1 0 (some (move1 5)))] } }, _, quire1 0 (some (move1 5)), move1 5, (by decide +kernel), (by decide +kernel), (by decide +kernel), rfl, (by decide +kernel)⟩,
    ⟨0, st [], fun _ _ h _ => by cases h⟩,
    ⟨0, key7, granted { st [(K.deckleEnable, 1)] with kv := { KvSt.reset with builds := [key7], sheets := [(key7, sheet7 0)], quires := [(quireOfSheet key7, quire1 0 none)] } } 0 3, sheet7 0, (by decide +kernel), (by decide +kernel), (by decide +kernel), (by decide +kernel), (by decide +kernel)⟩,
    ⟨0, key7, granted ({ st [(K.deckleEnable, 1)] with kv := { KvSt.reset with builds := [key7], quires := [(quireOfSheet key7, quire1 0 none)] } }) 0 3, (by decide +kernel), (by decide +kernel), (by decide +kernel), (by decide +kernel), (by decide +kernel)⟩,
    ⟨0, key7, { st [(K.deckleEnable, 1)] with kv := { KvSt.reset with builds := [key7], quires := [(quireOfSheet key7, quire1 0 none)] } }, (by decide +kernel), (by decide +kernel), (by decide +kernel), (by decide +kernel)⟩,
    ⟨0, { st [] with kv := { KvSt.reset with quires := [(0, quire1 0 (some (move1 1)))] } }, (by decide +kernel)⟩,
    ⟨0, granted (cold kib7 [(K.scoringReserveMib, 2 ^ 40)]) 0 3, _, cold7, (by decide +kernel), (by decide +kernel), (.inl (by decide +kernel)), (rfl), (by decide +kernel), (by decide +kernel), (coldest7 rfl (by decide +kernel) (spare7 (by decide +kernel) rfl (by decide +kernel) rfl)), (by decide +kernel)⟩,
    ⟨0, cold kib7 [(K.scoringReserveMib, 2 ^ 40)], _, cold7, (by decide +kernel), (by decide +kernel), (.inl (by decide +kernel)), (rfl), (by decide +kernel), (by decide +kernel), (coldest7 rfl (by decide +kernel) (spare7 (by decide +kernel) rfl (by decide +kernel) rfl)), (by decide +kernel)⟩,
    ⟨0, st [(K.vatEnable, 1), (K.scoringReserveMib, 2 ^ 40)], _, (by decide +kernel), (by decide +kernel), (by decide +kernel), rfl, .inr (.inr (by decide +kernel))⟩,
    ⟨0, { st [] with kv := { KvSt.reset with quires := [(0, quire1 0 (some (move1 1)))] } }, (by decide +kernel)⟩,
    ⟨0, { cold kib7 [(K.overQuotaDemote 0, 1), (K.hbmQuotaMib 0, 0)] with kv := { coldKv with quires := [(0, quire1 2 (some (move1 0))), cold7] } }, cold7, (by decide +kernel), (next7 (l := [(0, quire1 2 (some (move1 0)))]) (by decide +kernel) rfl (by decide +kernel) (by decide +kernel) (spare7 (by decide +kernel) rfl (by decide +kernel) rfl)), (by decide +kernel)⟩,
    ⟨0, granted (cold kib7 [(K.overQuotaDemote 0, 1), (K.hbmQuotaMib 0, 0)]) 0 3, cold7, (by decide +kernel), (next7 (l := []) (by decide +kernel) rfl rfl (by decide +kernel) (spare7 (by decide +kernel) rfl (by decide +kernel) rfl)), (by decide +kernel), (by decide +kernel)⟩,
    ⟨0, cold kib7 [(K.overQuotaDemote 0, 1), (K.hbmQuotaMib 0, 0)], cold7, (by decide +kernel), (next7 (l := []) (by decide +kernel) rfl rfl (by decide +kernel) (spare7 (by decide +kernel) rfl (by decide +kernel) rfl)), (by decide +kernel), (by decide +kernel)⟩,
    ⟨0, { st [] with kv := { KvSt.reset with quires := [(0, quire1 0 (some (move1 1)))] } }, (by decide +kernel)⟩,
    ⟨0, { st [(K.cxlModeNow, 1), (K.vatState 0, 2)] with kv := { KvSt.reset with quires := [(0, quire1 2 (some (move1 0)))] } }, (by decide +kernel)⟩,
    ⟨0, { st [] with kv := { KvSt.reset with quires := [(0, quire1 0 (some (move1 1)))] } }, (by decide +kernel), (by decide +kernel)⟩⟩

theorem witness_TierTicketsAreCarriedOut :
    (∃ (s t0 t1 t2 : State) (tk : Tk) (n c : Nat) (others : List Nat), takeHead s 6 = some (tk, t0) ∧ homeOf t0 tk.slice (tkTenant tk.raw) (bReam tk.raw) = (t1, some (myNode t1)) ∧ c = (if rd t1 (K.swapMib (tkTenant tk.raw)) = 0 then St.bounds else tierTest t1 tk.raw (some false)) ∧ others = reamNodes t1 tk.slice (tkTenant tk.raw) (bReam tk.raw) ∧ c = 0 ∧ preemptHere (sendOn (setPreempted t1 (tkTenant tk.raw) (bReam tk.raw) true) tk others) (tkTenant tk.raw) (bReam tk.raw) = (t2, n)) ∧
    (∃ (s t0 t1 : State) (tk : Tk) (c : Nat) (others : List Nat), takeHead s 6 = some (tk, t0) ∧ homeOf t0 tk.slice (tkTenant tk.raw) (bReam tk.raw) = (t1, some (myNode t1)) ∧ c = (if rd t1 (K.swapMib (tkTenant tk.raw)) = 0 then St.bounds else tierTest t1 tk.raw (some false)) ∧ others = reamNodes t1 tk.slice (tkTenant tk.raw) (bReam tk.raw) ∧ c ≠ 0) ∧
    (∃ (s t0 t1 t2 : State) (tk : Tk) (n : Nat) (others : List Nat), takeHead s 7 = some (tk, t0) ∧ homeOf t0 tk.slice (tkTenant tk.raw) (bReam tk.raw) = (t1, some (myNode t1)) ∧ others = reamNodes t1 tk.slice (tkTenant tk.raw) (bReam tk.raw) ∧ tierTest t1 tk.raw (some true) = 0 ∧ resumeHere (sendOn (setPreempted t1 (tkTenant tk.raw) (bReam tk.raw) false) tk others) (tkTenant tk.raw) (bReam tk.raw) = (t2, n)) ∧
    (∃ (s t0 t1 : State) (tk : Tk) (others : List Nat), takeHead s 7 = some (tk, t0) ∧ homeOf t0 tk.slice (tkTenant tk.raw) (bReam tk.raw) = (t1, some (myNode t1)) ∧ others = reamNodes t1 tk.slice (tkTenant tk.raw) (bReam tk.raw) ∧ tierTest t1 tk.raw (some true) ≠ 0) ∧
    (∃ (s t0 t1 : State) (tk : Tk) (others : List Nat), takeHead s 8 = some (tk, t0) ∧ moveFieldsBad t0 tk.raw = false ∧ homeOf t0 tk.slice (tkTenant tk.raw) (bReam tk.raw) = (t1, some (myNode t1)) ∧ others = reamNodes t1 tk.slice (tkTenant tk.raw) (bReam tk.raw) ∧ tierTest t1 tk.raw none = 0) ∧
    (∃ (s t0 t1 : State) (tk : Tk) (others : List Nat), takeHead s 8 = some (tk, t0) ∧ moveFieldsBad t0 tk.raw = false ∧ homeOf t0 tk.slice (tkTenant tk.raw) (bReam tk.raw) = (t1, some (myNode t1)) ∧ others = reamNodes t1 tk.slice (tkTenant tk.raw) (bReam tk.raw) ∧ tierTest t1 tk.raw none ≠ 0) ∧
    (∃ (s t0 t1 t2 : State) (tk : Tk) (h n : Nat), homeOf t0 tk.slice (tkTenant tk.raw) (bReam tk.raw) = (t1, some h) ∧ h ≠ myNode t1 ∧ takeHead s 6 = some (tk, t0) ∧ tk.fabric = true ∧ preemptHere (dropDl t1 tk.id) (tkTenant tk.raw) (bReam tk.raw) = (t2, n)) ∧
    (∃ (s t0 t1 t2 : State) (tk : Tk) (h n : Nat), homeOf t0 tk.slice (tkTenant tk.raw) (bReam tk.raw) = (t1, some h) ∧ h ≠ myNode t1 ∧ takeHead s 7 = some (tk, t0) ∧ tk.fabric = true ∧ resumeHere (dropDl t1 tk.id) (tkTenant tk.raw) (bReam tk.raw) = (t2, n)) ∧
    (∃ (s t0 t1 : State) (tk : Tk) (h : Nat), homeOf t0 tk.slice (tkTenant tk.raw) (bReam tk.raw) = (t1, some h) ∧ h ≠ myNode t1 ∧ takeHead s 8 = some (tk, t0) ∧ moveFieldsBad t0 tk.raw = false ∧ tk.fabric = true) ∧
    (∃ (s t0 t1 : State) (tk : Tk) (h : Nat), homeOf t0 tk.slice (tkTenant tk.raw) (bReam tk.raw) = (t1, some h) ∧ h ≠ myNode t1 ∧ takeHead s 6 = some (tk, t0) ∧ tk.fabric = false) ∧
    (∃ (s t0 t1 : State) (tk : Tk) (h : Nat), homeOf t0 tk.slice (tkTenant tk.raw) (bReam tk.raw) = (t1, some h) ∧ h ≠ myNode t1 ∧ takeHead s 7 = some (tk, t0) ∧ tk.fabric = false) ∧
    (∃ (s t0 t1 : State) (tk : Tk) (h : Nat), homeOf t0 tk.slice (tkTenant tk.raw) (bReam tk.raw) = (t1, some h) ∧ h ≠ myNode t1 ∧ takeHead s 8 = some (tk, t0) ∧ moveFieldsBad t0 tk.raw = false ∧ tk.fabric = false) ∧
    (∃ (s t0 t1 : State) (tk : Tk), homeOf t0 tk.slice (tkTenant tk.raw) (bReam tk.raw) = (t1, none) ∧ takeHead s 6 = some (tk, t0)) ∧
    (∃ (s t0 t1 : State) (tk : Tk), homeOf t0 tk.slice (tkTenant tk.raw) (bReam tk.raw) = (t1, none) ∧ takeHead s 7 = some (tk, t0)) ∧
    (∃ (s t0 t1 : State) (tk : Tk), homeOf t0 tk.slice (tkTenant tk.raw) (bReam tk.raw) = (t1, none) ∧ takeHead s 8 = some (tk, t0) ∧ moveFieldsBad t0 tk.raw = false) ∧
    (∃ (s t : State) (tk : Tk), takeHead s 8 = some (tk, t) ∧ moveFieldsBad t tk.raw = true) ∧
    (∃ (s t0 : State) (tk : Tk) (a b : Nat), takeHead s 9 = some (tk, t0) ∧ a = areaTest t0 (tkTenant tk.raw) (pSrc tk.raw) (pSrcLen tk.raw) 64 1 ∧ b = areaTest t0 (tkTenant tk.raw) (pDst tk.raw) (pDstLen tk.raw) 64 2 ∧ pressFieldsBad tk.raw = true) ∧
    (∃ (s t0 : State) (tk : Tk) (a b : Nat), takeHead s 9 = some (tk, t0) ∧ a = areaTest t0 (tkTenant tk.raw) (pSrc tk.raw) (pSrcLen tk.raw) 64 1 ∧ b = areaTest t0 (tkTenant tk.raw) (pDst tk.raw) (pDstLen tk.raw) 64 2 ∧ pressFieldsBad tk.raw = false ∧ a ≠ 0) ∧
    (∃ (s t0 : State) (tk : Tk) (a b : Nat), takeHead s 9 = some (tk, t0) ∧ a = areaTest t0 (tkTenant tk.raw) (pSrc tk.raw) (pSrcLen tk.raw) 64 1 ∧ b = areaTest t0 (tkTenant tk.raw) (pDst tk.raw) (pDstLen tk.raw) 64 2 ∧ pressFieldsBad tk.raw = false ∧ a = 0 ∧ b ≠ 0) ∧
    (∃ (s t0 : State) (tk : Tk) (a b : Nat), takeHead s 9 = some (tk, t0) ∧ a = areaTest t0 (tkTenant tk.raw) (pSrc tk.raw) (pSrcLen tk.raw) 64 1 ∧ b = areaTest t0 (tkTenant tk.raw) (pDst tk.raw) (pDstLen tk.raw) 64 2 ∧ pressFieldsBad tk.raw = false ∧ a = 0 ∧ b = 0 ∧ bgReady s tk.slice = false) ∧
    (∃ (s t0 t1 : State) (tk : Tk) (data : List Byte) (a b : Nat), takeHead s 9 = some (tk, t0) ∧ a = areaTest t0 (tkTenant tk.raw) (pSrc tk.raw) (pSrcLen tk.raw) 64 1 ∧ b = areaTest t0 (tkTenant tk.raw) (pDst tk.raw) (pDstLen tk.raw) 64 2 ∧ pressFieldsBad tk.raw = false ∧ a = 0 ∧ b = 0 ∧ bgReady s tk.slice = true ∧ nodeRead t0 (pSrc tk.raw) (pSrcLen tk.raw) = (t1, data, false)) ∧
    (∃ (s t0 t1 : State) (tk : Tk) (data : List Byte) (a b : Nat), takeHead s 9 = some (tk, t0) ∧ a = areaTest t0 (tkTenant tk.raw) (pSrc tk.raw) (pSrcLen tk.raw) 64 1 ∧ b = areaTest t0 (tkTenant tk.raw) (pDst tk.raw) (pDstLen tk.raw) 64 2 ∧ pressFieldsBad tk.raw = false ∧ a = 0 ∧ b = 0 ∧ bgReady s tk.slice = true ∧ nodeRead t0 (pSrc tk.raw) (pSrcLen tk.raw) = (t1, data, true)) ∧
    (∃ (s : State), takeHead s 6 = none) ∧
    (∃ (s : State), takeHead s 7 = none) ∧
    (∃ (s : State), takeHead s 8 = none) ∧
    (∃ (s : State), takeHead s 9 = none) ∧
    (∃ (type src tenant ream : Nat) (s : State) (p : PreTk), s.kv.preTks.find? (fun p => tkType p.tk.raw == type && tkTenant p.tk.raw == tenant && bReam p.tk.raw == ream && has p.waiting src) = some p ∧ without p.waiting src = []) :=
  ⟨⟨home (took [(K.swapMib 0, 1)] (fields [(32, 6), (256, 7)])) ream7, _, _, _, _, _, _, _, rfl, rfl, rfl, rfl, (by decide +kernel), rfl⟩,
    ⟨home (took [] (fields [(32, 6), (256, 7)])) ream7, _, _, _, _, _, (take_head rfl (by decide +kernel)), (pair_of (by decide +kernel)), rfl, rfl, (by decide +kernel)⟩,
    ⟨home (took [] (fields [(32, 7), (256, 7)])) { ream7 with preempted := true }, _, _, _, _, _, _, rfl, rfl, rfl, (by decide +kernel), rfl⟩,
    ⟨home (took [] (fields [(32, 7), (256, 7)])) ream7, _, _, _, _, (take_head rfl (by decide +kernel)), (pair_of (by decide +kernel)), rfl, (by decide +kernel)⟩,
    ⟨home (took [] (fields [(32, 8), (256, 7), (320, 15)])) ream7, _, _, _, _, rfl, (by decide +kernel), rfl, rfl, (by decide +kernel)⟩,
    ⟨home (took [] (fields [(32, 8), (256, 7), (320, 15)])) { ream7 with preempted := true }, _, _, _, _, rfl, (by decide +kernel), rfl, rfl, (by decide +kernel)⟩,
    ⟨{ took [(K.nodeNumber, 6)] (fields [(32, 6), (256, 7)]) with dirs := [reamEnt] }, _, _, _, _, 5, _, (pair_of (by decide +kernel)), (by decide +kernel), (take_head rfl (by decide +kernel)), (by decide +kernel), (pair _)⟩,
    ⟨{ took [(K.nodeNumber, 6)] (fields [(32, 7), (256, 7)]) with dirs := [reamEnt] }, _, _, _, _, 5, _, (pair_of (by decide +kernel)), (by decide +kernel), (take_head rfl (by decide +kernel)), (by decide +kernel), (pair _)⟩,
    ⟨{ took [(K.nodeNumber, 6)] (fields [(32, 8), (256, 7), (320, 15)]) with dirs := [reamEnt] }, _, _, _, 5, (pair_of (by decide +kernel)), (by decide +kernel), (take_head rfl (by decide +kernel)), (by decide +kernel), (by decide +kernel)⟩,
    ⟨own { st [(K.nodeNumber, 6)] with dirs := [reamEnt] } (fields [(32, 6), (256, 7)]), _, _, _, 5, (pair_of (by decide +kernel)), (by decide +kernel), (take_head rfl (by decide +kernel)), (by decide +kernel)⟩,
    ⟨own { st [(K.nodeNumber, 6)] with dirs := [reamEnt] } (fields [(32, 7), (256, 7)]), _, _, _, 5, (pair_of (by decide +kernel)), (by decide +kernel), (take_head rfl (by decide +kernel)), (by decide +kernel)⟩,
    ⟨own { st [(K.nodeNumber, 6)] with dirs := [reamEnt] } (fields [(32, 8), (256, 7), (320, 15)]), _, _, _, 5, (pair_of (by decide +kernel)), (by decide +kernel), (take_head rfl (by decide +kernel)), (by decide +kernel), (by decide +kernel)⟩,
    ⟨took [] (fields [(32, 6), (256, 7)]), _, _, _, (pair_of (by decide +kernel)), (take_head rfl (by decide +kernel))⟩,
    ⟨took [] (fields [(32, 7), (256, 7)]), _, _, _, (pair_of (by decide +kernel)), (take_head rfl (by decide +kernel))⟩,
    ⟨took [] (fields [(32, 8), (256, 7), (320, 15)]), _, _, _, (pair_of (by decide +kernel)), (take_head rfl (by decide +kernel)), (by decide +kernel)⟩,
    ⟨took [] (fields [(32, 8), (368, 3)]), _, _, (take_head rfl (by decide +kernel)), (by decide +kernel)⟩,
    ⟨took [] (fields [(32, 9), (448, 8192), (384, 0), (512, 64), (544, 4096), (576, 0)]), _, _, _, _, (take_head rfl (by decide +kernel)), rfl, rfl, (by decide +kernel)⟩,
    ⟨blocks (took [] (fields [(32, 9), (448, 8192), (384, 1), (512, 64), (544, 4096), (576, 1)])) 0 1, _, _, _, _, (take_head rfl (by decide +kernel)), rfl, rfl, (by decide +kernel), (by decide +kernel)⟩,
    ⟨blocks (took [] (fields [(32, 9), (448, 8193), (384, 0), (512, 64), (544, 4096), (576, 1)])) 0 1, _, _, _, _, (take_head rfl (by decide +kernel)), rfl, rfl, (by decide +kernel), (by decide +kernel), (by decide +kernel)⟩,
    ⟨blocks (took [] (fields [(32, 9), (448, 8192), (384, 0), (512, 64), (544, 4096), (576, 1)])) 0 1, _, _, _, _, (take_head rfl (by decide +kernel)), rfl, rfl, (by decide +kernel), (by decide +kernel), (by decide +kernel), (by decide +kernel)⟩,
    ⟨granted (blocks (took [] (fields [(32, 9), (448, 8192), (512, 64), (544, 4096), (576, 1)])) 0 1) 0 3, _, _, _, _, _, _, rfl, rfl, rfl, (by decide +kernel), (by decide +kernel), (by decide +kernel), (by decide +kernel), rfl⟩,
    ⟨{ granted (blocks (took [] (fields [(32, 9), (448, 8192), (384, 0), (512, 64), (544, 4096), (576, 1)])) 0 1) 0 3 with mem := { (blocks (st []) 0 1).mem with poison := [0] } }, _, _, _, _, _, _, (take_head rfl (by decide +kernel)), rfl, rfl, (by decide +kernel), (by decide +kernel), (by decide +kernel), (by decide +kernel), (triple_of (by decide +kernel))⟩,
    ⟨home (took [] (fields [(32, 7), (256, 7)])) { ream7 with preempted := true }, (by decide +kernel)⟩,
    ⟨home (took [(K.swapMib 0, 1)] (fields [(32, 6), (256, 7)])) ream7, (by decide +kernel)⟩,
    ⟨home (took [(K.swapMib 0, 1)] (fields [(32, 6), (256, 7)])) ream7, (by decide +kernel)⟩,
    ⟨home (took [(K.swapMib 0, 1)] (fields [(32, 6), (256, 7)])) ream7, (by decide +kernel)⟩,
    ⟨6, 2, 0, 7, { st [] with kv := { KvSt.reset with preTks := [⟨tick (fields [(32, 6), (256, 7)]), [2], 0⟩] } }, ⟨tick (fields [(32, 6), (256, 7)]), [2], 0⟩, (rfl), (by decide +kernel)⟩⟩

theorem witness_SearchTicketsRun :
    (∃ (s t u v : State) (tk : Tk) (payload bitmap : List Byte), searchFieldsBad t tk.raw = false ∧ searchCode u tk = 0 ∧ searchPoisoned u tk = false ∧ searchParts u tk = (v, payload, bitmap) ∧ SearchHere s 1 tk t ∧ SearchOwned tk t ∧ snapTest t 1 tk = (u, true)) ∧
    (∃ (s t u v : State) (tk : Tk) (payload bitmap : List Byte), searchFieldsBad t tk.raw = false ∧ searchCode u tk = 0 ∧ searchPoisoned u tk = false ∧ searchParts u tk = (v, payload, bitmap) ∧ SearchHere s 2 tk t ∧ SearchOwned tk t ∧ u = t) ∧
    (∃ (s t u v : State) (tk : Tk) (payload bitmap : List Byte), searchFieldsBad t tk.raw = false ∧ searchCode u tk = 0 ∧ searchPoisoned u tk = false ∧ searchParts u tk = (v, payload, bitmap) ∧ SearchHere s 3 tk t ∧ SearchOwned tk t ∧ u = t) ∧
    (∃ (s t u v : State) (tk : Tk) (payload bitmap : List Byte), searchFieldsBad t tk.raw = false ∧ searchCode u tk = 0 ∧ searchPoisoned u tk = false ∧ searchParts u tk = (v, payload, bitmap) ∧ SearchHere s 4 tk t ∧ SearchOwned tk t ∧ u = t) ∧
    (∃ (s t u v : State) (tk : Tk) (payload bitmap : List Byte), searchFieldsBad t tk.raw = false ∧ searchCode u tk = 0 ∧ searchPoisoned u tk = false ∧ searchParts u tk = (v, payload, bitmap) ∧ SearchHere s 5 tk t ∧ SearchOwned tk t ∧ u = t) ∧
    (∃ (s t u v : State) (tk : Tk) (payload bitmap : List Byte), searchFieldsBad t tk.raw = false ∧ searchCode u tk = 0 ∧ searchPoisoned u tk = false ∧ searchParts u tk = (v, payload, bitmap) ∧ SearchHere s 6 tk t ∧ SearchOwned tk t ∧ u = t) ∧
    (∃ (s t u v : State) (tk : Tk) (payload bitmap : List Byte), searchFieldsBad t tk.raw = false ∧ searchCode u tk = 0 ∧ searchPoisoned u tk = false ∧ searchParts u tk = (v, payload, bitmap) ∧ SearchHere s 7 tk t ∧ SearchOwned tk t ∧ u = t) ∧
    (∃ (op : Nat) (c : Instr) (run : State → Tk → List Byte → List Byte → State) (s t : State) (tk : Tk), (op, c, run) ∈ searchOps ∧ SearchHere s op tk t ∧ ¬SearchOwned tk t) ∧
    (∃ (op : Nat) (c : Instr) (run : State → Tk → List Byte → List Byte → State) (s t : State) (tk : Tk), (op, c, run) ∈ searchOps ∧ SearchHere s op tk t ∧ SearchOwned tk t ∧ searchFieldsBad t tk.raw = true) ∧
    (∃ (op : Nat) (c : Instr) (run : State → Tk → List Byte → List Byte → State) (s t u : State) (tk : Tk), (op, c, run) ∈ searchOps ∧ SearchHere s op tk t ∧ SearchOwned tk t ∧ searchFieldsBad t tk.raw = false ∧ snapTest t op tk = (u, false)) ∧
    (∃ (op : Nat) (c : Instr) (run : State → Tk → List Byte → List Byte → State) (s t u : State) (tk : Tk), (op, c, run) ∈ searchOps ∧ SearchHere s op tk t ∧ SearchOwned tk t ∧ searchFieldsBad t tk.raw = false ∧ snapTest t op tk = (u, true) ∧ searchCode u tk ≠ 0) ∧
    (∃ (op : Nat) (c : Instr) (run : State → Tk → List Byte → List Byte → State) (s t u : State) (tk : Tk), (op, c, run) ∈ searchOps ∧ SearchHere s op tk t ∧ SearchOwned tk t ∧ searchFieldsBad t tk.raw = false ∧ snapTest t op tk = (u, true) ∧ searchCode u tk = 0 ∧ searchPoisoned u tk = true) ∧
    (∃ (op : Nat) (c : Instr) (run : State → Tk → List Byte → List Byte → State) (s t : State) (tk : Tk), (op, c, run) ∈ searchOps ∧ takeHead s 5 = some (tk, t) ∧ (hOp tk.raw = op ∨ (op = 1 ∧ (hOp tk.raw = 0 ∨ 7 < hOp tk.raw))) ∧ tk.fabric = false ∧ hTarget tk.raw ≠ 0 ∧ hTarget tk.raw ≠ myNode t ∧ namesBook tk.raw = false ∧ searchAreas t tk.raw ≠ 0) ∧
    (∃ (op : Nat) (c : Instr) (run : State → Tk → List Byte → List Byte → State) (s t : State) (tk : Tk), (op, c, run) ∈ searchOps ∧ takeHead s 5 = some (tk, t) ∧ (hOp tk.raw = op ∨ (op = 1 ∧ (hOp tk.raw = 0 ∨ 7 < hOp tk.raw))) ∧ tk.fabric = false ∧ hTarget tk.raw ≠ 0 ∧ hTarget tk.raw ≠ myNode t ∧ namesBook tk.raw = false ∧ searchAreas t tk.raw = 0 ∧ searchPoisoned t tk = true) ∧
    (∃ (op : Nat) (c : Instr) (run : State → Tk → List Byte → List Byte → State) (s t u : State) (tk : Tk) (payload bitmap : List Byte), (op, c, run) ∈ searchOps ∧ takeHead s 5 = some (tk, t) ∧ (hOp tk.raw = op ∨ (op = 1 ∧ (hOp tk.raw = 0 ∨ 7 < hOp tk.raw))) ∧ tk.fabric = false ∧ hTarget tk.raw ≠ 0 ∧ hTarget tk.raw ≠ myNode t ∧ namesBook tk.raw = false ∧ searchAreas t tk.raw = 0 ∧ searchPoisoned t tk = false ∧ searchParts t tk = (u, payload, bitmap)) ∧
    (∃ (op : Nat) (c : Instr) (run : State → Tk → List Byte → List Byte → State) (s : State), (op, c, run) ∈ searchOps ∧ (∀ tk t, takeHead s 5 = some (tk, t) → hOp tk.raw ≠ op ∧ (op = 1 → 1 ≤ hOp tk.raw ∧ hOp tk.raw ≤ 7))) :=
  ⟨⟨finds (fields [(32, 5), (692, 1), (568, 1), (584, 1)]) 512, _, _, _, _, _, _, (by decide +kernel), (by decide +kernel), (by decide +kernel), (triple _), (⟨take_head rfl (by decide +kernel), .inl (by decide +kernel), .inl (by decide +kernel)⟩), (⟨.inr (.inr (by decide +kernel)), fun h => absurd h (by decide +kernel)⟩), (pair_of (by decide +kernel))⟩,
    ⟨finds (fields [(32, 5), (692, 2)]) 512, _, _, _, _, _, _, (by decide +kernel), (by decide +kernel), (by decide +kernel), (triple _), (⟨take_head rfl (by decide +kernel), .inl (by decide +kernel), .inl (by decide +kernel)⟩), (⟨.inr (.inr (by decide +kernel)), fun h => absurd h (by decide +kernel)⟩), (rfl)⟩,
    ⟨finds (fields [(32, 5), (692, 3), (544, 63)]) 0, _, _, _, _, _, _, (by decide +kernel), (by decide +kernel), (by decide +kernel), (triple _), (⟨take_head rfl (by decide +kernel), .inl (by decide +kernel), .inl (by decide +kernel)⟩), (⟨.inr (.inr (by decide +kernel)), fun h => absurd h (by decide +kernel)⟩), (rfl)⟩,
    ⟨finds (fields [(32, 5), (692, 4), (632, 1)]) 1, _, _, _, _, _, _, (by decide +kernel), (by decide +kernel), (by decide +kernel), (triple _), (⟨take_head rfl (by decide +kernel), .inl (by decide +kernel), .inl (by decide +kernel)⟩), (⟨.inr (.inr (by decide +kernel)), fun _ => of_some (a := ⟨0, 0, [], [], none, false⟩) (by decide +kernel) (by decide +kernel)⟩), (rfl)⟩,
    ⟨finds (fields [(32, 5), (692, 5), (632, 1)]) 0, _, _, _, _, _, _, (by decide +kernel), (by decide +kernel), (by decide +kernel), (triple _), (⟨take_head rfl (by decide +kernel), .inl (by decide +kernel), .inl (by decide +kernel)⟩), (⟨.inr (.inr (by decide +kernel)), fun h => absurd h (by decide +kernel)⟩), (rfl)⟩,
    ⟨finds (fields [(32, 5), (58, 1), (692, 6), (699, 1)]) 256, _, _, _, _, _, _, (by decide +kernel), (by decide +kernel), (by decide +kernel), (triple _), (⟨take_head rfl (by decide +kernel), .inl (by decide +kernel), .inl (by decide +kernel)⟩), (⟨.inr (.inr (by decide +kernel)), fun h => absurd h (by decide +kernel)⟩), (rfl)⟩,
    ⟨finds (fields [(32, 5), (692, 7), (699, 2)]) 0, _, _, _, _, _, _, (by decide +kernel), (by decide +kernel), (by decide +kernel), (triple _), (⟨take_head rfl (by decide +kernel), .inl (by decide +kernel), .inl (by decide +kernel)⟩), (⟨.inl (by decide +kernel), fun h => absurd h (by decide +kernel)⟩), (rfl)⟩,
    ⟨1, .search, runSearch, took [(K.vindexTenant 127, 5)] (fields [(32, 5), (692, 1), (664, 127)]), _, _, (.head _), (⟨take_head rfl (by decide +kernel), .inl (by decide +kernel), .inl (by decide +kernel)⟩), (fun h => absurd h.1 (by decide +kernel))⟩,
    ⟨1, .search, runSearch, finds (fields [(32, 5), (692, 1)]) 0, _, _, (.head _), (⟨take_head rfl (by decide +kernel), .inl (by decide +kernel), .inl (by decide +kernel)⟩), (⟨.inr (.inr (by decide +kernel)), fun h => absurd h (by decide +kernel)⟩), (by decide +kernel)⟩,
    ⟨1, .search, runSearch, { finds (fields [(32, 5), (692, 1), (568, 1), (584, 1), (448, 1)]) 512 with dict := [(K.vindexEnable 0, 1), (K.vindexTenant 0, 0), (K.vindexLists 0, 1), (K.vindexCapacity 0, 64), (K.currentStep, 100000)] }, _, _, _, (.head _), (⟨take_head rfl (by decide +kernel), .inl (by decide +kernel), .inl (by decide +kernel)⟩), (⟨.inr (.inr (by decide +kernel)), fun h => absurd h (by decide +kernel)⟩), (by decide +kernel), (pair_of (by decide +kernel))⟩,
    ⟨1, .search, runSearch, finds (fields [(32, 5), (692, 1), (568, 1), (584, 1)]) 511, _, _, _, (.head _), (⟨take_head rfl (by decide +kernel), .inl (by decide +kernel), .inl (by decide +kernel)⟩), (⟨.inr (.inr (by decide +kernel)), fun h => absurd h (by decide +kernel)⟩), (by decide +kernel), (pair_of (by decide +kernel)), (by decide +kernel)⟩,
    ⟨1, .search, runSearch, { own (blocks (finds 0 0) 0 1) (fields [(32, 5), (692, 1), (568, 1), (584, 1)]) with mem := { (blocks (st []) 0 1).mem with poison := [0] } }, _, _, _, (.head _), (⟨take_head rfl (by decide +kernel), .inl (by decide +kernel), .inr (.inl (by decide +kernel))⟩), (⟨.inr (.inr (by decide +kernel)), fun h => absurd h (by decide +kernel)⟩), (by decide +kernel), (pair_of (by decide +kernel)), (by decide +kernel), (by decide +kernel)⟩,
    ⟨2, .insert, runInsert, own (st []) (fields [(32, 5), (692, 2), (648, 9), (384, 64)]), _, _, (.tail _ (.head _)), (take_head rfl (by decide +kernel)), (.inl (by decide +kernel)), (by decide +kernel), (by decide +kernel), (by decide +kernel), (by decide +kernel), (by decide +kernel)⟩,
    ⟨2, .insert, runInsert, { own (blocks (finds 0 0) 0 1) (fields [(32, 5), (692, 2), (648, 9), (384, 64)]) with mem := { (blocks (st []) 0 1).mem with poison := [0] } }, _, _, (.tail _ (.head _)), (take_head rfl (by decide +kernel)), (.inl (by decide +kernel)), (by decide +kernel), (by decide +kernel), (by decide +kernel), (by decide +kernel), (by decide +kernel), (by decide +kernel)⟩,
    ⟨2, .insert, runInsert, own (blocks (finds 0 0) 0 1) (fields [(32, 5), (692, 2), (648, 9), (384, 64)]), _, _, _, _, _, (.tail _ (.head _)), (take_head rfl (by decide +kernel)), (.inl (by decide +kernel)), (by decide +kernel), (by decide +kernel), (by decide +kernel), (by decide +kernel), (by decide +kernel), (by decide +kernel), (triple _)⟩,
    ⟨1, .search, runSearch, st [], (.head _), (fun _ _ h => nomatch h)⟩⟩

theorem witness_WindowOperationsAreDone :
    (∃ (w : WReq) (s t : State) (r : Res), Allowed s w 0x4400 7 ∧ windowFind s = (t, r)) ∧
    (∃ (w : WReq) (s t : State) (r : Res), Allowed s w 0x4400 7 ∧ windowInsert s = (t, r)) ∧
    (∃ (w : WReq) (s t : State) (r : Res), Allowed s w 0x4400 7 ∧ windowRemove s = (t, r)) ∧
    (∃ (s t : State) (r : Res), windowFind s = (t, r)) ∧
    (∃ (s t : State) (r : Res), windowInsert s = (t, r)) ∧
    (∃ (s t : State) (r : Res), windowRemove s = (t, r)) ∧
    (∃ (w : WReq) (s : State) (r : Region), Allowed s w 0x6200 0x12 ∧ r = regionFrom (rd s K.regionEntry) (regionAt s (rd s K.regionSelect)) ∧ firstFail (registerFails s (rd s K.regionSelect) r (regionAt s (rd s K.regionSelect))) = none) ∧
    (∃ (w : WReq) (s : State) (r : Region) (c k : _), Allowed s w 0x6200 0x12 ∧ r = regionFrom (rd s K.regionEntry) (regionAt s (rd s K.regionSelect)) ∧ firstFail (registerFails s (rd s K.regionSelect) r (regionAt s (rd s K.regionSelect))) = some (c, k)) ∧
    (∃ (w : WReq) (s : State), Allowed s w 0x6200 0x12) ∧
    (∃ (i : Nat) (s : State) (r : Region), regionAt s i = r ∧ r.valid = true) ∧
    (∃ (i : Nat) (s : State) (r : Region), regionAt s i = r ∧ r.valid = false) :=
  ⟨⟨pf, blocks (st [(K.transportEnable, 1), (K.tenantEnable 0, 1), (K.regionSelect, 1), (K.regionEntry, fields [(152, 64), (140, 1), (136, 1)])]) 0 1, _, _, (by decide +kernel), rfl⟩,
    ⟨pf, blocks (st [(K.transportEnable, 1), (K.tenantEnable 0, 1), (K.regionSelect, 1), (K.regionEntry, fields [(152, 64), (140, 1), (136, 1)])]) 0 1, _, _, (by decide +kernel), rfl⟩,
    ⟨pf, blocks (st [(K.transportEnable, 1), (K.tenantEnable 0, 1), (K.regionSelect, 1), (K.regionEntry, fields [(152, 64), (140, 1), (136, 1)])]) 0 1, _, _, (by decide +kernel), rfl⟩,
    ⟨blocks (st [(K.transportEnable, 1), (K.tenantEnable 0, 1), (K.regionSelect, 1), (K.regionEntry, fields [(152, 64), (140, 1), (136, 1)])]) 0 1, _, _, rfl⟩,
    ⟨blocks (st [(K.transportEnable, 1), (K.tenantEnable 0, 1), (K.regionSelect, 1), (K.regionEntry, fields [(152, 64), (140, 1), (136, 1)])]) 0 1, _, _, rfl⟩,
    ⟨blocks (st [(K.transportEnable, 1), (K.tenantEnable 0, 1), (K.regionSelect, 1), (K.regionEntry, fields [(152, 64), (140, 1), (136, 1)])]) 0 1, _, _, rfl⟩,
    ⟨pf, blocks (st [(K.transportEnable, 1), (K.tenantEnable 0, 1), (K.regionSelect, 1), (K.regionEntry, fields [(152, 64), (140, 1), (136, 1)])]) 0 1, _, (by decide +kernel), rfl, (by decide +kernel)⟩,
    ⟨pf, st [], _, _, _, (by decide +kernel), rfl, rfl⟩,
    ⟨pf, blocks (st [(K.transportEnable, 1), (K.tenantEnable 0, 1), (K.regionSelect, 1), (K.regionEntry, fields [(152, 64), (140, 1), (136, 1)])]) 0 1, (by decide +kernel)⟩,
    ⟨1, { st [] with net := { NetSt.reset with regions := [(1, { Region.reset with valid := true, gen := 63 })] } }, { Region.reset with valid := true, gen := 63 }, (by decide +kernel), (by decide +kernel)⟩,
    ⟨0, blocks (st [(K.transportEnable, 1), (K.tenantEnable 0, 1), (K.regionSelect, 1), (K.regionEntry, fields [(152, 64), (140, 1), (136, 1)])]) 0 1, _, rfl, (by decide +kernel)⟩⟩

theorem witness_CheckValueOperations :
    (∃ (w : WReq) (s : State), Allowed s w 0x8000 0x12 ∧ cvLocked s = true) ∧
    (∃ (w : WReq) (s : State) (v : Nat), Allowed s w 0x8000 0x12 ∧ cvLocked s = false ∧ v = cvOf s (rd s K.cvSelect) ∧ cvStateOf v = 1) ∧
    (∃ (w : WReq) (s : State) (v : Nat), Allowed s w 0x8000 0x12 ∧ cvLocked s = false ∧ v = cvOf s (rd s K.cvSelect) ∧ cvStateOf v ≠ 1) ∧
    (∃ (w : WReq) (s : State) (v : Nat), Allowed s w 0x8000 0x12 ∧ cvLocked s = false ∧ v = cvOf s (rd s K.cvSelect) ∧ cvStateOf v ≠ 1 ∧ cvRangeOk s v = true) ∧
    (∃ (w : WReq) (s : State) (v : Nat), Allowed s w 0x8000 0x12 ∧ cvLocked s = false ∧ v = cvOf s (rd s K.cvSelect) ∧ cvStateOf v ≠ 1 ∧ cvRangeOk s v = false) ∧
    (∃ (w : WReq) (s : State), Allowed s w 0x8000 0x12 ∧ cvLocked s = false ∧ cvStateOf (cvOf s (rd s K.cvSelect)) ≠ 1) ∧
    (∃ (w : WReq) (fed r : Nat) (s t : State) (v : Nat) (hit : Bool), Allowed s w 0x8000 0x12 ∧ cvLocked s = false ∧ v = cvOf s (rd s K.cvSelect) ∧ cvStateOf v = 1 ∧ cvLines (cvPoly v) (upFrom (cvBase v / 64) (min fed (cvLength v / 64))) s (cvRunning v) = (t, r, hit)) ∧
    (∃ (ctx r : Nat) (s t : State) (v : Nat) (hit : Bool), v = cvOf s ctx ∧ cvStateOf v = 1 ∧ deferred s = false ∧ hasBudget s (ctx / 64) 3 = true ∧ cvLines (cvPoly v) (upFrom (cvBase v / 64) (cvLength v / 64)) s (cvRunning v) = (t, r, hit)) ∧
    (∃ (ctx : Nat) (s : State) (v : Nat), v = cvOf s ctx ∧ cvStateOf v = 1 ∧ deferred s = false ∧ hasBudget s (ctx / 64) 3 = false) ∧
    (∃ (ctx : Nat) (s : State), (cvStateOf (cvOf s ctx) ≠ 1 ∨ deferred s = true)) :=
  ⟨⟨pf, st [(K.cvSelect, 64)], (by decide +kernel), (by decide +kernel)⟩,
    ⟨pf, { blocks (st [(K.cvSelect, 48)]) 0 1 with rel := { RelSt.reset with cvs := [(48, cvWord 0 0 0 64 1 0)] } }, _, (by decide +kernel), (by decide +kernel), rfl, (by decide +kernel)⟩,
    ⟨pf, st [(K.cvSelect, 48)], _, (by decide +kernel), (by decide +kernel), rfl, (by decide +kernel)⟩,
    ⟨pf, { blocks (st [(K.cvSelect, 48)]) 0 1 with rel := { RelSt.reset with cvs := [(48, cvWord 0 0 0 64 0 0)] } }, _, (by decide +kernel), (by decide +kernel), rfl, (by decide +kernel), (by decide +kernel)⟩,
    ⟨pf, st [(K.cvSelect, 48)], _, (by decide +kernel), (by decide +kernel), rfl, (by decide +kernel), (by decide +kernel)⟩,
    ⟨pf, st [(K.cvSelect, 48)], (by decide +kernel), (by decide +kernel), (by decide +kernel)⟩,
    ⟨pf, 1, _, { blocks (st [(K.cvSelect, 48)]) 0 1 with rel := { RelSt.reset with cvs := [(48, cvWord 0 0 0 64 1 0)] } }, _, _, _, (by decide +kernel), (by decide +kernel), rfl, (by decide +kernel), rfl⟩,
    ⟨48, _, { granted (blocks (st []) 0 1) 0 3 with rel := { RelSt.reset with cvs := [(48, cvWord 0 0 0 64 1 0)] } }, _, _, _, (rfl), (by decide +kernel), (by decide +kernel), (by decide +kernel), (triple _)⟩,
    ⟨48, { blocks (st [(K.cvSelect, 48)]) 0 1 with rel := { RelSt.reset with cvs := [(48, cvWord 0 0 0 64 1 0)] } }, _, rfl, (by decide +kernel), (by decide +kernel), (by decide +kernel)⟩,
    ⟨0, st [(K.cvSelect, 48)], (by decide +kernel)⟩⟩

theorem witness_ValueWritesAreDone :
    (∃ (slice sub : Nat) (w : WReq) (l : List Byte) (s t : State) (r : Res), slice < 4 ∧ Allowed s w (0x1210 + slice) sub ∧ 1 ≤ sub ∧ sub ≤ 64 ∧ l.length = 8 ∧ setEntries s slice [(sub, ofBytes l)] = (t, r)) ∧
    (∃ (slice sub : Nat) (w : WReq) (l : List Byte) (s t : State) (r : Res), slice < 4 ∧ Allowed s w (0x1210 + slice) sub ∧ sub = 0 ∧ l.length = 512 ∧ setEntries s slice ((upFrom 1 64).map (fun k => (k, ofBytes ((l.drop (8 * (k - 1))).take 8)))) = (t, r)) ∧
    (∃ (slice sub : Nat) (w : WReq) (l : List Byte) (s : State), slice < 4 ∧ Allowed s w (0x1210 + slice) sub ∧ sub = 0 ∧ l.length ≠ 512) ∧
    (∃ (slice : Nat) (l : List (Nat × Nat)) (s t : State) (r : Res), setEntries s slice l = (t, r)) ∧
    (∃ (w : WReq) (l : List Byte) (s : State) (e : Nat), Allowed s w 0x4300 0x11 ∧ l.length = 208 ∧ e = ofBytes l ∧ teValid e = false) ∧
    (∃ (w : WReq) (l : List Byte) (s : State) (e : Nat), Allowed s w 0x4300 0x11 ∧ l.length = 208 ∧ e = ofBytes l ∧ teValid e = true ∧ treeRangeBad s e = true) ∧
    (∃ (w : WReq) (l : List Byte) (s : State) (e : Nat), Allowed s w 0x4300 0x11 ∧ l.length = 208 ∧ e = ofBytes l ∧ teValid e = true ∧ treeRangeBad s e = false ∧ mapEpochOk s (teEpoch e) = false) ∧
    (∃ (w : WReq) (l : List Byte) (s : State) (e : Nat), Allowed s w 0x4300 0x11 ∧ l.length = 208 ∧ e = ofBytes l ∧ teValid e = true ∧ treeRangeBad s e = false ∧ mapEpochOk s (teEpoch e) = true ∧ ((tget? s.trees (rd s K.treeSelect)).isSome = true ∨ s.trees.length < 4096)) ∧
    (∃ (w : WReq) (l : List Byte) (s : State) (e : Nat), Allowed s w 0x4300 0x11 ∧ l.length = 208 ∧ e = ofBytes l ∧ teValid e = true ∧ treeRangeBad s e = false ∧ mapEpochOk s (teEpoch e) = true ∧ tget? s.trees (rd s K.treeSelect) = none ∧ 4096 ≤ s.trees.length) ∧
    (∃ (entry : Nat) (w : WReq) (l : List Byte) (s : State), entry < 8 ∧ Allowed s w 0xA000 (0x18 + entry) ∧ l.length = 40 ∧ (2 < skRights (ofBytes l) ∨ bits (ofBytes l) 264 56 ≠ 0)) ∧
    (∃ (entry : Nat) (w : WReq) (l : List Byte) (s : State), entry < 8 ∧ Allowed s w 0xA000 (0x18 + entry) ∧ l.length = 40 ∧ skRights (ofBytes l) ≤ 2 ∧ bits (ofBytes l) 264 56 = 0 ∧ (on s K.mgmtSessionEnable = false ∨ runningFails enMgmtSession (wr s (K.sessionKey entry) (ofBytes l)) = none)) ∧
    (∃ (entry : Nat) (w : WReq) (l : List Byte) (s : State) (c k : _), entry < 8 ∧ Allowed s w 0xA000 (0x18 + entry) ∧ l.length = 40 ∧ skRights (ofBytes l) ≤ 2 ∧ bits (ofBytes l) 264 56 = 0 ∧ on s K.mgmtSessionEnable = true ∧ runningFails enMgmtSession (wr s (K.sessionKey entry) (ofBytes l)) = some (c, k)) ∧
    (∃ (w : WReq) (l : List Byte) (s : State), Allowed s w 0xA000 0x10 ∧ l.length = 32 ∧ w.via = .pf ∧ rd s K.ownerKeyState = 0) ∧
    (∃ (w : WReq) (l : List Byte) (s : State), Allowed s w 0xA000 0x10 ∧ l.length = 32 ∧ (w.via ≠ .pf ∨ rd s K.ownerKeyState ≠ 0)) ∧
    (∃ (w : WReq) (off : Nat) (l : List Byte) (s : State), Allowed s w 0xA100 4 ∧ l ≠ [] ∧ l.length ≤ 1024 ∧ off + l.length ≤ 67108864 ∧ (bufTaken s = false ∨ (s.sec.owner = viaTransport w.via ∧ rd s K.fwState = 1))) ∧
    (∃ (w : WReq) (off : Nat) (l : List Byte) (s : State), Allowed s w 0xA100 4 ∧ l ≠ [] ∧ l.length ≤ 1024 ∧ off + l.length ≤ 67108864 ∧ bufTaken s = true ∧ (s.sec.owner ≠ viaTransport w.via ∨ rd s K.fwState ≠ 1)) ∧
    (∃ (link : Nat) (w : WReq) (s : State), link < 36 ∧ Allowed s w (0x6100 + link) 7) ∧
    (∃ (region : Nat) (w : WReq) (v : Byte) (s : State), region < 16 ∧ Allowed s w (0x5010 + region) 8 ∧ v = 1) ∧
    (∃ (region : Nat) (w : WReq) (v : Byte) (s : State), region < 16 ∧ Allowed s w (0x5010 + region) 8 ∧ v = 0) ∧
    (∃ (region : Nat) (w : WReq) (v : Byte) (s : State), region < 16 ∧ Allowed s w (0x5010 + region) 8 ∧ 1 < v.toNat) ∧
    (∃ (w : WReq) (s : State), Allowed s w 0xA100 7 ∧ inRecovery s = true) ∧
    (∃ (w : WReq) (v : Byte) (s : State), Allowed s w 0xA100 7 ∧ inRecovery s = false ∧ v.toNat < 16 ∧ (∀ sl < 4, bitB v.toNat sl = true → rd s (K.sliceState sl) = 3)) ∧
    (∃ (w : WReq) (v : Byte) (s : State), Allowed s w 0xA100 7 ∧ inRecovery s = false ∧ (16 ≤ v.toNat ∨ (∃ sl < 4, bitB v.toNat sl = true ∧ rd s (K.sliceState sl) ≠ 3))) :=
  ⟨⟨3, 64, pf, List.replicate 8 0, st [], _, _, (by decide +kernel), (by decide +kernel), (by decide +kernel), (by decide +kernel), (by decide +kernel), rfl⟩,
    ⟨3, 0, pf, List.replicate 512 0, st [], _, _, (by decide +kernel), (by decide +kernel), (by decide +kernel), (by decide +kernel), (pair _)⟩,
    ⟨3, 0, pf, List.replicate 511 0, st [], (by decide +kernel), (by decide +kernel), (by decide +kernel), (by decide +kernel)⟩,
    ⟨0, [], st [], _, _, rfl⟩,
    ⟨pf, List.replicate 208 0, st [], _, (by decide +kernel), (by decide +kernel), (rfl), (by decide +kernel)⟩,
    ⟨pf, toBytes 208 (fields [(67, 1)]), st [], _, (by decide +kernel), (by decide +kernel), (rfl), (by decide +kernel), (by decide +kernel)⟩,
    ⟨pf, toBytes 208 (fields [(67, 1), (69, 1), (96, 9), (112, 0xFFFF), (128, 2 ^ 512 - 1), (640, 2)]), st [], _, (by decide +kernel), (by decide +kernel), (rfl), (by decide +kernel), (by decide +kernel), (by decide +kernel)⟩,
    ⟨pf, toBytes 208 (fields [(67, 1), (69, 1), (112, 0xFFFF), (128, 2 ^ 512 - 1), (640, 2)]), st [], _, (by decide +kernel), (by decide +kernel), rfl, (by decide +kernel), (by decide +kernel), (by decide +kernel), (by decide +kernel)⟩,
    ⟨pf, toBytes 208 (fields [(67, 1), (69, 1), (112, 0xFFFF), (128, 2 ^ 512 - 1), (640, 2)]), { st [] with trees := (upFrom 1 4096).map (fun i => (i, tree0)) }, _, (by decide +kernel), (by decide +kernel), (rfl), (by decide +kernel), (by decide +kernel), (by decide +kernel), (by decide +kernel), (by decide +kernel)⟩,
    ⟨7, pf, toBytes 40 (3 * 2 ^ 256), st [], (by decide +kernel), (by decide +kernel), (by decide +kernel), (.inl (by decide +kernel))⟩,
    ⟨7, pf, toBytes 40 (2 * 2 ^ 256), st [], (by decide +kernel), (by decide +kernel), (by decide +kernel), (by decide +kernel), (by decide +kernel), (.inl (by decide +kernel))⟩,
    ⟨7, pf, List.replicate 40 0, st [(K.mgmtSessionEnable, 1)], 6, K.sessionKey 0, (by decide +kernel), (by decide +kernel), (by decide +kernel), (by decide +kernel), (by decide +kernel), (by decide +kernel), (by decide +kernel)⟩,
    ⟨pf, List.replicate 32 0, st [], (by decide +kernel), (by decide +kernel), (by decide +kernel), (by decide +kernel)⟩,
    ⟨pf, List.replicate 32 0, st [(K.ownerKeyState, 1)], (by decide +kernel), (by decide +kernel), (.inr (by decide +kernel))⟩,
    ⟨pf, 0, List.replicate 8 0, st [], (by decide +kernel), (by decide +kernel), (by decide +kernel), (by decide +kernel), (by decide +kernel)⟩,
    ⟨pf, 0, [0], { st [(K.fwState, 1)] with sec := { SecSt.reset with owner := 1 } }, (by decide +kernel), (by decide +kernel), (by decide +kernel), (by decide +kernel), (by decide +kernel), (.inl (by decide +kernel))⟩,
    ⟨0, pf, st [], (by decide +kernel), (by decide +kernel)⟩,
    ⟨0, pf, _, st [], (by decide +kernel), (by decide +kernel), rfl⟩,
    ⟨0, pf, _, st [], (by decide +kernel), (by decide +kernel), rfl⟩,
    ⟨0, pf, 15, st [(K.sliceState 0, 3), (K.sliceState 1, 3), (K.sliceState 2, 3), (K.sliceState 3, 3)], (by decide +kernel), (by decide +kernel), (by decide +kernel)⟩,
    ⟨pf, st [(K.nodeStartState, 5)], (by decide +kernel), (by decide +kernel)⟩,
    ⟨pf, 0, st [], (by decide +kernel), (by decide +kernel), (by decide +kernel), (by decide +kernel)⟩,
    ⟨pf, 16, st [], (by decide +kernel), (by decide +kernel), (.inl (by decide +kernel))⟩⟩

theorem witness_TriggersAreDone :
    (∃ (w : WReq) (s : State), Allowed s w 0xA000 0x31) ∧
    (∃ (w : WReq) (s : State), Allowed s w 0xA100 5 ∧ rd s K.fwState ≠ 2 ∧ rd s K.fwState ≠ 3) ∧
    (∃ (w : WReq) (s : State), Allowed s w 0xA100 5 ∧ (rd s K.fwState = 2 ∨ rd s K.fwState = 3)) ∧
    (∃ (w : WReq) (s : State), Allowed s w 0xA100 6 ∧ (rd s K.fwState = 1 ∨ rd s K.fwState = 5)) ∧
    (∃ (w : WReq) (s : State), Allowed s w 0xA100 6 ∧ rd s K.fwState ≠ 1 ∧ rd s K.fwState ≠ 5) ∧
    (∃ (w : WReq) (s : State), Allowed s w 0xA100 0x0C ∧ inRecovery s = true) ∧
    (∃ (w : WReq) (s : State), Allowed s w 0xA100 0x0C ∧ inRecovery s = false ∧ newFloors s ≠ rd s K.svnFloor) ∧
    (∃ (w : WReq) (s : State), Allowed s w 0xA100 0x0C ∧ inRecovery s = false ∧ newFloors s = rd s K.svnFloor) ∧
    (∃ (w : WReq) (s : State), Allowed s w 0x8200 5) ∧
    (∃ (w : WReq) (v : Byte) (s : State), v = 0 ∧ Allowed s w 0xA000 0x31) ∧
    (∃ (w : WReq) (v : Byte) (s : State), v = 0 ∧ Allowed s w 0xA100 5) ∧
    (∃ (w : WReq) (v : Byte) (s : State), v = 0 ∧ Allowed s w 0xA100 6) ∧
    (∃ (w : WReq) (v : Byte) (s : State), v = 0 ∧ Allowed s w 0xA100 0x0C) ∧
    (∃ (w : WReq) (v : Byte) (s : State), v = 0 ∧ Allowed s w 0x8200 5) ∧
    (∃ (w : WReq) (v : Byte) (s : State), 1 < v.toNat ∧ Allowed s w 0xA000 0x31) ∧
    (∃ (w : WReq) (v : Byte) (s : State), 1 < v.toNat ∧ Allowed s w 0xA100 5) ∧
    (∃ (w : WReq) (v : Byte) (s : State), 1 < v.toNat ∧ Allowed s w 0xA100 6) ∧
    (∃ (w : WReq) (v : Byte) (s : State), 1 < v.toNat ∧ Allowed s w 0xA100 0x0C) ∧
    (∃ (w : WReq) (v : Byte) (s : State), 1 < v.toNat ∧ Allowed s w 0x8200 5) :=
  ⟨⟨pf, st [], (by decide +kernel)⟩,
    ⟨pf, st [], (by decide +kernel), (by decide +kernel), (by decide +kernel)⟩,
    ⟨pf, st [(K.fwState, 2)], (by decide +kernel), (.inl (by decide +kernel))⟩,
    ⟨pf, st [(K.fwState, 1)], (by decide +kernel), (by decide +kernel)⟩,
    ⟨pf, st [], (by decide +kernel), (by decide +kernel), (by decide +kernel)⟩,
    ⟨pf, st [(K.nodeStartState, 5)], (by decide +kernel), (by decide +kernel)⟩,
    ⟨pf, { st [] with sec := { SecSt.reset with flash := [(1, { FwImg.fitted with svn := 1 })], running := [(8, { FwImg.fitted with svn := 1 })] } }, (by decide +kernel), (by decide +kernel), (by decide +kernel)⟩,
    ⟨pf, st [], (by decide +kernel), (by decide +kernel), (by decide +kernel)⟩,
    ⟨pf, st [], (by decide +kernel)⟩,
    ⟨pf, _, st [], rfl, (by decide +kernel)⟩,
    ⟨pf, _, st [], rfl, (by decide +kernel)⟩,
    ⟨pf, _, st [], rfl, (by decide +kernel)⟩,
    ⟨pf, _, st [], rfl, (by decide +kernel)⟩,
    ⟨pf, _, st [], rfl, (by decide +kernel)⟩,
    ⟨pf, 2, st [], (by decide +kernel), (by decide +kernel)⟩,
    ⟨pf, 2, st [], (by decide +kernel), (by decide +kernel)⟩,
    ⟨pf, 2, st [], (by decide +kernel), (by decide +kernel)⟩,
    ⟨pf, 2, st [], (by decide +kernel), (by decide +kernel)⟩,
    ⟨pf, 2, st [], (by decide +kernel), (by decide +kernel)⟩⟩

theorem witness_SliceOperationsRun :
    (∃ (slice : Nat) (w : WReq) (s : State), slice < 4 ∧ Allowed s w (0x2000 + 0x100 * slice) 2 ∧ firstFail (opFails s slice 1) = none) ∧
    (∃ (slice : Nat) (w : WReq) (s : State), slice < 4 ∧ Allowed s w (0x2000 + 0x100 * slice) 2 ∧ firstFail (opFails s slice 2) = none) ∧
    (∃ (slice : Nat) (w : WReq) (s : State), slice < 4 ∧ Allowed s w (0x2000 + 0x100 * slice) 2 ∧ firstFail (opFails s slice 3) = none) ∧
    (∃ (slice : Nat) (w : WReq) (s : State), slice < 4 ∧ Allowed s w (0x2000 + 0x100 * slice) 2 ∧ firstFail (opFails s slice 4) = none) ∧
    (∃ (slice : Nat) (w : WReq) (s : State), slice < 4 ∧ Allowed s w (0x2000 + 0x100 * slice) 2 ∧ firstFail (opFails s slice 5) = none) ∧
    (∃ (slice : Nat) (w : WReq) (s : State) (r k : _), slice < 4 ∧ Allowed s w (0x2000 + 0x100 * slice) 2 ∧ firstFail (opFails s slice 1) = some (r, k)) ∧
    (∃ (slice : Nat) (w : WReq) (s : State) (r k : _), slice < 4 ∧ Allowed s w (0x2000 + 0x100 * slice) 2 ∧ firstFail (opFails s slice 2) = some (r, k)) ∧
    (∃ (slice : Nat) (w : WReq) (s : State) (r k : _), slice < 4 ∧ Allowed s w (0x2000 + 0x100 * slice) 2 ∧ firstFail (opFails s slice 3) = some (r, k)) ∧
    (∃ (slice : Nat) (w : WReq) (s : State) (r k : _), slice < 4 ∧ Allowed s w (0x2000 + 0x100 * slice) 2 ∧ firstFail (opFails s slice 4) = some (r, k)) ∧
    (∃ (slice : Nat) (w : WReq) (s : State) (r k : _), slice < 4 ∧ Allowed s w (0x2000 + 0x100 * slice) 2 ∧ firstFail (opFails s slice 5) = some (r, k)) :=
  ⟨⟨3, pf, st [(K.sliceState 3, 1)], (by decide +kernel), (by decide +kernel), (by decide +kernel)⟩,
    ⟨3, pf, st [(K.sliceState 3, 2)], (by decide +kernel), (by decide +kernel), (by decide +kernel)⟩,
    ⟨3, pf, st [(K.sliceState 3, 3)], (by decide +kernel), (by decide +kernel), (by decide +kernel)⟩,
    ⟨3, pf, st [(K.sliceState 3, 3)], (by decide +kernel), (by decide +kernel), (by decide +kernel)⟩,
    ⟨3, pf, st [(K.sliceState 3, 3)], (by decide +kernel), (by decide +kernel), (by decide +kernel)⟩,
    ⟨0, pf, st [], _, _, (by decide +kernel), (by decide +kernel), rfl⟩,
    ⟨0, pf, st [], _, _, (by decide +kernel), (by decide +kernel), rfl⟩,
    ⟨0, pf, st [], _, _, (by decide +kernel), (by decide +kernel), rfl⟩,
    ⟨0, pf, st [], _, _, (by decide +kernel), (by decide +kernel), rfl⟩,
    ⟨0, pf, st [], _, _, (by decide +kernel), (by decide +kernel), rfl⟩⟩

theorem witness_SliceEventsMoveTheSlice :
    (∃ (slice : Nat) (r : HwResult) (s t : State), slice < 4 ∧ s.sec.held = false ∧ rd s K.nodeStartState = 2 ∧ rd s (K.sliceState slice) = 0 ∧ t = selfTest s slice r ∧ r.scoringOk = true ∧ r.carryingOk = true ∧ noEngines t slice = false) ∧
    (∃ (slice : Nat) (r : HwResult) (s t : State), slice < 4 ∧ s.sec.held = false ∧ rd s K.nodeStartState = 2 ∧ rd s (K.sliceState slice) = 0 ∧ t = selfTest s slice r ∧ (r.scoringOk = false ∨ r.carryingOk = false ∨ noEngines t slice = true)) ∧
    (∃ (slice : Nat) (s : State), (4 ≤ slice ∨ s.sec.held = true ∨ rd s K.nodeStartState ≠ 2 ∨ rd s (K.sliceState slice) ≠ 0)) ∧
    (∃ (slice : Nat) (s : State), slice < 4 ∧ rd s (K.sliceState slice) = 2 ∧ sliceEmpty s slice = true) ∧
    (∃ (slice : Nat) (s : State), (4 ≤ slice ∨ rd s (K.sliceState slice) ≠ 2 ∨ sliceEmpty s slice = false)) ∧
    (∃ (slice : Nat) (s : State), slice < 4 ∧ rd s (K.sliceOpState slice) = 3 ∧ rd s (K.sliceState slice) = 3) ∧
    (∃ (slice : Nat) (s : State), (4 ≤ slice ∨ rd s (K.sliceOpState slice) ≠ 3 ∨ rd s (K.sliceState slice) ≠ 3)) ∧
    (∃ (slice : Nat) (r : HwResult) (s t u : State) (trains : Bool), slice < 4 ∧ rd s (K.sliceOpState slice) = 4 ∧ rd s (K.sliceState slice) = 0 ∧ trains = has s.sec.fromRetired slice ∧ t = selfTest { s with sec := { s.sec with fromRetired := without s.sec.fromRetired slice } } slice r ∧ u = (if trains then markStacks t slice r else t) ∧ (trains = false ∨ (r.scoringOk = true ∧ r.carryingOk = true)) ∧ noEngines u slice = false) ∧
    (∃ (slice : Nat) (r : HwResult) (s t u : State) (trains : Bool), slice < 4 ∧ rd s (K.sliceOpState slice) = 4 ∧ rd s (K.sliceState slice) = 0 ∧ trains = has s.sec.fromRetired slice ∧ t = selfTest { s with sec := { s.sec with fromRetired := without s.sec.fromRetired slice } } slice r ∧ u = (if trains then markStacks t slice r else t) ∧ ((trains = true ∧ (r.scoringOk = false ∨ r.carryingOk = false)) ∨ noEngines u slice = true)) ∧
    (∃ (slice : Nat) (s : State), (4 ≤ slice ∨ rd s (K.sliceOpState slice) ≠ 4 ∨ rd s (K.sliceState slice) ≠ 0)) ∧
    (∃ (s : State), isLead s = false) ∧
    (∃ (s : State), isLead s = true) ∧
    (∃ (slice state : Nat) (s : State), (rd s (K.sliceState slice) = 1 ↔ state ≠ 1) ∧ rd s K.membershipState ≠ 0 ∧ myNode s ≠ 0xFFFF) ∧
    (∃ (slice : Nat) (s : State), (4 ≤ slice ∨ rd s (K.sliceState slice) = 4)) :=
  ⟨⟨3, ⟨true, true, [31], true, []⟩, st [(K.nodeStartState, 2)], _, (by decide +kernel), (by decide +kernel), (by decide +kernel), (by decide +kernel), rfl, (by decide +kernel), (by decide +kernel), (by decide +kernel)⟩,
    ⟨3, ⟨false, true, [], true, []⟩, st [(K.nodeStartState, 2)], _, (by decide +kernel), (by decide +kernel), (by decide +kernel), (by decide +kernel), rfl, (by decide +kernel)⟩,
    ⟨3, st [(K.sliceState 3, 2)], (by decide +kernel)⟩,
    ⟨3, st [(K.sliceState 3, 2)], (by decide +kernel), (by decide +kernel), (by decide +kernel)⟩,
    ⟨3, st [(K.nodeStartState, 2)], (by decide +kernel)⟩,
    ⟨3, st [(K.sliceState 3, 3), (K.sliceOpState 3, 3)], (by decide +kernel), (by decide +kernel), (by decide +kernel)⟩,
    ⟨3, st [(K.nodeStartState, 2)], (by decide +kernel)⟩,
    ⟨3, ⟨true, true, [31], true, []⟩, st [(K.sliceOpState 3, 4)], _, _, _, (by decide +kernel), (by decide +kernel), (by decide +kernel), rfl, rfl, rfl, (by decide +kernel), (by decide +kernel)⟩,
    ⟨3, ⟨true, true, upFrom 0 32, true, []⟩, st [(K.sliceState 3, 0), (K.sliceOpState 3, 4)], _, _, _, (by decide +kernel), (by decide +kernel), (by decide +kernel), (rfl), (rfl), (rfl), (.inr (by decide +kernel))⟩,
    ⟨3, st [(K.nodeStartState, 2)], (by decide +kernel)⟩,
    ⟨st [(K.nodeStartState, 2)], (by decide +kernel)⟩,
    ⟨lead [], (by decide +kernel)⟩,
    ⟨3, 2, member [(K.sliceState 3, 1)], (by decide +kernel), (by decide +kernel), (by decide +kernel)⟩,
    ⟨4, st [], (.inl (by decide))⟩⟩

theorem witness_DeputyTakesOver :
    (∃ (src : Nat) (s : State), src = leadNode s ∧ isLead s = false ∧ on s K.deputyEnable = true) ∧
    (∃ (src : Nat) (s : State), (src ≠ leadNode s ∨ isLead s = true ∨ on s K.deputyEnable = false)) ∧
    (∃ (s : State), on s K.deputyEnable = true ∧ has [2, 3, 5] (rd s K.membershipState) = true ∧ s.tm.held = true ∧ leadSilent s = true ∧ (s.herd.probing = false ∨ s.herd.probeAt + rd s K.leadTakeoverNs ≤ now s)) ∧
    (∃ (s : State), (on s K.deputyEnable = false ∨ has [2, 3, 5] (rd s K.membershipState) = false ∨ s.tm.held = false ∨ leadSilent s = false ∨ (s.herd.probing = true ∧ now s < s.herd.probeAt + rd s K.leadTakeoverNs))) ∧
    (∃ (src : Nat) (s : State), (∃ e ∈ members s.herd.map, e.node = src)) ∧
    (∃ (src : Nat) (s : State), (∀ e ∈ members s.herd.map, e.node ≠ src)) ∧
    (∃ (src : Nat) (s : State), s.herd.probing = true ∧ has (copyMembers s) src = true) ∧
    (∃ (src : Nat) (s : State), (s.herd.probing = false ∨ has (copyMembers s) src = false)) ∧
    (∃ (img : LeadImage) (s : State), s.herd.image = some img ∧ mayTakeOver s = true) ∧
    (∃ (s : State), (s.herd.image = none ∨ mayTakeOver s = false)) ∧
    (∃ (img : LeadImage) (s : State), s.herd.image = some img ∧ (s.herd.leadHeard = true ∨ 2 * s.herd.probeReplies.length < (members img.map).length)) :=
  ⟨⟨1, member [(K.deputyEnable, 1)], (by decide +kernel), (by decide +kernel), (by decide +kernel)⟩,
    ⟨2, member [], (by decide +kernel)⟩,
    ⟨at_ (member [(K.deputyEnable, 1)]) 1000000 0, (by decide +kernel), (by decide +kernel), (by decide +kernel), (by decide +kernel), (by decide +kernel)⟩,
    ⟨member [(K.deputyEnable, 1)], (by decide +kernel)⟩,
    ⟨2, member [], (by decide +kernel)⟩,
    ⟨1, member [(K.deputyEnable, 1)], (by decide +kernel)⟩,
    ⟨4, { at_ (member [(K.deputyEnable, 1)]) 1000000 0 with herd := { HerdSt.reset with map := [entry 1 1], image := some image1, probing := true, probeReplies := [], leadHeard := false } }, (by decide +kernel), (by decide +kernel)⟩,
    ⟨1, member [(K.deputyEnable, 1)], (by decide +kernel)⟩,
    ⟨image1, { at_ (member [(K.deputyEnable, 1)]) 1000000 0 with herd := { HerdSt.reset with map := [entry 1 1], image := some image1, probing := true, probeReplies := [4], leadHeard := false } }, (by decide +kernel), (by decide +kernel)⟩,
    ⟨member [(K.deputyEnable, 1)], (by decide +kernel)⟩,
    ⟨_, { at_ (member [(K.deputyEnable, 1)]) 1000000 0 with herd := { HerdSt.reset with map := [entry 1 1], image := some image1, probing := true, probeReplies := [], leadHeard := false } }, rfl, (by decide +kernel)⟩⟩

theorem witness_NodesJoin :
    (∃ (r : JoinReq) (s : State), isLead s = true ∧ heldUnit s r.unitId = none) ∧
    (∃ (r : JoinReq) (s : State) (e c : _), isLead s = true ∧ heldUnit s r.unitId = some e ∧ mapEntry? s.herd.map e.node = some c ∧ c.role = 2) ∧
    (∃ (r : JoinReq) (s : State) (e c : _), isLead s = true ∧ heldUnit s r.unitId = some e ∧ mapEntry? s.herd.map e.node = some c ∧ c.role ≠ 2) ∧
    (∃ (r : JoinReq) (s : State) (e : _), isLead s = true ∧ heldUnit s r.unitId = some e ∧ mapEntry? s.herd.map e.node = none ∧ e.role = r.role ∧ r.herdId = rd s K.herdId) ∧
    (∃ (r : JoinReq) (s : State) (e : _), isLead s = true ∧ heldUnit s r.unitId = some e ∧ mapEntry? s.herd.map e.node = none ∧ (e.role ≠ r.role ∨ r.herdId ≠ rd s K.herdId)) ∧
    (∃ (r : JoinReq) (s : State), joinCause s r = 0 ∧ r.role = 2) ∧
    (∃ (r : JoinReq) (s : State), joinCause s r = 0 ∧ r.role ≠ 2) ∧
    (∃ (r : JoinReq) (s : State), joinCause s r ≠ 0) ∧
    (∃ (r : JoinReq) (s : State), r.herdId ≠ rd s K.herdId) ∧
    (∃ (r : JoinReq) (s : State), r.herdId = rd s K.herdId ∧ r.role = 2 ∧ 1023 ≤ (members (plannedMap s)).length) ∧
    (∃ (r : JoinReq) (s : State), r.herdId = rd s K.herdId ∧ r.role = 2 ∧ (members (plannedMap s)).length < 1023) ∧
    (∃ (r : JoinReq) (s : State), r.herdId = rd s K.herdId ∧ r.role = 3 ∧ ((spareOf s r.spareGroup).isSome = true ∨ (∀ e ∈ members (plannedMap s), e.spareGroup ≠ r.spareGroup))) ∧
    (∃ (r : JoinReq) (s : State), r.herdId = rd s K.herdId ∧ r.role = 1) ∧
    (∃ (s : State), isLead s = false) ∧
    (∃ (r : JoinRep) (s : State), r.unitId = rd s K.unitId ∧ rd s K.membershipState = 1 ∧ s.herd.joinSent = true ∧ r.cause = 0) ∧
    (∃ (r : JoinRep) (s : State), r.unitId = rd s K.unitId ∧ rd s K.membershipState = 1 ∧ s.herd.joinSent = true ∧ r.cause ≠ 0) ∧
    (∃ (r : JoinRep) (s : State), (r.unitId ≠ rd s K.unitId ∨ rd s K.membershipState ≠ 1 ∨ s.herd.joinSent = false)) ∧
    (∃ (s : State), rd s K.membershipState = 1 ∧ s.herd.joinSent = true ∧ passed s s.herd.joinAt (rd s K.joinTimeoutMs * 1000000) = true) ∧
    (∃ (s : State), (rd s K.membershipState ≠ 1 ∨ s.herd.joinSent = false ∨ passed s s.herd.joinAt (rd s K.joinTimeoutMs * 1000000) = false)) :=
  ⟨⟨⟨0xFFFE, 77, 0, 2, 0xFFFF, 15⟩, lead [], (by decide +kernel), (by decide +kernel)⟩,
    ⟨⟨0xFFFE, 77, 0, 2, 65535, 15⟩, { lead [] with herd := { HerdSt.reset with map := [entry 1 1, entry 2 2], numbers := [(2, 77)] } }, entry 2 2, entry 2 2, (by decide +kernel), (rfl), (rfl), (by decide +kernel)⟩,
    ⟨⟨0xFFFE, 77, 0, 2, 65535, 15⟩, { lead [] with herd := { HerdSt.reset with map := [entry 1 1, entry 3 2], numbers := [(2, 77)] } }, entry 3 2, entry 3 2, (by decide +kernel), (rfl), (rfl), (by decide +kernel)⟩,
    ⟨⟨0xFFFE, 77, 0, 2, 65535, 15⟩, { lead [] with herd := { HerdSt.reset with map := [entry 1 1], mapWant := some [entry 1 1, entry 2 2], numbers := [(2, 77)] } }, entry 2 2, (by decide +kernel), (rfl), (by decide +kernel), (by decide +kernel), (by decide +kernel)⟩,
    ⟨⟨0xFFFE, 77, 0, 2, 65535, 15⟩, { lead [] with herd := { HerdSt.reset with map := [entry 1 1], mapWant := some [entry 1 1, entry 3 2], numbers := [(2, 77)] } }, entry 3 2, (by decide +kernel), (rfl), (by decide +kernel), (.inl (by decide))⟩,
    ⟨⟨0xFFFE, 77, 0, 2, 0xFFFF, 15⟩, lead [], (by decide +kernel), (by decide +kernel)⟩,
    ⟨⟨0xFFFE, 77, 0, 3, 0xFFFF, 15⟩, lead [], (by decide +kernel), (by decide +kernel)⟩,
    ⟨⟨0xFFFE, 77, 0, 1, 0xFFFF, 15⟩, lead [], (by decide +kernel)⟩,
    ⟨⟨0xFFFE, 77, 0, 2, 0xFFFF, 15⟩, lead [(K.herdId, 1)], (by decide +kernel)⟩,
    ⟨⟨0xFFFE, 77, 0, 2, 65535, 15⟩, { lead [] with herd := { HerdSt.reset with map := (upFrom 1 1023).map (entry 2) } }, (by decide +kernel), (by decide +kernel), (by decide +kernel)⟩,
    ⟨⟨0xFFFE, 77, 0, 2, 0xFFFF, 15⟩, lead [], (by decide +kernel), (by decide +kernel), (by decide +kernel)⟩,
    ⟨⟨0xFFFE, 77, 0, 3, 3, 15⟩, { lead [] with herd := { HerdSt.reset with map := [entry 1 1], spareFree := [(3, 7)] } }, (by decide +kernel), (by decide +kernel), (.inl (by decide +kernel))⟩,
    ⟨⟨0xFFFE, 77, 0, 1, 0xFFFF, 15⟩, lead [], (by decide +kernel), (by decide +kernel)⟩,
    ⟨member [], (by decide +kernel)⟩,
    ⟨⟨rd (st []) K.unitId, 0, 5⟩, { at_ (st [(K.membershipState, 1), (K.herdRole, 2)]) 0 0 with herd := { HerdSt.reset with joinSent := true } }, (by decide +kernel), (by decide +kernel), (by decide +kernel), (by decide +kernel)⟩,
    ⟨⟨rd (st []) K.unitId, 5, 0xFFFF⟩, { at_ (st [(K.membershipState, 1), (K.herdRole, 2)]) 0 0 with herd := { HerdSt.reset with joinSent := true } }, (by decide +kernel), (by decide +kernel), (by decide +kernel), (by decide +kernel)⟩,
    ⟨⟨rd (st []) K.unitId, 0, 5⟩, member [], (by decide +kernel)⟩,
    ⟨at_ { st [(K.membershipState, 1)] with herd := { HerdSt.reset with joinSent := true }, tm := { TimeSt.reset with ec := 10 ^ 15 } } 0 (10 ^ 15), (by decide +kernel), (by decide +kernel), (by decide +kernel)⟩,
    ⟨lead [], (by decide +kernel)⟩⟩

theorem witness_HandoffsFollowTheLead :
    (∃ (src : Nat) (m : MapMsg) (s : State), src = leadNode s ∧ isLead s = false ∧ m.epoch ≠ rd s K.mapEpoch) ∧
    (∃ (src : Nat) (m : MapMsg) (s : State), src = leadNode s ∧ isLead s = false ∧ m.epoch = rd s K.mapEpoch ∧ s.herd.mapWait = true) ∧
    (∃ (src : Nat) (m : MapMsg) (s : State), src = leadNode s ∧ isLead s = false ∧ m.epoch = rd s K.mapEpoch ∧ s.herd.mapWait = false) ∧
    (∃ (src : Nat) (s : State), (src ≠ leadNode s ∨ isLead s = true)) ∧
    (∃ (src : Nat) (o : Handoff) (s : State), src = leadNode s ∧ findHandoff s o = none ∧ o.src ≠ o.dst ∧ o.src = myNode s) ∧
    (∃ (src : Nat) (o : Handoff) (copies : List QuireImage) (s : State) (t : _), src = leadNode s ∧ findHandoff s o = none ∧ o.src ≠ o.dst ∧ o.src ≠ myNode s ∧ o.dst = myNode s ∧ placeImages (copies.filter (fun im => inOrder o im.tenant im.ream im.layer im.head im.num)) s = some t) ∧
    (∃ (src : Nat) (o : Handoff) (copies : List QuireImage) (s : State), src = leadNode s ∧ findHandoff s o = none ∧ o.src ≠ o.dst ∧ o.src ≠ myNode s ∧ o.dst = myNode s ∧ placeImages (copies.filter (fun im => inOrder o im.tenant im.ream im.layer im.head im.num)) s = none) ∧
    (∃ (src : Nat) (o : Handoff) (s : State), src = leadNode s ∧ findHandoff s o = none ∧ o.src ≠ o.dst ∧ o.src ≠ myNode s ∧ o.dst ≠ myNode s) ∧
    (∃ (src : Nat) (s : State), src ≠ leadNode s) ∧
    (∃ (src : Nat) (o : Handoff) (s : State), src = leadNode s ∧ ((findHandoff s o).isSome = true ∨ o.src = o.dst)) ∧
    (∃ (o : Handoff) (s : State) (h : HandoffSt), findHandoff s o = some h ∧ h.source = true ∧ h.phase = 1 ∧ h.order.homeMoves = true) ∧
    (∃ (o : Handoff) (s : State) (h : HandoffSt), findHandoff s o = some h ∧ h.source = true ∧ ((h.phase = 1 ∧ h.order.homeMoves = false) ∨ (h.phase = 2 ∧ h.holdFrom ≤ rd s K.currentStep ∧ noPending s o.tenant o.ream = true))) ∧
    (∃ (o : Handoff) (s : State) (h : HandoffSt), findHandoff s o = some h ∧ h.source = true ∧ ((h.phase ≠ 1 ∧ h.phase ≠ 2) ∨ (h.phase = 2 ∧ (rd s K.currentStep < h.holdFrom ∨ noPending s o.tenant o.ream = false)))) ∧
    (∃ (o : Handoff) (s : State) (h : HandoffSt), findHandoff s o = some h ∧ h.source = false ∧ h.phase < 4) ∧
    (∃ (o : Handoff) (s : State) (h : HandoffSt), findHandoff s o = some h ∧ h.source = false ∧ 4 ≤ h.phase) ∧
    (∃ (o : Handoff) (s : State), findHandoff s o = none) ∧
    (∃ (o : Handoff) (s t : State), isLead s = true ∧ t = { s with herd := { s.herd with readyWant := s.herd.readyWant.filter (fun x => !sameOrder x o) ++ [o], leaving := s.herd.leaving.map (fun l => { l with orders := l.orders.filter (fun x => !sameOrder x o) }) } } ∧ (∃ l ∈ t.herd.leaving, l.spare = o.dst ∧ l.orders ≠ [])) ∧
    (∃ (o : Handoff) (s t : State), isLead s = true ∧ t = { s with herd := { s.herd with readyWant := s.herd.readyWant.filter (fun x => !sameOrder x o) ++ [o], leaving := s.herd.leaving.map (fun l => { l with orders := l.orders.filter (fun x => !sameOrder x o) }) } } ∧ (∀ l ∈ t.herd.leaving, l.spare = o.dst → l.orders = [])) ∧
    (∃ (s : State), isLead s = false) ∧
    (∃ (src : Nat) (o : Handoff) (s : State) (h : _), src = leadNode s ∧ findHandoff s o = some h ∧ h.source = true ∧ h.phase = 4) ∧
    (∃ (src : Nat) (o : Handoff) (s : State), src = leadNode s ∧ (∀ h, findHandoff s o = some h → h.source = false ∨ h.phase ≠ 4)) ∧
    (∃ (src : Nat) (s : State), src ≠ leadNode s) :=
  ⟨⟨1, ⟨1, 1, [entry 1 1], []⟩, member [], (by decide +kernel), (by decide +kernel), (by decide +kernel)⟩,
    ⟨1, ⟨0, 1, [entry 1 1], []⟩, { member [] with herd := { HerdSt.reset with map := [entry 1 1], mapWait := true } }, (by decide +kernel), (by decide +kernel), (by decide +kernel), (by decide +kernel)⟩,
    ⟨1, ⟨0, 1, [entry 1 1], []⟩, member [], (by decide +kernel), (by decide +kernel), (by decide +kernel), (by decide +kernel)⟩,
    ⟨2, member [], (by decide +kernel)⟩,
    ⟨1, order 2 3 true, member [], (by decide +kernel), (by decide +kernel), (by decide +kernel), (by decide +kernel)⟩,
    ⟨1, order 3 2 true, [], member [], _, (by decide +kernel), (by decide +kernel), (by decide +kernel), (by decide +kernel), (by decide +kernel), rfl⟩,
    ⟨1, order 3 2 true, [⟨0, 7, 0, 0, 0, [sheet7 0], []⟩], member [(K.sliceState 0, 3), (K.sliceState 1, 3), (K.sliceState 2, 3), (K.sliceState 3, 3)], (by decide +kernel), (by decide +kernel), (by decide +kernel), (by decide +kernel), (by decide +kernel), (by decide +kernel)⟩,
    ⟨_, order 2 3 true, lead [], rfl, (by decide +kernel), (by decide +kernel), (by decide +kernel), (by decide +kernel)⟩,
    ⟨2, member [], (by decide +kernel)⟩,
    ⟨_, order 2 3 true, handing 1 true, rfl, (by decide +kernel)⟩,
    ⟨order 2 3 true, handing 1 true, ⟨order 2 3 true, true, 1, 0⟩, (by decide +kernel), (by decide +kernel), (by decide +kernel), (by decide +kernel)⟩,
    ⟨order 2 3 false, handing 1 false, ⟨order 2 3 false, true, 1, 0⟩, (by decide +kernel), (by decide +kernel), (by decide +kernel)⟩,
    ⟨order 2 3 true, handing 4 true, ⟨order 2 3 true, true, 4, 0⟩, (by decide +kernel), (by decide +kernel), (by decide +kernel)⟩,
    ⟨order 3 2 true, { member [] with comp := { CompSt.reset with handoffs := [⟨order 3 2 true, false, 3, 0⟩] } }, ⟨order 3 2 true, false, 3, 0⟩, (rfl), (by decide +kernel), (by decide +kernel)⟩,
    ⟨order 3 2 true, { member [] with comp := { CompSt.reset with handoffs := [⟨order 3 2 true, false, 4, 0⟩] } }, ⟨order 3 2 true, false, 4, 0⟩, (rfl), (by decide +kernel), (by decide +kernel)⟩,
    ⟨order 2 3 true, member [], (by decide +kernel)⟩,
    ⟨order 2 3 true, { lead [] with herd := { (lead []).herd with leaving := [⟨2, 3, [order 2 3 false, order 2 3 true, { order 2 3 true with ream := 8 }]⟩] } }, _, (by decide +kernel), (rfl), (by decide +kernel)⟩,
    ⟨order 2 3 true, lead [], _, (by decide +kernel), rfl, (by decide +kernel)⟩,
    ⟨member [], (by decide +kernel)⟩,
    ⟨1, order 2 3 true, handing 4 true, ⟨order 2 3 true, true, 4, 0⟩, (by decide +kernel), (by decide +kernel), (by decide +kernel), (by decide +kernel)⟩,
    ⟨1, order 2 3 true, member [], (by decide +kernel), (by decide +kernel)⟩,
    ⟨2, member [], (by decide +kernel)⟩⟩

theorem witness_HealthIsReportedAndScored :
    (∃ (s : State), on s K.healthEnable = true ∧ isLead s = false ∧ has [2, 3, 5] (rd s K.membershipState) = true ∧ s.rel.reportAt + rd s K.healthReportNs ≤ now s) ∧
    (∃ (s : State), (on s K.healthEnable = false ∨ isLead s = true ∨ has [2, 3, 5] (rd s K.membershipState) = false ∨ now s < s.rel.reportAt + rd s K.healthReportNs)) ∧
    (∃ (src : Nat) (counts : List Nat) (u : Nat) (s t : State), isLead s = true ∧ (∃ e ∈ members s.herd.map, e.node = src) ∧ on s K.healthEnable = true ∧ t = { s with rel := { s.rel with reports := tset s.rel.reports src (now s), silent := terase s.rel.silent src } } ∧ (∀ n ∈ counts, n = 0) ∧ u = 0) ∧
    (∃ (src : Nat) (counts : List Nat) (u : Nat) (s t : State), isLead s = true ∧ (∃ e ∈ members s.herd.map, e.node = src) ∧ on s K.healthEnable = true ∧ t = { s with rel := { s.rel with reports := tset s.rel.reports src (now s), silent := terase s.rel.silent src } } ∧ ((∃ n ∈ counts, n ≠ 0) ∨ u ≠ 0)) ∧
    (∃ (src : Nat) (s : State), (isLead s = false ∨ (∀ e ∈ members s.herd.map, e.node ≠ src))) ∧
    (∃ (src : Nat) (s : State), isLead s = true ∧ (∃ e ∈ members s.herd.map, e.node = src) ∧ on s K.healthEnable = false) ∧
    (∃ (node k : Nat) (s t : State), isLead s = true ∧ on s K.healthEnable = true ∧ (∃ e ∈ members s.herd.map, e.node = node) ∧ k = tget s.rel.silent node 0 ∧ tget s.rel.reports node 0 + (k + 1) * rd s K.healthReportNs ≤ now s ∧ t = { s with rel := { s.rel with silent := tset s.rel.silent node (k + 1) } }) ∧
    (∃ (node k : Nat) (s : State), isLead s = true ∧ on s K.healthEnable = true ∧ (∃ e ∈ members s.herd.map, e.node = node) ∧ k = tget s.rel.silent node 0 ∧ now s < tget s.rel.reports node 0 + (k + 1) * rd s K.healthReportNs) ∧
    (∃ (node : Nat) (s : State), (isLead s = false ∨ on s K.healthEnable = false ∨ (∀ e ∈ members s.herd.map, e.node ≠ node))) ∧
    (∃ (s : State) (n v : Nat) (report : Bool), (report = true ∨ (rd s K.healthExpelBelow ≤ scoreOf s n ∧ v < rd s K.healthExpelBelow))) ∧
    (∃ (s : State) (n v : Nat) (report : Bool), report = false ∧ (scoreOf s n < rd s K.healthExpelBelow ∨ rd s K.healthExpelBelow ≤ v)) ∧
    (∃ (node : Nat) (neighbours : Bool) (s : State), isLead s = true ∧ on s K.healthEnable = true ∧ (∃ e ∈ members (plannedMap s), e.node = node) ∧ (neighbours = true ∨ rd s K.healthSilentReports ≤ tget s.rel.silent node 0)) ∧
    (∃ (node : Nat) (neighbours : Bool) (s : State), (isLead s = false ∨ on s K.healthEnable = false ∨ (∀ e ∈ members (plannedMap s), e.node ≠ node) ∨ (neighbours = false ∧ tget s.rel.silent node 0 < rd s K.healthSilentReports))) ∧
    (∃ (src : Nat) (s : State), src = leadNode s ∧ rd s K.membershipState = 7) ∧
    (∃ (src : Nat) (s : State), (src ≠ leadNode s ∨ rd s K.membershipState ≠ 7)) :=
  ⟨⟨at_ (member [(K.healthEnable, 1)]) 10000000 0, (by decide +kernel), (by decide +kernel), (by decide +kernel), (by decide +kernel)⟩,
    ⟨at_ (member []) 9999999 0, (by decide +kernel)⟩,
    ⟨2, [0, 0, 0, 0, 0, 0, 0], 0, lead [(K.healthEnable, 1)], _, (by decide +kernel), (by decide +kernel), (by decide +kernel), rfl, (by decide +kernel), (by decide +kernel)⟩,
    ⟨2, [0, 0, 0, 0, 0, 0, 1], 0, lead [(K.healthEnable, 1)], _, (by decide +kernel), (by decide +kernel), (by decide +kernel), rfl, (by decide +kernel)⟩,
    ⟨0, at_ (member [(K.healthEnable, 1)]) 10000000 0, (by decide +kernel)⟩,
    ⟨3, lead [(K.healthEnable, 0)], (by decide +kernel), (by decide +kernel), (by decide +kernel)⟩,
    ⟨2, 0, at_ (lead [(K.healthEnable, 1)]) 10000000 0, _, (by decide +kernel), (by decide +kernel), (by decide +kernel), (by decide +kernel), (by decide +kernel), rfl⟩,
    ⟨2, _, lead [(K.healthEnable, 1)], (by decide +kernel), (by decide +kernel), (by decide +kernel), rfl, (by decide +kernel)⟩,
    ⟨0, at_ (member [(K.healthEnable, 1)]) 10000000 0, (by decide +kernel)⟩,
    ⟨lead [], 3, 0, true, (.inl rfl)⟩,
    ⟨lead [], 3, 1000, false, (by decide +kernel), (.inr (by decide +kernel))⟩,
    ⟨2, true, lead [(K.healthEnable, 1)], (by decide +kernel), (by decide +kernel), (by decide +kernel), (by decide +kernel)⟩,
    ⟨0, false, at_ (member [(K.healthEnable, 1)]) 10000000 0, (by decide +kernel)⟩,
    ⟨1, herd [(K.membershipState, 7)], (by decide +kernel), (by decide +kernel)⟩,
    ⟨0, at_ (member [(K.healthEnable, 1)]) 10000000 0, (by decide +kernel)⟩⟩

theorem witness_JournalAndLostRanges :
    (∃ (src step : Nat) (toks l : List JournalTok) (s : State), (∃ e ∈ members s.herd.map, e.node = src) ∧ l = keepTails ((if step == 0 then [] else tget s.rel.jstore src []).filter (fun t => !toks.any (fun u => tokGroup u == tokGroup t && u.position == t.position)) ++ toks) ∧ on s K.journalEnable = true ∧ storeBytes (tset s.rel.jstore src l) ≤ journalBytes s) ∧
    (∃ (src step : Nat) (toks l : List JournalTok) (s : State), (∃ e ∈ members s.herd.map, e.node = src) ∧ l = keepTails ((if step == 0 then [] else tget s.rel.jstore src []).filter (fun t => !toks.any (fun u => tokGroup u == tokGroup t && u.position == t.position)) ++ toks) ∧ (on s K.journalEnable = false ∨ journalBytes s < storeBytes (tset s.rel.jstore src l))) ∧
    (∃ (src : Nat) (s : State), (∀ e ∈ members s.herd.map, e.node ≠ src)) ∧
    (∃ (src : Nat) (s : State), src ≠ rd s K.journalPartner) ∧
    (∃ (src step : Nat) (s : State) (m : _), src = rd s K.journalPartner ∧ s.rel.jmirrors.find? (fun m => m.1 == step) = some m) ∧
    (∃ (src step : Nat) (s : State), src = rd s K.journalPartner ∧ s.rel.jmirrors.find? (fun m => m.1 == step) = none) ∧
    (∃ (s : State) (m : Nat × Nat × Nat), s.rel.jmirrors.find? (fun m => passed s m.2.2 (rd s K.journalAckNs)) = some m) ∧
    (∃ (s : State), (∀ m ∈ s.rel.jmirrors, passed s m.2.2 (rd s K.journalAckNs) = false)) ∧
    (∃ (src : Nat) (s : State), src = myNode s) ∧
    (∃ (src : Nat) (s : State), src ≠ myNode s ∧ (∃ e ∈ s.herd.map, e.node = src)) ∧
    (∃ (src : Nat) (s : State), src ≠ myNode s ∧ (∀ e ∈ s.herd.map, e.node ≠ src)) ∧
    (∃ (src : Nat) (l : List LostRange) (s : State), src = leadNode s ∧ (∀ r ∈ l, ∀ p ∈ s.kv.sheets, p.2.tenant ≠ r.tenant ∨ p.2.ream ≠ r.ream)) ∧
    (∃ (src : Nat) (s : State), src ≠ leadNode s) ∧
    (∃ (src tail : Nat) (r : LostRange) (rest : List Nat) (s : State) (r' : _), src = leadNode s ∧ (s.kv.sheets.filter (fun p => p.2.tenant == r.tenant && p.2.ream == r.ream)).map (fun p => p.2.num) = tail :: rest ∧ beforeTail r.tenant r.ream (maxNat (tail :: rest)) r = some r') ∧
    (∃ (src tail : Nat) (r : LostRange) (rest : List Nat) (s : State), src = leadNode s ∧ (s.kv.sheets.filter (fun p => p.2.tenant == r.tenant && p.2.ream == r.ream)).map (fun p => p.2.num) = tail :: rest ∧ beforeTail r.tenant r.ream (maxNat (tail :: rest)) r = none) ∧
    (∃ (s : State), isLead s = true) ∧
    (∃ (src : Nat) (s : State), isLead s = false ∧ src = leadNode s) ∧
    (∃ (src : Nat) (s : State), isLead s = false ∧ src ≠ leadNode s) :=
  ⟨⟨2, 0, [], _, member [(K.journalEnable, 1)], (by decide +kernel), rfl, (by decide +kernel), (by decide +kernel)⟩,
    ⟨2, 0, [], _, member [], (by decide +kernel), rfl, (by decide +kernel)⟩,
    ⟨9, lead [], (by decide +kernel)⟩,
    ⟨2, member [(K.journalEnable, 1)], (by decide +kernel)⟩,
    ⟨rd (st []) K.journalPartner, 4, { at_ (st []) 0 0 with rel := { RelSt.reset with jmirrors := [(4, 1, 0)] } }, (4, 1, 0), (by decide +kernel), (by decide +kernel)⟩,
    ⟨_, 0, { at_ (st []) 0 66000 with rel := { RelSt.reset with jmirrors := [(4, 1, 0)] } }, rfl, (by decide +kernel)⟩,
    ⟨{ at_ (st []) 0 66000 with rel := { RelSt.reset with jmirrors := [(4, 1, 0)] } }, (4, 1, 0), (by decide +kernel)⟩,
    ⟨member [(K.journalEnable, 1)], (by decide +kernel)⟩,
    ⟨2, member [(K.journalEnable, 1)], (by decide +kernel)⟩,
    ⟨3, member [], (by decide +kernel), (by decide +kernel)⟩,
    ⟨0, { at_ (st []) 0 66000 with rel := { RelSt.reset with jmirrors := [(4, 1, 0)] } }, (by decide +kernel), (by decide +kernel)⟩,
    ⟨_, [], { at_ (st []) 0 66000 with rel := { RelSt.reset with jmirrors := [(4, 1, 0)] } }, rfl, (by decide +kernel)⟩,
    ⟨2, member [(K.journalEnable, 1)], (by decide +kernel)⟩,
    ⟨1, 0, ⟨0, 7, 0, 0, 0, 1⟩, [1], { member [] with kv := { KvSt.reset with sheets := [(key7, sheet7 0), (key7 + 1, sheet7 1)] } }, ⟨0, 7, 0, 0, 0, 0⟩, (by decide +kernel), (by decide +kernel), (by decide +kernel)⟩,
    ⟨1, 0, ⟨0, 7, 0, 0, 1, 1⟩, [1], { member [] with kv := { KvSt.reset with sheets := [(key7, sheet7 0), (key7 + 1, sheet7 1)] } }, (by decide +kernel), (by decide +kernel), (by decide +kernel)⟩,
    ⟨lead [], (by decide +kernel)⟩,
    ⟨_, { at_ (st []) 0 66000 with rel := { RelSt.reset with jmirrors := [(4, 1, 0)] } }, (by decide +kernel), rfl⟩,
    ⟨2, member [(K.journalEnable, 1)], (by decide +kernel), (by decide +kernel)⟩⟩

theorem witness_LinksTrainAndRetire :
    (∃ (link farOffer w : Nat) (s : State), w = min (widthOffer s link) farOffer ∧ (trains s link = true ∨ mayRetry s link = true) ∧ has [1, 2, 4, 8] w = true) ∧
    (∃ (link farOffer w : Nat) (s : State), w = min (widthOffer s link) farOffer ∧ ((trains s link = false ∧ mayRetry s link = false) ∨ has [1, 2, 4, 8] w = false)) ∧
    (∃ (link : Nat) (signal : Bool) (s t : State), trains s link = true ∧ passed s (linkSt s link).trainAt 100000 = true ∧ t = putLink (wr s (K.linkState link) 3) link { linkSt s link with width := 0 } ∧ ((linkSt s link).said = false ∨ (linkSt s link).width ≠ 0 ∨ signal = true)) ∧
    (∃ (link : Nat) (signal : Bool) (s t : State), trains s link = true ∧ passed s (linkSt s link).trainAt 100000 = true ∧ t = putLink (wr s (K.linkState link) 3) link { linkSt s link with width := 0 } ∧ (linkSt s link).said = true ∧ (linkSt s link).width = 0 ∧ signal = false) ∧
    (∃ (link : Nat) (s : State), (trains s link = false ∨ passed s (linkSt s link).trainAt 100000 = false)) ∧
    (∃ (link : Nat) (s : State), mayRetry s link = true) ∧
    (∃ (link : Nat) (s : State), mayRetry s link = false) ∧
    (∃ (link lane : Nat) (far up : Bool) (s t : State), link < 36 ∧ lane < 8 ∧ on s (K.linkEnable link) = true ∧ bitB (goodLanes s link) lane = true ∧ up = (rd s (K.linkState link) == 2 || (linkSt s link).held) ∧ (up = true ∨ (rd s (K.linkState link) = 1 ∧ far = true)) ∧ t = putLink s link { linkSt s link with flaps := (linkSt s link).flaps.filter (fun f => decide (minuteNow s < f.2 + 60)) ++ [(lane, minuteNow s)] } ∧ rd t K.laneFlapLimit ≤ flapCount t link lane) ∧
    (∃ (link lane : Nat) (far up : Bool) (s t : State), link < 36 ∧ lane < 8 ∧ on s (K.linkEnable link) = true ∧ bitB (goodLanes s link) lane = true ∧ up = (rd s (K.linkState link) == 2 || (linkSt s link).held) ∧ (up = true ∨ (rd s (K.linkState link) = 1 ∧ far = true)) ∧ t = putLink s link { linkSt s link with flaps := (linkSt s link).flaps.filter (fun f => decide (minuteNow s < f.2 + 60)) ++ [(lane, minuteNow s)] } ∧ flapCount t link lane < rd t K.laneFlapLimit) ∧
    (∃ (link lane : Nat) (far : Bool) (s : State), (36 ≤ link ∨ 8 ≤ lane ∨ on s (K.linkEnable link) = false ∨ bitB (goodLanes s link) lane = false ∨ (rd s (K.linkState link) ≠ 2 ∧ (linkSt s link).held = false ∧ (rd s (K.linkState link) ≠ 1 ∨ far = false)))) ∧
    (∃ (link : Nat) (s t : State), link < 36 ∧ t = putLink (emit s (.control link (linkBlockWord (linkBlockOf s link)))) link { linkSt s link with blockAt := some s.tm.ec } ∧ (rd s (K.linkState link) = 2 ∨ (linkSt s link).held = true) ∧ ((linkSt s link).blockAt = none ∨ ∃ e, (linkSt s link).blockAt = some e ∧ passed s e 1000000 = true)) ∧
    (∃ (link : Nat) (s t : State), link < 36 ∧ t = putLink (emit s (.control link (linkBlockWord (linkBlockOf s link)))) link { linkSt s link with blockAt := some s.tm.ec } ∧ trains s link = true ∧ (linkSt s link).held = false ∧ (linkSt s link).blockAt = none) ∧
    (∃ (link : Nat) (s : State), (36 ≤ link ∨ (trains s link = false ∧ rd s (K.linkState link) ≠ 2 ∧ (linkSt s link).held = false) ∨ (∃ e, (linkSt s link).blockAt = some e ∧ passed s e 1000000 = false))) ∧
    (∃ (link block : Nat) (b : LinkBlock) (up : Bool) (s t : State), blockOk 0x02 block = true ∧ b = linkBlockFrom block ∧ link < 36 ∧ up = (rd s (K.linkState link) == 2 || (linkSt s link).held) ∧ (trains s link = true ∨ up = true) ∧ t = putLink (wr (wr s (K.peerNode link) b.node) (K.peerLink link) b.link) link { linkSt s link with peerHerd := b.herdId }) ∧
    (∃ (link block : Nat) (s : State), (blockOk 0x02 block = false ∨ 36 ≤ link ∨ (trains s link = false ∧ rd s (K.linkState link) ≠ 2 ∧ (linkSt s link).held = false))) ∧
    (∃ (b : LinkBlock), b.node < 2 ^ 16 ∧ b.link < 2 ^ 8 ∧ b.herdId < 2 ^ 32 ∧ b.goodLanes < 2 ^ 8 ∧ b.widthOffer < 2 ^ 4) :=
  ⟨⟨35, 8, _, linked 35 1 0 LinkSt.reset, rfl, (by decide +kernel), (by decide +kernel)⟩,
    ⟨36, 0, _, st [], rfl, (by decide +kernel)⟩,
    ⟨35, false, linked 35 1 330000 { LinkSt.reset with said := false }, _, (by decide +kernel), (by decide +kernel), (rfl), (.inl rfl)⟩,
    ⟨35, _, linked 35 1 330000 { LinkSt.reset with said := true }, _, (by decide +kernel), (by decide +kernel), (rfl), (by decide +kernel), (by decide +kernel), rfl⟩,
    ⟨35, linked 35 1 0 LinkSt.reset, (by decide +kernel)⟩,
    ⟨35, linked 35 3 3300000 LinkSt.reset, (by decide +kernel)⟩,
    ⟨35, linked 35 1 0 LinkSt.reset, (by decide +kernel)⟩,
    ⟨35, 7, false, true, { linked 35 2 0 { LinkSt.reset with flaps := List.replicate 9 (7, 0) } with dict := [(K.linkEnable 35, 1), (K.linkState 35, 2), (K.laneFlapLimit, 10)] }, _, (by decide +kernel), (by decide +kernel), (by decide +kernel), (by decide +kernel), (by decide +kernel), (.inl rfl), (rfl), (by decide +kernel)⟩,
    ⟨35, 7, false, true, { linked 35 2 0 LinkSt.reset with dict := [(K.linkEnable 35, 1), (K.linkState 35, 2), (K.laneFlapLimit, 10)] }, _, (by decide +kernel), (by decide +kernel), (by decide +kernel), (by decide +kernel), (by decide +kernel), (.inl rfl), (rfl), (by decide +kernel)⟩,
    ⟨35, 0, false, linked 35 1 0 LinkSt.reset, (by decide +kernel)⟩,
    ⟨35, linked 35 2 0 LinkSt.reset, _, (by decide +kernel), (rfl), (.inl (by decide +kernel)), (.inl (by decide +kernel))⟩,
    ⟨35, linked 35 1 0 LinkSt.reset, _, (by decide +kernel), rfl, (by decide +kernel), (by decide +kernel), (by decide +kernel)⟩,
    ⟨36, st [], (by decide +kernel)⟩,
    ⟨35, linkBlockWord ⟨5, 0, 0, 255, 8⟩, _, true, linked 35 2 0 LinkSt.reset, _, (by decide +kernel), (rfl), (by decide +kernel), (by decide +kernel), (.inr rfl), (rfl)⟩,
    ⟨35, 0, linked 35 1 0 LinkSt.reset, (by decide +kernel)⟩,
    ⟨⟨5, 0, 0, 255, 8⟩, (by decide +kernel), (by decide +kernel), (by decide +kernel), (by decide +kernel), (by decide +kernel)⟩⟩

theorem witness_PacketsAreTakenOrDiscarded :
    (∃ (link c u : Nat) (flits : List (List Byte)) (p : Packet) (s t : State), link < 36 ∧ rd s (K.linkState link) = 2 ∧ (∀ f ∈ flits, flitOk f = true) ∧ p = packetFrom flits true ∧ framed flits = true ∧ badPacket p = false ∧ police (countFec s link c u) link p = (t, true)) ∧
    (∃ (link c u : Nat) (flits : List (List Byte)) (p : Packet) (s t : State), link < 36 ∧ rd s (K.linkState link) = 2 ∧ (∀ f ∈ flits, flitOk f = true) ∧ p = packetFrom flits true ∧ framed flits = true ∧ badPacket p = false ∧ police (countFec s link c u) link p = (t, false)) ∧
    (∃ (link : Nat) (flits : List (List Byte)) (s : State), link < 36 ∧ rd s (K.linkState link) = 2 ∧ (∀ f ∈ flits, flitOk f = true) ∧ (framed flits = false ∨ badPacket (packetFrom flits true) = true)) ∧
    (∃ (link c u k : Nat) (flits : List (List Byte)) (s t : State), link < 36 ∧ rd s (K.linkState link) = 2 ∧ flits.findIdx? (fun f => !flitOk f) = some k ∧ t = bump (countFec s link c u) (K.flitsDiscarded link) 1) ∧
    (∃ (link c u k : Nat) (flits : List (List Byte)) (s t : State), link < 36 ∧ rd s (K.linkState link) = 2 ∧ flits.findIdx? (fun f => !flitOk f) = some k ∧ t = bump (countFec s link c u) (K.flitsDiscarded link) 1 ∧ (k = 0 ∨ (packetFrom (flits.take (k + 1)) false).dst = myNode t ∨ (packetFrom (flits.take (k + 1)) false).dst = 0xFFFF)) ∧
    (∃ (link : Nat) (s : State), (36 ≤ link ∨ rd s (K.linkState link) ≠ 2)) ∧
    (∃ (p : Packet), p.dst = 0xFFFF) ∧
    (∃ (p : Packet) (s : State), p.dst ≠ 0xFFFF ∧ p.dst ≠ myNode s) ∧
    (∃ (p : Packet) (s : State), p.dst ≠ 0xFFFF ∧ p.dst = myNode s ∧ laneOn s p.vl = false) ∧
    (∃ (p : Packet) (s : State), p.dst ≠ 0xFFFF ∧ p.dst = myNode s ∧ laneOn s p.vl = true ∧ (p.kind = 8 ∨ p.kind = 9)) ∧
    (∃ (p : Packet) (s : State), p.dst ≠ 0xFFFF ∧ p.dst = myNode s ∧ laneOn s p.vl = true ∧ p.kind ≠ 8 ∧ p.kind ≠ 9) :=
  ⟨⟨35, 0, 0, [flit1], packet1, linked 35 2 0 LinkSt.reset, _, (by decide +kernel), (by decide +kernel), (List.forall_mem_singleton.mpr flit1_ok), (packet_flit1.symm), (framed1), (by decide +kernel), (pair_of (by decide +kernel))⟩,
    ⟨35, 0, 0, [flit1], packet1, { linked 35 2 0 LinkSt.reset with dict := [(K.linkEnable 35, 1), (K.linkState 35, 2), (K.trafficEnable, 1), (K.policeRateMbs 0 0, 1)], net := { NetSt.reset with links := [(35, LinkSt.reset)], buckets := [(35 * 64, (0, 0))] } }, _, (by decide +kernel), (by decide +kernel), (List.forall_mem_singleton.mpr flit1_ok), (packet_flit1.symm), (framed1), (by decide +kernel), (pair_of (by decide +kernel))⟩,
    ⟨35, [], linked 35 2 0 LinkSt.reset, (by decide +kernel), (by decide +kernel), (by decide +kernel), (by decide +kernel)⟩,
    ⟨35, 0, 0, 0, [[]], linked 35 2 0 LinkSt.reset, _, (by decide +kernel), (by decide +kernel), (by decide +kernel), (rfl)⟩,
    ⟨35, 0, 0, 0, [[]], linked 35 2 0 LinkSt.reset, _, (by decide +kernel), (by decide +kernel), (by decide +kernel), (rfl), (.inl rfl)⟩,
    ⟨36, st [], (by decide +kernel)⟩,
    ⟨{ packet1 with dst := 0xFFFF }, (rfl)⟩,
    ⟨packet1, linked 35 2 0 LinkSt.reset, (by decide +kernel), (by decide +kernel)⟩,
    ⟨packet1, st [(K.nodeNumber, 5)], (by decide +kernel), (by decide +kernel), (by decide +kernel)⟩,
    ⟨{ packet1 with kind := 9 }, st [(K.nodeNumber, 5), (K.transportEnable, 1)], (by decide +kernel), (by decide +kernel), (by decide +kernel), (.inr rfl)⟩,
    ⟨packet1, st [(K.nodeNumber, 5), (K.transportEnable, 1)], (by decide +kernel), (by decide +kernel), (by decide +kernel), (by decide +kernel), (by decide +kernel)⟩⟩

theorem witness_TransportTimersAct :
    (∃ (link : Nat), link < 36) ∧
    (∃ (link : Nat), 36 ≤ link) ∧
    (∃ (vl : Nat) (s : State), laneOn s vl = true) ∧
    (∃ (vl : Nat) (s : State), laneOn s vl = false) ∧
    (∃ (dst vl id packet : Nat) (s : State) (m : SMsg) (k : SPkt) (e : _), findMsg s dst vl id = some m ∧ k = nth m.pkts packet ⟨none, 0, true, false, false⟩ ∧ k.sentAt = some e ∧ k.acked = false ∧ k.waits = false ∧ m.nakAt = none ∧ passed s e (rd s K.rtoNs) = true ∧ k.tries < rd s K.retryLimit) ∧
    (∃ (dst vl id packet : Nat) (s : State) (m : SMsg) (k : SPkt) (e : _), findMsg s dst vl id = some m ∧ k = nth m.pkts packet ⟨none, 0, true, false, false⟩ ∧ k.sentAt = some e ∧ k.acked = false ∧ k.waits = false ∧ m.nakAt = none ∧ passed s e (rd s K.rtoNs) = true ∧ rd s K.retryLimit ≤ k.tries) ∧
    (∃ (dst vl id packet : Nat) (s : State) (m : SMsg) (k : SPkt), findMsg s dst vl id = some m ∧ k = nth m.pkts packet ⟨none, 0, true, false, false⟩ ∧ (k.sentAt = none ∨ k.acked = true ∨ k.waits = true ∨ m.nakAt ≠ none ∨ (∃ e, k.sentAt = some e ∧ passed s e (rd s K.rtoNs) = false))) ∧
    (∃ (dst vl id : Nat) (s : State) (m : SMsg) (e : _), findMsg s dst vl id = some m ∧ m.nakAt = some e ∧ passed s e (rd s K.rnrDelayNs) = true ∧ (∀ k ∈ m.pkts, k.tries < rd s K.retryLimit)) ∧
    (∃ (dst vl id : Nat) (s : State) (m : SMsg) (e : _), findMsg s dst vl id = some m ∧ m.nakAt = some e ∧ passed s e (rd s K.rnrDelayNs) = true ∧ (∃ k ∈ m.pkts, rd s K.retryLimit ≤ k.tries)) ∧
    (∃ (dst vl id : Nat) (s : State) (m : SMsg), findMsg s dst vl id = some m ∧ (∀ e, m.nakAt = some e → passed s e (rd s K.rnrDelayNs) = false)) ∧
    (∃ (dst vl id : Nat) (s : State), findMsg s dst vl id = none) ∧
    (∃ (src vl id : Nat) (s : State) (c : RCtx), findRctx s src vl id = some c ∧ c.unacked ≠ [] ∧ passed s c.ackFrom (rd s K.ackDelayNs) = true) ∧
    (∃ (src vl id : Nat) (s : State) (c : RCtx), findRctx s src vl id = some c ∧ (c.unacked = [] ∨ passed s c.ackFrom (rd s K.ackDelayNs) = false)) ∧
    (∃ (src vl id : Nat) (s : State) (c : RCtx), findRctx s src vl id = some c ∧ passed s c.openedAt (rd s K.reassemblyTimeoutNs) = true) ∧
    (∃ (src vl id : Nat) (s : State) (c : RCtx), findRctx s src vl id = some c ∧ passed s c.openedAt (rd s K.reassemblyTimeoutNs) = false) ∧
    (∃ (src vl id : Nat) (s : State), findRctx s src vl id = none) ∧
    (∃ (dst : Nat) (s : State), passed s (rateOf s dst).adjustedAt (rd s K.ccIntervalNs) = true ∧ (rateOf s dst).echo = true) ∧
    (∃ (dst : Nat) (s : State), passed s (rateOf s dst).adjustedAt (rd s K.ccIntervalNs) = true ∧ (rateOf s dst).echo = false) ∧
    (∃ (dst : Nat) (s : State), passed s (rateOf s dst).adjustedAt (rd s K.ccIntervalNs) = false) :=
  ⟨⟨35, (by decide +kernel)⟩,
    ⟨36, (Nat.le_refl _)⟩,
    ⟨7, st [(K.transportEnable, 1)], (by decide +kernel)⟩,
    ⟨9, st [], (by decide +kernel)⟩,
    ⟨1, 0, 0, 0, net { NetSt.reset with sends := [msg1 ⟨some 0, 0, false, false, false⟩ none] } (10 ^ 12), msg1 ⟨some 0, 0, false, false, false⟩ none, _, 0, (rfl), (rfl), (rfl), (by decide +kernel), (by decide +kernel), (by decide +kernel), (by decide +kernel), (by decide +kernel)⟩,
    ⟨1, 0, 0, 0, net { NetSt.reset with sends := [msg1 ⟨some 0, 99, false, false, false⟩ none] } (10 ^ 12), msg1 ⟨some 0, 99, false, false, false⟩ none, _, 0, (rfl), (rfl), (rfl), (by decide +kernel), (by decide +kernel), (by decide +kernel), (by decide +kernel), (by decide +kernel)⟩,
    ⟨1, 0, 0, 0, net { NetSt.reset with sends := [msg1 ⟨none, 6, false, true, false⟩ (some 0)] } 66000, msg1 ⟨none, 6, false, true, false⟩ (some 0), _, (by decide +kernel), rfl, (by decide +kernel)⟩,
    ⟨1, 0, 0, net { NetSt.reset with sends := [msg1 ⟨none, 6, false, true, false⟩ (some 0)] } 66000, msg1 ⟨none, 6, false, true, false⟩ (some 0), 0, (by decide +kernel), (by decide +kernel), (by decide +kernel), (by decide +kernel)⟩,
    ⟨1, 0, 0, net { NetSt.reset with sends := [msg1 ⟨none, 99, false, true, false⟩ (some 0)] } (10 ^ 12), msg1 ⟨none, 99, false, true, false⟩ (some 0), 0, (rfl), (by decide +kernel), (by decide +kernel), (by decide +kernel)⟩,
    ⟨1, 0, 0, net { NetSt.reset with sends := [msg1 ⟨none, 9, false, true, false⟩ none] } (10 ^ 12), msg1 ⟨none, 9, false, true, false⟩ none, (rfl), (fun _ h => nomatch h)⟩,
    ⟨0, 7, 0, st [(K.transportEnable, 1)], (by decide +kernel)⟩,
    ⟨1, 0, 0, net { NetSt.reset with rctxs := [rctx1] } 3300, rctx1, (by decide +kernel), (by decide +kernel), (by decide +kernel)⟩,
    ⟨1, 0, 0, net { NetSt.reset with rctxs := [rctx1] } 0, rctx1, (rfl), (.inr (by decide +kernel))⟩,
    ⟨1, 0, 0, net { NetSt.reset with rctxs := [rctx1] } 660000, rctx1, (by decide +kernel), (by decide +kernel)⟩,
    ⟨1, 0, 0, net { NetSt.reset with rctxs := [rctx1] } 3300, rctx1, (by decide +kernel), (by decide +kernel)⟩,
    ⟨0, 7, 0, st [(K.transportEnable, 1)], (by decide +kernel)⟩,
    ⟨1, net { NetSt.reset with rates := [(1, { Rate.reset with echo := true })] } 13200, (by decide +kernel), (by decide +kernel)⟩,
    ⟨1, net { NetSt.reset with sends := [msg1 ⟨none, 6, false, true, false⟩ (some 0)] } 66000, (by decide +kernel), (by decide +kernel)⟩,
    ⟨0, st [(K.transportEnable, 1)], (by decide +kernel)⟩⟩

theorem witness_HostPortEvents :
    (∃ (decoder : Nat) (s : State), decoder < 4 ∧ (∀ h, tget? s.host.hdm decoder = some h → h.lock = false)) ∧
    (∃ (decoder : Nat) (s : State), (4 ≤ decoder ∨ (∃ h, tget? s.host.hdm decoder = some h ∧ h.lock = true))) ∧
    (∃ (id : Nat) (s : State) (w : CWrite), tget? s.host.writes id = some w ∧ w.attempts < 3 ∧ linkUp s = true) ∧
    (∃ (id : Nat) (s : State) (w : CWrite), tget? s.host.writes id = some w ∧ (3 ≤ w.attempts ∨ linkUp s = false)) ∧
    (∃ (id : Nat) (s : State), tget? s.host.writes id = none) ∧
    (∃ (width : Nat) (s : State), has [4, 8, 16] width = true ∧ linkUp s = false) ∧
    (∃ (width : Nat) (s : State), (has [4, 8, 16] width = false ∨ linkUp s = true)) ∧
    (∃ (s : State), linkUp s = true) ∧
    (∃ (s : State), linkUp s = false) ∧
    (∃ (s t : State), t = (upFrom 0 64).foldl dropAreaWrites (if linkUp s then vatLost (wr (wr s K.cxlModeNow 0) K.linkWidth 0) else s)) ∧
    (∃ (s : State), linkUp s = false) ∧
    (∃ (vf : Nat) (s t : State), 1 ≤ vf ∧ vf ≤ 255 ∧ t = { s with dq := { s.dq with mbox := s.dq.mbox.filter (fun m => m.1 != vf) } }) ∧
    (∃ (vf : Nat), (vf = 0 ∨ 255 < vf)) ∧
    (∃ (s : State) (a : Nat) (p : _), p ∈ (dropAreaWrites s a).host.writes) :=
  ⟨⟨3, st [], (by decide +kernel), (by decide +kernel)⟩,
    ⟨3, { st [] with host := { HostSt.reset with hdm := [(3, ⟨0, 0, 0, true, true⟩)] } }, (by decide +kernel)⟩,
    ⟨1, { host [] with host := { HostSt.reset with writes := [(1, ⟨0, 64, 0, [], 2⟩)] } }, ⟨0, 64, 0, [], 2⟩, (by decide +kernel), (by decide +kernel), (by decide +kernel)⟩,
    ⟨1, { host [] with host := { HostSt.reset with writes := [(1, ⟨0, 64, 0, [], 3⟩)] } }, ⟨0, 64, 0, [], 3⟩, (by decide +kernel), (by decide +kernel)⟩,
    ⟨0, st [], (by decide +kernel)⟩,
    ⟨4, st [], (by decide +kernel), (by decide +kernel)⟩,
    ⟨0, st [], (by decide +kernel)⟩,
    ⟨{ host [] with host := { HostSt.reset with writes := [(1, ⟨0, 64, 0, [], 2⟩)] } }, (by decide +kernel)⟩,
    ⟨st [], (by decide +kernel)⟩,
    ⟨st [], _, rfl⟩,
    ⟨st [], (by decide +kernel)⟩,
    ⟨255, st [], _, (by decide +kernel), (by decide +kernel), (rfl)⟩,
    ⟨_, .inl rfl⟩,
    ⟨{ st [] with host := { HostSt.reset with writes := [(5, ⟨3, 0, 0, [], 0⟩)] } }, 0, (5, ⟨3, 0, 0, [], 0⟩), (.head _)⟩⟩

theorem witness_MailboxAnswers :
    (∃ (s : State), linkUp s = true ∧ inRecovery s = false) ∧
    (∃ (s : State), linkUp s = true ∧ inRecovery s = false) ∧
    (∃ (s : State), linkUp s = true ∧ inRecovery s = false) ∧
    (∃ (s : State), linkUp s = true ∧ inRecovery s = false) ∧
    (∃ (s : State), linkUp s = true ∧ inRecovery s = false) ∧
    (∃ (s : State) (log : _), linkUp s = true ∧ inRecovery s = false ∧ log ≠ 0) ∧
    (∃ (handles : List Nat) (s : State), linkUp s = true ∧ inRecovery s = false ∧ (∀ h ∈ handles, (tget? s.host.events h).isSome = true)) ∧
    (∃ (handles : List Nat) (s : State), linkUp s = true ∧ inRecovery s = false ∧ (∃ h ∈ handles, tget? s.host.events h = none)) ∧
    (∃ (fn : Nat) (s : State), linkUp s = true ∧ (fn ≠ 0 ∨ inRecovery s = true)) ∧
    (∃ (s : State), linkUp s = true) ∧
    (∃ (s : State), linkUp s = false) ∧
    (∃ (fn : Nat) (via : Via) (l : List Byte) (s t : State) (r : _), s.sec.held = false ∧ linkUp s = true ∧ 20 ≤ l.length ∧ l.length ≤ 1044 ∧ via = (if fn == 0 then Via.pf else .vf fn) ∧ t = takePdu s via (pduOf l) (fun s => servePdu s via (pduOf l)) ∧ newResponse t.out s.out.length = some r) ∧
    (∃ (fn : Nat) (via : Via) (l : List Byte) (s t : State), s.sec.held = false ∧ linkUp s = true ∧ 20 ≤ l.length ∧ l.length ≤ 1044 ∧ via = (if fn == 0 then Via.pf else .vf fn) ∧ t = takePdu s via (pduOf l) (fun s => servePdu s via (pduOf l)) ∧ newResponse t.out s.out.length = none) ∧
    (∃ (l : List Byte) (s : State), s.sec.held = false ∧ linkUp s = true ∧ (l.length < 20 ∨ 1044 < l.length)) ∧
    (∃ (s : State), s.sec.held = true) ∧
    (∃ (s : State) (fn : Nat) (via : Via) (r : Pdu), mailboxFn via = some fn ∧ (fn, r.transaction) ∈ s.dq.mbox) :=
  ⟨⟨host [], (by decide +kernel), (by decide +kernel)⟩,
    ⟨host [], (by decide +kernel), (by decide +kernel)⟩,
    ⟨host [], (by decide +kernel), (by decide +kernel)⟩,
    ⟨host [], (by decide +kernel), (by decide +kernel)⟩,
    ⟨host [], (by decide +kernel), (by decide +kernel)⟩,
    ⟨host [], 1, (by decide +kernel), (by decide +kernel), (by decide +kernel)⟩,
    ⟨[], host [], (by decide +kernel), (by decide +kernel), (by decide +kernel)⟩,
    ⟨[0], host [], (by decide +kernel), (by decide +kernel), (by decide +kernel)⟩,
    ⟨255, host [], (by decide +kernel), (by decide +kernel)⟩,
    ⟨host [], (by decide +kernel)⟩,
    ⟨st [], (by decide +kernel)⟩,
    ⟨0, .pf, List.replicate 20 0, host [], _, _, (by decide +kernel), (by decide +kernel), (by decide +kernel), (by decide +kernel), (rfl), (rfl), ((Option.some_get (by decide +kernel)).symm)⟩,
    ⟨0, .pf, pduWire (pdu 2 0x1010 1 [1]), host [], _, (by decide +kernel), (by decide +kernel), (by decide +kernel), (by decide +kernel), (rfl), (rfl), (by decide +kernel)⟩,
    ⟨[], host [], (by decide +kernel), (by decide +kernel), (by decide +kernel)⟩,
    ⟨{ st [] with sec := { SecSt.reset with held := true } }, (by decide +kernel)⟩,
    ⟨{ st [] with dq := { DictSt.reset with mbox := [(0, 1)] } }, 0, .pf, pdu 1 0x1000 1 [], (rfl), (.head _)⟩⟩

theorem witness_SecurityCommands :
    (∃ (index : Nat) (s : State), s.sec.held = false ∧ ((1 ≤ index ∧ index ≤ 10) ∨ index = 12)) ∧
    (∃ (index : Nat) (s : State), s.sec.held = false ∧ index = 11) ∧
    (∃ (index nonce : Nat) (s : State) (t r : _), s.sec.held = false ∧ index = 0x40 ∧ makeReport s 1 nonce = (t, r)) ∧
    (∃ (index : Nat) (s : State), s.sec.held = false ∧ (index = 0 ∨ (12 < index ∧ index ≠ 0x40))) ∧
    (∃ (s : State), s.sec.held = false ∧ inRecovery s = false ∧ s.host.doe.length < 4) ∧
    (∃ (s : State), s.sec.held = false ∧ inRecovery s = false ∧ 4 ≤ s.host.doe.length) ∧
    (∃ (key : Nat) (s : State), s.sec.held = false ∧ inRecovery s = false ∧ on s K.mgmtSessionEnable = true ∧ s.sessions.length < 4 ∧ (∀ i < 8, skKey (rd s (K.sessionKey i)) ≠ key ∨ skRights (rd s (K.sessionKey i)) = 0)) ∧
    (∃ (s : State), s.sec.held = false ∧ inRecovery s = false ∧ on s K.mgmtSessionEnable = true ∧ 4 ≤ s.sessions.length) ∧
    (∃ (doe : Bool) (s : State), (s.sec.held = true ∨ inRecovery s = true ∨ (doe = false ∧ on s K.mgmtSessionEnable = false))) ∧
    (∃ (n : Nat) (s : State) (x : _), tget? s.sessions n = some x ∧ passed s x.lastEc (rd s K.sessionIdleS * 1000000000) = true) ∧
    (∃ (n : Nat) (s : State), (∀ x, tget? s.sessions n = some x → passed s x.lastEc (rd s K.sessionIdleS * 1000000000) = false)) ∧
    (∃ (n : Nat) (s : State), (s.sec.held = true ∨ tget? s.sessions n = none)) ∧
    (∃ (s t : State) (r : List Byte), rd s K.attestState = 1 ∧ makeReport s 3 (rd s K.attestNonce) = (t, r)) ∧
    (∃ (s : State), rd s K.attestState ≠ 1) ∧
    (∃ (s t : State), t = wr s K.debugState 2 ∧ rd s K.lifecycle = 2 ∧ s.sec.held = false ∧ rd s K.debugState = 2) ∧
    (∃ (s t : State), t = wr s K.debugState 2 ∧ rd s K.lifecycle = 2 ∧ s.sec.held = false ∧ rd s K.debugState ≠ 2) ∧
    (∃ (s : State), (rd s K.lifecycle ≠ 2 ∨ s.sec.held = true)) ∧
    (∃ (s : State), s.sec.held = false ∧ (∀ sl < 4, rd s (K.sliceState sl) = 0)) ∧
    (∃ (s : State), (s.sec.held = true ∨ (∃ sl < 4, rd s (K.sliceState sl) ≠ 0))) ∧
    (∃ (session stream : Nat) (s : State), has s.host.doe session = true ∧ stream ≤ 1 ∧ bitB (rd s K.ideState) stream = false) ∧
    (∃ (session stream : Nat) (s : State), has s.host.doe session = true ∧ stream ≤ 1 ∧ bitB (rd s K.ideState) stream = true) ∧
    (∃ (session stream : Nat) (s : State), (has s.host.doe session = false ∨ 1 < stream)) :=
  ⟨⟨10, st [], (by decide +kernel), (by decide +kernel)⟩,
    ⟨_, st [], (by decide +kernel), rfl⟩,
    ⟨_, 0, st [], _, _, (by decide +kernel), rfl, rfl⟩,
    ⟨_, st [], (by decide +kernel), .inl rfl⟩,
    ⟨st [], (by decide +kernel), (by decide +kernel), (by decide +kernel)⟩,
    ⟨{ st [] with host := { HostSt.reset with doe := [1, 2, 3, 4] } }, (by decide +kernel), (by decide +kernel), (by decide +kernel)⟩,
    ⟨5, st [(K.mgmtSessionEnable, 1)], (by decide +kernel), (by decide +kernel), (by decide +kernel), (by decide +kernel), (by decide +kernel)⟩,
    ⟨{ st [(K.mgmtSessionEnable, 1)] with sessions := [(1, ⟨0, 2, 0⟩), (2, ⟨0, 2, 0⟩), (3, ⟨0, 2, 0⟩), (4, ⟨0, 2, 0⟩)] }, (by decide +kernel), (by decide +kernel), (by decide +kernel), (by decide +kernel)⟩,
    ⟨false, st [], (by decide +kernel)⟩,
    ⟨3, { at_ (st []) 0 (2 ^ 40) with sessions := [(3, ⟨0, 2, 0⟩)] }, ⟨0, 2, 0⟩, (by decide +kernel), (by decide +kernel)⟩,
    ⟨0, st [], (by decide +kernel)⟩,
    ⟨0, st [], (by decide +kernel)⟩,
    ⟨st [(K.attestState, 1)], _, _, (by decide +kernel), rfl⟩,
    ⟨st [], (by decide +kernel)⟩,
    ⟨st [(K.lifecycle, 2), (K.debugState, 2)], _, rfl, (by decide +kernel), (by decide +kernel), (by decide +kernel)⟩,
    ⟨st [(K.lifecycle, 2)], _, (rfl), (by decide +kernel), (by decide +kernel), (by decide +kernel)⟩,
    ⟨st [], (by decide +kernel)⟩,
    ⟨st [], (by decide +kernel), (by decide +kernel)⟩,
    ⟨{ st [] with sec := { SecSt.reset with held := true } }, (.inl rfl)⟩,
    ⟨0, 1, { st [] with host := { HostSt.reset with doe := [0] } }, (by decide +kernel), (by decide +kernel), (by decide +kernel)⟩,
    ⟨1, 1, { st [(K.ideState, 2)] with host := { HostSt.reset with doe := [1] } }, (by decide +kernel), (by decide +kernel), (by decide +kernel)⟩,
    ⟨0, 0, st [], (by decide +kernel)⟩⟩

theorem witness_FirmwareIsStagedVerifiedAndWritten :
    (∃ (s t : State) (r : Nat), rd s K.fwState = 2 ∧ imgReject s (stagedImage s) = r ∧ r ≠ 0 ∧ t = wr (wr s K.fwState 5) K.fwRejectReason r) ∧
    (∃ (s : State), rd s K.fwState ≠ 2) ∧
    (∃ (s : State) (h t : Nat), rd s K.fwState = 3 ∧ h = ofBytes ((stagedImage s).take 256) ∧ t = bits h 376 8) ∧
    (∃ (s : State), rd s K.fwState ≠ 3) ∧
    (∃ (s : State), rd s K.fwState = 1 ∧ passed s s.sec.wroteAt 10000000000 = true) ∧
    (∃ (s : State), (rd s K.fwState ≠ 1 ∨ passed s s.sec.wroteAt 10000000000 = false)) ∧
    (∃ (slice : Nat) (s : State), has s.sec.activating slice = true) ∧
    (∃ (slice : Nat) (s : State), has s.sec.activating slice = false) ∧
    (∃ (offset : Nat) (data : List Byte) (s t : State), linkUp s = true ∧ rd s K.fwState = 1 ∧ s.sec.owner = 3 ∧ t = wr (showStaged (fillBuf s (offset * 128) data)) K.fwLength (offset * 128 + data.length)) ∧
    (∃ (offset : Nat) (data : List Byte) (s t : State), linkUp s = true ∧ (bufTaken s = false ∨ (rd s K.fwState = 1 ∧ s.sec.owner = 3)) ∧ t = wr (showStaged (fillBuf (openBuf s 3) (offset * 128) data)) K.fwLength (offset * 128 + data.length)) ∧
    (∃ (s : State), linkUp s = true ∧ ¬(rd s K.fwState = 1 ∧ s.sec.owner = 3) ∧ bufTaken s = true) ∧
    (∃ (s : State), linkUp s = true ∧ ¬(rd s K.fwState = 1 ∧ s.sec.owner = 3)) ∧
    (∃ (s : State), linkUp s = true ∧ ¬(rd s K.fwState = 1 ∧ s.sec.owner = 3)) ∧
    (∃ (s : State), linkUp s = true ∧ ¬(rd s K.fwState = 1 ∧ s.sec.owner = 3)) ∧
    (∃ (s : State), linkUp s = false) ∧
    (∃ (fn : Nat) (s : State), linkUp s = true ∧ fn ≠ 0) ∧
    (∃ (slot : Nat) (s : State), linkUp s = true ∧ slot ≠ 1) ∧
    (∃ (action : Nat) (s : State), linkUp s = true ∧ 4 < action) ∧
    (∃ (s : State), linkUp s = true ∧ inRecovery s = true) ∧
    (∃ (action : Nat) (s : State), linkUp s = true ∧ inRecovery s = false ∧ action = 0) ∧
    (∃ (action : Nat) (s : State), linkUp s = true ∧ inRecovery s = false ∧ action = 1) ∧
    (∃ (action : Nat) (s : State), linkUp s = true ∧ inRecovery s = false ∧ 1 < action) :=
  ⟨⟨st [(K.fwState, 2)], _, 1, (by decide +kernel), (by decide +kernel), (by decide +kernel), rfl⟩,
    ⟨st [], (by decide +kernel)⟩,
    ⟨st [(K.fwState, 3)], _, _, (by decide +kernel), rfl, rfl⟩,
    ⟨st [(K.fwState, 2)], (by decide +kernel)⟩,
    ⟨at_ (st [(K.fwState, 1)]) 0 33000000000, (by decide +kernel), (by decide +kernel)⟩,
    ⟨st [(K.fwState, 2)], (by decide +kernel)⟩,
    ⟨3, { st [] with sec := { SecSt.reset with activating := [3] } }, (by decide +kernel)⟩,
    ⟨0, st [(K.fwState, 2)], (by decide +kernel)⟩,
    ⟨0, [], { host [(K.fwState, 1)] with sec := { SecSt.reset with owner := 3 } }, _, (by decide +kernel), (by decide +kernel), (by decide +kernel), rfl⟩,
    ⟨0, [], { host [(K.fwState, 1)] with sec := { SecSt.reset with owner := 3 } }, _, (by decide +kernel), (by decide +kernel), rfl⟩,
    ⟨host [(K.fwState, 1)], (by decide +kernel), (by decide +kernel), (by decide +kernel)⟩,
    ⟨host [(K.fwState, 1)], (by decide +kernel), (by decide +kernel)⟩,
    ⟨host [(K.fwState, 1)], (by decide +kernel), (by decide +kernel)⟩,
    ⟨host [(K.fwState, 1)], (by decide +kernel), (by decide +kernel)⟩,
    ⟨st [(K.fwState, 2)], (by decide +kernel)⟩,
    ⟨255, host [], (by decide +kernel), (by decide +kernel)⟩,
    ⟨0, { host [(K.fwState, 1)] with sec := { SecSt.reset with owner := 3 } }, (by decide +kernel), (by decide +kernel)⟩,
    ⟨5, host [], (by decide +kernel), (by decide +kernel)⟩,
    ⟨host [(K.nodeStartState, 5)], (by decide +kernel), (by decide +kernel)⟩,
    ⟨_, { host [(K.fwState, 1)] with sec := { SecSt.reset with owner := 3 } }, (by decide +kernel), (by decide +kernel), rfl⟩,
    ⟨_, { host [(K.fwState, 1)] with sec := { SecSt.reset with owner := 3 } }, (by decide +kernel), (by decide +kernel), rfl⟩,
    ⟨2, host [], (by decide +kernel), (by decide +kernel), (by decide +kernel)⟩⟩

theorem witness_ExtentsAreCreatedRevokedAndCleared :
    (∃ (w : WReq) (s : State) (i r : Nat), Allowed s w 0x7100 0x12 ∧ i = rd s K.extentSelect ∧ r = rd s K.extentEntry ∧ firstFail (createFails s i r) = none) ∧
    (∃ (w : WReq) (s : State) (i r : Nat) (c k : _), Allowed s w 0x7100 0x12 ∧ i = rd s K.extentSelect ∧ r = rd s K.extentEntry ∧ firstFail (createFails s i r) = some (c, k)) ∧
    (∃ (w : WReq) (s : State) (i r : Nat), Allowed s w 0x7100 0x12 ∧ i = rd s K.extentSelect ∧ r = rd s K.extentEntry ∧ firstFail (setGrantsFails s i r) = none) ∧
    (∃ (w : WReq) (s : State) (i r : Nat) (c k : _), Allowed s w 0x7100 0x12 ∧ i = rd s K.extentSelect ∧ r = rd s K.extentEntry ∧ firstFail (setGrantsFails s i r) = some (c, k)) ∧
    (∃ (w : WReq) (s : State) (i r : Nat), Allowed s w 0x7100 0x12 ∧ i = rd s K.extentSelect ∧ r = rd s K.extentEntry) ∧
    (∃ (s : State) (i : Nat) (e : Extent), extentAt s i = some e ∧ e.state = 1) ∧
    (∃ (s : State) (i : Nat), (∀ e, extentAt s i = some e → e.state ≠ 1)) ∧
    (∃ (x : Nat) (s t : State) (e : Extent) (m : _), extentAt s x = some e ∧ e.state = 2 ∧ drainOver s e none e.since = true ∧ t = putExtent s x { e with state := 3, drains := [] } ∧ t.mem.maps.find? (fun m => m.holder == .extent x) = some m) ∧
    (∃ (x : Nat) (s t : State) (e : Extent), extentAt s x = some e ∧ e.state = 2 ∧ drainOver s e none e.since = true ∧ t = putExtent s x { e with state := 3, drains := [] } ∧ t.mem.maps.find? (fun m => m.holder == .extent x) = none) ∧
    (∃ (x : Nat) (s : State) (e : Extent), extentAt s x = some e ∧ e.state = 2 ∧ drainOver s e none e.since = false) ∧
    (∃ (x : Nat) (s : State) (e : Extent), extentAt s x = some e ∧ e.state ≠ 2) ∧
    (∃ (x : Nat) (s : State), extentAt s x = none) ∧
    (∃ (c : Nat) (s t : State), (∃ h ∈ s.holds, h.kind = .clearing ∧ h.id = c) ∧ t = { s with holds := s.holds.filter (fun h => !(h.kind == .clearing && h.id == c)), comp := { s.comp with extents := s.comp.extents.filter (fun p => !(p.2.state == 3 && p.2.clr == c)) } }) ∧
    (∃ (c : Nat) (s : State), (∀ h ∈ s.holds, h.kind = .clearing → h.id ≠ c)) ∧
    (∃ (tenant x : Nat) (s t u : State), tget? s.comp.tleases tenant = some x ∧ x ≤ now s ∧ t = { s with comp := { s.comp with tleases := terase s.comp.tleases tenant } } ∧ u = t.comp.extents.foldl (fun v p => (upFrom 0 8).foldl (fun a k => if p.2.state == 1 && gValid (nth p.2.grants k 0) && gLeased (nth p.2.grants k 0) && gTenant (nth p.2.grants k 0) == tenant && !p.2.drains.any (fun d => d.grant == k && d.rights == 3) then revokeGrant a p.1 k 3 0 else a) v) t) ∧
    (∃ (tenant : Nat) (s : State), (∀ x, tget? s.comp.tleases tenant = some x → now s < x)) :=
  ⟨⟨pf, st [(K.extentEnable, 1), (K.tenantEnable 0, 1), (K.sliceState 0, 1), (K.hostVisibleGib, 1), (K.extentEntry, fields [(160, 16), (148, 1), (0, 11)])], _, _, (by decide +kernel), rfl, rfl, (by decide +kernel)⟩,
    ⟨pf, comp (st [(K.extentEnable, 1), (K.tenantEnable 0, 1), (K.sliceState 0, 1), (K.hostVisibleGib, 1), (K.extentEntry, fields [(160, 16), (148, 1), (0, 11)])]) { CompSt.reset with extents := [(0, extent1 1 1)] }, _, _, _, _, (by decide +kernel), rfl, rfl, rfl⟩,
    ⟨pf, comp (st [(K.extentEnable, 1), (K.tenantEnable 0, 1), (K.sliceState 0, 1), (K.hostVisibleGib, 1), (K.extentEntry, fields [(160, 16), (148, 1), (0, 11)])]) { CompSt.reset with extents := [(0, extent1 1 1)] }, _, _, (by decide +kernel), rfl, rfl, (by decide +kernel)⟩,
    ⟨pf, st [(K.extentEnable, 1), (K.tenantEnable 0, 1), (K.sliceState 0, 1), (K.hostVisibleGib, 1), (K.extentEntry, fields [(160, 16), (148, 1), (0, 11)])], _, _, _, _, (by decide +kernel), rfl, rfl, rfl⟩,
    ⟨pf, st [(K.extentEnable, 1), (K.tenantEnable 0, 1), (K.sliceState 0, 1), (K.hostVisibleGib, 1), (K.extentEntry, fields [(160, 16), (148, 1), (0, 11)])], _, _, (by decide +kernel), rfl, rfl⟩,
    ⟨comp (st [(K.extentEnable, 1), (K.tenantEnable 0, 1), (K.sliceState 0, 1), (K.hostVisibleGib, 1), (K.extentEntry, fields [(160, 16), (148, 1), (0, 11)])]) { CompSt.reset with extents := [(0, extent1 1 1)] }, 0, _, rfl, (by decide +kernel)⟩,
    ⟨st [(K.extentEnable, 1), (K.tenantEnable 0, 1), (K.sliceState 0, 1), (K.hostVisibleGib, 1), (K.extentEntry, fields [(160, 16), (148, 1), (0, 11)])], 0, (by decide +kernel)⟩,
    ⟨0, { comp (st []) { CompSt.reset with extents := [(0, extent1 2 1)] } with mem := { MemSt.reset with maps := [⟨0, 16, .extent 0, 0, 0, [], false⟩] } }, _, extent1 2 1, ⟨0, 16, .extent 0, 0, 0, [], false⟩, (by decide +kernel), (by decide +kernel), (by decide +kernel), rfl, (by decide +kernel)⟩,
    ⟨0, comp (st []) { CompSt.reset with extents := [(0, extent1 2 1)] }, _, extent1 2 1, (rfl), (by decide +kernel), (by decide +kernel), (rfl), (by decide +kernel)⟩,
    ⟨0, { comp (st []) { CompSt.reset with extents := [(0, extent1 2 1)] } with att := { AttSt.reset with taken := [{ tick query7 with fabric := false }] } }, extent1 2 1, (by decide +kernel), (by decide +kernel), (by decide +kernel)⟩,
    ⟨0, comp (st [(K.extentEnable, 1), (K.tenantEnable 0, 1), (K.sliceState 0, 1), (K.hostVisibleGib, 1), (K.extentEntry, fields [(160, 16), (148, 1), (0, 11)])]) { CompSt.reset with extents := [(0, extent1 1 1)] }, _, rfl, (by decide +kernel)⟩,
    ⟨0, st [(K.extentEnable, 1), (K.tenantEnable 0, 1), (K.sliceState 0, 1), (K.hostVisibleGib, 1), (K.extentEntry, fields [(160, 16), (148, 1), (0, 11)])], (by decide +kernel)⟩,
    ⟨3, { st [] with holds := [⟨.clearing, 3, 0, 65536⟩] }, _, (by decide +kernel), rfl⟩,
    ⟨0, st [(K.extentEnable, 1), (K.tenantEnable 0, 1), (K.sliceState 0, 1), (K.hostVisibleGib, 1), (K.extentEntry, fields [(160, 16), (148, 1), (0, 11)])], (by decide +kernel)⟩,
    ⟨255, 5, at_ (comp (st []) { CompSt.reset with tleases := [(255, 5)] }) 5 0, _, _, (by decide +kernel), (by decide +kernel), rfl, rfl⟩,
    ⟨0, st [(K.extentEnable, 1), (K.tenantEnable 0, 1), (K.sliceState 0, 1), (K.hostVisibleGib, 1), (K.extentEntry, fields [(160, 16), (148, 1), (0, 11)])], (by decide +kernel)⟩⟩

theorem witness_ShareTicketsGoToTheLead :
    (∃ (k : Nat) (c : Instr) (s : State), (k, c) ∈ ([(0xA, .open), (0xB, .close), (0xC, .publish), (0xD, .renew)] : List (Nat × Instr)) ∧ takeHead s k = none) ∧
    (∃ (s t u : State) (tk : Tk), takeHead s 0xD = some (tk, t) ∧ u = renewLease t (tkTenant tk.raw) ∧ (tget? t.comp.tleases (tkTenant tk.raw)).isSome = true) ∧
    (∃ (s t u : State) (tk : Tk), takeHead s 0xD = some (tk, t) ∧ u = renewLease t (tkTenant tk.raw) ∧ tget? t.comp.tleases (tkTenant tk.raw) = none) ∧
    (∃ (s t : State) (tk : Tk) (c : Nat), takeHead s 0xA = some (tk, t) ∧ areaTest t (tkTenant tk.raw) (sResult tk.raw) 32 32 2 = c ∧ c = 0 ∧ t.comp.opens.length < rd t K.opensMax) ∧
    (∃ (s t : State) (tk : Tk) (c : Nat), takeHead s 0xA = some (tk, t) ∧ areaTest t (tkTenant tk.raw) (sResult tk.raw) 32 32 2 = c ∧ c = 0 ∧ rd t K.opensMax ≤ t.comp.opens.length) ∧
    (∃ (s t : State) (tk : Tk) (c : Nat), takeHead s 0xA = some (tk, t) ∧ areaTest t (tkTenant tk.raw) (sResult tk.raw) 32 32 2 = c ∧ c ≠ 0) ∧
    (∃ (s t : State) (tk : Tk), takeHead s 0xB = some (tk, t)) ∧
    (∃ (s t : State) (tk : Tk), takeHead s 0xC = some (tk, t) ∧ sKind tk.raw = 0) ∧
    (∃ (s t : State) (tk : Tk), takeHead s 0xC = some (tk, t) ∧ 2 < sKind tk.raw) ∧
    (∃ (s t : State) (tk : Tk) (e : Extent) (c : Nat), takeHead s 0xC = some (tk, t) ∧ sKind tk.raw = 1 ∧ publishTest t (sObject tk.raw) (tkTenant tk.raw) = c ∧ c = 0 ∧ extentAt t (sObject tk.raw) = some e) ∧
    (∃ (s t : State) (tk : Tk) (c : Nat), takeHead s 0xC = some (tk, t) ∧ sKind tk.raw = 1 ∧ publishTest t (sObject tk.raw) (tkTenant tk.raw) = c ∧ c ≠ 0) ∧
    (∃ (s t u : State) (tk : Tk) (home : Option Nat), takeHead s 0xC = some (tk, t) ∧ sKind tk.raw = 2 ∧ homeOf t tk.slice (tkTenant tk.raw) (sObject tk.raw) = (u, home) ∧ home = none) ∧
    (∃ (s t u : State) (tk : Tk) (home : Option Nat) (h : _), takeHead s 0xC = some (tk, t) ∧ sKind tk.raw = 2 ∧ homeOf t tk.slice (tkTenant tk.raw) (sObject tk.raw) = (u, home) ∧ home = some h ∧ h ≠ myNode u) ∧
    (∃ (s t u : State) (tk : Tk) (home : Option Nat), takeHead s 0xC = some (tk, t) ∧ sKind tk.raw = 2 ∧ homeOf t tk.slice (tkTenant tk.raw) (sObject tk.raw) = (u, home) ∧ home = some (myNode u) ∧ knownReam u (tkTenant tk.raw) (sObject tk.raw) = none) ∧
    (∃ (s t u : State) (tk : Tk) (home : Option Nat) (m : _), takeHead s 0xC = some (tk, t) ∧ sKind tk.raw = 2 ∧ homeOf t tk.slice (tkTenant tk.raw) (sObject tk.raw) = (u, home) ∧ home = some (myNode u) ∧ knownReam u (tkTenant tk.raw) (sObject tk.raw) = some m ∧ (m.retiredSet = true ∨ m.preempted = true)) ∧
    (∃ (s t u : State) (tk : Tk) (home : Option Nat) (m : _), takeHead s 0xC = some (tk, t) ∧ sKind tk.raw = 2 ∧ homeOf t tk.slice (tkTenant tk.raw) (sObject tk.raw) = (u, home) ∧ home = some (myNode u) ∧ knownReam u (tkTenant tk.raw) (sObject tk.raw) = some m ∧ m.retiredSet = false ∧ m.preempted = false) ∧
    (∃ (m : ShareMsg) (s t : State) (st n : Nat) (v : Option Version) (w : Version), orderShare s m = (t, st, n, v) ∧ w = v.getD { num := 0, kind := 0, object := 0, node := 0, base := 0, opens := [] } ∧ isLead s = true) ∧
    (∃ (m : ShareMsg) (s t : State) (st n : Nat) (v : Option Version) (w : Version), orderShare s m = (t, st, n, v) ∧ w = v.getD { num := 0, kind := 0, object := 0, node := 0, base := 0, opens := [] } ∧ isLead s = false) ∧
    (∃ (a : ShareAns) (s : State), s.comp.asks.find? (fun t => tkId t.raw == a.ticketId && tkTenant t.raw == a.tenant) = none) ∧
    (∃ (a : ShareAns) (s t : State) (tk : Tk) (o : Nat × Nat × Nat), s.comp.asks.find? (fun t => tkId t.raw == a.ticketId && tkTenant t.raw == a.tenant) = some tk ∧ t = { s with comp := { s.comp with asks := s.comp.asks.filter (fun t => t.id != tk.id) } } ∧ o = (tkTenant tk.raw, sShare tk.raw, a.count) ∧ ((tkType tk.raw ≠ 0xA ∧ tkType tk.raw ≠ 0xB) ∨ (tkType tk.raw = 0xA ∧ a.status ≠ St.ok) ∨ (tkType tk.raw = 0xB ∧ a.status ≠ St.ok))) ∧
    (∃ (a : ShareAns) (s t : State) (tk : Tk) (o : Nat × Nat × Nat), s.comp.asks.find? (fun t => tkId t.raw == a.ticketId && tkTenant t.raw == a.tenant) = some tk ∧ t = { s with comp := { s.comp with asks := s.comp.asks.filter (fun t => t.id != tk.id) } } ∧ o = (tkTenant tk.raw, sShare tk.raw, a.count) ∧ tkType tk.raw = 0xA ∧ a.status = St.ok ∧ has t.att.dead tk.id = true) ∧
    (∃ (a : ShareAns) (s t : State) (tk : Tk) (o : Nat × Nat × Nat), s.comp.asks.find? (fun t => tkId t.raw == a.ticketId && tkTenant t.raw == a.tenant) = some tk ∧ t = { s with comp := { s.comp with asks := s.comp.asks.filter (fun t => t.id != tk.id) } } ∧ o = (tkTenant tk.raw, sShare tk.raw, a.count) ∧ tkType tk.raw = 0xA ∧ a.status = St.ok ∧ has t.att.dead tk.id = false) ∧
    (∃ (a : ShareAns) (s t : State) (tk : Tk) (o : Nat × Nat × Nat), s.comp.asks.find? (fun t => tkId t.raw == a.ticketId && tkTenant t.raw == a.tenant) = some tk ∧ t = { s with comp := { s.comp with asks := s.comp.asks.filter (fun t => t.id != tk.id) } } ∧ o = (tkTenant tk.raw, sShare tk.raw, a.count) ∧ tkType tk.raw = 0xB ∧ a.status = St.ok) ∧
    (∃ (object : Nat) (s : State) (e : _), extentAt s object = some e ∧ e.kind = 2) ∧
    (∃ (object : Nat) (s : State), (∀ e, extentAt s object = some e → e.kind ≠ 2)) ∧
    (∃ (kind : Nat), kind ≠ 1) :=
  ⟨⟨0xD, .renew, st [], (by simp), (by decide +kernel)⟩,
    ⟨comp (took [] (fields [(32, 0xD)])) { CompSt.reset with tleases := [(0, 5)] }, _, _, _, rfl, rfl, (by decide +kernel)⟩,
    ⟨took [] (fields [(32, 0xD)]), _, _, _, (take_head rfl (by decide +kernel)), (rfl), (by decide +kernel)⟩,
    ⟨blocks (took [] (fields [(32, 0xA)])) 0 1, _, _, _, rfl, rfl, (by decide +kernel), (by decide +kernel)⟩,
    ⟨blocks (took [(K.opensMax, 0)] (fields [(32, 0xA)])) 0 1, _, _, _, rfl, rfl, (by decide +kernel), (by decide +kernel)⟩,
    ⟨took [] (fields [(32, 0xA)]), _, _, 0x11, (take_head rfl (by decide +kernel)), (by decide +kernel), (by decide +kernel)⟩,
    ⟨took [] (fields [(32, 0xB)]), _, _, rfl⟩,
    ⟨took [] (fields [(32, 0xC)]), _, _, rfl, (by decide +kernel)⟩,
    ⟨took [] (fields [(32, 0xC), (416, 3)]), _, _, (take_head rfl (by decide +kernel)), (by decide +kernel)⟩,
    ⟨{ took [] (fields [(32, 0xC), (416, 1)]) with comp := { CompSt.reset with extents := [(0, extent1 1 1)] } }, _, _, extent1 1 1, 0, (take_head rfl (by decide +kernel)), (by decide +kernel), (by decide +kernel), (by decide +kernel), (by decide +kernel)⟩,
    ⟨took [] (fields [(32, 0xC), (416, 1)]), _, _, 0x11, (take_head rfl (by decide +kernel)), (by decide +kernel), (by decide +kernel), (by decide +kernel)⟩,
    ⟨took [] (fields [(32, 0xC), (416, 2), (384, 7)]), _, _, _, _, (take_head rfl (by decide +kernel)), (by decide +kernel), (pair _), (by decide +kernel)⟩,
    ⟨{ took [(K.nodeNumber, 6)] (fields [(32, 0xC), (416, 2), (384, 7)]) with dirs := [reamEnt] }, _, _, _, _, 5, (take_head rfl (by decide +kernel)), (by decide +kernel), (pair _), (by decide +kernel), (by decide +kernel)⟩,
    ⟨{ took [(K.nodeNumber, 5)] (fields [(32, 0xC), (416, 2), (384, 7)]) with dirs := [{ reamEnt with care := reamEnt.care / 2 ^ 60 * 2 ^ 60 }] }, _, _, _, _, (take_head rfl (by decide +kernel)), (by decide +kernel), (pair _), (by decide +kernel), (by decide +kernel)⟩,
    ⟨home (took [] (fields [(32, 0xC), (416, 2), (384, 7)])) { ream7 with preempted := true }, _, _, _, _, _, (take_head rfl (by decide +kernel)), (by decide +kernel), (pair _), (by decide +kernel), (rfl), (.inr rfl)⟩,
    ⟨home (took [] (fields [(32, 0xC), (416, 2), (384, 7)])) ream7, _, _, _, _, _, (take_head rfl (by decide +kernel)), (by decide +kernel), (pair _), (by decide +kernel), (rfl), (by decide +kernel), (by decide +kernel)⟩,
    ⟨⟨2, 0xA, 0, 0, 9, 0, 0, 0, 0, 0⟩, lead [], _, _, _, _, _, rfl, rfl, (by decide +kernel)⟩,
    ⟨⟨2, 0xA, 0, 0, 9, 0, 0, 0, 0, 0⟩, comp (took [] (fields [(32, 0xD)])) { CompSt.reset with tleases := [(0, 5)] }, _, _, _, _, _, rfl, rfl, (by decide +kernel)⟩,
    ⟨⟨0, 0, St.ok, 1, 1, 0, 5, 0⟩, comp (took [] (fields [(32, 0xD)])) { CompSt.reset with tleases := [(0, 5)] }, (by decide +kernel)⟩,
    ⟨⟨0, 0, St.ok, 1, 1, 0, 5, 0⟩, comp (st []) { CompSt.reset with asks := [tick (fields [(32, 0xC)])] }, _, tick (fields [(32, 0xC)]), _, (by decide +kernel), rfl, rfl, (by decide +kernel)⟩,
    ⟨⟨0, 0, St.ok, 1, 1, 0, 5, 0⟩, { comp (st []) { CompSt.reset with asks := [tick (fields [(32, 0xA)])] } with att := { AttSt.reset with dead := [1] } }, _, tick (fields [(32, 0xA)]), _, (rfl), (rfl), (rfl), (by decide +kernel), (by decide +kernel), (by decide +kernel)⟩,
    ⟨⟨0, 0, St.ok, 1, 1, 0, 5, 0⟩, comp (st []) { CompSt.reset with asks := [tick (fields [(32, 0xA)])] }, _, tick (fields [(32, 0xA)]), _, (by decide +kernel), rfl, rfl, (by decide +kernel), (by decide +kernel), (by decide +kernel)⟩,
    ⟨⟨0, 0, St.ok, 1, 1, 0, 5, 0⟩, { comp (st []) { CompSt.reset with asks := [tick (fields [(32, 0xB)])] } with att := { AttSt.reset with dead := [] } }, _, tick (fields [(32, 0xB)]), _, (rfl), (rfl), (rfl), (by decide +kernel), (by decide +kernel)⟩,
    ⟨0, comp (st []) { CompSt.reset with extents := [(0, extent1 1 2)] }, extent1 1 2, (by decide +kernel), (by decide +kernel)⟩,
    ⟨0, comp (took [] (fields [(32, 0xD)])) { CompSt.reset with tleases := [(0, 5)] }, (by decide +kernel)⟩,
    ⟨0, (by decide +kernel)⟩⟩

theorem witness_PoolLeasesAreGrantedAndEnded :
    (∃ (w : WReq) (mib : Nat) (s : State), Allowed s w 0x7110 5 ∧ mib < 2 ^ 32 ∧ on s K.poolEnable = true ∧ mib % 256 = 0 ∧ 256 ≤ mib ∧ mib ≤ 262144) ∧
    (∃ (w : WReq) (mib : Nat) (s : State), Allowed s w 0x7110 5 ∧ mib < 2 ^ 32 ∧ on s K.poolEnable = false) ∧
    (∃ (w : WReq) (mib : Nat) (s : State), Allowed s w 0x7110 5 ∧ mib < 2 ^ 32 ∧ on s K.poolEnable = true ∧ (mib % 256 ≠ 0 ∨ mib < 256 ∨ 262144 < mib)) ∧
    (∃ (w : WReq) (lease : Nat) (s : State), Allowed s w 0x7110 6 ∧ lease < 2 ^ 32 ∧ (∃ h ∈ s.comp.held, h.id = lease)) ∧
    (∃ (w : WReq) (lease : Nat) (s : State), Allowed s w 0x7110 6 ∧ lease < 2 ^ 32 ∧ (∀ h ∈ s.comp.held, h.id ≠ lease)) ∧
    (∃ (mib : Nat) (s t : State) (b : _), isLead s = true ∧ t = reapLeases s ∧ on t K.poolEnable = true ∧ lowestRun t mib = some b) ∧
    (∃ (mib : Nat) (s t : State), isLead s = true ∧ t = reapLeases s ∧ (on t K.poolEnable = false ∨ lowestRun t mib = none)) ∧
    (∃ (s : State), isLead s = false) ∧
    (∃ (g : PoolGrant) (s : State), (∃ h ∈ s.comp.held, h.id = g.id) ∧ g.granted = true) ∧
    (∃ (g : PoolGrant) (s t : State), ((∀ h ∈ s.comp.held, h.id ≠ g.id) ∨ g.granted = false) ∧ t = { s with comp := { s.comp with poolAsk := 0 } } ∧ s.comp.poolAsk = 0) ∧
    (∃ (g : PoolGrant) (s t : State), ((∀ h ∈ s.comp.held, h.id ≠ g.id) ∨ g.granted = false) ∧ t = { s with comp := { s.comp with poolAsk := 0 } } ∧ s.comp.poolAsk ≠ 0 ∧ g.granted = false) ∧
    (∃ (g : PoolGrant) (s t : State) (u : _), ((∀ h ∈ s.comp.held, h.id ≠ g.id) ∨ g.granted = false) ∧ t = { s with comp := { s.comp with poolAsk := 0 } } ∧ s.comp.poolAsk ≠ 0 ∧ g.granted = true ∧ u = wr { t with comp := { t.comp with held := t.comp.held ++ [⟨g.id, g.base, g.mib, now s + rd s K.poolLeaseNs, now s, 0, 0, g.mustClear, false⟩] } } K.poolResult (poolResultWord g) ∧ g.mustClear = false) ∧
    (∃ (g : PoolGrant) (s t : State) (u : _), ((∀ h ∈ s.comp.held, h.id ≠ g.id) ∨ g.granted = false) ∧ t = { s with comp := { s.comp with poolAsk := 0 } } ∧ s.comp.poolAsk ≠ 0 ∧ g.granted = true ∧ u = wr { t with comp := { t.comp with held := t.comp.held ++ [⟨g.id, g.base, g.mib, now s + rd s K.poolLeaseNs, now s, 0, 0, g.mustClear, false⟩] } } K.poolResult (poolResultWord g) ∧ g.mustClear = true) ∧
    (∃ (lease : Nat) (s t : State), t = modHeld s lease (fun h => { h with clearing := false }) ∧ (∃ h ∈ s.comp.held, h.id = lease ∧ h.clearing = true) ∧ rd t K.poolResult % 2 ^ 32 = lease) ∧
    (∃ (lease : Nat) (s t : State), t = modHeld s lease (fun h => { h with clearing := false }) ∧ (∃ h ∈ s.comp.held, h.id = lease ∧ h.clearing = true) ∧ rd t K.poolResult % 2 ^ 32 ≠ lease) ∧
    (∃ (lease : Nat) (s t : State), t = modHeld s lease (fun h => { h with clearing := false }) ∧ (∀ h ∈ s.comp.held, h.id = lease → h.clearing = false)) ∧
    (∃ (lease : Nat) (h : HeldLease) (s : State), s.comp.held.find? (fun h => h.id == lease) = some h ∧ h.renewedAt + rd s K.poolLeaseNs / 4 ≤ now s ∧ h.failed = false) ∧
    (∃ (lease : Nat) (h : HeldLease) (s : State), s.comp.held.find? (fun h => h.id == lease) = some h ∧ (now s < h.renewedAt + rd s K.poolLeaseNs / 4 ∨ h.failed = true)) ∧
    (∃ (lease : Nat) (h : HeldLease) (s : State) (t : _), s.comp.held.find? (fun h => h.id == lease) = some h ∧ t = modHeld s lease (fun h => { h with failed := true }) ∧ h.failed = false ∧ h.expiry ≤ now s + rd s K.poolGuardNs) ∧
    (∃ (lease : Nat) (h : HeldLease) (s : State), s.comp.held.find? (fun h => h.id == lease) = some h ∧ (h.failed = true ∨ now s + rd s K.poolGuardNs < h.expiry)) ∧
    (∃ (lease : Nat) (s : State), (∀ h ∈ s.comp.held, h.id ≠ lease)) ∧
    (∃ (src lease : Nat) (l m : PoolLease) (s : State), isLead s = true ∧ s.comp.leases.find? (fun l => l.id == lease && l.holder == src && !l.lapsed) = some l ∧ m = { l with expiry := now s + rd s K.poolLeaseNs }) ∧
    (∃ (src lease : Nat) (s : State), s.comp.leases.find? (fun l => l.id == lease && l.holder == src && !l.lapsed) = none) ∧
    (∃ (src lease : Nat) (l : PoolLease) (s : State) (d : List (Nat × Nat)), isLead s = true ∧ s.comp.leases.find? (fun l => l.id == lease && l.holder == src) = some l ∧ d = s.comp.dirty.filter (fun x => !has (unitsOf l.base l.mib) x.1)) ∧
    (∃ (src lease : Nat) (s : State), s.comp.leases.find? (fun l => l.id == lease && l.holder == src) = none) ∧
    (∃ (lease : Nat) (l : PoolLease) (s : State), s.comp.leases.find? (fun l => l.id == lease && !l.lapsed) = some l ∧ isLead s = true ∧ l.expiry ≤ now s) ∧
    (∃ (lease : Nat) (l : PoolLease) (s : State), s.comp.leases.find? (fun l => l.id == lease && !l.lapsed) = some l ∧ now s < l.expiry) ∧
    (∃ (lease : Nat) (s : State), s.comp.leases.find? (fun l => l.id == lease && !l.lapsed) = none) :=
  ⟨⟨pf, 262144, st [(K.poolEnable, 1)], (by decide +kernel), (by decide +kernel), (by decide +kernel), (by decide +kernel), (by decide +kernel), (by decide +kernel)⟩,
    ⟨pf, 255, st [], (by decide +kernel), (by decide +kernel), (by decide +kernel)⟩,
    ⟨pf, 255, st [(K.poolEnable, 1)], (by decide +kernel), (by decide +kernel), (by decide +kernel), (.inr (.inl (by decide)))⟩,
    ⟨pf, 1, comp (st []) { CompSt.reset with held := [held1 false] }, (by decide +kernel), (by decide +kernel), (by decide +kernel)⟩,
    ⟨pf, 0, st [(K.poolEnable, 1)], (by decide +kernel), (by decide +kernel), (by decide +kernel)⟩,
    ⟨256, lead [(K.poolEnable, 1), (K.poolRangeMib 3, 256), (K.poolRangeBase 3, 65536)], _, 65536, (by decide +kernel), rfl, (by decide +kernel), (by decide +kernel)⟩,
    ⟨512, lead [(K.poolEnable, 1), (K.poolRangeMib 3, 256), (K.poolRangeBase 3, 65536)], _, (by decide +kernel), rfl, (by decide +kernel)⟩,
    ⟨st [(K.poolEnable, 1)], (by decide +kernel)⟩,
    ⟨⟨true, 1, 0, 256, false⟩, comp (st []) { CompSt.reset with held := [held1 false] }, (by decide +kernel), (by decide +kernel)⟩,
    ⟨⟨true, 1, 0, 256, false⟩, st [(K.poolEnable, 1)], _, (by decide +kernel), rfl, (by decide +kernel)⟩,
    ⟨⟨false, 1, 0, 256, false⟩, comp (st []) { CompSt.reset with poolAsk := 256 }, _, (by decide +kernel), rfl, (by decide +kernel), (by decide +kernel)⟩,
    ⟨⟨true, 1, 0, 256, false⟩, comp (st []) { CompSt.reset with poolAsk := 256 }, _, _, (by decide +kernel), rfl, (by decide +kernel), (by decide +kernel), rfl, (by decide +kernel)⟩,
    ⟨⟨true, 1, 0, 256, true⟩, comp (st []) { CompSt.reset with poolAsk := 256 }, _, _, (.inl (by decide +kernel)), (rfl), (by decide +kernel), (by decide +kernel), (rfl), (by decide +kernel)⟩,
    ⟨1, comp (st [(K.poolResult, 1)]) { CompSt.reset with held := [held1 true] }, _, rfl, (by decide +kernel), (by decide +kernel)⟩,
    ⟨1, comp (st [(K.poolResult, 2)]) { CompSt.reset with held := [held1 true] }, _, (rfl), (by decide +kernel), (by decide +kernel)⟩,
    ⟨0, st [(K.poolEnable, 1)], _, rfl, (by decide +kernel)⟩,
    ⟨1, held1 false, at_ (comp (st []) { CompSt.reset with held := [held1 false] }) 250000000 0, (by decide +kernel), (by decide +kernel), (by decide +kernel)⟩,
    ⟨1, held1 false, comp (st []) { CompSt.reset with held := [held1 false] }, (by decide +kernel), (by decide +kernel)⟩,
    ⟨1, held1 false, comp (st []) { CompSt.reset with held := [held1 false] }, _, (by decide +kernel), rfl, (by decide +kernel), (by decide +kernel)⟩,
    ⟨1, { held1 false with expiry := 10 ^ 12 }, at_ (comp (st []) { CompSt.reset with held := [{ held1 false with expiry := 10 ^ 12 }] }) 0 0, (rfl), (.inr (by decide +kernel))⟩,
    ⟨0, st [(K.poolEnable, 1)], (by decide +kernel)⟩,
    ⟨2, 1, lease1, _, comp (lead []) { CompSt.reset with leases := [lease1] }, (by decide +kernel), (by decide +kernel), rfl⟩,
    ⟨0, 0, st [(K.poolEnable, 1)], (by decide +kernel)⟩,
    ⟨2, 1, lease1, comp (lead []) { CompSt.reset with leases := [lease1] }, _, (by decide +kernel), (by decide +kernel), rfl⟩,
    ⟨0, 0, st [(K.poolEnable, 1)], (by decide +kernel)⟩,
    ⟨1, lease1, comp (lead []) { CompSt.reset with leases := [lease1] }, (by decide +kernel), (by decide +kernel), (by decide +kernel)⟩,
    ⟨1, { lease1 with expiry := 10 }, comp (lead []) { CompSt.reset with leases := [{ lease1 with expiry := 10 }] }, (rfl), (by decide +kernel)⟩,
    ⟨0, st [(K.poolEnable, 1)], (by decide +kernel)⟩⟩

theorem witness_ReplaysPoisonAndLog :
    (∃ (failed : Nat), failed < 3) ∧
    (∃ (failed : Nat), 3 ≤ failed) ∧
    (∃ (a : ParityAt) (key : Nat) (check : RecordCheck), ((∃ addr, a = .feltHome key addr) ∨ (∃ st addr, a = .sheetLine key st addr) ∨ (∃ st addr, a = .deckleLine key st addr)) ∧ check ≠ .none) ∧
    (∃ (a : ParityAt) (check : RecordCheck), check ≠ .none ∧ (∀ key addr, a ≠ .feltHome key addr) ∧ (∀ key st addr, a ≠ .sheetLine key st addr) ∧ (∀ key st addr, a ≠ .deckleLine key st addr)) ∧
    (∃ (entry : Nat) (s : State), isLead s = true ∧ rd s K.logMinSeverity ≤ bits entry 104 4) ∧
    (∃ (entry : Nat) (s : State), (isLead s = false ∨ bits entry 104 4 < rd s K.logMinSeverity)) :=
  ⟨⟨2, (by decide +kernel)⟩,
    ⟨3, (by decide +kernel)⟩,
    ⟨.feltHome 0 0, 0, .stale, (by simp), (by decide +kernel)⟩,
    ⟨.scoreArray 3, .stale, (by decide +kernel), (fun _ _ h => nomatch h), (fun _ _ _ h => nomatch h), (fun _ _ _ h => nomatch h)⟩,
    ⟨0, lead [], (by decide +kernel), (by decide +kernel)⟩,
    ⟨0, st [(K.logMinSeverity, 1)], (by decide +kernel)⟩⟩

theorem witness_PowerWindowsAndTrips :
    (∃ (s t u v : State) (want cause new : Nat), s.pow.win < windowNow s ∧ t = { s with pow := { s.pow with started := on s K.powerEnable, slow := rd s K.throttleLevel } } ∧ askedLevel t = (want, cause) ∧ u = keepWarm t want ∧ new = nextLevel u want (rd u K.throttleLevel) ∧ v = grantWindow u (windowNow s) ∧ new = rd u K.throttleLevel) ∧
    (∃ (s : State), windowNow s ≤ s.pow.win) ∧
    (∃ (s : State), (∀ l e, tget? s.pow.warm l = some e → passed s e 1000000 = true)) ∧
    (∃ (s t : State) (r g : Budget) (old : List Budget) (w : Nat), w = s.pow.win + 1 ∧ s.pow.reqs = [r] ∧ r.madeIn < w ∧ (r.cls = 3 → rd s K.throttleLevel = 0) ∧ g = { r with first := max r.first w } ∧ old = s.pow.grants.filter (fun g => decide (w < g.first + g.span)) ∧ t = grantWindow s w ∧ fits s (floors s) w old r g.first = true) ∧
    (∃ (s t : State) (r g : Budget) (old : List Budget) (w : Nat), w = s.pow.win + 1 ∧ s.pow.reqs = [r] ∧ r.madeIn < w ∧ (r.cls = 3 → rd s K.throttleLevel = 0) ∧ g = { r with first := max r.first w } ∧ old = s.pow.grants.filter (fun g => decide (w < g.first + g.span)) ∧ t = grantWindow s w ∧ fits s (floors s) w old r g.first = false) ∧
    (∃ (s t : State), t = stopSlices s) ∧
    (∃ (s t : State) (sl : Nat), sl < 4 ∧ t = stopSlices s) :=
  ⟨⟨at_ (st []) 1000 0, _, _, _, 0, 0, _, (by decide +kernel), rfl, (by decide +kernel), rfl, rfl, rfl, (by decide +kernel)⟩,
    ⟨at_ (st []) 999 0, (by decide +kernel)⟩,
    ⟨st [], (fun _ _ h => nomatch h)⟩,
    ⟨{ st [] with pow := { PowerSt.reset with win := 5, reqs := [⟨0, 1, 0, 0, 1, 0, false, 0, false⟩] } }, _, ⟨0, 1, 0, 0, 1, 0, false, 0, false⟩, _, _, _, (rfl), (by decide +kernel), (by decide +kernel), (fun h => absurd h (by decide +kernel)), (rfl), (rfl), (rfl), (by decide +kernel)⟩,
    ⟨{ st [] with pow := { PowerSt.reset with win := 5, reqs := [⟨0, 1, 0, 1, 5000, 0, false, 0, false⟩] } }, _, ⟨0, 1, 0, 1, 5000, 0, false, 0, false⟩, _, _, _, (rfl), (by decide +kernel), (by decide +kernel), (fun h => absurd h (by decide +kernel)), (rfl), (rfl), (rfl), (by decide +kernel)⟩,
    ⟨at_ (st []) 1000 0, _, rfl⟩,
    ⟨at_ (st []) 1000 0, _, 0, (by decide +kernel), rfl⟩⟩

theorem witness_ResetsTakeDefaults :
    (∃ (s : State), s.sec.held = false) ∧
    (∃ (s : State), s.sec.held = true) ∧
    (∃ (k : Nat), keptAtReset k = false) ∧
    (∃ (k : Nat), keptAtReset k = true) ∧
    (∃ (s t : State), s.sec.held = false ∧ inRecovery s = false ∧ rd s K.nodeStartState < 3 ∧ t = resetState (wr s K.bootFailures (min 255 (rd s K.bootFailures + 1))) ∧ rd s K.bootFailures < 2) ∧
    (∃ (s t : State), s.sec.held = false ∧ inRecovery s = false ∧ rd s K.nodeStartState < 3 ∧ t = resetState (wr s K.bootFailures (min 255 (rd s K.bootFailures + 1))) ∧ 2 ≤ rd s K.bootFailures) ∧
    (∃ (s : State), (s.sec.held = true ∨ inRecovery s = true ∨ 3 ≤ rd s K.nodeStartState)) ∧
    (∃ (s t : State), t = resetState s ∧ s.sec.rstLow = false) ∧
    (∃ (s t : State), t = resetState s ∧ s.sec.rstLow = true) ∧
    (∃ (s t : State), t = resetState s) ∧
    (∃ (s : State), s.sec.rstLow = true) ∧
    (∃ (s : State), s.sec.rstLow = false) ∧
    (∃ (s t : State) (ok : Bool), rd s K.autostartState = 1 ∧ autoReady s (autoEntry s) = true ∧ internalWrite handler s (bits (autoEntry s) 48 16) (bits (autoEntry s) 40 8) [1] = (t, ok) ∧ ok = true) ∧
    (∃ (s t : State) (ok : Bool), rd s K.autostartState = 1 ∧ autoReady s (autoEntry s) = true ∧ internalWrite handler s (bits (autoEntry s) 48 16) (bits (autoEntry s) 40 8) [1] = (t, ok) ∧ ok = false) ∧
    (∃ (s : State), (rd s K.autostartState ≠ 1 ∨ autoReady s (autoEntry s) = false)) ∧
    (∃ (s : State), rd s K.autostartState = 1 ∧ autoReady s (autoEntry s) = false ∧ autoOver s = true) ∧
    (∃ (s : State), (rd s K.autostartState ≠ 1 ∨ autoReady s (autoEntry s) = true ∨ autoOver s = false)) :=
  ⟨⟨st [], (by decide +kernel)⟩,
    ⟨{ st [] with sec := { SecSt.reset with rstLow := true, held := true } }, (by decide +kernel)⟩,
    ⟨0, (by decide +kernel)⟩,
    ⟨K.logHead, (by decide +kernel)⟩,
    ⟨st [], _, (by decide +kernel), (by decide +kernel), (by decide +kernel), rfl, (by decide +kernel)⟩,
    ⟨st [(K.nodeStartState, 2), (K.bootFailures, 2)], _, (by decide +kernel), (by decide +kernel), (by decide +kernel), rfl, (by decide +kernel)⟩,
    ⟨{ st [] with sec := { SecSt.reset with rstLow := true, held := true } }, (by decide +kernel)⟩,
    ⟨st [], _, rfl, (by decide +kernel)⟩,
    ⟨{ st [] with sec := { SecSt.reset with rstLow := true, held := true } }, _, rfl, (by decide +kernel)⟩,
    ⟨st [], _, rfl⟩,
    ⟨{ st [] with sec := { SecSt.reset with rstLow := true, held := true } }, (by decide +kernel)⟩,
    ⟨st [], (by decide +kernel)⟩,
    ⟨st [(K.autostartState, 1), (K.autostartPosition, 1), (keyOf 0xB000 1, K.traceTriggerEnable * 2 ^ 40)], _, _, (by decide +kernel), (by decide +kernel), rfl, (by decide +kernel)⟩,
    ⟨st [(K.autostartState, 1), (K.autostartPosition, 1), (keyOf 0xB000 1, K.deadlineEnable * 2 ^ 40)], _, _, (by decide +kernel), (by decide +kernel), rfl, (by decide +kernel)⟩,
    ⟨st [], (by decide +kernel)⟩,
    ⟨st [(K.autostartState, 1), (K.autostartPosition, 1), (keyOf 0xB000 1, fields [(36, 1)])], (by decide +kernel), (by decide +kernel), (by decide +kernel)⟩,
    ⟨st [], (by decide +kernel)⟩⟩

theorem witness_ResetLeavesDefaults :
    (∃ (sl : Nat), sl < 4) ∧
    (∃ (k : _), k ∈ enableKeys) :=
  ⟨⟨0, (by decide +kernel)⟩,
    ⟨K.vatEnable, (by decide +kernel)⟩⟩

theorem witness_EveryStepKeepsTheInvariant :
    ∃ (s t : State), s.Inv ∧ step s = .next t :=
  ⟨State.reset, _, (by decide +kernel), rfl⟩

theorem witness_MessagesLeaveMemoryAlone :
    ∃ (c : Instr) (s t : State), sendsOnly c = true ∧ exec c s = .next t :=
  ⟨.htLost, st [], _, (by decide +kernel), rfl⟩

/-! ## The same where a constant without a body decides, and the rest -/

/-- A window at whose end the level rises. -/
theorem witness_PowerWindowsAndTrips_rises : ∃ (s t u v : State) (want cause new : Nat), s.pow.win < windowNow s ∧
    t = { s with pow := { s.pow with started := on s K.powerEnable, slow := rd s K.throttleLevel } } ∧ askedLevel t = (want, cause) ∧
    u = keepWarm t want ∧ new = nextLevel u want (rd u K.throttleLevel) ∧ v = grantWindow u (windowNow s) ∧ new ≠ rd u K.throttleLevel :=
  ⟨{ at_ (st []) 1000 0 with pow := { PowerSt.reset with asked := 2, cause := 1 } }, _, _, _, 2, 1, 2, (by decide +kernel), rfl,
    (by decide +kernel), rfl, (by decide +kernel), rfl, (by decide +kernel)⟩

/-- A RETIRED slice, which each operation but the fifth is refused for. -/
theorem witness_SliceOperationsRun_retired : ∃ (slice : Nat) (w : WReq) (s : State) (code : Nat), slice < 4 ∧
    Allowed s w (0x2000 + 0x100 * slice) 2 ∧ rd s (K.sliceState slice) = 4 ∧ (code = 1 ∨ code = 2 ∨ code = 3 ∨ code = 4) :=
  ⟨3, pf, st [(K.sliceState 3, 4)], 4, (by decide), (by decide +kernel), (by decide +kernel), .inr (.inr (.inr rfl))⟩

/-- The bytes of a bundle with no entries and sequence 1. -/
def bundle0 : List Byte := toBytes 64 (fields [(32, 0x3640), (320, 1)])

/-- A state whose bundle buffer holds that bundle with a signature of zeros. -/
def bundled : State :=
  { st [(K.ownerKeyState, 1), (K.bundleLength, 128)] with
    dq := { DictSt.reset with bundle := upFrom 0 128 |>.filterMap (fun i => (bundle0[i]?).bind (fun b => if b == 0 then none else some (i, b))) } }

/-- A bundle whose signature verifies and that passes every other test. -/
theorem bundle_passes {s : State} {l m sig : List Byte} {es : List BundleEntry} {seq : Nat}
    (a : (rd s K.ownerKeyState == 0) = false) (b : 128 ≤ l.length) (hm : l.take (l.length - 64) = m) (hs : l.drop (l.length - 64) = sig)
    (v : Config.ed25519Verify (rd s K.ownerKey) m sig = true)
    (c : (bits (ofBytes (l.take 64)) 32 32 != 0x3640 ||
      (bits (ofBytes (l.take 64)) 384 128 != 0 && bits (ofBytes (l.take 64)) 384 128 != rd s K.unitId)) = false)
    (d : ¬bits (ofBytes (l.take 64)) 320 64 ≤ rd s K.bundleSequenceLast) (q : bits (ofBytes (l.take 64)) 320 64 = seq)
    (e : bundleEntries (bits (ofBytes (l.take 64)) 16 16) (m.drop 64) = some (es, [])) :
    bundleTest s l = .inr (seq, es) := by
  have n : decide (l.length < 64) = false := by simp; omega
  rw [q] at d
  simp only [bundleTest, a, n, hm, hs, v, c, q, d, e, b, Bool.not_true, Bool.or_self, Bool.false_eq_true, if_false, if_true]

/-- The first clause, where the signature's check (a constant without a body) takes the bundle. -/
theorem witness_BundleIsAppliedOrRejected_verified (v : Config.ed25519Verify 0 bundle0 (toBytes 64 0) = true) :
    ∃ (w : WReq) (s t : State) (seq : Nat) (es : List BundleEntry) (ch : Changed), Allowed s w 0x1010 6 ∧
      bundleTest s (getBytes s.dq.bundle 0 (rd s K.bundleLength)) = .inr (seq, es) ∧
      applyEntries (handlerOf hNoBundle) es s [] = (t, ch, true) := by
  have e : getBytes bundled.dq.bundle 0 (rd bundled K.bundleLength) = bundle0 ++ toBytes 64 0 := by decide +kernel
  refine ⟨pf, bundled, _, 1, [], _, (by decide +kernel), ?_, rfl⟩
  rw [e]
  exact bundle_passes (by decide +kernel) (by decide +kernel) (m := bundle0) (by decide +kernel) (sig := toBytes 64 0) (by decide +kernel) v
    (by decide +kernel) (by decide +kernel) (by decide +kernel) (by decide +kernel)

/-- A key exchange with a key that is held: whatever the signature's check answers, one of the clauses is met. -/
theorem witness_SecurityCommands_keyExchange (tr sg : List Byte) : ∃ (key i : Nat) (s : State), s.sec.held = false ∧ inRecovery s = false ∧
    on s K.mgmtSessionEnable = true ∧ s.sessions.length < 4 ∧
    (upFrom 0 8).find? (fun i => skKey (rd s (K.sessionKey i)) == key && skRights (rd s (K.sessionKey i)) != 0) = some i ∧
    (Config.ed25519Verify key tr sg = true ∨ Config.ed25519Verify key tr sg = false) :=
  ⟨5, 2, st [(K.mgmtSessionEnable, 1), (K.sessionKey 2, 5 + 2 ^ 256)], (by decide +kernel), (by decide +kernel), (by decide +kernel),
    (by decide +kernel), (by decide +kernel), by cases Config.ed25519Verify 5 tr sg <;> simp⟩

/-- A state with session 1 open. -/
def session1 : State := { st [] with sessions := [(1, ⟨0, 2, 0⟩)] }

/-- A datagram of that session: whether it opens or not, one of the clauses is met. -/
theorem witness_SecurityCommands_datagram (l : List Byte) : ∃ (n : Nat) (x : Sess) (s t : State), s.sec.held = false ∧
    tget? s.sessions n = some x ∧ t = { s with sessions := tset s.sessions n { x with lastEc := s.tm.ec } } ∧
    (Config.aeadOpen n l = none ∨ ∃ app, Config.aeadOpen n l = some app ∧ (20 ≤ app.length ∨ app.length < 20)) := by
  refine ⟨1, _, session1, _, (by decide +kernel), rfl, rfl, ?_⟩
  cases h : Config.aeadOpen 1 l with
  | none => exact .inl rfl
  | some app => exact .inr ⟨app, rfl, Nat.lt_or_ge _ _ |>.symm⟩

/-- An image of type 1 with one byte, whose digest reads 0. -/
def image0 : List Byte := toBytes 256 (fields [(0, 0x31474D4936334B48), (352, 1), (376, 1), (384, 0x3640), (480, 1)]) ++ [0]

/-- A state whose image buffer holds it, verifying. -/
def staged : State :=
  { st [(K.fwState, 2), (K.fwLength, 257)] with
    dq := { DictSt.reset with fwBuf := upFrom 0 257 |>.filterMap (fun i => (image0[i]?).bind (fun b => if b == 0 then none else some (i, b))) } }

/-- An image that passes every check. -/
theorem image_passes {s : State} {img m : List Byte} {k g d : Nat} (hm : img.take 192 = m)
    (k' : bits (ofBytes (img.take 256)) 368 8 = k) (g' : bits (ofBytes (img.take 256)) 1536 512 = g)
    (d' : bits (ofBytes (img.take 256)) 1024 512 = d) (a : imgFormOk s (ofBytes (img.take 256)) img.length (img.drop 256) = true)
    (b : bits (ofBytes (img.take 256)) 384 32 = 0x3640) (c : bitB (rd s K.keysRevoked) k = false)
    (v : Config.ed25519Verify (Config.maeltinKey k) m (toBytes 64 g) = true) (x : Config.sha512 (img.drop 256) = d)
    (e : bits (ofBytes (img.take 256)) 896 128 = 0) (t : bits (ofBytes (img.take 256)) 376 8 = 1)
    (f : ¬bits (ofBytes (img.take 256)) 416 32 < svnFloorOf s 1) (z : bits (ofBytes (img.take 256)) 360 1 = 0) (n : k ≤ 3) :
    imgReject s img = 0 := by
  simp [imgReject, a, b, k', c, hm, g', v, x, d', e, t, f, z, n]

/-- The first clause, where the signature's check takes the image and its digest is the one the image carries. -/
theorem witness_FirmwareIsStagedVerifiedAndWritten_verified
    (v : Config.ed25519Verify (Config.maeltinKey 0) (image0.take 192) (toBytes 64 0) = true) (x : Config.sha512 [0] = 0) :
    ∃ (s : State) (t : Nat), rd s K.fwState = 2 ∧ imgReject s (stagedImage s) = 0 ∧ t = bits (ofBytes ((stagedImage s).take 256)) 376 8 ∧
      t ≤ 6 := by
  have e : stagedImage staged = image0 := by decide +kernel
  refine ⟨staged, 1, (by decide +kernel), ?_, (by decide +kernel), (by decide)⟩
  rw [e]
  exact image_passes rfl (by decide +kernel) (by decide +kernel) (by decide +kernel) (by decide +kernel) (by decide +kernel)
    (by decide +kernel) v x (by decide +kernel) (by decide +kernel) (by decide +kernel) (by decide +kernel) (by decide +kernel)

/-! ## What cannot arrive: each check of WellFormed refuses a term -/

/-- A TIME block and a LINK block as a link carries them. -/
def timeBlock0 : TimeBlock := { hops := 3, ht := 10, turnaroundPs := 7, node := 1, leadTerm := 2 }
def linkBlock0 : LinkBlock := { node := 1, link := 2, herdId := 3, goodLanes := 255, widthOffer := 8 }
def announce0 : Announce := { step := 0, start := 0, leadTerm := 0, epoch := 0 }

theorem test_wf_pdu :
    Instr.wf (.read .pf (pdu 1 0x1000 1 [])) = true ∧
    Instr.wf (.read .pf { pdu 1 0x1000 1 [] with version := 16 }) = false ∧ Instr.wf (.read .pf (pdu 16 0x1000 1 [])) = false ∧
    Instr.wf (.write .pf { pdu 2 0x1000 1 [] with flags := 256 }) = false ∧
    Instr.wf (.write .pf { pdu 2 0x1000 1 [] with transaction := 65536 }) = false ∧
    Instr.wf (.describe .pf (pdu 3 65536 1 [])) = false ∧ Instr.wf (.describe .pf (pdu 3 0x1000 256 [])) = false ∧
    Instr.wf (.readBlock .pf { pdu 4 0x1000 1 [] with result := 256 }) = false ∧
    Instr.wf (.readBlock .pf { pdu 4 0x1000 1 [] with reason := 256 }) = false ∧
    Instr.wf (.read .pf { pdu 1 0x1000 1 [] with length := 4096 }) = false ∧
    Instr.wf (.read .pf { pdu 1 0x1000 1 [] with offset := 2 ^ 32 }) = false ∧
    Instr.wf (.read .pf { pdu 1 0x1000 1 [] with reserved := 4096 }) = false ∧
    Instr.wf (.read .pf (pdu 1 0x1000 1 (List.replicate 1025 0))) = false := by decide +kernel

theorem test_wf_requester :
    Instr.wf (.read (.fabric 65535) (pdu 1 0x1000 1 [])) = true ∧ Instr.wf (.read (.fabric 65536) (pdu 1 0x1000 1 [])) = false ∧
    Instr.wf (.read (.vf 255) (pdu 1 0x1000 1 [])) = true ∧ Instr.wf (.read (.vf 0) (pdu 1 0x1000 1 [])) = false ∧
    Instr.wf (.read (.vf 256) (pdu 1 0x1000 1 [])) = false ∧ Instr.wf (.herdEnable { via := .pf, txn := 65536 } 1) = false := by decide +kernel

theorem test_wf_blocks :
    Instr.wf (.timeSymbol 35 (timeBlockWord timeBlock0)) = true ∧ Instr.wf (.timeSymbol 36 (timeBlockWord timeBlock0)) = false ∧
    Instr.wf (.timeSymbol 0 (linkBlockWord linkBlock0)) = false ∧ Instr.wf (.timeSymbol 0 (2 ^ 256 + 2 ^ 248)) = false ∧
    Instr.wf (.linkBlock 35 (linkBlockWord linkBlock0)) = true ∧ Instr.wf (.linkBlock 36 (linkBlockWord linkBlock0)) = false ∧
    Instr.wf (.linkBlock 0 (timeBlockWord timeBlock0)) = false ∧
    Instr.wf (.stepAnnounce 0 1 0 0 0 announce0) = true ∧ Instr.wf (.stepAnnounce 0 65536 0 0 0 announce0) = false ∧
    Instr.wf (.stepAnnounce 0 1 0 0 0 { announce0 with step := 2 ^ 64 }) = false ∧
    Instr.wf (.stepAnnounce 0 1 0 0 0 { announce0 with start := 2 ^ 64 }) = false ∧
    Instr.wf (.stepAnnounce 0 1 0 0 0 { announce0 with leadTerm := 2 ^ 32 }) = false ∧
    Instr.wf (.stepAnnounce 0 1 0 0 0 { announce0 with epoch := 65536 }) = false ∧
    Instr.wf (.stepAnnounce 0 1 0 0 (2 ^ 128) announce0) = false := by decide +kernel

theorem test_wf_packet :
    Instr.wf (.packetReceive 35 [flit1] 0 0) = true ∧ Instr.wf (.packetReceive 36 [flit1] 0 0) = false ∧
    Instr.wf (.packetReceive 0 [] 0 0) = false ∧ Instr.wf (.packetReceive 0 [[0]] 0 0) = false ∧
    Instr.wf (.packetReceive 0 [flit1, flit1, flit1, flit1, flit1] 0 0) = false := by decide +kernel

theorem test_wf_hardware :
    Instr.wf (.parityError (.engine 3 31 7 0) .none 0) = true ∧ Instr.wf (.parityError (.engine 0 32 0 0) .none 0) = false ∧
    Instr.wf (.parityError (.engine 0 0 8 0) .none 0) = false ∧ Instr.wf (.parityError (.scoreArray 4) .none 0) = false := by decide +kernel

/-- The fields of a TIME block and of a LINK block, read back from the words that carry them; a changed bit fails the CRC. -/
theorem test_block_words :
    timeBlockFrom (timeBlockWord timeBlock0) = timeBlock0 ∧ blockOk 1 (timeBlockWord timeBlock0) = true ∧
    linkBlockFrom (linkBlockWord linkBlock0) = linkBlock0 ∧ blockOk 2 (linkBlockWord linkBlock0) = true ∧
    blockOk 2 (linkBlockWord linkBlock0 + 2 ^ 192) = false := by decide +kernel

theorem test_wf_numbers :
    Instr.wf (.sweep 3 64) = true ∧ Instr.wf (.sweep 4 1) = false ∧ Instr.wf (.sweep 0 0) = false ∧ Instr.wf (.sweep 0 65) = false ∧
    Instr.wf (.scheduleTableWrite 0 65 pf []) = false ∧ Instr.wf (.refreshDue 0 64) = false ∧ Instr.wf (.vindexEnable 128 pf 1) = false ∧
    Instr.wf (.vatRegionEnable 16 pf 1) = false ∧ Instr.wf (.tenantEnable 256 pf 1) = false ∧ Instr.wf (.slotAreaEnable 64 pf 1) = false ∧
    Instr.wf (.functionLevelReset 0) = false ∧ Instr.wf (.getFwInfo 256) = false ∧ Instr.wf (.laneFlap 0 8 true) = false ∧
    Instr.wf (.ack 0 16 ⟨0, true, false, 0, 0⟩) = false ∧ Instr.wf (.extentDrainEnd 1024) = false ∧ Instr.wf (.poolLeaseLapse (2 ^ 32)) = false ∧
    Instr.wf (.sessionKeyWrite 8 pf []) = false ∧ Instr.wf (.preemptAck 0 0 (2 ^ 32) 0) = false := by decide +kernel

/-! ## Number formats -/

/-- The check values of R386's table for the ASCII text 123456789. -/
theorem test_crc_check_values :
    crc32c [0x31, 0x32, 0x33, 0x34, 0x35, 0x36, 0x37, 0x38, 0x39] = 0xE3069283 ∧
    crc64 0 [0x31, 0x32, 0x33, 0x34, 0x35, 0x36, 0x37, 0x38, 0x39] = 0x6C40DF5F0B497347 := by decide +kernel

/-- The granules of a half at head dimension 160, as the worked example of the number formats tabulates them. -/
theorem test_half_granules :
    (upFrom 1 12).map (fun f => halfGranules f 160) = [20, 20, 10, 10, 8, 8, 5, 11, 8, 6, 11, 6] := by decide +kernel

/-- The clocks of a half in the score units, as the worked example of the scoring stacks tabulates them. -/
theorem test_score_clocks :
    scoreClocks 1 3 160 = 6 ∧ scoreClocks 8 3 160 = 20 ∧ scoreClocks 64 3 160 = 160 ∧ scoreClocks 1 0xA 160 = 4 := by decide +kernel

/-- R92: 0.0625 is byte 0x30; 0, NaN and an infinity. -/
theorem test_log8 :
    toLog8 0x3D800000 = 0x30 ∧ toLog8 0 = 0 ∧ toLog8 0x7FC00000 = 0x80 ∧ toLog8 fNegInf = 0xFF := by decide +kernel

/-- R94: saturation in FP8 E4M3; R93: ties to even (17 to 16 and 19 to 20, with three fraction bits). -/
theorem test_conversion :
    convF (fmtSpec 3) (.fin false 500 0) = ⟨0x7E, true⟩ ∧ convF (fmtSpec 3) (.fin true 17 0) = ⟨0xD8, false⟩ ∧
    convF (fmtSpec 3) (.fin false 19 0) = ⟨0x5A, false⟩ := by decide +kernel

/-- R88: a block of one element 6.0 in MXFP4 has scale 2^0 and code 0x7; R90: one with an infinity is written as NaN. -/
theorem test_mx_block :
    quantMx 0xA [.fin false 6 0, .fin true 1 0] = ⟨[0x7, 0xA], 127, 0⟩ ∧ quantMx 0xA [.inf false, .fin false 1 0] = ⟨[0, 0], 0xFF, 0⟩ := by
  decide +kernel

/-- The ages of the worked example of Sheets and Reams: steps 5,002 and 5,004. -/
theorem test_commit_ages :
    (commitSheet 5002 { newSheet 7 0x1A2B3 0 0 16384 3 3 3 with tokenCount := 2, pending := 3, commitStep := 5001, ages := [1, 0] ++ List.replicate 62 0 }).1.ages.take 5
      = [2, 1, 0, 0, 0] ∧
    (commitSheet 5004 { newSheet 7 0x1A2B3 0 0 16384 3 3 3 with
        tokenCount := 5, pending := 2, commitStep := 5002, ages := [2, 1, 0, 0, 0] ++ List.replicate 59 0 }).1.ages.take 7 = [4, 3, 2, 2, 2, 0, 0] := by decide +kernel

/-! ## Commands -/

/-- The state after a command. -/
def after (o : Outc) (s : State) : State := match o with | .next t => t | _ => s

/-- The worked example of R55: the trace trigger output holds the HT_REF pins, and the reference is refused with 0x0C. -/
def bench : State :=
  after (exec (.traceTriggerEnable pf 1) (at_ (st [(K.htState, 2), (K.htSource, 2), (0x10F006, 6)]) 5000000000 0)) State.reset

theorem test_trace_trigger_takes_the_pins : rd bench K.htRefOwner = 0x00820010 := by decide +kernel

theorem test_ht_ref_pin_shared :
    toBytes 16 (lastRefusal (after (exec (.htRefEnable { via := .session 1, txn := 1 } 1) { bench with sessions := [(1, ⟨0, 2, 0⟩)] }) bench))
      = [0x07, 0x00, 0x00, 0x01, 0x0C, 0x18, 0x00, 0x12, 0x00, 0xF2, 0x05, 0x2A, 0x01, 0x00, 0x00, 0x00] := by decide +kernel

theorem test_ht_ref_after_release :
    rd (after (exec (.htRefEnable pf 1) (after (exec (.traceTriggerEnable pf 0) bench) bench)) bench) K.htRefOwner = 0x00120002 := by decide +kernel

/-- R40: a read of the product code answers DONE with the value and the request's transaction number. -/
theorem test_read_answers :
    (after (exec (.read .pf (pdu 1 0x1000 1 [])) (st [])) State.reset).out
      = [.response .pf { pdu 1 0x1000 1 ([0x40, 0x36, 0, 0]) with flags := 1 }] := by decide +kernel

/-- R60: a node without a role sends its symbol with hop count 0xFF. -/
theorem test_time_symbol_without_role :
    (after (exec (.timeSymbolSend 5) (st [(K.linkState 5, 2)])) State.reset).out.map
      (fun o => match o with | .control l b => (l, (timeBlockFrom b).hops) | _ => (0, 0)) = [(5, 0xFF)] := by decide +kernel

/-- The empty queue lets one cycle of the engine clock pass. -/
theorem test_idle_clock : step State.reset = .next (Machine.tick State.reset) ∧ (Machine.tick State.reset).tm.ec = 1 := by
  exact ⟨rfl, by decide +kernel⟩

end Sys2Proof.Tests
end

section
/-! SUPPORT. Requests at the front end of the dictionary (R32, R41 to R43): how one that is discarded, turned away or answered again
leaves the state, and what the node keeps of its responses. -/

namespace Sys2Proof.Machine

/-! ## Requests before they are served (R41, R43) -/

/-- The four PDU requests go through the same front end, each under its own opcode. -/
theorem exec_request {via : Via} {p : Pdu} {c : Instr} {k : Nat}
    (h : (k, c) ∈ [(1, Instr.read via p), (2, .write via p), (3, .describe via p), (4, .readBlock via p)]) (s : State) :
    ∃ serve, exec c s = .next (takePdu s via { p with opcode := k } serve) := by
  simp only [List.mem_cons, Prod.mk.injEq, List.not_mem_nil, or_false] at h
  obtain ⟨rfl, rfl⟩ | ⟨rfl, rfl⟩ | ⟨rfl, rfl⟩ | ⟨rfl, rfl⟩ := h <;> exact ⟨_, rfl⟩

/-- A PDU request has one of the four opcodes. -/
theorem request_opcode {via : Via} {p : Pdu} {c : Instr}
    (h : c = .read via p ∨ c = .write via p ∨ c = .describe via p ∨ c = .readBlock via p) :
    ∃ k, (k, c) ∈ [(1, Instr.read via p), (2, .write via p), (3, .describe via p), (4, .readBlock via p)] := by
  obtain rfl | rfl | rfl | rfl := h
  · exact ⟨1, by simp⟩
  · exact ⟨2, by simp⟩
  · exact ⟨3, by simp⟩
  · exact ⟨4, by simp⟩

section
variable {s : State} {via : Via} {p r : Pdu} (serve : State → State)

theorem takePdu_badCrc_discarded (hc : p.crcOk = false) (hm : isMailbox via = false) : takePdu s via p serve = s := by
  simp [takePdu, hc, hm]

theorem takePdu_badCrc_mailbox (hh : s.sec.held = false) (hc : p.crcOk = false) (hm : isMailbox via = true) :
    takePdu s via p serve = answer s via (respond p (if queueFull s via then 6 else 7) 0 []) := by
  cases hq : queueFull s via <;> simp [takePdu, hh, hc, hm, hq]

theorem takePdu_kept_fabric {src : Nat} (hh : s.sec.held = false) (hc : p.crcOk = true) (hq : queueFull s (.fabric src) = false)
    (hk : keptFor s (.fabric src) p.transaction = some r) :
    takePdu s (.fabric src) p serve = mgmt s src (.uzoene r) := by
  simp [takePdu, hh, hc, hq, hk]

theorem takePdu_kept_response (hh : s.sec.held = false) (hc : p.crcOk = true) (hq : queueFull s via = false)
    (hk : keptFor s via p.transaction = some r) (hv : ∀ src, via ≠ .fabric src) :
    takePdu s via p serve = emit s (.response via r) := by
  cases via with
  | fabric src => exact absurd rfl (hv src)
  | session _ | noSession | pf | vf _ | internal => simp [takePdu, hh, hc, hq, hk]

end

/-! ## The kept responses (R43) -/

theorem kept_answer_of_viaKeeps {via : Via} (h : viaKeeps via = true) (s : State) (r : Pdu) :
    (answer s via r).dq.kept = keepResp s.dq.kept via r := by
  cases via with
  | session n => rfl
  | fabric src => rfl
  | noSession | pf | vf _ | internal => simp [viaKeeps] at h

/-- The newest response is kept last, behind at most 15 of the requester's own. -/
theorem keepResp_eq (l : List Kept) (via : Via) (r : Pdu) :
    keepResp l via r = l.filter (fun k => !(k.via == via)) ++
      ((l.filter (fun k => k.via == via && k.txn != r.transaction)).drop
        ((l.filter (fun k => k.via == via && k.txn != r.transaction)).length - 15) ++ [⟨via, r.transaction, r⟩]) := by
  simp only [keepResp]
  rw [List.drop_append_of_le_length (by omega)]
  rfl

theorem find?_keepResp (l : List Kept) (via : Via) (r : Pdu) :
    (keepResp l via r).find? (fun k => k.via == via && k.txn == r.transaction) = some ⟨via, r.transaction, r⟩ := by
  have others : (l.filter (fun k => !(k.via == via))).find? (fun k => k.via == via && k.txn == r.transaction) = none := by
    refine List.find?_eq_none.mpr fun k hk => ?_
    have := (List.mem_filter.mp hk).2
    simp_all
  have older (n : Nat) : ((l.filter (fun k => k.via == via && k.txn != r.transaction)).drop n).find?
      (fun k => k.via == via && k.txn == r.transaction) = none := by
    refine List.find?_eq_none.mpr fun k hk => ?_
    have := (List.mem_filter.mp (List.mem_of_mem_drop hk)).2
    simp_all
  rw [keepResp_eq, List.find?_append, List.find?_append, others, older]
  simp

theorem length_own_keepResp (l : List Kept) (via : Via) (r : Pdu) :
    ((keepResp l via r).filter (fun k => k.via == via)).length ≤ 16 := by
  have others : (l.filter (fun k => !(k.via == via))).filter (fun k => k.via == via) = [] := by
    simp
  rw [keepResp_eq, List.filter_append, others, List.nil_append]
  refine Nat.le_trans (List.length_filter_le _ _) ?_
  simp only [List.length_append, List.length_drop, List.length_singleton]
  omega

/-- Settles O9: the front end answers before anything is served, and an answer of a requester that is kept stands last among its own. -/
theorem repeatedRequestIsAnsweredAgain : Obligations.RepeatedRequestIsAnsweredAgain := by
  unfold Obligations.RepeatedRequestIsAnsweredAgain
  refine ⟨fun via p r c s h hh hc hq hk => ?_, fun via p c s h hc hv => ?_, fun via p c k n s h hh hc hm hn => ?_,
    fun via r s hv _ => ?_⟩
  · obtain ⟨k, hkc⟩ := request_opcode h
    obtain ⟨serve, he⟩ := exec_request hkc s
    rw [he]
    refine ⟨fun src hv => ?_, fun hv => ?_⟩
    · subst hv
      rw [takePdu_kept_fabric (p := { p with opcode := k }) serve hh hc hq hk]
    · rw [takePdu_kept_response (p := { p with opcode := k }) serve hh hc hq hk hv]
  · obtain ⟨k, hkc⟩ := request_opcode h
    obtain ⟨serve, he⟩ := exec_request hkc s
    have hm : isMailbox via = false := by obtain ⟨_, rfl⟩ | rfl | ⟨_, rfl⟩ := hv <;> rfl
    rw [he, takePdu_badCrc_discarded (p := { p with opcode := k }) serve hc hm]
  · obtain ⟨serve, he⟩ := exec_request h s
    rw [he, takePdu_badCrc_mailbox (p := { p with opcode := k }) serve hh hc hm, hn]
  · rw [keptFor, kept_answer_of_viaKeeps hv, if_pos hv, find?_keepResp]
    exact ⟨rfl, fun _ => length_own_keepResp ..⟩

/-! ## Access classes (R32) -/

theorem mayWriteTo_served {s : State} {via : Via} {idx sub : Nat} (h : MayWriteTo s via idx sub) :
    (inRecovery s && !recoveryServes idx sub true) = false := by
  obtain ⟨-, h | h, -⟩ := h <;> simp [h]

/-- A WRITE that is taken reaches the tests of its object. -/
theorem exec_write_taken {via : Via} {p : Pdu} {s : State} (ho : p.opcode = 2) (hc : p.crcOk = true)
    (hm : malformed p = false) (ht : Taken s via p.transaction) :
    exec (.write via p) s = .next (serveWrite s via p (handler p.index p.subindex p.offset)) := by
  have hp : { p with opcode := 2 } = p := by rw [← ho]
  simp only [exec, execWrite, hp]
  rw [takePdu_taken _ ht hc hm]

/-- A READ that is taken reaches the tests of its object. -/
theorem exec_read_taken {via : Via} {p : Pdu} {s : State} (ho : p.opcode = 1) (hc : p.crcOk = true)
    (hm : malformed p = false) (ht : Taken s via p.transaction) : exec (.read via p) s = .next (answerRead s via p) := by
  have hp : { p with opcode := 1 } = p := by rw [← ho]
  simp only [exec, execRead, hp]
  rw [takePdu_taken _ ht hc hm]

theorem serveWrite_readOnly {s : State} {via : Via} {p : Pdu} {o : Obj} (h : Handler) (hv : vendorRange p.index = false)
    (hw : MayWriteTo s via p.index p.subindex) (ho : findObj p.index p.subindex = some o) (ha : o.acc = .ro ∨ o.acc = .const)
    (hn : p.subindex = 0 → arrayCount p.index = none) : serveWrite s via p h = answer s via (respond p 3 0 []) := by
  have harr : (p.subindex == 0 && (arrayCount p.index).isSome) = false := by
    by_cases h0 : p.subindex = 0 <;> simp [h0, hn]
  have hacc : (o.acc == .ro || o.acc == .const) = true := by obtain h | h := ha <;> rw [h] <;> rfl
  simp [serveWrite, hv, hw.1, mayWriteTo_served hw, ho, harr, hacc]

/-- A write through subindex 00 of an array passes the tests of class and length (R484). -/
theorem serveWrite_array {s : State} {via : Via} {p : Pdu} {o : Obj} (h : Handler) (hv : vendorRange p.index = false)
    (hw : MayWriteTo s via p.index p.subindex) (ho : findObj p.index p.subindex = some o) (h0 : p.subindex = 0)
    (hn : (arrayCount p.index).isSome = true) :
    serveWrite s via p h = finish (h s { via := via, txn := p.transaction } p.payload).1 via p
      (h s { via := via, txn := p.transaction } p.payload).2 := by
  have hr := mayWriteTo_served hw
  obtain ⟨hw, -, hl⟩ := hw
  rw [h0] at ho hl hr
  simp [serveWrite, hv, hw, hr, hl, ho, h0, hn]

theorem answerRead_writeOnly {s : State} {via : Via} {p : Pdu} {o : Obj} (hv : vendorRange p.index = false)
    (hr : mayRead s via p.index = true) (hn : inRecovery s = false) (ho : findObj p.index p.subindex = some o) (ha : o.acc = .wo) :
    answerRead s via p = answer s via (respond p 3 0 []) := by
  simp [answerRead, withRead, withheld, hv, hr, hn, ho, ha]

/-- The three arrays whose write is a whole-array write and no more. -/
theorem handler_array {idx n : Nat} (off : Nat) (h : idx = 0x4001 ∨ idx = 0x6301 ∨ idx = 0x7008) (hn : arrayCount idx = some n) :
    vendorRange idx = false ∧ handler idx 0 off = hArray idx n := by
  obtain rfl | rfl | rfl := h <;> cases hn <;> exact ⟨rfl, rfl⟩

theorem arrayElements_rw : ∀ idx ∈ [0x4001, 0x6301, 0x7008, 0x1210], (lookupObj idx 1).map Obj.acc = some .rw := by decide

theorem acc_of_arrayElement {idx : Nat} {o : Obj} (hi : idx ∈ [0x4001, 0x6301, 0x7008, 0x1210])
    (ho : lookupObj idx 1 = some o) : o.acc = .rw := by
  simpa [ho] using arrayElements_rw idx hi

/-- Settles O7: the class is tested ahead of length and value, and the whole-array write is not tested for it. -/
theorem accessClassesAreKept : Obligations.AccessClassesAreKept := by
  unfold Obligations.AccessClassesAreKept
  refine ⟨fun via p o s hop hc hm ht hv hw ho ha hn => ?_, fun via p o s hop hc hm ht hv hr hrec ho ha => ?_,
    fun via p o n s t r hop hc hm ht hw hi h0 hn ho hh => ?_, fun o ho => ?_⟩
  · rw [exec_write_taken hop hc hm ht, serveWrite_readOnly _ hv hw ho ha hn]
  · rw [exec_read_taken hop hc hm ht, answerRead_writeOnly hv hr hrec ho ha]
  · obtain ⟨hv, hhd⟩ := handler_array p.offset hi hn
    rw [exec_write_taken hop hc hm ht, serveWrite_array _ hv (h0 ▸ hw) (h0 ▸ ho) h0 (by simp [hn]), h0, hhd, hh]
  · obtain h | h | h | h := ho <;> exact acc_of_arrayElement (by simp) h

end Sys2Proof.Machine
end

section
/-! SUPPORT. The configuration store's two triggers, store_commit and store_defaults (R36, R38). -/

namespace Sys2Proof.Machine

/-- A trigger written 0. -/
@[simp] theorem trigger_zero (idx sub : Nat) (f : State → State × Res) (s : State) (w : WReq) : trigger idx sub f s w [0] = (s, .done) := by
  have : ofBytes [0#8] = 0 := by decide
  simp [trigger, this]

/-- A commit that its own requester has not begun already ends the one that runs, copies the values as they then stand and takes the
other bank (R36). -/
theorem beginCommit_begins {s : State} {w : WReq} (ok : Bool) (hi : w.via ≠ .internal)
    (hn : ∀ c, s.dq.commit = some c → c.via ≠ w.via ∨ c.txn ≠ w.txn) :
    beginCommit w ok s = (wr { endCommit s with dq := { (endCommit s).dq with
      banks := setNth (endCommit s).dq.banks (1 - (endCommit s).dq.current) { vals := [], ok := false },
      commit := some { vals := storeVals (endCommit s), via := w.via, txn := w.txn, ok := ok } } } K.storeState 1, .later) := by
  have hnew : s.dq.commit.any (fun c => c.via == w.via && c.txn == w.txn && viaKeeps w.via) = false := by
    cases hc : s.dq.commit with
    | none => rfl
    | some c => obtain h | h := hn c hc <;> simp [h]
  obtain ⟨via, txn⟩ := w
  cases via with
  | internal => exact absurd rfl hi
  | session _ | noSession | fabric _ | pf | vf _ => simp [beginCommit, hnew]

/-- A value that is dropped from the dictionary reads as its default; one that stays, as before. -/
theorem rd_filter_dict (s : State) (f : Nat → Bool) (k : Nat) :
    rd { s with dict := s.dict.filter (fun p => f p.1) } k = if f k then rd s k else keyDflt k := by
  simp only [rd, tget, tget?_filter]
  split <;> rfl

/-- Whether store_defaults takes the value at a key to its default (R38, R437). -/
def isDefaulted (k : Nat) : Bool := persOf k == some .store && k != K.bundleSequenceLast

theorem hStoreDefaults_done {s : State} (w : WReq) (h : enableKeys.find? (fun k => on s k) = none) :
    hStoreDefaults s w [1] = ({ s with dict := s.dict.filter (fun p => !isDefaulted p.1) }, .done) := by
  simp only [hStoreDefaults, trigger_one, h, isDefaulted]

theorem hStoreDefaults_refused {s : State} {k : Nat} (w : WReq) (h : enableKeys.find? (fun k => on s k) = some k) :
    hStoreDefaults s w [1] = (s, .refused 0x05 (k / 256) (k % 256)) := by
  simp only [hStoreDefaults, trigger_one, h]

/-- Settles O10: a row's write runs its trigger, and each trigger does what R36 and R38 say. -/
theorem storeIsCommittedAndDefaulted : Obligations.StoreIsCommittedAndDefaulted := by
  unfold Obligations.StoreIsCommittedAndDefaulted
  refine ⟨fun w ok s t ha hi ht hn => ?_, fun w ok s ha => ?_, fun w s ha hq => ?_, fun w s k ha hq => ?_⟩
  · subst ht
    simp only [exec, execStoreCommit]
    rw [row_handled (l := [1]) _ ha takes_store_commit, hStoreCommit, trigger_one, beginCommit_begins ok hi hn]
    rfl
  · simp only [exec, execStoreCommit]
    rw [row_done (l := [0]) ha takes_store_commit (by rw [hStoreCommit, trigger_zero])]
  · refine ⟨{ s with dict := s.dict.filter (fun p => !isDefaulted p.1) }, ?_, rfl, fun k => ?_⟩
    · simp only [exec, execStoreDefaults]
      rw [row_done (l := [1]) ha takes_store_defaults (hStoreDefaults_done w hq)]
    · rw [rd_filter_dict s (fun k => !isDefaulted k), ← isDefaulted]
      cases isDefaulted k <;> rfl
  · simp only [exec, execStoreDefaults]
    rw [row_refused (l := [1]) ha takes_store_defaults (hStoreDefaults_refused w hq)]

end Sys2Proof.Machine
end

section
/-! SUPPORT. A write of 1 to an enable (R47, R48, R51, R453): the failure that a check reports, what the enable's handler does with the
check's outcome, and what the record of a refusal reads. -/

namespace Sys2Proof.Machine

/-! ## The failure that a check reports (R48) -/

@[simp] theorem firstFail_concat_none (l : List Fail) : firstFail (l ++ [none]) = firstFail l := by simp [firstFail]

theorem firstFail_concat_some_of_none {l : List Fail} (h : firstFail l = none) (x : Nat × Nat) :
    firstFail (l ++ [some x]) = some x := by
  rw [firstFail] at h
  rw [firstFail, List.filterMap_append, List.foldl_append, h]
  rfl

theorem firstFail_concat_some_of_some {l : List Fail} {y : Nat × Nat} (h : firstFail l = some y) (x : Nat × Nat) :
    firstFail (l ++ [some x]) = some (if reasonRank x.1 < reasonRank y.1 ∨ (reasonRank x.1 = reasonRank y.1 ∧ x.2 < y.2)
      then x else y) := by
  rw [firstFail] at h
  rw [firstFail, List.filterMap_append, List.foldl_append, h]
  by_cases hr : reasonRank x.1 < reasonRank y.1
  · simp [hr]
  · by_cases hk : reasonRank x.1 = reasonRank y.1 ∧ x.2 < y.2 <;> simp [hr, hk]

/-- A list is built by appending one element at a time, the order in which a check folds over its conditions. -/
theorem list_concat_induction {α : Type} {P : List α → Prop} (nil : P []) (concat : ∀ l x, P l → P (l ++ [x])) (l : List α) : P l := by
  rw [← l.reverse_reverse]
  induction l.reverse with
  | nil => exact nil
  | cons x l ih => rw [List.reverse_cons]; exact concat _ _ ih

/-- A check passes exactly when none of its conditions fails. -/
theorem firstFail_eq_none_iff {l : List Fail} : firstFail l = none ↔ ∀ x, some x ∉ l := by
  induction l using list_concat_induction with
  | nil => simp [firstFail]
  | concat l f ih =>
    cases f with
    | none => simp [ih]
    | some x =>
      have hs : firstFail (l ++ [some x]) ≠ none := by
        cases hl : firstFail l with
        | none => simp [firstFail_concat_some_of_none hl]
        | some y => simp [firstFail_concat_some_of_some hl]
      exact ⟨fun h => absurd h hs, fun h => absurd (by simp) (h x)⟩

/-- The failure reported is one of the check's, and no other has a reason ahead of its own. -/
theorem firstFail_least {l : List Fail} {y : Nat × Nat} (h : firstFail l = some y) :
    some y ∈ l ∧ ∀ x, some x ∈ l → reasonRank y.1 ≤ reasonRank x.1 := by
  induction l using list_concat_induction generalizing y with
  | nil => simp [firstFail] at h
  | concat l f ih =>
    cases f with
    | none => simpa using ih (by simpa using h)
    | some x =>
      cases hl : firstFail l with
      | none =>
        rw [firstFail_concat_some_of_none hl] at h
        obtain rfl := Option.some.inj h
        refine ⟨by simp, fun v hv => ?_⟩
        obtain rfl : v = x := by simpa [firstFail_eq_none_iff.mp hl v] using hv
        exact Nat.le_refl _
      | some z =>
        rw [firstFail_concat_some_of_some hl, Option.some.injEq] at h
        obtain ⟨hz, hle⟩ := ih hl
        subst h
        split
        · refine ⟨by simp, fun v hv => ?_⟩
          obtain hv | hv := List.mem_append.mp hv
          · have := hle v hv; omega
          · obtain rfl : v = x := by simpa using hv
            exact Nat.le_refl _
        · refine ⟨by simp [hz], fun v hv => ?_⟩
          obtain hv | hv := List.mem_append.mp hv
          · exact hle v hv
          · obtain rfl : v = x := by simpa using hv
            omega

/-- A failure whose reason is ahead of every other failure's is the one reported. -/
theorem firstFail_eq_some {l : List Fail} {z : Nat × Nat} (hz : some z ∈ l)
    (h : ∀ x, some x ∈ l → x = z ∨ reasonRank z.1 < reasonRank x.1) : firstFail l = some z := by
  cases hl : firstFail l with
  | none => exact absurd hz (firstFail_eq_none_iff.mp hl z)
  | some y =>
    obtain ⟨hy, hle⟩ := firstFail_least hl
    obtain rfl | hlt := h y hy
    · rfl
    · have := hle z hz; omega

@[simp] theorem failIf_eq_some {c : Bool} {r k : Nat} {x : Nat × Nat} : failIf c r k = some x ↔ c = true ∧ (r, k) = x := by
  cases c <;> simp [failIf]

/-- A required enable that reads 1 fails nothing. -/
@[simp] theorem needs_of_on {s : State} {k : Nat} (h : on s k = true) : needs s k = none := by simp [needs, failIf, h]

/-- R453: below start state 0x3 the check of herd_enable names node_start_state where no required enable reads 0. -/
theorem firstFail_enHerd {s : State} (hst : rd s K.nodeStartState < 3) (hsrc : rd s K.herdRole = 1 → on s K.htSourceEnable = true)
    (htr : on s K.transportEnable = true) : firstFail (enableFails enHerd s) = some (0x06, 0xB00001) := by
  have hrole : (if rd s K.herdRole == 1 then needs s K.htSourceEnable else none) = none := by
    by_cases h : rd s K.herdRole = 1 <;> simp [h, hsrc]
  refine firstFail_eq_some ?_ fun x hx => ?_
  · simp [enableFails, enHerd, failIf, hst, K.nodeStartState]
  · have rank : reasonRank 0x06 < reasonRank 0x01 := by decide
    simp only [enableFails, enHerd, hrole, needs_of_on htr, List.append_nil, List.mem_cons, List.not_mem_nil, or_false,
      reduceCtorEq, false_or, @eq_comm _ (some x), failIf_eq_some] at hx
    obtain ⟨-, rfl⟩ | ⟨-, rfl⟩ | ⟨-, rfl⟩ | ⟨-, rfl⟩ := hx
    · exact .inr rank
    · exact .inr rank
    · exact .inr rank
    · exact .inl rfl

/-! ## The handler of an enable (R47) -/

theorem ofBytes_singleton (v : Byte) : ofBytes [v] = v.toNat := by simp [ofBytes]

theorem enableWrite_started {e : Enable} {s : State} (w : WReq) (hs : isStopping s e.key = false) (ho : on s e.key = false)
    (hf : firstFail (enableFails e s) = none) : enableWrite e s w [1] = (enableStarted e s, .done) := by
  simp [enableWrite, ofBytes_singleton, hs, ho, hf, b2n]

theorem enableWrite_checkFailed {e : Enable} {s : State} {r k : Nat} (w : WReq) (hs : isStopping s e.key = false)
    (ho : on s e.key = false) (hf : firstFail (enableFails e s) = some (r, k)) :
    enableWrite e s w [1] = (s, .checkFailed r k) := by
  simp [enableWrite, ofBytes_singleton, hs, ho, hf, b2n]

/-- A write of the value that an enable reads runs no check. -/
theorem enableWrite_unchanged {e : Enable} {s : State} {v : Byte} (w : WReq) (hs : isStopping s e.key = false)
    (hv : b2n (on s e.key) = v.toNat) : enableWrite e s w [v] = (s, .done) := by
  have hle : v.toNat ≤ 1 := by rw [← hv]; cases on s e.key <;> simp [b2n]
  simp [enableWrite, ofBytes_singleton, hs, hv, Nat.not_lt.mpr hle]

/-! ## The record of a refusal (R51) -/

section
variable (s : State) (via : Via) (reason key : Nat)

@[simp] theorem rd_noteRefusal_index : rd (noteRefusal s via reason key) 0x10F002 = key / 256 := by simp [noteRefusal]
@[simp] theorem rd_noteRefusal_subindex : rd (noteRefusal s via reason key) 0x10F003 = key % 256 := by simp [noteRefusal]
@[simp] theorem rd_noteRefusal_reason : rd (noteRefusal s via reason key) 0x10F004 = reason := by simp [noteRefusal]
@[simp] theorem rd_noteRefusal_transport : rd (noteRefusal s via reason key) 0x10F005 = viaTransport via := by simp [noteRefusal]
@[simp] theorem rd_noteRefusal_count : rd (noteRefusal s via reason key) 0x10F006 = (rd s 0x10F006 + 1) % 2 ^ 24 := by
  simp [noteRefusal]

end

/-- The record of a refusal leaves every other object as it was. -/
theorem on_noteRefusal {s : State} {k : Nat} (via : Via) (reason key : Nat) (h : k / 256 ≠ 0x10F0) :
    on (noteRefusal s via reason key) k = on s k := by
  rw [on, (sba_note s via reason key).1 k (by simp [isRefusalKey, h]), on]

/-- Settles O4: an allowed write runs the enable's handler, whose outcome is that of the check; a failed check is recorded and raised. -/
theorem enablesFollowTheirCheck : Obligations.EnablesFollowTheirCheck := by
  unfold Obligations.EnablesFollowTheirCheck
  refine ⟨fun c e w s hwf hc ha hs ho hf => ?_, fun c e w s r k hwf hc ha hs ho hf => ?_, fun c e w v s hwf hc _ ha hs hv => ?_,
    fun _ s _ _ _ hst hsrc htr => firstFail_enHerd hst hsrc htr⟩
  · rw [(enable_run hwf hc ha).1, enableWrite_started w hs ho hf]
    rfl
  · obtain ⟨hx, hk⟩ := enable_run hwf hc ha
    refine ⟨noteRefusal s w.via r k, ?_, ?_, ?_⟩
    · rw [hx, enableWrite_checkFailed w hs ho hf]
      rfl
    · rw [on_noteRefusal _ _ _ hk, ho]
    · simp [sba_note]
  · rw [(enable_run hwf hc ha).1, enableWrite_unchanged w hs hv]
    rfl

end Sys2Proof.Machine
end

section
/-! SUPPORT. Resets and start-up (R403, R422, R426, R427, R443, R450, R454, R478 to R480): what a node reset keeps, which path each of
its causes takes, what a power-up loses, and how the autostart list goes on or ends. -/

namespace Sys2Proof.Machine

/-! ## An event and the dictionary (R402, R403) -/

/-- An entry of the log writes only objects of the log's own index. -/
theorem rd_logPut {s : State} {k : Nat} (e : Nat) (h : k / 256 ≠ 0x8200) : rd (logPut s e) k = rd s k := by
  have hh : k ≠ K.logHead := by rintro rfl; exact h rfl
  have hc : k ≠ K.logCount := by rintro rfl; exact h rfl
  have hp : k ≠ K.tracePulses := by rintro rfl; exact h rfl
  simp only [logPut]
  split <;> simp only [rd_emit, rd_bump, rd_wr, hh, hc, hp, ↓reduceIte] <;> rfl

/-- Raising an event leaves every object outside the log's index as it was. -/
theorem rd_event {s : State} {k : Nat} (source code slice sev data : Nat) (h : k / 256 ≠ 0x8200) :
    rd (event s source code slice sev data) k = rd s k := by
  unfold event
  extract_lets counted
  have hc : rd counted k = rd s k := by
    simp only [counted]
    split <;> rfl
  clear_value counted
  rw [← hc]
  split
  · rfl
  · split
    · rfl
    · split
      · rw [rd_mgmt]
        exact rd_logPut _ h
      · exact rd_logPut _ h

/-! ## A node reset and boot (R427, R443, R450, R479) -/

section
variable (s : State)

/-- R479: an object that a reset does not keep reads its default. -/
theorem rd_resetState (k : Nat) : rd (resetState s) k = if keptAtReset k then rd s k else keyDflt k :=
  rd_filter_dict s keptAtReset k

/-- Recovery is start state 0x5 with the reason it was entered for (R443, R450). -/
theorem rd_recover (reason type : Nat) :
    rd (recover s reason type) K.nodeStartState = 5 ∧ rd (recover s reason type) K.recoveryReason = reason := by
  simp [recover, rd_event, K.nodeStartState, K.recoveryReason, K.recoveryImageType]

/-- R479: the strap leads into recovery before anything is verified. -/
theorem boot_strap : boot s true = recover (loadStore s) 3 0 := rfl

theorem exec_nodeReset : exec .nodeReset s = .next (if s.sec.held then s else boot (resetState s) false) := rfl

/-- The watchdog boots the node again, or enters recovery at the third expiry in a row (R427, R443). -/
theorem exec_controlCoreWatchdog_starting {s : State} (hh : s.sec.held = false) (hr : inRecovery s = false)
    (hst : rd s K.nodeStartState < 3) : exec .controlCoreWatchdog s =
      let t := resetState (wr s K.bootFailures (min 255 (rd s K.bootFailures + 1)))
      .next (if 2 ≤ rd s K.bootFailures then recover (loadStore t) 4 0 else boot t false) := by
  have third : 3 ≤ min 255 (rd s K.bootFailures + 1) ↔ 2 ≤ rd s K.bootFailures := by omega
  have starting : ¬ 3 ≤ rd s K.nodeStartState := by omega
  change execControlCoreWatchdog s = _
  simp only [execControlCoreWatchdog, hh, hr, starting, third, Bool.or_self, decide_false, Bool.false_eq_true, ↓reduceIte]
  split <;> rfl

/-- Once the slices have started, in recovery, and in reset, the watchdog does nothing. -/
theorem exec_controlCoreWatchdog_idle {s : State} (h : s.sec.held = true ∨ inRecovery s = true ∨ 3 ≤ rd s K.nodeStartState) :
    exec .controlCoreWatchdog s = .next s := by
  change execControlCoreWatchdog s = _
  rw [execControlCoreWatchdog, if_pos]
  simpa [or_assoc] using h

/-! ## The reset input and the power inputs (R403, R422, R426, R479, R480) -/

theorem exec_nodeRstNAssert : exec .nodeRstNAssert s = if s.sec.rstLow then .next s
    else .next { resetState s with sec := { (resetState s).sec with rstLow := true, held := true } } := rfl

theorem exec_nodeRstNRelease (strap : Bool) : exec (.nodeRstNRelease strap) s = if !s.sec.rstLow then .next s
    else .next (boot (resetState { s with sec := { s.sec with rstLow := false, held := false } }) strap) := rfl

/-- The state after the core rails come up: the log is empty and an open debug state is lost (R403, R426). -/
def coreRailsUp : State :=
  let t := wr (clearLog s) K.logCount 0
  if rd s K.debugState = 2 then wr t K.debugState (if rd s K.lifecycle = 2 then 1 else 0) else t

theorem rd_clearLog (k : Nat) : rd (clearLog s) k = if k = K.logHead then 0 else rd s k := rd_wr ..

theorem exec_coreRailsPowerUp : exec .coreRailsPowerUp s = .next (coreRailsUp s) := by
  change execCoreRailsPowerUp s = _
  simp [execCoreRailsPowerUp, coreRailsUp, rd_clearLog, K.debugState, K.lifecycle, K.logHead, K.logCount]

/-- R426: the debug state, where it is open, returns to what the lifecycle gives; the log's head and count return to 0. -/
theorem rd_coreRailsUp (k : Nat) : rd (coreRailsUp s) k =
    if k = K.debugState then if rd s K.debugState = 2 then if rd s K.lifecycle = 2 then 1 else 0 else rd s K.debugState
    else if k = K.logHead ∨ k = K.logCount then 0 else rd s k := by
  simp only [coreRailsUp]
  split <;> grind [rd_wr, rd_clearLog]

theorem coreRailsUp_log : (coreRailsUp s).log = [] := by
  simp only [coreRailsUp]
  split <;> rfl

theorem exec_vddAuxPowerUp :
    exec .vddAuxPowerUp s = .next { s with dict := s.dict.filter (fun p => !(persOf p.1 == some .alwaysOn)) } := rfl

/-! ## The autostart list (R454) -/

theorem exec_autostartWaitEnd_due {s t : State} {ok : Bool} (ha : rd s K.autostartState = 1) (hr : autoReady s (autoEntry s) = true)
    (hw : internalWrite handler s (bits (autoEntry s) 48 16) (bits (autoEntry s) 40 8) [1] = (t, ok)) :
    exec .autostartWaitEnd s = .next (if ok then autoAt t (rd s K.autostartPosition + 1) else wr t K.autostartState 3) := by
  change execAutostartWaitEnd s = _
  simp only [execAutostartWaitEnd, ha, hr, hw]
  cases ok <;> rfl

theorem exec_autostartWaitEnd_idle {s : State} (h : rd s K.autostartState ≠ 1 ∨ autoReady s (autoEntry s) = false) :
    exec .autostartWaitEnd s = .next s := by
  change execAutostartWaitEnd s = _
  simp only [execAutostartWaitEnd]
  rw [if_pos]
  simpa using h

theorem exec_autostartTimeout : exec .autostartTimeout s =
    .next (if rd s K.autostartState = 1 ∧ autoReady s (autoEntry s) = false ∧ autoOver s = true then wr s K.autostartState 4 else s) := by
  change execAutostartTimeout s = _
  simp only [execAutostartTimeout, Bool.and_eq_true, beq_iff_eq, Bool.not_eq_true', and_assoc]
  split <;> rfl

end

/-- Settles O55: each cause's command takes the path that its own rule above gives it, and a reset or a power-up reads as what it keeps. -/
theorem resetsTakeDefaults : Obligations.ResetsTakeDefaults := by
  unfold Obligations.ResetsTakeDefaults
  refine ⟨?nodeReset, ?objects, fun s => ⟨rfl, rfl, rfl, rfl⟩, ?watchdog, fun s h => exec_controlCoreWatchdog_idle h, ?inputsFall, ?release,
    ?strap, ?coreRails, ?vddAux, ?entryDue, fun s h => exec_autostartWaitEnd_idle h, ?entryOver⟩
  case nodeReset => exact fun s => ⟨fun h => by simp [exec_nodeReset, h], fun h => by simp [exec_nodeReset, h]⟩
  case objects => exact fun s k => ⟨fun h => by simp [rd_resetState, h], fun h => by simp [rd_resetState, h]⟩
  case watchdog =>
    intro s t hh hr hst ht
    rw [exec_controlCoreWatchdog_starting hh hr hst, ← ht]
    exact ⟨fun h => by simp [Nat.not_le.mpr h], fun h => by simp [h]⟩
  case inputsFall =>
    rintro s _ rfl
    exact ⟨fun h => by simp [exec_nodeRstNAssert, h], fun h => by simp [exec_nodeRstNAssert, h], rfl⟩
  case release => exact fun strap s => ⟨fun h => by simp [exec_nodeRstNRelease, h], fun h => by simp [exec_nodeRstNRelease, h]⟩
  case strap =>
    intro s
    rw [boot_strap]
    exact rd_recover ..
  case coreRails =>
    refine fun s => ⟨coreRailsUp s, exec_coreRailsPowerUp s, coreRailsUp_log s, ?_, ?_, ?_, fun k hh hc hd => ?_⟩
    · simp [rd_coreRailsUp, K.logHead, K.debugState]
    · simp [rd_coreRailsUp, K.logCount, K.debugState]
    · simp [rd_coreRailsUp]
    · simp [rd_coreRailsUp, hh, hc, hd]
  case vddAux =>
    refine fun s => ⟨_, exec_vddAuxPowerUp s, rfl, fun k => ?_⟩
    rw [rd_filter_dict s (fun k => !(persOf k == some .alwaysOn))]
    by_cases h : persOf k = some .alwaysOn <;> simp [h]
  case entryDue =>
    intro s t ok ha hr hw
    rw [exec_autostartWaitEnd_due ha hr hw]
    exact ⟨fun h => by simp [h], fun h => by simp [h]⟩
  case entryOver =>
    intro s
    rw [exec_autostartTimeout]
    refine ⟨fun ha hr ho => by rw [if_pos ⟨ha, hr, ho⟩], fun h => ?_⟩
    rw [if_neg]
    rintro ⟨ha, hr, ho⟩
    simp [ha, hr, ho] at h

end Sys2Proof.Machine
end

section
/-! SUPPORT. What every operation of the model keeps: the queue of waiting commands, and the canonical forms that the invariant speaks
of. One lemma per operation, in the order of the model's files: an operation leads from a state that keeps what a state z has to one that
does. A command ends in such a state. -/

namespace Sys2Proof.Machine

/-- A state t has the queue of s, and meets the invariant where s does. -/
structure Keeps (s t : State) : Prop where
  pending : t.pending = s.pending
  inv : s.Inv → t.Inv

/-- A command ends in a next state that keeps what s has. -/
def Leads (s : State) (o : Outc) : Prop := ∃ t, o = .next t ∧ Keeps s t

theorem Keeps.refl (s : State) : Keeps s s := ⟨rfl, id⟩

theorem Keeps.trans {s t u : State} (h : Keeps s t) (g : Keeps t u) : Keeps s u := ⟨g.pending.trans h.pending, g.inv ∘ h.inv⟩

section

variable {z s : State}

/-- An update of fields other than the queue and those that the invariant reads. -/
theorem Keeps.same {t : State} (h : Keeps z s) (hp : t.pending = s.pending) (hc : t.mem.cells = s.mem.cells) (hd : t.dict = s.dict)
    (hl : t.log = s.log) (ha : t.arrays = s.arrays) : Keeps z t :=
  h.trans ⟨hp, fun i => by rw [State.Inv, hc, hd, hl, ha]; exact i⟩

/-- The same for an update as it stands in a definition. -/
theorem keeps_update {o f n dq tm hd sch att kv dirs trees ctxs cw fences mem ob se ho dt comp host rel srch pow net sec}
    (h : Keeps z s) (hm : mem.cells = s.mem.cells) :
    Keeps z { pending := s.pending, out := o, free := f, nextId := n, dict := s.dict, dq := dq, tm := tm, herd := hd, sch := sch,
              att := att, kv := kv, dirs := dirs, trees := trees, ctxs := ctxs, ctxWait := cw, arrays := s.arrays, fences := fences,
              mem := mem, log := s.log, outbox := ob, sessions := se, holds := ho, dirTaken := dt, comp := comp, host := host,
              rel := rel, srch := srch, pow := pow, net := net, sec := sec } := h.same rfl hm rfl rfl rfl

theorem Keeps.fst {α : Type} {p : State × α} {t : State} {x : α} (h : Keeps z p.1) (e : p = (t, x)) : Keeps z t := by
  subst e; exact h

theorem leads_next (h : Keeps z s) : Leads z (.next s) := ⟨s, rfl, h⟩

theorem leads_ite {c : Prop} [Decidable c] {a b : Outc} (ha : Leads z a) (hb : Leads z b) : Leads z (if c then a else b) := by
  split
  · exact ha
  · exact hb

theorem keeps_ite {c : Prop} [Decidable c] {a b : State} (ha : Keeps z a) (hb : Keeps z b) : Keeps z (if c then a else b) := by
  split
  · exact ha
  · exact hb

theorem keeps_getD {o : Option State} (h : Keeps z s) (ho : ∀ {t}, o = some t → Keeps z t) : Keeps z (o.getD s) := by
  cases o with
  | none => exact h
  | some t => exact ho rfl

theorem keeps_foldl_mem {α : Type} {f : State → α → State} {l : List α} (hf : ∀ t, ∀ x ∈ l, Keeps z t → Keeps z (f t x))
    (h : Keeps z s) : Keeps z (l.foldl f s) := by
  induction l generalizing s with
  | nil => exact h
  | cons x l ih =>
    exact ih (fun t y hy => hf t y (List.mem_cons_of_mem _ hy)) (hf _ _ List.mem_cons_self h)

theorem keeps_foldl {α : Type} {f : State → α → State} (hf : ∀ t x, Keeps z t → Keeps z (f t x)) (l : List α) (h : Keeps z s) :
    Keeps z (l.foldl f s) := keeps_foldl_mem (fun t x _ => hf t x) h

/-- The same where the fold carries a value beside the state. -/
theorem keeps_foldl_fst {α β : Type} {f : State × β → α → State × β} (hf : ∀ p x, Keeps z p.1 → Keeps z (f p x).1) (l : List α)
    {p : State × β} (h : Keeps z p.1) : Keeps z (l.foldl f p).1 := by
  induction l generalizing p with
  | nil => exact h
  | cons x l ih => exact ih (hf _ _ h)

theorem length_setNth {α : Type} (l : List α) (n : Nat) (v : α) : (setNth l n v).length = l.length := by
  induction l generalizing n with
  | nil => rfl
  | cons a l ih => cases n <;> simp [setNth, ih]

theorem firstSome_eq_some {β : Type} {l : List (Option β)} {b : β} (h : firstSome l = some b) : ∃ o ∈ l, o = some b := by
  induction l with
  | nil => cases h
  | cons o l ih =>
    cases o with
    | none => obtain ⟨o, ho, rfl⟩ := ih h; exact ⟨_, List.mem_cons_of_mem _ ho, rfl⟩
    | some c => exact ⟨_, List.mem_cons_self, h⟩

theorem twf_foldl_tset {α : Type} {d : Tbl α} (l : List (Nat × α)) (h : twf d = true) :
    twf (l.foldl (fun d p => tset d p.1 p.2) d) = true := by
  induction l generalizing d with
  | nil => exact h
  | cons p l ih => exact ih (twf_tset _ _ h)

/-! ## Ops -/

theorem keeps_wr (h : Keeps z s) (k v) : Keeps z (wr s k v) := by
  exact h.trans ⟨rfl, fun ⟨hm, hd, hl, ha⟩ => ⟨hm, twf_tset _ _ hd, hl, ha⟩⟩

theorem keeps_bump (h : Keeps z s) (k n) : Keeps z (bump s k n) := by
  unfold bump
  grind [keeps_update, keeps_wr]

theorem keeps_emit (h : Keeps z s) (o) : Keeps z (emit s o) := h.same rfl rfl rfl rfl rfl

theorem keeps_post (h : Keeps z s) (dst vl b) : Keeps z (post s dst vl b) := h.same rfl rfl rfl rfl rfl

theorem keeps_postFor (h : Keeps z s) (tenant dst vl b) : Keeps z (postFor s tenant dst vl b) := h.same rfl rfl rfl rfl rfl

theorem keeps_mgmt (h : Keeps z s) (dst b) : Keeps z (mgmt s dst b) := h.same rfl rfl rfl rfl rfl

theorem keeps_fresh (h : Keeps z s) : Keeps z (fresh s).2 := h.same rfl rfl rfl rfl rfl

theorem keeps_newId (h : Keeps z s) : Keeps z (newId s).2 := h.same rfl rfl rfl rfl rfl

theorem keeps_offerRecord (h : Keeps z s) (e) : Keeps z (offerRecord s e) := by
  unfold offerRecord
  exact h.same rfl rfl rfl rfl rfl

theorem keeps_logPut (h : Keeps z s) (e) : Keeps z (logPut s e) := by
  unfold logPut
  have hp : Keeps z { s with log := tset s.log (rd s K.logHead % 4096) e } :=
    h.trans ⟨rfl, fun ⟨hm, hd, hl, ha⟩ => ⟨hm, hd, twf_tset _ _ hl, ha⟩⟩
  grind [keeps_bump, keeps_emit, keeps_wr, keeps_offerRecord]

theorem keeps_addPenalty (h : Keeps z s) (i n) : Keeps z (addPenalty s i n) := h.same rfl rfl rfl rfl rfl

theorem keeps_event (h : Keeps z s) (source code slice sev data) : Keeps z (event s source code slice sev data) := by
  unfold event
  extract_lets t
  have ht : Keeps z t := by grind [keeps_addPenalty]
  clear_value t
  split
  · exact ht
  · split
    · exact ht.trans ⟨rfl, fun ⟨hm, hd, hl, ha⟩ => ⟨hm, hd, twf_tset _ _ hl, ha⟩⟩
    · grind [keeps_mgmt, keeps_logPut]

theorem keeps_freeEvent (h : Keeps z s) (source slice) : Keeps z (freeEvent s source slice) := by
  unfold freeEvent
  grind [keeps_update, keeps_fresh, keeps_event]

/-! ## Dict -/

theorem keeps_noteRefusal (h : Keeps z s) (via reason key) : Keeps z (noteRefusal s via reason key) := by
  unfold noteRefusal
  grind [keeps_update, keeps_wr]

theorem keeps_enableRefused (h : Keeps z s) (via reason key) : Keeps z (enableRefused s via reason key) := by
  unfold enableRefused
  grind [keeps_update, keeps_event]

theorem keeps_wrAll (h : Keeps z s) (l v) : Keeps z (wrAll s l v) := by
  exact keeps_foldl (fun _ _ h => by grind [keeps_update, keeps_wr]) _ h

theorem keeps_claimTake (h : Keeps z s) (claim owner) : Keeps z (claimTake s claim owner) := by
  unfold claimTake
  extract_lets s1 s2
  have h1 : Keeps z s1 := keeps_foldl (fun _ _ h => keeps_wrAll h ..) _ h
  have h2 : Keeps z s2 := keeps_foldl (fun _ _ h => keeps_wrAll h ..) _ h1
  exact keeps_ite (keeps_wr h2 ..) h2

theorem keeps_claimRelease (h : Keeps z s) (owner) : Keeps z (claimRelease s owner) := by
  unfold claimRelease
  extract_lets s1 s2
  have h1 : Keeps z s1 := keeps_foldl (fun _ _ h => keeps_wrAll h ..) _ h
  have h2 : Keeps z s2 := keeps_foldl (fun _ _ h => keeps_wrAll h ..) _ h1
  exact keeps_ite (keeps_wr h2 ..) h2

theorem keeps_store (h : Keeps z s) (o k v) : Keeps z (store s o k v) := by
  unfold store
  grind [keeps_update, keeps_wr]

theorem keeps_endMailbox (h : Keeps z s) (via r) : Keeps z (endMailbox s via r) := by
  unfold endMailbox
  grind [keeps_update, keeps_emit]

theorem keeps_answer (h : Keeps z s) (via r) : Keeps z (answer s via r) := by
  unfold answer
  grind [keeps_update, keeps_mgmt, keeps_emit, keeps_endMailbox]

theorem keeps_finish (h : Keeps z s) (via p r) : Keeps z (finish s via p r) := by
  unfold finish
  grind [keeps_update, keeps_enableRefused, keeps_noteRefusal, keeps_answer]

theorem keeps_serveWrite {f : Handler} (h : Keeps z s) (hf : ∀ w l, Keeps z (f s w l).1) (via p) : Keeps z (serveWrite s via p f) := by
  unfold serveWrite
  repeat' split
  any_goals exact keeps_finish h ..
  any_goals exact keeps_answer h ..
  all_goals
    dsimp only
    repeat' split
  any_goals exact keeps_finish h ..
  any_goals exact keeps_answer h ..
  all_goals exact keeps_finish (Keeps.fst (hf ..) ‹f s _ _ = _›) ..

theorem keeps_takePdu {serve : State → State} (h : Keeps z s) (hs : Keeps z (serve s)) (via p) : Keeps z (takePdu s via p serve) := by
  unfold takePdu
  grind [keeps_answer, keeps_mgmt, keeps_emit]

theorem keeps_rowWrite {f : Handler} (h : Keeps z s) (hf : ∀ w l, Keeps z (f s w l).1) (w idx sub off l) : Keeps z (rowWrite s w idx sub
  off l f) := by
  exact keeps_takePdu (serve := fun s => serveWrite s w.via (rowPdu w idx sub off l) f) h (keeps_serveWrite h hf ..) ..

theorem keeps_measure (h : Keeps z s) (n v) : Keeps z (measure s n v) := by
  unfold measure
  grind [keeps_update, keeps_bump]

theorem keeps_measureBank (h : Keeps z s) : Keeps z (measureBank s) := by
  unfold measureBank
  grind [keeps_update, keeps_measure]

theorem keeps_endCommit (h : Keeps z s) : Keeps z (endCommit s) := by
  unfold endCommit
  grind [keeps_update, keeps_measureBank, keeps_answer, keeps_event, keeps_wr]

theorem keeps_beginCommit (h : Keeps z s) (w readBackOk) : Keeps z (beginCommit w readBackOk s).1 := by
  unfold beginCommit
  grind [keeps_update, keeps_endCommit, keeps_wr]

/-! ## Kv -/

theorem keeps_putSheet (h : Keeps z s) (sh) : Keeps z (putSheet s sh) := h.same rfl rfl rfl rfl rfl

theorem keeps_putQuire (h : Keeps z s) (k q) : Keeps z (putQuire s k q) := h.same rfl rfl rfl rfl rfl

/-! ## Space -/

theorem keeps_takeHold (h : Keeps z s) (k id st bytes) : Keeps z (takeHold s k id st bytes) := by
  unfold takeHold
  grind [keeps_update]

theorem keeps_takeSpread (h : Keeps z s) (k id bytes) : Keeps z (takeSpread s k id bytes) := by
  exact keeps_foldl (fun _ _ h => by grind [keeps_update, keeps_takeHold]) _ h

theorem keeps_startClear (h : Keeps z s) (id st bytes) : Keeps z (startClear s id st bytes) := by
  unfold startClear
  grind [keeps_update, keeps_takeHold]

theorem keeps_freeHold (h : Keeps z s) (k id) : Keeps z (freeHold s k id).2 := h.same rfl rfl rfl rfl rfl

theorem keeps_resizeHold (h : Keeps z s) (k id st bytes) : Keeps z (resizeHold s k id st bytes) := by
  unfold resizeHold
  grind [keeps_update, keeps_newId, keeps_takeHold, keeps_startClear]

theorem keeps_clearQuireSpace (h : Keeps z s) (sl k v kCar) : Keeps z (clearQuireSpace s sl k v kCar) := by
  unfold clearQuireSpace
  grind [keeps_update, keeps_newId, keeps_startClear]

/-! ## Mem -/

theorem keeps_setCells {m} (h : Keeps z s) (hm : z.Inv → Mem.wf m = true) : Keeps z (setCells s m) := by
  exact ⟨h.pending, fun hz => ⟨hm hz, (h.inv hz).2⟩⟩

theorem keeps_cleanLine (h : Keeps z s) (line) : Keeps z (cleanLine s line) := by
  unfold cleanLine
  grind [keeps_update, keeps_wr]

theorem keeps_cleanBlock (h : Keeps z s) (b) : Keeps z (cleanBlock s b) := by
  unfold cleanBlock
  grind [keeps_update, keeps_wr]

theorem keeps_clearPoison (h : Keeps z s) (sl) : Keeps z (clearPoison s sl) := by
  unfold clearPoison
  grind [keeps_update, keeps_wr]

theorem keeps_wroteLines (h : Keeps z s) (ls) : Keeps z (wroteLines s ls) := by
  unfold wroteLines
  exact keeps_foldl (fun _ _ h => by grind [keeps_update, keeps_cleanLine]) _ (by grind [keeps_update, keeps_cleanLine])

theorem keeps_mapBlocks (h : Keeps z s) (m k id) : Keeps z (mapBlocks s m k id) := by
  unfold mapBlocks
  exact keeps_update (keeps_foldl (fun _ _ h => keeps_takeHold h ..) _ h) rfl

theorem keeps_unmapRun (h : Keeps z s) (m) : Keeps z (unmapRun s m) := by
  unfold unmapRun
  extract_lets n t u
  have hu : Keeps z u := keeps_foldl (fun _ _ h => keeps_cleanBlock h _) _ (keeps_foldl (fun _ _ h => keeps_cleanLine h _) _ h)
  exact hu.trans ⟨rfl, fun ⟨hm, hd, hl, ha⟩ => ⟨memWf_clear _ _ hm, hd, hl, ha⟩⟩

theorem keeps_nodeLine (h : Keeps z s) (line) : Keeps z (nodeLine s line).1 := by
  unfold nodeLine
  grind [keeps_update, keeps_fresh, keeps_bump, keeps_emit]

theorem keeps_nodeRead (h : Keeps z s) (a n) : Keeps z (nodeRead s a n).1 := by
  unfold nodeRead
  refine keeps_foldl_fst (fun _ _ h => ?_) _ h
  exact keeps_nodeLine h _

theorem keeps_nodeWrite (h : Keeps z s) (a data) : Keeps z (nodeWrite s a data) := by
  unfold nodeWrite
  extract_lets t
  have ht : Keeps z t := keeps_foldl (fun _ _ h => by grind [keeps_emit]) _ h
  exact keeps_wroteLines (keeps_setCells ht fun hz => memWf_write _ _ (ht.inv hz).1) _

/-! ## Time -/

theorem keeps_skipMissed (h : Keeps z s) : Keeps z (skipMissed s) := h.same rfl rfl rfl rfl rfl

theorem leads_execTimeSymbolSend (h : Keeps z s) (link) : Leads z (execTimeSymbolSend link s) := by
  unfold execTimeSymbolSend
  grind [leads_next, keeps_update, keeps_emit]

theorem keeps_correctTime (h : Keeps z s) (off) : Keeps z (correctTime s off) := by
  unfold correctTime
  grind [keeps_update]

theorem keeps_slewTime (h : Keeps z s) (off) : Keeps z (slewTime s off) := by
  unfold slewTime
  grind [keeps_update]

theorem keeps_setLockRun (h : Keeps z s) (n) : Keeps z (setLockRun s n) := h.same rfl rfl rfl rfl rfl

theorem keeps_followSymbol (h : Keeps z s) (value) : Keeps z (followSymbol s value) := by
  unfold followSymbol
  grind [keeps_update, keeps_slewTime, keeps_setLockRun, keeps_skipMissed, keeps_wr, keeps_correctTime]

theorem keeps_settleStart (h : Keeps z s) : Keeps z (settleStart s) := by
  unfold settleStart
  grind [keeps_update, keeps_wr]

theorem keeps_sendJoin (h : Keeps z s) : Keeps z (sendJoin s) := by
  unfold sendJoin
  grind [keeps_update, keeps_bump, keeps_mgmt]

theorem keeps_joinWhenLocked (h : Keeps z s) : Keeps z (joinWhenLocked s) := by
  unfold joinWhenLocked
  grind [keeps_update, keeps_sendJoin]

theorem leads_execTimeSymbol (h : Keeps z s) (link block) : Leads z (execTimeSymbol link block s) := by
  unfold execTimeSymbol
  extract_lets b d t _ u _ v
  have hu : Keeps z u := keeps_update (keeps_wr h ..) rfl
  have hv : Keeps z v := keeps_update hu rfl
  clear_value u v
  split
  · exact leads_next h
  split
  · exact leads_next hu
  split
  · exact leads_next hv
  extract_lets w
  have hw : Keeps z w := keeps_wr (keeps_wr hv ..) ..
  split
  · exact leads_next (keeps_joinWhenLocked (keeps_followSymbol hw _))
  · exact leads_next hw

theorem leads_execHtSymbolTimeout (h : Keeps z s) : Leads z (execHtSymbolTimeout s) := by
  unfold execHtSymbolTimeout
  grind [leads_next, keeps_update, keeps_wr]

theorem leads_execHtLost (h : Keeps z s) : Leads z (execHtLost s) := by
  unfold execHtLost
  grind [leads_next, keeps_update, keeps_event, keeps_wr]

theorem leads_execHtRefEdge (h : Keeps z s) : Leads z (execHtRefEdge s) := by
  unfold execHtRefEdge
  grind [leads_next, keeps_update, keeps_slewTime, keeps_wr]

theorem leads_execHtRefMissing (h : Keeps z s) : Leads z (execHtRefMissing s) := by
  unfold execHtRefMissing
  grind [leads_next, keeps_update, keeps_event, keeps_wr]

theorem keeps_clock (h : Keeps z s) : Keeps z (clock s) := by
  unfold clock
  grind [keeps_update, keeps_endCommit]

/-! ## Sched -/

theorem keeps_updateSpan (h : Keeps z s) : Keeps z (updateSpan s) := by
  unfold updateSpan
  grind [keeps_update, keeps_mgmt, keeps_wr]

theorem keeps_takeOccurrence (h : Keeps z s) (sl k e) : Keeps z (takeOccurrence s sl k e) := by
  unfold takeOccurrence
  grind [keeps_update, keeps_bump]

/-! ## Tickets -/

theorem keeps_armDl (h : Keeps z s) (sl d id) : Keeps z (armDl s sl d id) := by
  unfold armDl
  grind [keeps_update]

theorem keeps_dropDl (h : Keeps z s) (id) : Keeps z (dropDl s id) := h.same rfl rfl rfl rfl rfl

theorem keeps_writeCompletion (h : Keeps z s) (addr record gaps) : Keeps z (writeCompletion s addr record gaps) := by
  exact keeps_emit (keeps_foldl (fun _ _ h => keeps_emit h _) _ h) _

theorem keeps_issueWrite (h : Keeps z s) (tk record gaps) : Keeps z (issueWrite s tk record gaps) := by
  unfold issueWrite
  grind [keeps_update, keeps_bump, keeps_writeCompletion]

theorem keeps_completeAs (h : Keeps z s) (tk status count commitStep gaps late) : Keeps z (completeAs s tk status count commitStep gaps
  late) := by
  unfold completeAs
  grind [keeps_update, keeps_bump, keeps_dropDl, keeps_mgmt, keeps_issueWrite]

theorem keeps_putResult {t} (h : Keeps z s) (tk addr data) (e : putResult s tk addr data = some t) : Keeps z t := by
  unfold putResult at e
  grind [keeps_nodeWrite]

theorem keeps_complete (h : Keeps z s) (tk status count commitStep) : Keeps z (complete s tk status count commitStep) := by
  unfold complete
  grind [keeps_update, keeps_completeAs]

theorem keeps_completeResult (h : Keeps z s) (tk addr data status count) : Keeps z (completeResult s tk addr data status count) := by
  unfold completeResult
  grind [keeps_update, keeps_bump, keeps_complete, keeps_putResult]

theorem keeps_refuse (h : Keeps z s) (tk code) : Keeps z (refuse s tk code) := by
  unfold refuse
  grind [keeps_update, keeps_bump, keeps_completeAs]

theorem keeps_refuseArea (h : Keeps z s) (tk code) : Keeps z (refuseArea s tk code) := by
  unfold refuseArea
  grind [keeps_update, keeps_bump, keeps_refuse]

theorem keeps_expire (h : Keeps z s) (tk resultComes) : Keeps z (expire s tk resultComes) := by
  unfold expire
  grind [keeps_update, keeps_completeAs]

theorem keeps_takeHead {tk t} (h : Keeps z s) (type) (e : takeHead s type = some (tk, t)) : Keeps z t := by
  unfold takeHead at e
  grind [keeps_update]

/-! ## Directory -/

theorem keeps_setDirs (h : Keeps z s) (l) : Keeps z (setDirs s l) := h.same rfl rfl rfl rfl rfl

theorem keeps_dirPut {t} (h : Keeps z s) (e) (e : dirPut s e = some t) : Keeps z t := by
  unfold dirPut at e
  dsimp only at e
  split at e
  · obtain ⟨r, -, rfl⟩ := Option.map_eq_some_iff.mp e
    exact keeps_setDirs h _
  split at e
  · obtain ⟨r, -, rfl⟩ := Option.map_eq_some_iff.mp e
    exact keeps_bump (keeps_setDirs h _) ..
  · grind [keeps_bump, keeps_setDirs]

theorem keeps_dirDrop (h : Keeps z s) (p) : Keeps z (dirDrop s p) := h.same rfl rfl rfl rfl rfl

theorem keeps_installGroup (h : Keeps z s) (fuel sl g) : Keeps z (installGroup fuel s sl g) := by
  induction fuel generalizing s with
  | zero => exact h
  | succ fuel ih =>
    unfold installGroup
    grind [keeps_bump, keeps_setDirs]

theorem keeps_dirAccount (h : Keeps z s) (sl kind key mask) : Keeps z (dirAccount s sl kind key mask) := by
  unfold dirAccount
  grind [keeps_bump, keeps_setDirs, keeps_installGroup]

theorem keeps_homeOf (h : Keeps z s) (sl tenant ream) : Keeps z (homeOf s sl tenant ream).1 := by
  unfold homeOf
  grind [keeps_update, keeps_dirAccount]

theorem keeps_setReam (h : Keeps z s) (tenant ream f) : Keeps z (setReam s tenant ream f) := by
  unfold setReam
  grind [keeps_update]

theorem keeps_contributors (h : Keeps z s) (sl epoch r) : Keeps z (contributors s sl epoch r).1 := by
  have ht := keeps_foldl (fun _ p h => keeps_dirAccount h sl 2 (dirKey 2 (tkTenant r) (bReam r) (qLayer r) (qHead r) p.1) (2 ^ 96 - 2 ^
    (5 + p.2)))
    (coverOf 64 (quireRange r).1 (quireRange r).2) h
  unfold contributors
  dsimp only
  split
  · exact keeps_homeOf ht sl (tkTenant r) (bReam r)
  · exact ht

theorem keeps_setPos (h : Keeps z s) (p) : Keeps z (setPos s p) := by
  unfold setPos
  grind [keeps_update, keeps_wr]

theorem keeps_windowFind (h : Keeps z s) : Keeps z (windowFind s).1 := by
  unfold windowFind
  grind [keeps_update, keeps_setPos, keeps_wr]

theorem keeps_putEach {t} (h : Keeps z s) (x l) (e : putEach s x l = some t) : Keeps z t := by
  induction l generalizing s with
  | nil => cases e; exact h
  | cons d r ih =>
    simp only [putEach] at e
    split at e
    · cases e
    · next hp => exact ih (keeps_dirPut h _ hp) e

theorem keeps_windowInsert (h : Keeps z s) : Keeps z (windowInsert s).1 := by
  unfold windowInsert
  grind [keeps_update, keeps_putEach, keeps_setPos]

theorem keeps_windowRemove (h : Keeps z s) : Keeps z (windowRemove s).1 := by
  unfold windowRemove
  grind [keeps_update, keeps_dirDrop, keeps_setPos]

theorem keeps_hDirWindowOp (h : Keeps z s) (l k) : Keeps z (hDirWindowOp s l k).1 := by
  unfold hDirWindowOp
  grind [keeps_update, keeps_windowRemove, keeps_windowInsert, keeps_windowFind]

theorem keeps_makeQuireEntry (h : Keeps z s) (q) : Keeps z (makeQuireEntry s q) := by
  exact keeps_getD h fun hp => keeps_dirPut h _ hp

theorem keeps_dropQuireEntry (h : Keeps z s) (q) : Keeps z (dropQuireEntry s q) := h.same rfl rfl rfl rfl rfl

theorem keeps_makeReamEntry (h : Keeps z s) (r) : Keeps z (makeReamEntry s r) := by
  exact keeps_getD h fun hp => keeps_putEach h _ _ hp

theorem keeps_dropReamEntry (h : Keeps z s) (tenant ream) : Keeps z (dropReamEntry s tenant ream) := h.same rfl rfl rfl rfl rfl

theorem keeps_retireReamEntry (h : Keeps z s) (r) : Keeps z (retireReamEntry s r) := h.same rfl rfl rfl rfl rfl

theorem keeps_spreadSlice (h : Keeps z s) (sl) : Keeps z (spreadSlice s sl) := by
  unfold spreadSlice
  exact keeps_foldl (fun _ _ h => keeps_ite (keeps_setDirs h _) h) _ h

/-! ## Moves -/

theorem keeps_setMove (h : Keeps z s) (qk q m) : Keeps z (setMove s qk q m) := h.same rfl rfl rfl rfl rfl

theorem keeps_countStall (h : Keeps z s) (t cause) : Keeps z (countStall s t cause) := by
  unfold countStall
  grind [keeps_update, keeps_bump]

theorem keeps_endPark (h : Keeps z s) (x cause) : Keeps z (endPark s x cause) := by
  unfold endPark
  grind [keeps_update, keeps_bump]

theorem keeps_quireArrived (h : Keeps z s) (qk cause failed) : Keeps z (quireArrived s qk cause failed) := by
  exact keeps_foldl (fun _ _ h => by grind [keeps_update, keeps_endPark]) _ h

theorem keeps_vatWrite (h : Keeps z s) (region start kib) : Keeps z (vatWrite s region start kib) := h.same rfl rfl rfl rfl rfl

theorem keeps_vatRead (h : Keeps z s) (region start kib) : Keeps z (vatRead s region start kib) := h.same rfl rfl rfl rfl rfl

theorem keeps_startMove {t} (h : Keeps z s) (qk q target sl tk) (e : startMove s qk q target sl tk = some t) : Keeps z t := by
  obtain ⟨m, -, rfl⟩ := Option.map_eq_some_iff.mp e
  exact keeps_setMove (keeps_fresh h) ..

theorem keeps_moveTicketDone (h : Keeps z s) (qk noRoom) : Keeps z (moveTicketDone s qk noRoom) := h.same rfl rfl rfl rfl rfl

theorem keeps_settleMoves (h : Keeps z s) : Keeps z (settleMoves s) := by
  unfold settleMoves
  exact keeps_foldl (fun _ _ h => by grind [keeps_update, keeps_complete]) _ (by grind [keeps_update, keeps_complete])

theorem keeps_endWait (h : Keeps z s) (a) : Keeps z (endWait s a).1 := by
  unfold endWait
  grind [keeps_update, keeps_bump]

theorem keeps_failWaiting (h : Keeps z s) (q) : Keeps z (failWaiting s q) := by
  unfold failWaiting
  exact keeps_foldl (fun _ _ h => by grind [keeps_update, keeps_endWait, keeps_completeAs]) _ (by grind [keeps_update, keeps_endWait,
    keeps_completeAs])

theorem keeps_moveFailed (h : Keeps z s) (qk q target) : Keeps z (moveFailed s qk q target) := by
  unfold moveFailed
  grind [keeps_update, keeps_bump, keeps_event, keeps_failWaiting, keeps_quireArrived]

theorem keeps_moveNoRoom (h : Keeps z s) (qk q target restarts) : Keeps z (moveNoRoom s qk q target restarts) := by
  unfold moveNoRoom
  grind [keeps_update, keeps_bump, keeps_moveTicketDone, keeps_moveFailed, keeps_settleMoves]

theorem keeps_askMove (h : Keeps z s) (qk target tk) : Keeps z (askMove s qk target tk) := by
  unfold askMove
  grind [keeps_update, keeps_moveNoRoom, keeps_startMove]

theorem keeps_addLost (h : Keeps z s) (r) : Keeps z (addLost s r) := h.same rfl rfl rfl rfl rfl

theorem keeps_freeSource (h : Keeps z s) (x) : Keeps z (freeSource s x) := by
  unfold freeSource
  grind [keeps_update, keeps_bump, keeps_vatWrite, keeps_clearQuireSpace]

theorem keeps_releaseRefs (h : Keeps z s) (share) : Keeps z (releaseRefs s share) := h.same rfl rfl rfl rfl rfl

theorem keeps_freeSources (h : Keeps z s) (qk) : Keeps z (freeSources s qk) := by
  unfold freeSources
  exact keeps_foldl (fun _ _ h => by grind [keeps_update, keeps_freeSource]) _ (by grind [keeps_update, keeps_freeSource])

theorem keeps_countSwitch (h : Keeps z s) (qk q m) : Keeps z (countSwitch s qk q m) := by
  unfold countSwitch
  grind [keeps_update, keeps_bump]

theorem keeps_nextQueued (h : Keeps z s) (qk) : Keeps z (nextQueued s qk) := by
  unfold nextQueued
  grind [keeps_update, keeps_askMove]

theorem keeps_rebuildStale (h : Keeps z s) (qk) : Keeps z (rebuildStale s qk) := h.same rfl rfl rfl rfl rfl

theorem keeps_switchMove (h : Keeps z s) (qk q m) : Keeps z (switchMove s qk q m) := by
  unfold switchMove
  extract_lets cause t
  have ht : Keeps z t := keeps_countSwitch h ..
  clear_value t
  split
  next i u e =>
  have hu : Keeps z u := by cases e; exact keeps_fresh ht
  split
  next q' src _ =>
  extract_lets q'' refs moved a b c d e _ f g
  have ha : Keeps z a := keeps_ite (keeps_dropQuireEntry hu _) hu
  have hc : Keeps z c := by
    have hb : Keeps z b := keeps_putQuire ha ..
    exact keeps_ite (keeps_rebuildStale (keeps_makeQuireEntry hb _) _) hb
  have hd : Keeps z d := keeps_ite (keeps_vatRead hc ..) hc
  have he : Keeps z e := keeps_ite (keeps_vatWrite hd ..) hd
  have hg : Keeps z g := keeps_ite (keeps_quireArrived (keeps_update he rfl) ..) (keeps_update he rfl)
  exact keeps_nextQueued (keeps_settleMoves (keeps_moveTicketDone hg ..)) _

theorem keeps_dropMove (h : Keeps z s) (qk q) : Keeps z (dropMove s qk q) := by
  unfold dropMove
  grind [keeps_update, keeps_setMove, keeps_clearQuireSpace]

theorem keeps_abandonMove (h : Keeps z s) (qk q) : Keeps z (abandonMove s qk q) := by
  unfold abandonMove
  grind [keeps_update, keeps_bump, keeps_moveTicketDone, keeps_dropMove, keeps_settleMoves, keeps_nextQueued]

theorem keeps_errorMove (h : Keeps z s) (qk q m) : Keeps z (errorMove s qk q m) := by
  unfold errorMove
  grind [keeps_update, keeps_fresh, keeps_bump, keeps_moveNoRoom, keeps_moveTicketDone, keeps_moveFailed, keeps_setMove, keeps_dropMove,
    keeps_settleMoves, keeps_nextQueued]

theorem keeps_retryRoom (h : Keeps z s) : Keeps z (retryRoom s) := by
  exact keeps_foldl (fun _ _ h => by grind [keeps_update, keeps_nextQueued]) _ h

/-! ## Appends -/

theorem keeps_addSheet {t} (h : Keeps z s) (r d layer head num) (e : addSheet s r d layer head num = some t) : Keeps z t := by
  unfold addSheet at e
  grind [keeps_update, keeps_fresh, keeps_putSheet, keeps_makeQuireEntry, keeps_putQuire]

theorem keeps_addSheets {t} (h : Keeps z s) (r d l) (e : addSheets r d s l = some t) : Keeps z t := by
  induction l generalizing s with
  | nil => cases e; exact h
  | cons p rest ih =>
    simp only [addSheets] at e
    split at e
    · cases e
    · next hp => exact ih (keeps_addSheet h _ _ _ _ _ hp) e

theorem keeps_writeOne (h : Keeps z s) (r d payload li hi ti p) : Keeps z (writeOne s r d payload li hi ti p) := by
  unfold writeOne
  grind [keeps_update, keeps_bump, keeps_putSheet]

theorem keeps_writeAll (h : Keeps z s) (r d payload) : Keeps z (writeAll s r d payload) := by
  exact keeps_foldl (fun _ _ h => keeps_foldl (fun _ _ h => keeps_foldl (fun _ _ h => keeps_writeOne h ..) _ h) _ h) _ h

theorem keeps_touchSheets (h : Keeps z s) (writes) : Keeps z (touchSheets s writes) := by
  exact keeps_foldl (fun _ _ h => by grind [keeps_update]) _ h

theorem keeps_failAppend (h : Keeps z s) (app status count pos) : Keeps z (failAppend s app status count pos) := by
  unfold failAppend
  grind [keeps_update, keeps_endWait, keeps_completeAs]

theorem keeps_waitAppend (h : Keeps z s) (app wait cause) : Keeps z (waitAppend s app wait cause) := by
  unfold waitAppend
  grind [keeps_update, keeps_countStall, keeps_endWait]

theorem keeps_appendMoves (h : Keeps z s) (l tails) : Keeps z (appendMoves s l tails).1 := by
  unfold appendMoves
  dsimp only
  refine keeps_foldl_fst (fun _ _ h => ?_) _ (keeps_foldl_fst (fun _ _ h => ?_) _ h)
  · grind [keeps_abandonMove]
  · grind [keeps_askMove]

theorem keeps_reamCount (h : Keeps z s) (f t ream) : Keeps z (reamCount s f t ream) := by
  unfold reamCount
  grind [keeps_update, keeps_bump]

theorem keeps_enterAppend (h : Keeps z s) (app r d) : Keeps z (enterAppend s app r d) := by
  unfold enterAppend
  grind [keeps_update, keeps_touchSheets, keeps_writeAll, keeps_endWait, keeps_dropDl]

theorem keeps_endAppend (h : Keeps z s) (app c) : Keeps z (endAppend s app c) := by
  unfold endAppend
  grind [keeps_update, keeps_bump, keeps_reamCount, keeps_failAppend]

theorem keeps_reamFor (h : Keeps z s) (r) : Keeps z (reamFor s r) := by
  unfold reamFor
  grind [keeps_update, keeps_setReam, keeps_makeReamEntry]

theorem keeps_makeRoom {t} (h : Keeps z s) (r) (e : makeRoom s r = some t) : Keeps z t := by
  unfold makeRoom at e
  grind [keeps_reamFor, keeps_addSheets]

theorem keeps_admitAppend (h : Keeps z s) (app) : Keeps z (admitAppend s app) := by
  have hm := keeps_appendMoves h (appendQuires s app.tk.raw) (tailQuires s app.tk.raw)
  unfold admitAppend
  grind [keeps_waitAppend, keeps_failAppend, keeps_bump, keeps_endAppend, keeps_makeRoom, keeps_enterAppend]

theorem keeps_retryAppends (h : Keeps z s) : Keeps z (retryAppends s) := by
  exact keeps_foldl (fun _ _ h => by grind [keeps_update, keeps_admitAppend]) _ h

theorem keeps_withdrawAppend (h : Keeps z s) (a) : Keeps z (withdrawAppend s a) := by
  exact keeps_foldl (fun _ _ h => by grind [keeps_update]) _ h

theorem keeps_withdrawReam (h : Keeps z s) (t ream status) : Keeps z (withdrawReam s t ream status) := by
  unfold withdrawReam
  exact keeps_foldl (fun _ _ h => by grind [keeps_update, keeps_withdrawAppend, keeps_endWait, keeps_completeAs, keeps_reamCount]) _ (by
    grind [keeps_update, keeps_withdrawAppend, keeps_endWait, keeps_completeAs, keeps_reamCount])

theorem keeps_retireReam (h : Keeps z s) (n t ream m) : Keeps z (retireReam s n t ream m) := by
  unfold retireReam
  grind [keeps_update, keeps_retireReamEntry, keeps_withdrawReam]

theorem keeps_freeQuire (h : Keeps z s) (qk q) : Keeps z (freeQuire s qk q) := by
  unfold freeQuire
  extract_lets t u v w
  have hv : Keeps z v := keeps_clearQuireSpace (keeps_dropQuireEntry (keeps_settleMoves (keeps_moveTicketDone (keeps_dropMove h ..) ..))
    _) ..
  have hw : Keeps z w := by grind [keeps_bump, keeps_vatWrite]
  exact keeps_update hw rfl

theorem keeps_reclaimReam (h : Keeps z s) (t ream m) : Keeps z (reclaimReam s t ream m) := by
  exact keeps_mgmt (keeps_bump (keeps_update (keeps_dropReamEntry (keeps_foldl (fun _ _ h => keeps_freeQuire h ..) _ h) ..) rfl) ..) ..

theorem keeps_reclaimAll (h : Keeps z s) (n) : Keeps z (reclaimAll s n) := by
  exact keeps_foldl (fun _ _ h => by grind [keeps_update, keeps_reclaimReam]) _ h

/-! ## Search -/

theorem keeps_selectSheets (h : Keeps z s) (m topK rows held) : Keeps z (selectSheets s m topK rows held).1 := by
  unfold selectSheets
  grind [keeps_update, keeps_bump]

theorem keeps_snapOf (h : Keeps z s) (t slice field) : Keeps z (snapOf s t slice field).1 := by
  unfold snapOf
  grind [keeps_update, keeps_bump]

theorem keeps_fetchParts (h : Keeps z s) (tk pa pn ba bn) : Keeps z (fetchParts s tk pa pn ba bn).1 := by
  unfold fetchParts
  grind [keeps_update, keeps_nodeRead]

theorem keeps_forwardTicket (h : Keeps z s) (tk dst parts) : Keeps z (forwardTicket s tk dst parts) := h.same rfl rfl rfl rfl rfl

theorem keeps_snapTest (h : Keeps z s) (op tk) : Keeps z (snapTest s op tk).1 := by
  unfold snapTest
  grind [keeps_update, keeps_snapOf]

theorem leads_searchFront {run : State → Tk → List Byte → List Byte → State} (h : Keeps z s)
    (hr : ∀ {t} tk p b, Keeps z t → Keeps z (run t tk p b)) (op) : Leads z (searchFront op s run) := by
  unfold searchFront
  split
  · exact leads_next h
  next tk t e =>
    have ht := keeps_takeHead h _ e
    extract_lets r remote pn bn c
    split
    · exact leads_next h
    split
    · split
      · exact leads_next (keeps_refuseArea ht ..)
      split
      · exact leads_next (keeps_complete ht ..)
      · exact leads_next (keeps_forwardTicket (keeps_fetchParts ht ..) ..)
    refine leads_ite (leads_next (keeps_refuse ht ..)) (leads_ite (leads_next (keeps_refuse ht ..))
      (leads_ite (leads_next (keeps_refuse ht ..)) ?_))
    split
    next u taken e =>
    have hu := (keeps_snapTest ht op tk).fst e
    split
    · exact leads_next (keeps_refuse hu ..)
    extract_lets c
    split
    · exact leads_next (keeps_refuseArea hu ..)
    split
    · exact leads_next (keeps_complete hu ..)
    · exact leads_next (hr _ _ _ (keeps_fetchParts hu ..))

theorem keeps_runSearch (h : Keeps z s) (tk payload bitmap) : Keeps z (runSearch s tk payload bitmap) := by
  unfold runSearch
  grind [keeps_update, keeps_bump, keeps_completeResult]

theorem leads_execSearch (h : Keeps z s) : Leads z (execSearch s) := by
  exact leads_searchFront h (fun _ _ _ h => keeps_runSearch h ..) _

theorem keeps_runInsert (h : Keeps z s) (tk payload _b) : Keeps z (runInsert s tk payload _b) := by
  unfold runInsert
  dsimp only
  split
  · exact keeps_complete h ..
  · split
    · exact keeps_complete h ..
    · exact keeps_update (keeps_foldl (fun _ _ h => keeps_bump (keeps_bump (keeps_update h rfl) ..) ..) _ h) rfl

theorem leads_execInsert (h : Keeps z s) : Leads z (execInsert s) := by
  exact leads_searchFront h (fun _ _ _ h => keeps_runInsert h ..) _

theorem keeps_runDelete (h : Keeps z s) (tk _p _b) : Keeps z (runDelete s tk _p _b) := h.same rfl rfl rfl rfl rfl

theorem leads_execDelete (h : Keeps z s) : Leads z (execDelete s) := by
  exact leads_searchFront h (fun _ _ _ h => keeps_runDelete h ..) _

theorem keeps_runFilterStore (h : Keeps z s) (tk payload _b) : Keeps z (runFilterStore s tk payload _b) := by
  unfold runFilterStore
  dsimp only
  split
  · grind [keeps_refuse, keeps_complete, keeps_update]
  · split
    · exact keeps_complete h ..
    · exact keeps_complete (keeps_update (keeps_takeHold (keeps_foldl (fun _ _ h => keeps_takeHold h ..) _ h) ..) rfl) ..

theorem leads_execFilterStore (h : Keeps z s) : Leads z (execFilterStore s) := by
  exact leads_searchFront h (fun _ _ _ h => keeps_runFilterStore h ..) _

theorem keeps_runFilterDrop (h : Keeps z s) (tk _p _b) : Keeps z (runFilterDrop s tk _p _b) := by
  unfold runFilterDrop
  grind [keeps_update, keeps_complete, keeps_refuse]

theorem leads_execFilterDrop (h : Keeps z s) : Leads z (execFilterDrop s) := by
  exact leads_searchFront h (fun _ _ _ h => keeps_runFilterDrop h ..) _

theorem keeps_runLoadCodebook (h : Keeps z s) (tk payload _b) : Keeps z (runLoadCodebook s tk payload _b) := by
  unfold runLoadCodebook
  dsimp only
  split
  · split
    · exact keeps_complete h ..
    split
    · exact keeps_complete h ..
    · exact keeps_complete (keeps_update (keeps_foldl (fun _ _ h => keeps_takeHold h ..) _ h) rfl) ..
  · exact keeps_complete (keeps_update h rfl) ..
  · grind [keeps_complete, keeps_update]

theorem leads_execLoadCodebook (h : Keeps z s) : Leads z (execLoadCodebook s) := by
  exact leads_searchFront h (fun _ _ _ h => keeps_runLoadCodebook h ..) _

theorem keeps_runDropCodebook (h : Keeps z s) (tk _p _b) : Keeps z (runDropCodebook s tk _p _b) := by
  unfold runDropCodebook
  grind [keeps_update, keeps_freeHold, keeps_complete]

theorem leads_execDropCodebook (h : Keeps z s) : Leads z (execDropCodebook s) := by
  exact leads_searchFront h (fun _ _ _ h => keeps_runDropCodebook h ..) _

theorem keeps_commitSearch (h : Keeps z s) (n) : Keeps z (commitSearch s n) := by
  exact keeps_foldl (fun _ _ h => keeps_complete h ..) _ (keeps_foldl (fun _ _ h => keeps_freeHold h ..) _ (keeps_update h rfl))

theorem keeps_startIndex (h : Keeps z s) (i) : Keeps z (startIndex i s) := by
  unfold startIndex
  exact keeps_foldl (fun _ _ h => keeps_resizeHold h ..) _ (keeps_update h rfl)

theorem keeps_moveLists (h : Keeps z s) (sl i) : Keeps z (moveLists s sl i) := by
  unfold moveLists
  grind [keeps_update, keeps_startIndex]

theorem keeps_copyBooks (h : Keeps z s) (sl) : Keeps z (copyBooks s sl) := by
  exact keeps_foldl (fun _ _ h => by grind [keeps_update, keeps_resizeHold]) _ h

theorem keeps_freeIndex (h : Keeps z s) (i) : Keeps z (freeIndex s i) := by
  exact keeps_foldl (fun _ _ h => keeps_complete h ..) _
    (keeps_freeHold (keeps_foldl (fun _ _ h => keeps_freeHold h ..) _ (keeps_update h rfl)) ..)

/-! ## Merge -/

theorem keeps_hTreeEntry (h : Keeps z s) (l k) : Keeps z (hTreeEntry s l k).1 := by
  unfold hTreeEntry
  grind [keeps_update]

theorem keeps_putCtx (h : Keeps z s) (c) : Keeps z (putCtx s c) := h.same rfl rfl rfl rfl rfl

theorem keeps_addGaps (h : Keeps z s) (c l) : Keeps z (addGaps s c l).1 := by
  unfold addGaps
  grind [keeps_update, keeps_bump]

theorem keeps_foldInput (h : Keeps z s) (c recs wts dropped) : Keeps z (foldInput s c recs wts dropped).1 := by
  unfold foldInput
  grind [keeps_update, keeps_bump]

theorem keeps_rootClose (h : Keeps z s) (c) : Keeps z (rootClose s c) := by
  unfold rootClose
  dsimp only
  split
  · exact keeps_completeAs h ..
  · split
    · grind [keeps_completeAs, keeps_bump]
    · next hp => exact keeps_completeAs (keeps_putResult (by grind [keeps_bump]) _ _ _ hp) ..

theorem keeps_noteClosed (h : Keeps z s) (c) : Keeps z (noteClosed s c) := h.same rfl rfl rfl rfl rfl

theorem keeps_releaseCtx (h : Keeps z s) (c) : Keeps z (releaseCtx s c) := h.same rfl rfl rfl rfl rfl

theorem keeps_leaveCtx (h : Keeps z s) (c) : Keeps z (leaveCtx s c) := by
  unfold leaveCtx
  grind [keeps_update, keeps_postFor, keeps_bump, keeps_releaseCtx, keeps_putCtx, keeps_rootClose, keeps_noteClosed]

theorem keeps_settleCtx (h : Keeps z s) (c) : Keeps z (settleCtx s c) := by
  unfold settleCtx
  grind [keeps_update, keeps_leaveCtx, keeps_bump, keeps_putCtx]

theorem keeps_dropShare (h : Keeps z s) (x) : Keeps z (dropShare s x) := by
  unfold dropShare
  extract_lets t u
  have ht : Keeps z t := keeps_releaseRefs h _
  have hu : Keeps z u := by grind [keeps_bump]
  exact hu.trans ⟨rfl, fun ⟨hm, hd, hl, ha⟩ => ⟨hm, hd, hl, List.length_mapIdx.trans ha⟩⟩

theorem keeps_abandonShares (h : Keeps z s) (work) : Keeps z (abandonShares s work) := by
  exact keeps_foldl (fun _ _ h => by grind [keeps_update, keeps_dropShare, keeps_bump]) _ h

theorem keeps_closeCtx (h : Keeps z s) (c) : Keeps z (closeCtx s c) := by
  unfold closeCtx
  grind [keeps_update, keeps_leaveCtx, keeps_addGaps, keeps_abandonShares]

theorem keeps_takeFire (h : Keeps z s) (slice work) : Keeps z (takeFire s slice work) := h.same rfl rfl rfl rfl rfl

theorem leads_execMergeDeadline (h : Keeps z s) (ctx) : Leads z (execMergeDeadline ctx s) := by
  unfold execMergeDeadline
  grind [leads_next, keeps_update, keeps_bump, keeps_closeCtx, keeps_takeFire]

theorem keeps_closeDue (h : Keeps z s) : Keeps z (closeDue s) := by
  exact keeps_foldl (fun _ _ h => by grind [keeps_update, keeps_bump, keeps_closeCtx]) _ h

theorem leads_execMergeClose (h : Keeps z s) (slice entry) : Leads z (execMergeClose slice entry s) := by
  unfold execMergeClose
  grind [leads_next, keeps_update, keeps_takeOccurrence]

theorem keeps_addShare (h : Keeps z s) (work sl sheets) : Keeps z (addShare s work sl sheets).1 := by
  unfold addShare
  grind [keeps_update, keeps_bump, keeps_newId]

theorem keeps_foldOwn (h : Keeps z s) (c) : Keeps z (foldOwn s c) := by
  unfold foldOwn
  grind [keeps_update, keeps_foldInput, keeps_settleCtx]

theorem keeps_searchQuires (h : Keeps z s) (c) : Keeps z (searchQuires s c) := by
  exact keeps_foldl (fun _ _ h => keeps_foldl (fun _ _ h => keeps_dirAccount h ..) _ h) _ h

theorem keeps_startShares (h : Keeps z s) (c) : Keeps z (startShares s c) := by
  unfold startShares
  split
  · exact keeps_settleCtx h _
  extract_lets r f elems t u
  have hu : Keeps z u := keeps_bump (keeps_bump h ..) ..
  clear_value u
  split
  next v d e =>
  extract_lets w held
  have hw : Keeps z w := keeps_searchQuires ((keeps_addGaps hu ..).fst e) _
  clear_value w
  split
  next x chosen e =>
  have hx : Keeps z x := by
    split at e
    · exact (keeps_selectSheets hw ..).fst e
    · cases e; exact hw
  extract_lets slices slices'
  split
  · exact keeps_foldOwn (keeps_addGaps hx d _) _
  · refine keeps_ite (keeps_foldOwn hx _) (keeps_putCtx (keeps_foldl_fst (fun _ _ h => ?_) _ hx) _)
    exact keeps_addShare h ..

theorem keeps_openCtx (h : Keeps z s) (c place) : Keeps z (openCtx s c place) := by
  exact keeps_startShares (keeps_foldl (fun _ _ h => keeps_post h ..) _ (keeps_update (keeps_armDl (keeps_dropDl h _) ..) rfl)) _

theorem keeps_openOrWait (h : Keeps z s) (c) : Keeps z (openOrWait s c) := by
  unfold openOrWait
  grind [keeps_update, keeps_bump, keeps_openCtx]

theorem leads_execMergeContextOpen (h : Keeps z s) : Leads z (execMergeContextOpen s) := by
  unfold execMergeContextOpen
  grind [leads_next, keeps_update, keeps_openCtx]

theorem keeps_reamCheck (h : Keeps z s) (sl r) : Keeps z (reamCheck s sl r).1 := by
  unfold reamCheck
  grind [keeps_update, keeps_homeOf]

theorem keeps_admitQuery (h : Keeps z s) (tk) : Keeps z (admitQuery s tk) := by
  unfold admitQuery
  dsimp only
  split
  · exact keeps_refuse h ..
  split
  · exact keeps_refuse h ..
  split
  · exact keeps_refuse (keeps_bump h ..) ..
  have hs := keeps_snapOf h (tkTenant tk.raw) (querySlice s tk) (qSnap tk.raw)
  split
  · next e => rw [e] at hs; exact keeps_refuse hs ..
  next t snap e =>
    rw [e] at hs
    split
    · exact keeps_refuseArea hs ..
    have hr := keeps_reamCheck hs tk.slice tk.raw
    split
    · exact keeps_refuse hr ..
    split
    · exact keeps_complete hr ..
    · exact keeps_openOrWait (keeps_addGaps (keeps_contributors (keeps_fetchParts hr ..) ..) ..) _

theorem leads_execQuery (h : Keeps z s) : Leads z (execQuery s) := by
  unfold execQuery
  grind [leads_next, keeps_update, keeps_admitQuery, keeps_takeHead]

theorem keeps_refuseForward (h : Keeps z s) (src cls raw cause) : Keeps z (refuseForward s src cls raw cause) := by
  unfold refuseForward
  grind [keeps_update, keeps_postFor, keeps_bump]

theorem keeps_takeForward (h : Keeps z s) (tk) : Keeps z (takeForward s tk) := by
  unfold takeForward
  extract_lets r n no t
  have ht : Keeps z t := keeps_dropDl h _
  have hno {u} (hu : Keeps z u) (c) : Keeps z (no u c) := keeps_refuseForward (keeps_bump hu ..) ..
  clear_value t no
  split
  · grind [keeps_refuseForward, keeps_bump]
  have hs := keeps_snapOf ht (tkTenant r) (querySlice t tk) (qSnap r)
  split
  · next e => rw [e] at hs; exact hno hs _
  next e =>
    rw [e] at hs
    split
    · exact hno hs _
    split
    · exact keeps_refuseForward hs ..
    · exact keeps_openOrWait (keeps_armDl hs ..) _

theorem leads_execSet (h : Keeps z s) (src m) : Leads z (execSet src m s) := by
  unfold execSet
  extract_lets mine
  split
  · split <;> exact leads_next (keeps_bump h ..)
  · dsimp only
    split
    · exact leads_next (keeps_settleCtx h _)
    · exact leads_next (keeps_settleCtx (keeps_foldInput h ..) _)

/-! ## Budget -/

theorem keeps_request (h : Keeps z s) (x cls span) : Keeps z (request s x cls span) := h.same rfl rfl rfl rfl rfl

theorem keeps_askBudget (h : Keeps z s) (x cls span) : Keeps z (askBudget s x cls span) := by
  unfold askBudget
  grind [keeps_update, keeps_request]

theorem keeps_useGrant (h : Keeps z s) (x ns) : Keeps z (useGrant s x ns) := by
  unfold useGrant
  grind [keeps_update]

theorem keeps_askGrant (h : Keeps z s) (x ns span) : Keeps z (askGrant s x ns span) := by
  unfold askGrant
  grind [keeps_update, keeps_request]

/-! ## Shares -/

theorem keeps_putShare (h : Keeps z s) (x) : Keeps z (putShare s x) := h.same rfl rfl rfl rfl rfl

theorem keeps_putStack (h : Keeps z s) (sl t) : Keeps z (putStack s sl t) := by
  exact h.trans ⟨rfl, fun ⟨hm, hd, hl, ha⟩ => ⟨hm, hd, hl, (length_setNth ..).trans ha⟩⟩

theorem keeps_loadContexts (h : Keeps z s) (sl) : Keeps z (loadContexts s sl) := by
  unfold loadContexts
  split
  · exact h
  · exact keeps_foldl (fun _ _ h => by grind [keeps_putStack]) _ h

theorem keeps_handStrays (h : Keeps z s) (c x) : Keeps z (handStrays s c x).1 := by
  exact keeps_foldl_fst (fun _ _ h => keeps_putCtx (keeps_update (keeps_addShare h ..) rfl) _) _ h

theorem keeps_touchQuires (h : Keeps z s) (x) : Keeps z (touchQuires s x) := h.same rfl rfl rfl rfl rfl

theorem keeps_parkShare (h : Keeps z s) (x absent) : Keeps z (parkShare s x absent) := by
  exact keeps_foldl (fun _ _ h => keeps_askMove h ..) _ (keeps_bump (keeps_putShare (keeps_touchQuires
    (keeps_foldl (fun _ _ h => keeps_countStall h ..) _ h) _) _) ..)

theorem keeps_stageShare (h : Keeps z s) (slice c x) : Keeps z (stageShare s slice c x) := by
  unfold stageShare
  grind [keeps_update, keeps_loadContexts, keeps_touchQuires, keeps_request, keeps_putShare]

theorem leads_execShareDispatch (h : Keeps z s) (slice) : Leads z (execShareDispatch slice s) := by
  unfold execShareDispatch
  grind [leads_next, keeps_update, keeps_dropShare, keeps_putCtx, keeps_handStrays, keeps_stageShare, keeps_parkShare, keeps_putShare]

theorem leads_execShareResume (h : Keeps z s) (slice) : Leads z (execShareResume slice s) := by
  unfold execShareResume
  grind [leads_next, keeps_update, keeps_endPark]

theorem keeps_startPass (h : Keeps z s) (x rows) : Keeps z (startPass s x rows) := by
  unfold startPass
  grind [keeps_update, keeps_putStack, keeps_loadContexts, keeps_putShare]

theorem leads_execShareStreamStart (h : Keeps z s) (slice) : Leads z (execShareStreamStart slice s) := by
  unfold execShareStreamStart
  split
  · exact leads_next h
  split
  · exact leads_next h
  split
  · exact leads_next (keeps_dropShare h _)
  extract_lets v n t
  have ht : Keeps z t := keeps_loadContexts h _
  split
  · exact leads_next (keeps_askGrant (keeps_askGrant h ..) ..)
  split
  · exact leads_next ht
  split
  · exact leads_next ht
  · exact leads_next (keeps_startPass (keeps_useGrant (keeps_useGrant ht ..) ..) ..)

theorem keeps_finishPass (h : Keeps z s) (c x) : Keeps z (finishPass s c x).1 := by
  unfold finishPass
  extract_lets rows m fac all y l e
  have hf := keeps_foldl_fst (p := (s, [])) (f := fun (a : State × List (Sheet × Nat × Nat)) k =>
    let (i, t) := fresh a.1
    (t, a.2 ++ [(readNow s y k, if has y.inStack k then 64 else 32, Config.freeNat i % e)])) (fun _ _ h => keeps_fresh h) l h
  grind [keeps_bump]

theorem keeps_endPass (h : Keeps z s) (c x) : Keeps z (endPass s c x).1 := by
  unfold endPass
  grind [keeps_update, keeps_finishPass, keeps_putShare]

theorem leads_execPassStart (h : Keeps z s) (slice) : Leads z (execPassStart slice s) := by
  unfold execPassStart
  split
  · exact leads_next h
  next y _ =>
  split
  · exact leads_next (keeps_dropShare h _)
  generalize y.pass + (if y.felt = 0 then 0 else 1) = k
  split
  · exact leads_next h
  split
  next t x e =>
  have ht := (keeps_endPass h ..).fst e
  split
  · exact leads_next ht
  split
  · exact leads_next ht
  · exact leads_next (keeps_startPass ht ..)

theorem keeps_deliver (h : Keeps z s) (c x) : Keeps z (deliver s c x) := by
  unfold deliver
  grind [keeps_update, keeps_bump, keeps_addGaps, keeps_putCtx, keeps_foldOwn]

theorem leads_execShareRecord (h : Keeps z s) (slice) : Leads z (execShareRecord slice s) := by
  unfold execShareRecord
  split
  · exact leads_next h
  next x _ =>
  split
  · exact leads_next (keeps_dropShare h _)
  split
  next t y e =>
  have ht : Keeps z t := by
    split at e
    · exact (keeps_endPass h ..).fst e
    · exact h.fst e
  split
  · exact leads_next ht
  · exact leads_next (keeps_loadContexts (keeps_dropShare (keeps_deliver ht ..) _) _)

theorem keeps_serveRead (h : Keeps z s) (sl r) : Keeps z (serveRead s sl r) := by
  unfold serveRead
  grind [keeps_update, keeps_emit, keeps_wr]

theorem keeps_lineWrite (h : Keeps z s) (dpa data) : Keeps z (lineWrite s dpa data) := by
  exact keeps_wroteLines (keeps_setCells h fun hz => memWf_write _ _ (h.inv hz).1) _

theorem keeps_hostWriteLine (h : Keeps z s) (sl hpa dpa data) : Keeps z (hostWriteLine s sl hpa dpa data) := by
  unfold hostWriteLine
  grind [keeps_update, keeps_putStack, keeps_bump, keeps_emit, keeps_lineWrite]

theorem keeps_serveWaiting (h : Keeps z s) (sl ws i reads) : Keeps z (serveWaiting sl s ws i reads) := by
  induction ws generalizing s i reads with
  | nil => exact keeps_foldl (fun _ _ h => keeps_serveRead h ..) _ h
  | cons w ws ih => exact ih (keeps_lineWrite (keeps_foldl (fun _ _ h => keeps_serveRead h ..) _ h) ..) ..

theorem keeps_serveStack (h : Keeps z s) (sl) : Keeps z (serveStack sl s) := by
  unfold serveStack
  dsimp only
  split
  · exact h
  · exact keeps_foldl (fun _ _ h => keeps_hostWriteLine h ..) _ (keeps_putStack (keeps_update (keeps_serveWaiting h ..) rfl) ..)

theorem keeps_serveHosts (h : Keeps z s) : Keeps z (serveHosts s) := by
  exact keeps_foldl (fun _ _ h => keeps_serveStack h _) _ h

theorem keeps_refresh (h : Keeps z s) (sl sets level) : Keeps z (refresh s sl sets level) := by
  unfold refresh
  grind [keeps_update, keeps_putStack, keeps_bump]

theorem keeps_pullIn (h : Keeps z s) (sl) : Keeps z (pullIn s sl) := by
  unfold pullIn
  grind [keeps_update, keeps_refresh]

theorem leads_execBurstStart (h : Keeps z s) (slice) : Leads z (execBurstStart slice s) := by
  unfold execBurstStart
  extract_lets s1 t s2 u k
  have h1 : Keeps z s1 := keeps_serveStack h _
  have h2 : Keeps z s2 := keeps_loadContexts h1 _
  split
  · exact leads_next h1
  split
  · exact leads_next h1
  split
  · exact leads_next (keeps_dropShare h1 _)
  split
  · exact leads_next (keeps_putShare (keeps_putStack h1 ..) _)
  extract_lets run ns b
  split
  · exact leads_next h2
  split
  · exact leads_next (keeps_askGrant h2 ..)
  · exact leads_next (keeps_bump (keeps_putStack (keeps_putShare (keeps_useGrant h2 ..) _) ..) ..)

theorem leads_execBurstEnd (h : Keeps z s) (slice) : Leads z (execBurstEnd slice s) := by
  unfold execBurstEnd
  extract_lets t
  split
  · exact leads_next h
  next b _ =>
  extract_lets late s1 s2 s3
  have h2 : Keeps z s2 := keeps_putStack (keeps_bump (keeps_bump h ..) ..) ..
  split
  · exact leads_next h
  · exact leads_next (keeps_loadContexts (keeps_pullIn (keeps_serveStack (keeps_refresh h2 ..) _) _) _)

theorem leads_execRefreshDue (h : Keeps z s) (slice bankSet) : Leads z (execRefreshDue slice bankSet s) := by
  unfold execRefreshDue
  grind [leads_next, keeps_update, keeps_putStack, keeps_pullIn, keeps_serveStack]

theorem keeps_unplan (h : Keeps z s) (sl failed) : Keeps z (unplan s sl failed) := by
  unfold unplan
  grind [keeps_update, keeps_putStack]

/-! ## Arrive -/

theorem keeps_enqueue (h : Keeps z s) (tk) : Keeps z (enqueue s tk) := h.same rfl rfl rfl rfl rfl

theorem keeps_admitHeader (h : Keeps z s) (tk bound) : Keeps z (admitHeader s tk bound) := by
  unfold admitHeader
  grind [keeps_update, keeps_bump, keeps_enqueue, keeps_armDl, keeps_refuse]

theorem keeps_writeNum (h : Keeps z s) (dpa n v) : Keeps z (writeNum s dpa n v) := by
  exact keeps_setCells h fun hz => memWf_write _ _ (h.inv hz).1

theorem keeps_takeSlot (h : Keeps z s) (sl a k cls raw) : Keeps z (takeSlot s sl a k cls raw) := by
  unfold takeSlot
  grind [keeps_update, keeps_bump, keeps_newId, keeps_completeAs, keeps_admitHeader, keeps_writeNum]

theorem keeps_sweepSlot (h : Keeps z s) (sl a cls k) : Keeps z (sweepSlot sl a cls s k) := by
  unfold sweepSlot
  exact keeps_ite h (keeps_ite (keeps_bump h ..) (keeps_ite (keeps_bump h ..) (keeps_ite h (keeps_takeSlot h ..))))

theorem keeps_sweepArea (h : Keeps z s) (sl a cls) : Keeps z (sweepArea s sl a cls) := by
  exact keeps_writeNum (keeps_writeNum (keeps_writeNum (keeps_foldl (fun _ _ h => keeps_sweepSlot h ..) _ h) ..) ..) ..

theorem leads_execSweep (h : Keeps z s) (slice entry) : Leads z (execSweep slice entry s) := by
  unfold execSweep
  grind [leads_next, keeps_update, keeps_takeOccurrence, keeps_sweepArea]

theorem keeps_admitFabric (h : Keeps z s) (tk) : Keeps z (admitFabric s tk) := by
  unfold admitFabric
  grind [keeps_update, keeps_admitHeader, keeps_dropDl, keeps_takeForward]

theorem keeps_releaseHeld (h : Keeps z s) : Keeps z (releaseHeld s) := by
  exact keeps_foldl (fun _ _ h => by grind [keeps_update, keeps_enqueue, keeps_admitFabric]) _ h

theorem keeps_hold (h : Keeps z s) (tk link) : Keeps z (hold s tk link) := h.same rfl rfl rfl rfl rfl

theorem keeps_arriveWhole (h : Keeps z s) (link src vl depth key whole) : Keeps z (arriveWhole s link src vl depth key whole) := by
  unfold arriveWhole
  grind [keeps_update, keeps_newId, keeps_armDl, keeps_hold, keeps_admitFabric]

theorem keeps_openGather (h : Keeps z s) (link src vl key base whole) : Keeps z (openGather s link src vl key base whole).1 := by
  unfold openGather
  grind [keeps_update, keeps_newId, keeps_takeSpread]

theorem keeps_freeGather (h : Keeps z s) (g) : Keeps z (freeGather s g) := h.same rfl rfl rfl rfl rfl

theorem leads_execTicketMessage (h : Keeps z s) (link src vl depth key whole offset part) : Leads z (execTicketMessage link src vl depth
  key whole offset part s) := by
  unfold execTicketMessage
  grind [leads_next, keeps_update, keeps_openGather, keeps_freeGather, keeps_arriveWhole]

theorem leads_execQueryForwardArrive (h : Keeps z s) (link src vl depth key whole) : Leads z (execQueryForwardArrive link src vl depth
  key whole s) := by
  unfold execQueryForwardArrive
  grind [leads_next, keeps_update, keeps_arriveWhole]

theorem leads_execTicketWholeTimeout (h : Keeps z s) (src vl) : Leads z (execTicketWholeTimeout src vl s) := by
  unfold execTicketWholeTimeout
  grind [leads_next, keeps_update, keeps_freeGather]

theorem leads_execAdmitOpen (h : Keeps z s) (slice entry) : Leads z (execAdmitOpen slice entry s) := by
  unfold execAdmitOpen
  grind [leads_next, keeps_update, keeps_takeOccurrence, keeps_releaseHeld]

theorem leads_execAdmitClose (h : Keeps z s) (slice entry) : Leads z (execAdmitClose slice entry s) := by
  unfold execAdmitClose
  grind [leads_next, keeps_update, keeps_takeOccurrence]

theorem keeps_forwardHome (h : Keeps z s) (tk home parts) : Keeps z (forwardHome s tk home parts) := by
  unfold forwardHome
  grind [keeps_update, keeps_dropDl, keeps_post]

theorem leads_execAppend (h : Keeps z s) : Leads z (execAppend s) := by
  unfold execAppend
  split
  · exact leads_next h
  next tk s1 e =>
  have h1 := keeps_takeHead h _ e
  extract_lets r c
  split
  · exact leads_next (keeps_hold h1 ..)
  split
  · exact leads_next (keeps_refuse h1 ..)
  split
  · exact leads_next (keeps_refuse h1 ..)
  split
  · exact leads_next (keeps_refuseArea h1 ..)
  split
  next s2 home e =>
  have h2 := (keeps_homeOf h1 ..).fst e
  split
  · exact leads_next (keeps_refuse h2 ..)
  split
  · exact leads_next (keeps_complete h2 ..)
  split
  next s3 payload _ e =>
  have h3 := (keeps_fetchParts h2 ..).fst e
  split
  · exact leads_next (keeps_forwardHome h3 ..)
  · exact leads_next (keeps_admitAppend h3 _)

theorem leads_execRetire (h : Keeps z s) : Leads z (execRetire s) := by
  unfold execRetire
  split
  · exact leads_next h
  next tk s1 e =>
  have h1 := keeps_takeHead h _ e
  extract_lets r
  split
  next s2 home e =>
  have h2 := (keeps_homeOf h1 ..).fst e
  split
  · exact leads_next (keeps_refuse h2 ..)
  split
  · exact leads_next (keeps_forwardHome h2 ..)
  split
  · exact leads_next (keeps_refuse h2 ..)
  split
  · exact leads_next (keeps_complete h2 ..)
  · exact leads_next (keeps_update h2 rfl)

theorem keeps_deadlineAction (h : Keeps z s) (id) : Keeps z (deadlineAction s id) := by
  unfold deadlineAction
  split
  · exact keeps_expire (keeps_update h rfl) ..
  split
  · grind [keeps_update, keeps_expire]
  split
  · grind [keeps_update, keeps_expire]
  split
  · exact keeps_retryAppends (keeps_failAppend h ..)
  split
  · exact keeps_expire (keeps_update h rfl) ..
  split
  · exact keeps_completeAs (keeps_update h rfl) ..
  split
  · exact keeps_expire (keeps_update h rfl) ..
  split
  · exact keeps_expire h ..
  · exact h

theorem leads_execDeadlineFire (h : Keeps z s) (id) : Leads z (execDeadlineFire id s) := by
  unfold execDeadlineFire
  grind [leads_next, keeps_update, keeps_deadlineAction, keeps_takeFire, keeps_releaseHeld]

/-! ## Commit -/

theorem keeps_dropJournal (h : Keeps z s) (before) : Keeps z (dropJournal s before) := by
  unfold dropJournal
  grind [keeps_update, keeps_mgmt]

theorem keeps_countUnmirrored (h : Keeps z s) (n) : Keeps z (countUnmirrored s n) := by
  unfold countUnmirrored
  grind [keeps_update, keeps_bump]

theorem keeps_sendDeputy (h : Keeps z s) : Keeps z (sendDeputy s) := by
  unfold sendDeputy
  grind [keeps_update, keeps_mgmt]

theorem keeps_commitOne (h : Keeps z s) (n k sh) : Keeps z (commitOne s n k sh) := by
  unfold commitOne
  grind [keeps_update, keeps_bump, keeps_putSheet, keeps_clearQuireSpace, keeps_putQuire]

theorem keeps_retireAt (h : Keeps z s) (n t ream) : Keeps z (retireAt s n t ream) := by
  unfold retireAt
  grind [keeps_update, keeps_retireReam]

theorem keeps_sealReam (h : Keeps z s) (t ream) : Keeps z (sealReam s t ream) := by
  unfold sealReam
  grind [keeps_update, keeps_setReam]

theorem keeps_askLead (h : Keeps z s) (tk kind object node base) : Keeps z (askLead s tk kind object node base) :=
  h.same rfl rfl rfl rfl rfl

theorem keeps_sealedPublish (h : Keeps z s) (n tk) : Keeps z (sealedPublish s n tk) := by
  unfold sealedPublish
  grind [keeps_update, keeps_askLead, keeps_complete]

theorem keeps_doCommit (h : Keeps z s) (sl) : Keeps z (doCommit s sl) := by
  unfold doCommit
  extract_lets n retires _ s1 s2 _ s3 full toks s4 seals _ s5 s6 done _ s7 _ s8 s9 s10 s11 _
  have h3 : Keeps z s3 := keeps_foldl (fun _ _ h => keeps_retireAt h ..) _ (keeps_update
    (keeps_foldl (fun _ _ h => keeps_retireAt h ..) _ (keeps_update h rfl)) rfl)
  have h5 : Keeps z s5 := keeps_update (keeps_foldl (fun _ _ h => keeps_commitOne h ..) _ h3) rfl
  have h6 : Keeps z s6 := keeps_foldl (fun _ _ h => keeps_sealedPublish (keeps_sealReam h ..) ..) _ h5
  have h7 : Keeps z s7 := keeps_update h6 rfl
  have h8 : Keeps z s8 := keeps_ite (keeps_mgmt (keeps_update h7 rfl) ..)
    (keeps_foldl (fun _ _ h => keeps_complete h ..) _ (keeps_countUnmirrored h7 _))
  have h10 : Keeps z s10 := keeps_commitSearch (keeps_foldl (fun _ _ h => keeps_complete h ..) _ h8) _
  exact keeps_update (keeps_dropJournal (keeps_sendDeputy (keeps_reclaimAll h10 _)) _) rfl

theorem leads_execCommit (h : Keeps z s) (slice entry) : Leads z (execCommit slice entry s) := by
  unfold execCommit
  grind [leads_next, keeps_update, keeps_takeOccurrence, keeps_doCommit]

theorem keeps_tryCommits (h : Keeps z s) : Keeps z (tryCommits s) := by
  unfold tryCommits
  split
  · exact h
  · exact keeps_foldl (fun _ _ h => keeps_doCommit h _) _ h

theorem leads_execTierStallLimit (h : Keeps z s) : Leads z (execTierStallLimit s) := by
  exact leads_next (keeps_foldl (fun _ _ h => keeps_doCommit h _) _ h)

theorem keeps_moveAway {t} (h : Keeps z s) (qk q target) (e : moveAway s qk q target = some t) : Keeps z t := by
  obtain ⟨o, ho, rfl⟩ := firstSome_eq_some e
  obtain ⟨j, -, hj⟩ := List.mem_map.mp ho
  exact keeps_startMove h _ _ _ _ _ hj

theorem keeps_evacuateOne (h : Keeps z s) (p) : Keeps z (evacuateOne s p) := by
  unfold evacuateOne
  have hg {q} (sl) := keeps_getD h fun hp => keeps_startMove (t := _) h p.1 q 2 sl 0 hp
  grind [keeps_moveAway]

theorem keeps_evacuate (h : Keeps z s) (sl) : Keeps z (evacuate s sl) := by
  unfold evacuate
  dsimp only
  split
  · exact h
  · exact keeps_wr (keeps_foldl (fun _ _ h => keeps_moveLists h ..) _ (keeps_foldl (fun _ _ h => keeps_evacuateOne h _) _
    (keeps_askBudget h ..))) ..

theorem keeps_afterMove (h : Keeps z s) : Keeps z (afterMove s) := by
  exact keeps_foldl (fun _ _ h => keeps_evacuate h _) _ (keeps_tryCommits (keeps_retryAppends h))

theorem leads_execAppendRoomWaitEnd (h : Keeps z s) : Leads z (execAppendRoomWaitEnd s) := by
  unfold execAppendRoomWaitEnd
  grind [leads_next, keeps_update, keeps_afterMove]

theorem keeps_takeCompletion (h : Keeps z s) (record result) : Keeps z (takeCompletion s record result) := by
  unfold takeCompletion
  grind [keeps_update, keeps_completeAs, keeps_completeResult, keeps_askLead, keeps_homeOf]

/-! ## HostMem -/

theorem leads_execHostMemRead (h : Keeps z s) (hpa) : Leads z (execHostMemRead hpa s) := by
  unfold execHostMemRead
  grind [leads_next, keeps_update, keeps_putStack, keeps_bump, keeps_emit]

theorem leads_execHostMemWrite (h : Keeps z s) (hpa data) : Leads z (execHostMemWrite hpa data s) := by
  unfold execHostMemWrite
  grind [leads_next, keeps_update, keeps_bump, keeps_hostWriteLine, keeps_emit, keeps_lineWrite]

theorem keeps_takeFence {tk t} (h : Keeps z s) (f) (e : takeFence s f = some (tk, t)) : Keeps z t := by
  unfold takeFence at e
  split at e
  · next hd =>
    split at e
    · cases e; exact keeps_takeHead h _ hd
    · cases e
  · cases e

theorem keeps_toDevice (h : Keeps z s) (a n) : Keeps z (toDevice s a n) := h.same rfl rfl rfl rfl rfl

theorem keeps_toHost (h : Keeps z s) (a n) : Keeps z (toHost s a n) := h.same rfl rfl rfl rfl rfl

theorem leads_execFlipToDevice (h : Keeps z s) : Leads z (execFlipToDevice s) := by
  unfold execFlipToDevice
  grind [leads_next, keeps_update, keeps_bump, keeps_takeFence, keeps_complete, keeps_refuseArea, keeps_toDevice]

theorem leads_execFlipToHost (h : Keeps z s) : Leads z (execFlipToHost s) := by
  unfold execFlipToHost
  grind [leads_next, keeps_update, keeps_bump, keeps_takeFence, keeps_toHost, keeps_complete, keeps_refuseArea]

theorem keeps_fenceEnd (h : Keeps z s) (f) : Keeps z (fenceEnd s f) := by
  unfold fenceEnd
  grind [keeps_update, keeps_bump, keeps_complete]

theorem leads_execFence (h : Keeps z s) : Leads z (execFence s) := by
  unfold execFence
  grind [leads_next, keeps_update, keeps_takeFence, keeps_refuseArea]

theorem leads_execFenceDone (h : Keeps z s) (id) : Leads z (execFenceDone id s) := by
  unfold execFenceDone
  grind [leads_next, keeps_update, keeps_fenceEnd]

theorem keeps_finishUnmap (h : Keeps z s) (m) : Keeps z (finishUnmap s m) := by
  unfold finishUnmap
  grind [keeps_update, keeps_freeHold, keeps_unmapRun]

theorem keeps_beginUnmap (h : Keeps z s) (m) : Keeps z (beginUnmap s m) := by
  unfold beginUnmap
  extract_lets isExtent t
  have ht : Keeps z t := keeps_foldl (fun _ _ h => keeps_emit h _) _ h
  split
  · exact keeps_update ht rfl
  · exact keeps_finishUnmap h _

theorem leads_execHostSnoopResponse (h : Keeps z s) (line) : Leads z (execHostSnoopResponse line s) := by
  unfold execHostSnoopResponse
  grind [leads_next, keeps_update, keeps_finishUnmap]

/-! ## Enable -/

/-- What starting, stopping and closing a subsystem keep. -/
structure Enable.Sound (e : Enable) : Prop where
  start : ∀ {z s}, Keeps z s → Keeps z (e.start s)
  stop : ∀ {z s}, Keeps z s → Keeps z (e.stop s)
  close : ∀ {z s}, Keeps z s → Keeps z (e.close s)

theorem keeps_enableClosed {e : Enable} (he : e.Sound) (h : Keeps z s) : Keeps z (enableClosed e s) := by
  exact keeps_claimRelease (he.close h) _

theorem keeps_enableClaimed (h : Keeps z s) (e) : Keeps z (enableClaimed e s) := by
  unfold enableClaimed
  grind [keeps_claimTake]

theorem keeps_enableStarted {e : Enable} (he : e.Sound) (h : Keeps z s) : Keeps z (enableStarted e s) := by
  exact keeps_releaseHeld (he.start (keeps_wr (keeps_enableClaimed h e) ..))

theorem keeps_enableWrite {e : Enable} (he : e.Sound) (h : Keeps z s) (w l) : Keeps z (enableWrite e s w l).1 := by
  have hs := he.stop (keeps_wr h e.key 0)
  have hc := keeps_enableClosed he hs
  have ht := keeps_enableStarted he h
  unfold enableWrite
  grind [keeps_update]

theorem leads_enableRow {e : Enable} (he : e.Sound) (h : Keeps z s) (w v) : Leads z (enableRow e w v s) := by
  exact leads_next (keeps_rowWrite h (keeps_enableWrite he h) ..)

theorem keeps_stopDone {e : Enable} (he : e.Sound) (h : Keeps z s) : Keeps z (stopDone e s) := by
  unfold stopDone
  split
  · exact h
  split
  · exact h
  · exact keeps_answer (keeps_enableClosed he (keeps_update h rfl)) ..

/-! ## CoreEnables -/

theorem sound_enHtRef : enHtRef.Sound := ⟨id, id, id⟩

theorem keeps_startSource (h : Keeps z s) : Keeps z (startSource s) := by
  unfold startSource
  exact keeps_ite (keeps_ite (keeps_wr h ..) (keeps_wr (keeps_update h rfl) ..)) (keeps_ite (keeps_wr h ..) (keeps_wr h ..))

theorem sound_enHtSource : enHtSource.Sound :=
  ⟨fun h => keeps_settleStart (keeps_startSource h), fun h => keeps_settleStart (keeps_wr h ..), id⟩

theorem sound_enSchedule (sl) : (enSchedule sl).Sound := ⟨keeps_updateSpan, fun h => keeps_updateSpan (keeps_update h rfl), id⟩

theorem sound_enDeadline : enDeadline.Sound := ⟨id, id, id⟩

theorem sound_enFormatRules : enFormatRules.Sound := ⟨id, id, id⟩

theorem keeps_abandonShare (h : Keeps z s) (x) : Keeps z (abandonShare s x) := by
  unfold abandonShare
  grind [keeps_update, keeps_dropShare, keeps_bump]

theorem sound_enAttention : enAttention.Sound :=
  ⟨id, fun h => keeps_update (keeps_foldl (fun _ _ h => keeps_abandonShare h _) _ h) rfl, id⟩

theorem keeps_toEngines (h : Keeps z s) : Keeps z (toEngines s) := by
  exact keeps_foldl (fun _ _ h => by grind [keeps_update, keeps_unplan]) _ h

theorem sound_enScoring : enScoring.Sound := ⟨id, keeps_toEngines, id⟩

theorem sound_enRebalance : enRebalance.Sound := ⟨id, id, id⟩

theorem sound_enDeckle : enDeckle.Sound := ⟨id, id, id⟩

theorem sound_enSearch : enSearch.Sound := ⟨id, id, id⟩

theorem sound_enVindex (i) : (enVindex i).Sound := by
  unfold enVindex
  refine ⟨fun h => ?_, fun h => ?_, id⟩
  · dsimp only
    exact keeps_startIndex h i
  · dsimp only
    exact keeps_freeIndex h i

theorem sound_enMerge : enMerge.Sound := ⟨id, id, id⟩

theorem keeps_takeBacking (h : Keeps z s) : Keeps z (takeBacking s) := by
  unfold takeBacking
  exact keeps_foldl (fun _ _ h => by grind [keeps_update, keeps_resizeHold]) _ (by grind [keeps_update, keeps_resizeHold])

theorem sound_enDirectory : enDirectory.Sound := ⟨keeps_takeBacking, id, id⟩

/-! ## Tiers -/

theorem keeps_bgAsk (h : Keeps z s) (x) : Keeps z (bgAsk s x) := by
  unfold bgAsk
  grind [keeps_update, keeps_askBudget]

theorem leads_execDeckleBuild (h : Keeps z s) (slice) : Leads z (execDeckleBuild slice s) := by
  unfold execDeckleBuild
  grind [leads_next, keeps_update, keeps_bgAsk]

theorem keeps_dropLease (h : Keeps z s) (id drained) : Keeps z (dropLease s id drained) := by
  unfold dropLease
  grind [keeps_update, keeps_mgmt, keeps_wr]

theorem keeps_settleLeases (h : Keeps z s) : Keeps z (settleLeases s) := by
  exact keeps_foldl (fun _ _ h => by grind [keeps_update, keeps_dropLease]) _ h

theorem leads_execQuireSourceFree (h : Keeps z s) (quireKey) : Leads z (execQuireSourceFree quireKey s) := by
  unfold execQuireSourceFree
  grind [leads_next, keeps_update, keeps_afterMove, keeps_freeSources, keeps_retryRoom, keeps_settleLeases]

theorem keeps_loseQuire (h : Keeps z s) (qk q) : Keeps z (loseQuire s qk q) := by
  unfold loseQuire
  grind [keeps_update, keeps_failWaiting, keeps_freeQuire, keeps_addLost, keeps_quireArrived]

theorem keeps_endSalvage (h : Keeps z s) (qk) : Keeps z (endSalvage s qk) := by
  unfold endSalvage
  grind [keeps_update, keeps_bump, keeps_loseQuire]

theorem keeps_moveErrorAt (h : Keeps z s) (quireKey access) : Keeps z (moveErrorAt s quireKey access) := by
  unfold moveErrorAt
  grind [keeps_update, keeps_bump, keeps_afterMove, keeps_errorMove, keeps_endSalvage]

theorem leads_execQuireMoveError (h : Keeps z s) (quireKey access) : Leads z (execQuireMoveError quireKey access s) := by
  unfold execQuireMoveError
  grind [leads_next, keeps_update, keeps_moveErrorAt]

theorem keeps_countLate (h : Keeps z s) (q m times) : Keeps z (countLate s q m times) := by
  unfold countLate
  grind [keeps_update, keeps_bump]

theorem leads_execQuireMoveSwitch (h : Keeps z s) (quireKey times) : Leads z (execQuireMoveSwitch quireKey times s) := by
  unfold execQuireMoveSwitch
  split
  · exact leads_next h
  split
  · exact leads_next h
  split
  · exact leads_next h
  split
  · exact leads_next (keeps_moveErrorAt (keeps_countLate h ..) ..)
  · exact leads_next (keeps_settleLeases (keeps_afterMove (keeps_switchMove (keeps_countLate h ..) ..)))

theorem keeps_vatLost (h : Keeps z s) : Keeps z (vatLost s) := by
  exact keeps_foldl (fun _ _ h => by grind [keeps_update, keeps_moveErrorAt]) _ h

theorem keeps_demote (h : Keeps z s) (c) : Keeps z (demote s c) := by
  unfold demote
  split
  · exact h
  · exact keeps_getD (keeps_moveNoRoom h ..) fun hp => keeps_startMove h _ _ _ _ _ hp

theorem leads_execOverQuotaDemotion (h : Keeps z s) (tenant) : Leads z (execOverQuotaDemotion tenant s) := by
  unfold execOverQuotaDemotion
  grind [leads_next, keeps_update, keeps_demote, keeps_bgAsk]

theorem leads_execDemotionStart (h : Keeps z s) (slice) : Leads z (execDemotionStart slice s) := by
  unfold execDemotionStart
  extract_lets free low goes _ s1
  have h1 : Keeps z s1 := keeps_update h rfl
  split
  · exact leads_next (keeps_update h rfl)
  split
  · exact leads_next h1
  split
  · exact leads_next h1
  split
  · exact leads_next (keeps_demote h1 _)
  · exact leads_next (keeps_bgAsk h1 _)

theorem keeps_preemptShare (h : Keeps z s) (x) : Keeps z (preemptShare s x) := by
  unfold preemptShare
  grind [keeps_update, keeps_dropShare, keeps_addGaps, keeps_putCtx, keeps_foldOwn]

theorem keeps_swapQuire (h : Keeps z s) (p) : Keeps z (swapQuire s p).1 := by
  unfold swapQuire
  grind [keeps_update, keeps_bump, keeps_startMove]

theorem keeps_preemptHere (h : Keeps z s) (t ream) : Keeps z (preemptHere s t ream).1 := by
  unfold preemptHere
  extract_lets _ t u mine v
  have hv : Keeps z v := keeps_foldl (fun _ x h => keeps_preemptShare h x) _ (keeps_withdrawReam (keeps_update h rfl) ..)
  refine keeps_foldl_fst (fun _ _ h => ?_) _ hv
  exact keeps_swapQuire h _

theorem keeps_sendOn (h : Keeps z s) (tk l) : Keeps z (sendOn s tk l) := by
  exact keeps_foldl (fun _ _ h => by grind [keeps_update, keeps_post]) _ h

theorem keeps_tierRefuse (h : Keeps z s) (tk c) : Keeps z (tierRefuse s tk c) := by
  unfold tierRefuse
  grind [keeps_update, keeps_complete, keeps_refuse]

theorem keeps_setPreempted (h : Keeps z s) (t ream b) : Keeps z (setPreempted s t ream b) := by
  unfold setPreempted
  grind [keeps_update, keeps_setReam]

theorem keeps_waitAcks (h : Keeps z s) (tk nodes count) : Keeps z (waitAcks s tk nodes count) := by
  unfold waitAcks
  grind [keeps_update, keeps_complete]

theorem leads_execPreempt (h : Keeps z s) : Leads z (execPreempt s) := by
  unfold execPreempt
  split
  · exact leads_next h
  next tk s1 e =>
  have h1 := keeps_takeHead h _ e
  extract_lets r t
  split
  next s2 home e =>
  have h2 := (keeps_homeOf h1 ..).fst e
  split
  · exact leads_next (keeps_refuse h2 ..)
  split
  · split
    · split
      next s3 n e => exact leads_next (keeps_mgmt ((keeps_preemptHere (keeps_dropDl h2 _) ..).fst e) ..)
    · exact leads_next (keeps_forwardHome h2 ..)
  extract_lets c others s3
  have h3 : Keeps z s3 := keeps_sendOn (keeps_setPreempted h2 ..) ..
  split
  · exact leads_next (keeps_tierRefuse h2 ..)
  · split
    next s4 n e => exact leads_next (keeps_waitAcks ((keeps_preemptHere h3 ..).fst e) ..)

theorem keeps_ackPre (h : Keeps z s) (type src t ream count) : Keeps z (ackPre s type src t ream count) := by
  unfold ackPre
  grind [keeps_update, keeps_complete]

theorem leads_execPreemptAck (h : Keeps z s) (src tenant ream count) : Leads z (execPreemptAck src tenant ream count s) := by
  unfold execPreemptAck
  grind [leads_next, keeps_update, keeps_ackPre]

theorem leads_execResumeAck (h : Keeps z s) (src tenant ream count) : Leads z (execResumeAck src tenant ream count s) := by
  unfold execResumeAck
  grind [leads_next, keeps_update, keeps_ackPre]

theorem keeps_resumeHere (h : Keeps z s) (t ream) : Keeps z (resumeHere s t ream).1 := by
  unfold resumeHere
  exact keeps_foldl (fun _ _ h => by grind [keeps_update, keeps_askMove]) _ (by grind [keeps_update, keeps_askMove])

theorem leads_execResume (h : Keeps z s) : Leads z (execResume s) := by
  unfold execResume
  split
  · exact leads_next h
  next tk s1 e =>
  have h1 := keeps_takeHead h _ e
  extract_lets r t
  split
  next s2 home e =>
  have h2 := (keeps_homeOf h1 ..).fst e
  split
  · exact leads_next (keeps_refuse h2 ..)
  split
  · split
    · split
      next s3 n e => exact leads_next (keeps_mgmt ((keeps_resumeHere (keeps_dropDl h2 _) ..).fst e) ..)
    · exact leads_next (keeps_forwardHome h2 ..)
  extract_lets c others s3
  have h3 : Keeps z s3 := keeps_sendOn (keeps_setPreempted h2 ..) ..
  split
  · exact leads_next (keeps_tierRefuse h2 ..)
  · split
    next s4 n e => exact leads_next (keeps_waitAcks ((keeps_resumeHere h3 ..).fst e) ..)

theorem keeps_moveOne (h : Keeps z s) (t p) : Keeps z (moveOne s t p).1 := by
  unfold moveOne
  grind [keeps_update, keeps_askMove]

theorem keeps_runMove (h : Keeps z s) (tk others) : Keeps z (runMove s tk others) := by
  exact keeps_settleMoves (keeps_update (keeps_foldl_fst (fun _ _ h => keeps_moveOne h ..) _ h) rfl)

theorem leads_execMove (h : Keeps z s) : Leads z (execMove s) := by
  unfold execMove
  split
  · exact leads_next h
  next tk s1 e =>
  have h1 := keeps_takeHead h _ e
  extract_lets r
  split
  · exact leads_next (keeps_refuse h1 ..)
  split
  next s2 home e =>
  have h2 := (keeps_homeOf h1 ..).fst e
  split
  · exact leads_next (keeps_refuse h2 ..)
  split
  · split
    · exact leads_next (keeps_ite (keeps_complete h2 ..) (keeps_runMove h2 ..))
    · exact leads_next (keeps_forwardHome h2 ..)
  extract_lets c others
  split
  · exact leads_next (keeps_tierRefuse h2 ..)
  · exact leads_next (keeps_runMove (keeps_sendOn h2 ..) ..)

theorem keeps_moveAnswer {t} (h : Keeps z s) (src record) (e : moveAnswer s src record = some t) : Keeps z t := by
  unfold moveAnswer at e
  grind [keeps_settleMoves, keeps_update]

theorem keeps_runPress (h : Keeps z s) (tk data) : Keeps z (runPress s tk data) := by
  unfold runPress
  grind [keeps_update, keeps_bump, keeps_completeResult, keeps_complete]

theorem leads_execPress (h : Keeps z s) : Leads z (execPress s) := by
  unfold execPress
  grind [leads_next, keeps_update, keeps_runPress, keeps_takeHead, keeps_complete, keeps_nodeRead, keeps_bgAsk, keeps_refuseArea,
    keeps_refuse]

theorem keeps_drainRegion (h : Keeps z s) (v) : Keeps z (drainRegion s v) := by
  unfold drainRegion
  split
  · exact h
  · exact keeps_foldl (fun _ _ h => by grind [keeps_startMove, keeps_askMove]) _ (keeps_wr h ..)

theorem keeps_hVatDrain (h : Keeps z s) (v l k) : Keeps z (hVatDrain v s l k).1 := by
  unfold hVatDrain
  grind [keeps_update, keeps_drainRegion]

theorem leads_execVatRegionFail (h : Keeps z s) (region) : Leads z (execVatRegionFail region s) := by
  unfold execVatRegionFail
  grind [leads_next, keeps_update, keeps_wr]

theorem sound_enVat : enVat.Sound := ⟨id, id, id⟩

theorem sound_enPress : enPress.Sound := ⟨id, id, id⟩

theorem sound_enFeltHome : enFeltHome.Sound := ⟨id, fun h => keeps_foldl (fun _ _ h => keeps_askMove h ..) _ h, id⟩

theorem sound_enVatRegion (v) : (enVatRegion v).Sound := ⟨fun h => keeps_wr h .., fun h => keeps_wr h .., id⟩

theorem sound_enTenant (t) : (enTenant t).Sound := ⟨id, id, id⟩

theorem keeps_rebalance (h : Keeps z s) (sl) : Keeps z (rebalance s sl) := by
  unfold rebalance
  split
  · exact h
  · exact keeps_foldl (fun _ _ h => keeps_getD h fun hp => keeps_startMove h _ _ _ _ _ hp) _ (keeps_bgAsk h _)

theorem keeps_fittedModel (h : Keeps z s) (sl n) : Keeps z (fittedModel s sl n) := by
  unfold fittedModel
  grind [keeps_update, keeps_wr]

theorem keeps_recalibrate (h : Keeps z s) (sl) : Keeps z (recalibrate s sl) := by
  unfold recalibrate
  grind [keeps_update, keeps_fresh, keeps_bump, keeps_fittedModel, keeps_event, keeps_wr]

theorem leads_execMaintClose (h : Keeps z s) (slice entry) : Leads z (execMaintClose slice entry s) := by
  unfold execMaintClose
  split
  · exact leads_next h
  · refine leads_next (keeps_foldl (fun _ _ h => ?_) _ (keeps_update (keeps_takeOccurrence h ..) rfl))
    grind [keeps_dropMove]

theorem leads_execQuireRebalanceSwitch (h : Keeps z s) (quireKey) : Leads z (execQuireRebalanceSwitch quireKey s) := by
  unfold execQuireRebalanceSwitch
  grind [leads_next, keeps_update, keeps_afterMove, keeps_switchMove, keeps_bgAsk]

/-! ## Links -/

theorem keeps_putLink (h : Keeps z s) (l x) : Keeps z (putLink s l x) := h.same rfl rfl rfl rfl rfl

theorem keeps_linkEvent (h : Keeps z s) (code sev l data) : Keeps z (linkEvent s code sev l data) := by
  unfold linkEvent
  grind [keeps_update, keeps_event]

theorem keeps_sayDown (h : Keeps z s) (l cause) : Keeps z (sayDown s l cause) := by
  unfold sayDown
  grind [keeps_update, keeps_bump, keeps_linkEvent, keeps_putLink]

theorem keeps_dropTo (h : Keeps z s) (l st cause) : Keeps z (dropTo s l st cause) := by
  unfold dropTo
  grind [keeps_update, keeps_sayDown, keeps_wr]

theorem keeps_train (h : Keeps z s) (l) : Keeps z (train s l) := by
  unfold train
  grind [keeps_update, keeps_putLink, keeps_dropTo]

theorem keeps_goUp (h : Keeps z s) (l w) : Keeps z (goUp s l w) := by
  unfold goUp
  grind [keeps_update, keeps_linkEvent, keeps_putLink, keeps_wr]

theorem keeps_checkHold (h : Keeps z s) (l) : Keeps z (checkHold s l) := by
  unfold checkHold
  grind [keeps_update, keeps_linkEvent, keeps_putLink, keeps_goUp, keeps_dropTo]

theorem sound_enLink (l) : (enLink l).Sound :=
  ⟨fun h => keeps_train (keeps_putLink h ..) _, fun h => keeps_putLink (keeps_dropTo h ..) .., id⟩

theorem keeps_fillBuckets (h : Keeps z s) (l) : Keeps z (fillBuckets s l) := h.same rfl rfl rfl rfl rfl

theorem leads_execLinkTrained (h : Keeps z s) (link farOffer) : Leads z (execLinkTrained link farOffer s) := by
  unfold execLinkTrained
  grind [leads_next, keeps_update, keeps_checkHold, keeps_goUp, keeps_fillBuckets]

theorem leads_execLinkTrainingTimeout (h : Keeps z s) (link signal) : Leads z (execLinkTrainingTimeout link signal s) := by
  unfold execLinkTrainingTimeout
  grind [leads_next, keeps_update, keeps_sayDown, keeps_putLink, keeps_wr]

theorem leads_execLinkRetrainAttempt (h : Keeps z s) (link) : Leads z (execLinkRetrainAttempt link s) := by
  unfold execLinkRetrainAttempt
  grind [leads_next, keeps_update, keeps_train]

theorem keeps_retireLane (h : Keeps z s) (l lane) : Keeps z (retireLane s l lane) := by
  unfold retireLane
  grind [keeps_update, keeps_linkEvent, keeps_wr, keeps_train]

theorem leads_execLaneFlap (h : Keeps z s) (link lane farTraining) : Leads z (execLaneFlap link lane farTraining s) := by
  unfold execLaneFlap
  grind [leads_next, keeps_update, keeps_retireLane, keeps_putLink, keeps_train]

theorem keeps_hLaneRestore (h : Keeps z s) (l w p) : Keeps z (hLaneRestore l s w p).1 := by
  exact keeps_putLink h ..

theorem keeps_restoreLanes (h : Keeps z s) (l) : Keeps z (restoreLanes s l) := by
  unfold restoreLanes
  grind [keeps_update, keeps_putLink, keeps_wr, keeps_train]

theorem leads_execLinkBlockSend (h : Keeps z s) (link) : Leads z (execLinkBlockSend link s) := by
  unfold execLinkBlockSend
  grind [leads_next, keeps_update, keeps_checkHold, keeps_emit, keeps_putLink]

theorem leads_execLinkBlock (h : Keeps z s) (link block) : Leads z (execLinkBlock link block s) := by
  unfold execLinkBlock
  grind [leads_next, keeps_update, keeps_checkHold, keeps_putLink, keeps_wr]

/-! ## Traffic -/

theorem keeps_putEgress (h : Keeps z s) (l x) : Keeps z (putEgress s l x) := h.same rfl rfl rfl rfl rfl

theorem keeps_setBucket (h : Keeps z s) (l q n) : Keeps z (setBucket s l q n) := h.same rfl rfl rfl rfl rfl

theorem keeps_police (h : Keeps z s) (l p) : Keeps z (police s l p).1 := by
  unfold police
  grind [keeps_update, keeps_bump, keeps_setBucket]

theorem keeps_settleBuckets (h : Keeps z s) : Keeps z (settleBuckets s) := by
  exact keeps_foldl (fun _ _ h => keeps_foldl (fun _ _ h => keeps_setBucket h ..) _ h) _ h

theorem keeps_enqueuePkt (h : Keeps z s) (l p) : Keeps z (enqueuePkt s l p) := by
  unfold enqueuePkt
  grind [keeps_update, keeps_bump, keeps_putEgress]

theorem keeps_setLeft (h : Keeps z s) (m) : Keeps z (setLeft s m) := by
  unfold setLeft
  grind [keeps_update]

theorem keeps_markSent (h : Keeps z s) (p) : Keeps z (markSent s p) := by
  unfold markSent
  dsimp only
  split
  · exact h
  · exact keeps_foldl (fun _ _ h => keeps_setLeft h _) _ (keeps_update h rfl)

theorem keeps_sendPkt (h : Keeps z s) (l p) : Keeps z (sendPkt s l p) := by
  unfold sendPkt
  grind [keeps_update, keeps_putEgress, keeps_emit, keeps_markSent]

theorem keeps_selectOn (h : Keeps z s) (l) : Keeps z (selectOn s l) := by
  unfold selectOn
  grind [keeps_update, keeps_sendPkt, keeps_bump, keeps_putEgress]

theorem keeps_startTraffic (h : Keeps z s) : Keeps z (startTraffic s) := by
  unfold startTraffic
  exact keeps_foldl (fun _ _ h => by grind [keeps_update, keeps_putEgress]) _ (by grind [keeps_update, keeps_putEgress])

theorem sound_enTraffic : enTraffic.Sound := ⟨keeps_startTraffic, id, id⟩

/-! ## Transport -/

theorem keeps_setNet (h : Keeps z s) (n) : Keeps z (setNet s n) := h.same rfl rfl rfl rfl rfl

theorem keeps_encodeBody (h : Keeps z s) (b) : Keeps z (encodeBody s b).1 := by
  unfold encodeBody
  grind [keeps_update, keeps_fresh]

theorem keeps_newMsg (h : Keeps z s) (dst vl kind key off data ticket ctx) : Keeps z (newMsg s dst vl kind key off data ticket ctx) :=
  h.same rfl rfl rfl rfl rfl

theorem keeps_dropMsg (h : Keeps z s) (dst vl id) : Keeps z (dropMsg s dst vl id) := by
  exact keeps_setNet (keeps_foldl (fun _ _ h => keeps_setLeft h _) _ h) _

theorem keeps_putMsg (h : Keeps z s) (m) : Keeps z (putMsg s m) := h.same rfl rfl rfl rfl rfl

theorem keeps_routeMiss (h : Keeps z s) (die dst vl) : Keeps z (routeMiss s die dst vl) := by
  unfold routeMiss
  grind [keeps_update, keeps_bump, keeps_event]

theorem keeps_putRate (h : Keeps z s) (dst r) : Keeps z (putRate s dst r) := h.same rfl rfl rfl rfl rfl

theorem keeps_sendCast (h : Keeps z s) (src id hops inLink data) : Keeps z (sendCast s src id hops inLink data) := by
  exact keeps_foldl (fun _ _ h => by grind [keeps_update, keeps_enqueuePkt]) _ h

theorem keeps_castNew {t} (h : Keeps z s) (src id) (e : castNew s src id = some t) : Keeps z t := by
  unfold castNew at e
  grind [keeps_update]

theorem keeps_failTicket (h : Keeps z s) (raw st) : Keeps z (failTicket s raw st) := by
  unfold failTicket
  grind [keeps_update, keeps_complete]

theorem keeps_failMsg (h : Keeps z s) (m st) : Keeps z (failMsg s m st) := by
  unfold failMsg
  grind [keeps_update, keeps_failTicket, keeps_dropMsg]

theorem keeps_unreachable (h : Keeps z s) (m) : Keeps z (unreachable s m) := by
  unfold unreachable
  grind [keeps_update, keeps_failMsg, keeps_event]

theorem keeps_takeAck (h : Keeps z s) (src vl e) : Keeps z (takeAck s src vl e) := by
  unfold takeAck
  grind [keeps_update, keeps_bump, keeps_dropMsg, keeps_putMsg, keeps_putRate]

theorem keeps_takeNak (h : Keeps z s) (src vl msgId st) : Keeps z (takeNak s src vl msgId st) := by
  unfold takeNak
  grind [keeps_update, keeps_failMsg, keeps_putMsg]

theorem keeps_takeEntry (h : Keeps z s) (src vl kind w) : Keeps z (takeEntry s src vl kind w) := by
  unfold takeEntry
  grind [keeps_update, keeps_takeNak, keeps_takeAck]

theorem leads_execAck (h : Keeps z s) (src vl e) : Leads z (execAck src vl e s) := by
  unfold execAck
  grind [leads_next, keeps_update, keeps_takeAck]

theorem leads_execNak (h : Keeps z s) (src vl msgId status) : Leads z (execNak src vl msgId status s) := by
  unfold execNak
  grind [leads_next, keeps_update, keeps_takeNak]

theorem leads_execRetransmitTimeout (h : Keeps z s) (dst vl msgId packet) : Leads z (execRetransmitTimeout dst vl msgId packet s) := by
  unfold execRetransmitTimeout
  grind [leads_next, keeps_update, keeps_bump, keeps_putMsg, keeps_unreachable]

theorem leads_execRnrDelayExpire (h : Keeps z s) (dst vl msgId) : Leads z (execRnrDelayExpire dst vl msgId s) := by
  unfold execRnrDelayExpire
  grind [leads_next, keeps_update, keeps_bump, keeps_putMsg, keeps_unreachable]

theorem leads_execCcInterval (h : Keeps z s) (dst) : Leads z (execCcInterval dst s) := by
  unfold execCcInterval
  grind [leads_next, keeps_update, keeps_putRate]

theorem keeps_noteId (h : Keeps z s) (src vl id) : Keeps z (noteId s src vl id) := h.same rfl rfl rfl rfl rfl

theorem keeps_recordId (h : Keeps z s) (src vl id st) : Keeps z (recordId s src vl id st) := h.same rfl rfl rfl rfl rfl

theorem keeps_sendEntry (h : Keeps z s) (dst vl kind word) : Keeps z (sendEntry s dst vl kind word) := by
  unfold sendEntry
  grind [keeps_update, keeps_bump, keeps_takeEntry, keeps_enqueuePkt, keeps_routeMiss]

theorem keeps_sendNak (h : Keeps z s) (dst vl id st) : Keeps z (sendNak s dst vl id st) := by
  unfold sendNak
  grind [keeps_update, keeps_sendEntry, keeps_bump]

theorem keeps_sendOutcome (h : Keeps z s) (p st) : Keeps z (sendOutcome s p st) := by
  unfold sendOutcome
  grind [keeps_update, keeps_sendEntry, keeps_sendNak]

theorem keeps_putRegion (h : Keeps z s) (i r) : Keeps z (putRegion s i r) := h.same rfl rfl rfl rfl rfl

theorem keeps_sayRefused (h : Keeps z s) (p st) : Keeps z (sayRefused s p st) := by
  unfold sayRefused
  extract_lets s1
  have h1 : Keeps z s1 := keeps_bump h ..
  split
  · exact keeps_ite (keeps_event (keeps_setNet h1 _) ..) h1
  · exact keeps_event (keeps_setNet h1 _) ..

theorem keeps_dropRctx (h : Keeps z s) (c) : Keeps z (dropRctx s c) := by
  unfold dropRctx
  grind [keeps_update, keeps_setNet]

theorem keeps_putRctx (h : Keeps z s) (c) : Keeps z (putRctx s c) := h.same rfl rfl rfl rfl rfl

theorem keeps_writeDesc (h : Keeps z s) (c st) : Keeps z (writeDesc s c st) := by
  unfold writeDesc
  grind [keeps_update, keeps_nodeWrite]

theorem keeps_openRctx {p t c} (h : Keeps z s) (e : openRctx s p = .ctx t c) : Keeps z t := by
  have hn (a n) := keeps_nodeRead h a n
  unfold openRctx at e
  grind [keeps_putRegion, keeps_newId, keeps_takeSpread]

theorem keeps_storePayload (h : Keeps z s) (c p) : Keeps z (storePayload s c p).1 := by
  unfold storePayload
  grind [keeps_update, keeps_nodeWrite]

theorem keeps_deliverMsg (h : Keeps z s) (c) : Keeps z (deliverMsg s c) := by
  unfold deliverMsg
  extract_lets data t
  have ht : Keeps z t := keeps_bump h ..
  clear_value t
  have hg (r d) := keeps_getD (o := moveAnswer t c.src r) (keeps_takeCompletion ht r d) fun hp => keeps_moveAnswer ht _ _ hp
  split
  · exact keeps_writeDesc ht ..
  · exact ht
  · exact ht
  · exact keeps_update (keeps_nodeRead ht ..) rfl
  · grind [keeps_update, keeps_emit]

theorem keeps_intoCtx (h : Keeps z s) (c p) : Keeps z (intoCtx s c p) := by
  unfold intoCtx
  grind [keeps_update, keeps_recordId, keeps_sendEntry, keeps_bump, keeps_putRctx, keeps_dropRctx, keeps_deliverMsg, keeps_storePayload]

theorem keeps_failRctx (h : Keeps z s) (c st) : Keeps z (failRctx s c st) := by
  unfold failRctx
  grind [keeps_update, keeps_recordId, keeps_writeDesc, keeps_sendNak, keeps_dropRctx]

theorem keeps_recvPkt (h : Keeps z s) (p) : Keeps z (recvPkt s p) := by
  unfold recvPkt
  grind [keeps_sendOutcome, keeps_bump, keeps_sayRefused, keeps_failRctx, keeps_sendNak, keeps_recordId, keeps_intoCtx, keeps_noteId,
    keeps_setNet, keeps_openRctx]

theorem keeps_recvEntries (h : Keeps z s) (p) : Keeps z (recvEntries s p) := by
  exact keeps_foldl (fun _ _ h => by grind [keeps_update, keeps_takeEntry]) _ h

theorem keeps_releasePkt (h : Keeps z s) (dst vl id i) : Keeps z (releasePkt s dst vl id i) := by
  unfold releasePkt
  grind [keeps_update, keeps_bump, keeps_recvPkt, keeps_dropMsg, keeps_putMsg, keeps_enqueuePkt, keeps_routeMiss, keeps_markSent,
    keeps_putRate]

theorem keeps_releaseAll (h : Keeps z s) : Keeps z (releaseAll s) := by
  refine keeps_foldl (fun _ m h => ?_) _ h
  split
  · exact h
  · exact keeps_foldl (fun _ _ h => keeps_releasePkt h ..) _ h

theorem keeps_feedPost {t} (h : Keeps z s) (p) (e : feedPost s p = some t) : Keeps z t := by
  have hb := keeps_encodeBody h p.body
  unfold feedPost at e
  split at e
  · dsimp only at e
    split at e
    · grind [keeps_sendCast]
    · cases e
      exact keeps_sendCast (keeps_setNet (keeps_getD hb fun hp => keeps_castNew hb _ _ hp) _) ..
  split at e
  · cases e
  dsimp only at e
  split at e
  · cases e
    exact keeps_foldl (fun _ _ h => keeps_newMsg h ..) _ hb
  · cases e
    exact keeps_newMsg hb ..
  · cases e
    exact keeps_newMsg hb ..

theorem keeps_feed (h : Keeps z s) : Keeps z (feed s) := by
  exact keeps_releaseAll (keeps_foldl (fun _ _ h => by grind [keeps_feedPost, keeps_update]) _ (keeps_update h rfl))

theorem leads_execEgressSelect (h : Keeps z s) (link) : Leads z (execEgressSelect link s) := by
  unfold execEgressSelect
  grind [leads_next, keeps_update, keeps_feed, keeps_selectOn]

theorem leads_execAckDelayExpire (h : Keeps z s) (src vl msgId) : Leads z (execAckDelayExpire src vl msgId s) := by
  unfold execAckDelayExpire
  split
  · exact leads_next h
  split
  · exact leads_next h
  · exact leads_next (keeps_putRctx (keeps_foldl (fun _ _ h => keeps_sendEntry h ..) _ h) _)

theorem keeps_timeoutRctx (h : Keeps z s) (c) : Keeps z (timeoutRctx s c) := by
  unfold timeoutRctx
  grind [keeps_update, keeps_bump, keeps_failRctx, keeps_event]

theorem leads_execReassemblyTimeout (h : Keeps z s) (src vl msgId) : Leads z (execReassemblyTimeout src vl msgId s) := by
  unfold execReassemblyTimeout
  grind [leads_next, keeps_update, keeps_timeoutRctx]

theorem keeps_dropConns (h : Keeps z s) (n) : Keeps z (dropConns s n) := by
  exact keeps_update (keeps_foldl (fun _ _ h => keeps_setLeft h _) _ (keeps_foldl (fun _ _ h => keeps_dropRctx h _) _ h)) rfl

theorem keeps_showRegion (h : Keeps z s) : Keeps z (showRegion s) := by
  unfold showRegion
  grind [keeps_update, keeps_wr]

theorem keeps_deregRegion (h : Keeps z s) (i) : Keeps z (deregRegion s i) := by
  unfold deregRegion
  grind [keeps_update, keeps_putRegion, keeps_showRegion]

theorem keeps_hRegionOp (h : Keeps z s) (l k) : Keeps z (hRegionOp s l k).1 := by
  unfold hRegionOp
  grind [keeps_update, keeps_deregRegion, keeps_putRegion, keeps_showRegion]

theorem keeps_stopTransport (h : Keeps z s) : Keeps z (stopTransport s) := by
  exact keeps_foldl (fun _ _ h => keeps_timeoutRctx h _) _ (keeps_foldl (fun _ _ h => keeps_failMsg h ..) _ h)

theorem sound_enTransport : enTransport.Sound := ⟨id, keeps_stopTransport, id⟩

/-! ## Extents -/

theorem keeps_putExtent (h : Keeps z s) (i e) : Keeps z (putExtent s i e) := h.same rfl rfl rfl rfl rfl

theorem keeps_showExtent (h : Keeps z s) : Keeps z (showExtent s) := by
  unfold showExtent
  grind [keeps_update, keeps_wr]

theorem keeps_renewLease (h : Keeps z s) (t) : Keeps z (renewLease s t) := h.same rfl rfl rfl rfl rfl

theorem keeps_leaseGrants (h : Keeps z s) (old new) : Keeps z (leaseGrants s old new) := by
  exact keeps_foldl (fun _ _ h => by grind [keeps_update, keeps_renewLease]) _ h

theorem keeps_createExtent (h : Keeps z s) (i w) : Keeps z (createExtent s i w) := by
  unfold createExtent
  grind [keeps_update, keeps_mapBlocks, keeps_leaseGrants, keeps_putExtent, keeps_showExtent]

theorem keeps_deregWithin (h : Keeps z s) (e p) : Keeps z (deregWithin s e p) := by
  exact keeps_foldl (fun _ _ h => by grind [keeps_update, keeps_deregRegion]) _ h

theorem keeps_revokeExtent (h : Keeps z s) (i) : Keeps z (revokeExtent s i) := by
  unfold revokeExtent
  grind [keeps_update, keeps_deregWithin, keeps_bump, keeps_putExtent, keeps_showExtent]

theorem keeps_revokeGrant (h : Keeps z s) (i k rights next) : Keeps z (revokeGrant s i k rights next) := by
  unfold revokeGrant
  grind [keeps_update, keeps_deregWithin, keeps_bump, keeps_putExtent]

theorem keeps_replaceGrant (h : Keeps z s) (i k new) : Keeps z (replaceGrant s i k new) := by
  unfold replaceGrant
  grind [keeps_update, keeps_putExtent, keeps_revokeGrant]

theorem keeps_hExtentOp (h : Keeps z s) (l k) : Keeps z (hExtentOp s l k).1 := by
  unfold hExtentOp
  extract_lets i x stop
  have hs (f) {t} (ht : Keeps z t) : Keeps z (stop f t).1 := by grind
  split
  · exact hs _ (keeps_createExtent h ..)
  · exact hs _ (keeps_showExtent (keeps_leaseGrants (keeps_foldl (fun _ _ h => keeps_replaceGrant h ..) _ h) ..))
  · exact keeps_revokeExtent h _
  · exact h

theorem keeps_endGrant (h : Keeps z s) (i d) : Keeps z (endGrant s i d) := by
  unfold endGrant
  grind [keeps_update, keeps_putExtent]

theorem leads_execExtentDrainEnd (h : Keeps z s) (extent) : Leads z (execExtentDrainEnd extent s) := by
  unfold execExtentDrainEnd
  split
  · exact leads_next h
  split
  · grind [leads_next, keeps_showExtent, keeps_putExtent, keeps_beginUnmap]
  · exact leads_next (keeps_showExtent (keeps_foldl (fun _ _ h => keeps_endGrant h ..) _ h))

theorem leads_execMemoryClearDone (h : Keeps z s) (holder) : Leads z (execMemoryClearDone holder s) := by
  unfold execMemoryClearDone
  grind [leads_next, keeps_update, keeps_afterMove, keeps_retryRoom, keeps_showExtent]

theorem keeps_releaseOpen (h : Keeps z s) (o) : Keeps z (releaseOpen s o) := h.same rfl rfl rfl rfl rfl

theorem leads_execTenantLeaseExpire (h : Keeps z s) (tenant) : Leads z (execTenantLeaseExpire tenant s) := by
  unfold execTenantLeaseExpire
  split
  · exact leads_next h
  split
  · exact leads_next h
  · exact leads_next (keeps_freeEvent (keeps_bump (keeps_foldl (fun _ _ h => keeps_releaseOpen h _) _
      (keeps_foldl (fun _ _ h => keeps_foldl (fun _ _ h => keeps_ite (keeps_revokeGrant h ..) h) _ h) _ (keeps_update h rfl))) ..) ..)

theorem leads_execRenew (h : Keeps z s) : Leads z (execRenew s) := by
  unfold execRenew
  grind [leads_next, keeps_update, keeps_renewLease, keeps_takeHead, keeps_complete]

theorem leads_execOpen (h : Keeps z s) : Leads z (execOpen s) := by
  unfold execOpen
  grind [leads_next, keeps_update, keeps_askLead, keeps_takeHead, keeps_complete, keeps_refuseArea]

theorem leads_execClose (h : Keeps z s) : Leads z (execClose s) := by
  unfold execClose
  grind [leads_next, keeps_update, keeps_askLead, keeps_takeHead]

theorem keeps_preparePublish (h : Keeps z s) (i e) : Keeps z (preparePublish s i e) := by
  unfold preparePublish
  grind [keeps_update, keeps_toDevice, keeps_putExtent, keeps_showExtent]

theorem leads_execPublish (h : Keeps z s) : Leads z (execPublish s) := by
  unfold execPublish
  split
  · exact leads_next h
  next tk s1 e =>
  have h1 := keeps_takeHead h _ e
  extract_lets r t c
  split
  · exact leads_next (keeps_askLead h1 ..)
  · split
    · exact leads_next (keeps_complete h1 ..)
    split
    · exact leads_next h1
    · exact leads_next (keeps_askLead (keeps_preparePublish h1 ..) ..)
  · split
    next s2 home e =>
    have h2 := (keeps_homeOf h1 ..).fst e
    split
    · exact leads_next (keeps_refuse h2 ..)
    split
    · exact leads_next (keeps_forwardHome h2 ..)
    split
    · exact leads_next (keeps_complete h2 ..)
    split
    · exact leads_next (keeps_complete h2 ..)
    · exact leads_next (keeps_update h2 rfl)
  · exact leads_next (keeps_refuse h1 ..)

theorem leads_execShareReply (h : Keeps z s) (a) : Leads z (execShareReply a s) := by
  unfold execShareReply
  grind [leads_next, keeps_update, keeps_releaseOpen, keeps_completeResult, keeps_renewLease, keeps_complete]

theorem leads_execVersionRelease (h : Keeps z s) (kind object tenant) : Leads z (execVersionRelease kind object tenant s) := by
  unfold execVersionRelease
  grind [leads_next, keeps_update, keeps_revokeExtent]

theorem keeps_sweepVersions (h : Keeps z s) : Keeps z (sweepVersions s) := by
  exact keeps_update (keeps_foldl (fun _ _ h => keeps_foldl (fun _ _ h => keeps_mgmt h ..) _ h) _ h) rfl

theorem keeps_setShares (h : Keeps z s) (l) : Keeps z (setShares s l) := h.same rfl rfl rfl rfl rfl

theorem keeps_orderShare (h : Keeps z s) (m) : Keeps z (orderShare s m).1 := by
  unfold orderShare
  grind [keeps_update, keeps_bump, keeps_setShares, keeps_sweepVersions]

theorem leads_execShareReq (h : Keeps z s) (m) : Leads z (execShareReq m s) := by
  unfold execShareReq
  grind [leads_next, keeps_update, keeps_orderShare, keeps_mgmt]

theorem sound_enExtent : enExtent.Sound := ⟨id, id, id⟩

theorem keeps_hPoolRequest (h : Keeps z s) (l k) : Keeps z (hPoolRequest s l k).1 := by
  unfold hPoolRequest
  grind [keeps_update, keeps_mgmt, keeps_wr]

theorem keeps_modHeld (h : Keeps z s) (id f) : Keeps z (modHeld s id f) := h.same rfl rfl rfl rfl rfl

theorem leads_execPoolLeaseGrant (h : Keeps z s) (g) : Leads z (execPoolLeaseGrant g s) := by
  unfold execPoolLeaseGrant
  grind [leads_next, keeps_update, keeps_modHeld, keeps_emit, keeps_wr]

theorem leads_execPoolRunCleared (h : Keeps z s) (lease) : Leads z (execPoolRunCleared lease s) := by
  unfold execPoolRunCleared
  grind [leads_next, keeps_update, keeps_modHeld, keeps_wr]

theorem leads_execPoolLeaseRenewDue (h : Keeps z s) (lease) : Leads z (execPoolLeaseRenewDue lease s) := by
  unfold execPoolLeaseRenewDue
  grind [leads_next, keeps_update, keeps_modHeld, keeps_mgmt]

theorem keeps_drainLease (h : Keeps z s) (id how drainEnd) : Keeps z (drainLease s id how drainEnd) := by
  exact keeps_settleLeases (keeps_foldl (fun _ _ h => keeps_drainRegion h _) _ (keeps_modHeld h ..))

theorem keeps_hPoolRelease (h : Keeps z s) (l k) : Keeps z (hPoolRelease s l k).1 := by
  unfold hPoolRelease
  grind [keeps_update, keeps_drainLease]

theorem leads_execPoolLeaseRevoke (h : Keeps z s) (lease drainNs) : Leads z (execPoolLeaseRevoke lease drainNs s) := by
  unfold execPoolLeaseRevoke
  grind [leads_next, keeps_update, keeps_drainLease]

theorem leads_execPoolLeaseGuardExpire (h : Keeps z s) (lease) : Leads z (execPoolLeaseGuardExpire lease s) := by
  unfold execPoolLeaseGuardExpire
  split
  · exact leads_next h
  split
  · exact leads_next h
  · exact leads_next (keeps_foldl (fun _ _ h => keeps_wr h ..) _ (keeps_modHeld h ..))

theorem keeps_reapLeases (h : Keeps z s) : Keeps z (reapLeases s) := h.same rfl rfl rfl rfl rfl

theorem leads_execPoolLeaseReq (h : Keeps z s) (src mib) : Leads z (execPoolLeaseReq src mib s) := by
  unfold execPoolLeaseReq
  grind [leads_next, keeps_update, keeps_reapLeases, keeps_mgmt]

theorem leads_execPoolLeaseRenew (h : Keeps z s) (src lease) : Leads z (execPoolLeaseRenew src lease s) := by
  unfold execPoolLeaseRenew
  grind [leads_next, keeps_update, keeps_mgmt]

theorem leads_execPoolLeaseRelease (h : Keeps z s) (src lease drained) : Leads z (execPoolLeaseRelease src lease drained s) := by
  unfold execPoolLeaseRelease
  grind [leads_next, keeps_update]

theorem leads_execPoolLeaseLapse (h : Keeps z s) (lease) : Leads z (execPoolLeaseLapse lease s) := by
  unfold execPoolLeaseLapse
  grind [leads_next, keeps_update, keeps_bump]

theorem sound_enPool : enPool.Sound := ⟨id, fun h => keeps_foldl (fun _ _ h => keeps_drainLease h ..) _ h, id⟩

/-! ## HostPort -/

theorem sound_enHostPort : enHostPort.Sound := ⟨id, id, id⟩

theorem keeps_initArea (h : Keeps z s) (a) : Keeps z (initArea s a) := by
  exact keeps_toDevice (keeps_setCells h fun hz => memWf_write _ _ (memWf_clear _ _ (h.inv hz).1)) ..

theorem sound_enSlotArea (a) : (enSlotArea a).Sound :=
  ⟨fun h => keeps_initArea (keeps_mapBlocks h ..) _, id, fun h => by
    simp only [enSlotArea]
    split
    · exact keeps_beginUnmap h _
    · exact h⟩

theorem leads_execHdmDecoderProgram (h : Keeps z s) (decoder hpa size dpa lock commit) : Leads z (execHdmDecoderProgram decoder hpa size
  dpa lock commit s) := by
  unfold execHdmDecoderProgram
  grind [leads_next, keeps_update]

theorem leads_execCompletionWriteError (h : Keeps z s) (id) : Leads z (execCompletionWriteError id s) := by
  unfold execCompletionWriteError
  grind [leads_next, keeps_update, keeps_bump, keeps_writeCompletion]

theorem keeps_portEvent (h : Keeps z s) : Keeps z (portEvent s) := by
  unfold portEvent
  grind [keeps_update, keeps_bump, keeps_freeEvent]

theorem keeps_portDown (h : Keeps z s) : Keeps z (portDown s) := by
  unfold portDown
  grind [keeps_update, keeps_vatLost, keeps_wr]

theorem leads_execCxlLinkDown (h : Keeps z s) : Leads z (execCxlLinkDown s) := by
  unfold execCxlLinkDown
  grind [leads_next, keeps_update, keeps_portDown, keeps_portEvent]

theorem leads_execCxlLinkUp (h : Keeps z s) (hostMode width) : Leads z (execCxlLinkUp hostMode width s) := by
  unfold execCxlLinkUp
  grind [leads_next, keeps_update, keeps_wr]

theorem keeps_dropAreaWrites (h : Keeps z s) (a) : Keeps z (dropAreaWrites s a) := h.same rfl rfl rfl rfl rfl

theorem leads_execConventionalReset (h : Keeps z s) : Leads z (execConventionalReset s) := by
  exact leads_next (keeps_portEvent (keeps_wr (keeps_wr (keeps_update (keeps_foldl (fun _ _ h => keeps_dropAreaWrites h _) _
    (keeps_ite (keeps_portDown h) h)) rfl) ..) ..))

theorem leads_execFunctionLevelReset (h : Keeps z s) (vf) : Leads z (execFunctionLevelReset vf s) := by
  unfold execFunctionLevelReset
  split
  · exact leads_next h
  · exact leads_next (keeps_portEvent (keeps_foldl (fun _ _ h => keeps_dropAreaWrites h _) _ (keeps_update h rfl)))

theorem keeps_mailbox (h : Keeps z s) (fn code payload) : Keeps z (mailbox s fn code payload) := h.same rfl rfl rfl rfl rfl

theorem leads_pfOnly {f : State → State} (h : Keeps z s) (hf : Keeps z (f s)) (fn) : Leads z (pfOnly fn s f) := by
  unfold pfOnly
  refine leads_next ?_
  grind [keeps_mailbox]

theorem leads_execGetEventRecords (h : Keeps z s) (fn) : Leads z (execGetEventRecords fn s) := by
  exact leads_pfOnly h (keeps_mailbox h ..) _

theorem leads_execClearEventRecords (h : Keeps z s) (fn handles) : Leads z (execClearEventRecords fn handles s) := by
  refine leads_pfOnly h ?_ _
  split
  · exact keeps_mailbox h ..
  · exact keeps_mailbox (keeps_update h rfl) ..

theorem leads_execGetFwInfo (h : Keeps z s) (fn) : Leads z (execGetFwInfo fn s) := by
  exact leads_pfOnly h (keeps_mailbox h ..) _

theorem leads_execGetSupportedLogs (h : Keeps z s) (fn) : Leads z (execGetSupportedLogs fn s) := by
  exact leads_pfOnly h (keeps_mailbox h ..) _

theorem leads_execGetLog (h : Keeps z s) (fn log) : Leads z (execGetLog fn log s) := by
  refine leads_pfOnly h ?_ _
  refine keeps_ite (keeps_mailbox h ..) (keeps_mailbox (keeps_foldl_fst (fun _ _ h => ?_) _ h) ..)
  exact keeps_fresh h

theorem leads_execIdentifyMemoryDevice (h : Keeps z s) (fn) : Leads z (execIdentifyMemoryDevice fn s) := by
  exact leads_pfOnly h (keeps_mailbox h ..) _

theorem leads_execMailboxUnsupported (h : Keeps z s) (fn _opcode) : Leads z (execMailboxUnsupported fn _opcode s) := by
  unfold execMailboxUnsupported
  grind [leads_next, keeps_update, keeps_mailbox]

/-! ## Security -/

theorem keeps_trigger {f : State → State × Res} (h : Keeps z s) (hf : Keeps z (f s).1) (idx sub w p) : Keeps z (trigger idx sub f s w
  p).1 := by
  unfold trigger
  split
  · exact h
  · exact hf
  · exact h

theorem keeps_hStoreCommit (h : Keeps z s) (readBackOk l k) : Keeps z (hStoreCommit readBackOk s l k).1 := by
  exact keeps_trigger h (keeps_beginCommit h ..) ..

theorem keeps_hStoreDefaults (h : Keeps z s) (l k) : Keeps z (hStoreDefaults s l k).1 := by
  refine keeps_trigger h ?_ ..
  split
  · exact h
  · exact h.trans ⟨rfl, fun ⟨hm, hd, hl, ha⟩ => ⟨hm, twf_filter _ hd, hl, ha⟩⟩

theorem keeps_loadVals (h : Keeps z s) (l) : Keeps z (loadVals s l) := by
  exact keeps_foldl (fun _ _ h => by grind [keeps_update, keeps_wr]) _ h

theorem keeps_loadStore (h : Keeps z s) : Keeps z (loadStore s) := by
  unfold loadStore
  grind [keeps_update, keeps_loadVals, keeps_event, keeps_wr]

theorem keeps_recover (h : Keeps z s) (reason type) : Keeps z (recover s reason type) := by
  unfold recover
  grind [keeps_update, keeps_event, keeps_wr]

theorem keeps_showVersions (h : Keeps z s) : Keeps z (showVersions s) := by
  unfold showVersions
  exact keeps_wr (keeps_foldl (fun _ _ h => keeps_wr h ..) _ (keeps_foldl (fun _ _ h => keeps_wr h ..) _ h)) ..

theorem keeps_startImages (h : Keeps z s) : Keeps z (startImages s) := by
  unfold startImages
  grind [keeps_update, keeps_showVersions]

theorem keeps_boot (h : Keeps z s) (strap) : Keeps z (boot s strap) := by
  unfold boot
  grind [keeps_update, keeps_startImages, keeps_recover, keeps_wr, keeps_loadStore]

theorem keeps_resetState (h : Keeps z s) : Keeps z (resetState s) := by
  exact h.trans ⟨rfl, fun ⟨_, hd, hl, _⟩ => ⟨rfl, twf_filter _ hd, hl, rfl⟩⟩

theorem leads_execNodeReset (h : Keeps z s) : Leads z (execNodeReset s) := by
  unfold execNodeReset
  grind [leads_next, keeps_update, keeps_boot, keeps_resetState]

theorem leads_execControlCoreWatchdog (h : Keeps z s) : Leads z (execControlCoreWatchdog s) := by
  unfold execControlCoreWatchdog
  grind [leads_next, keeps_update, keeps_boot, keeps_recover, keeps_resetState, keeps_wr, keeps_loadStore]

theorem leads_execDebugAttached (h : Keeps z s) : Leads z (execDebugAttached s) := by
  unfold execDebugAttached
  grind [leads_next, keeps_update, keeps_measure, keeps_event, keeps_wr]

theorem leads_execExtest (h : Keeps z s) : Leads z (execExtest s) := by
  unfold execExtest
  split
  · exact leads_next (keeps_foldl (fun _ _ h => keeps_clearPoison h _) _ (keeps_setCells h fun _ => rfl))
  · exact leads_next h

theorem keeps_makeReport (h : Keeps z s) (requester nonce) : Keeps z (makeReport s requester nonce).1 := by
  unfold makeReport
  grind [keeps_update, keeps_measure]

theorem keeps_hAttestRequest (h : Keeps z s) (l k) : Keeps z (hAttestRequest s l k).1 := by
  exact keeps_trigger h (keeps_wr h ..) ..

theorem leads_execAttestReportReady (h : Keeps z s) : Leads z (execAttestReportReady s) := by
  unfold execAttestReportReady
  grind [leads_next, keeps_update, keeps_wr, keeps_makeReport]

theorem keeps_spdm (h : Keeps z s) (what payload) : Keeps z (spdm s what payload) := h.same rfl rfl rfl rfl rfl

theorem leads_execGetMeasurements (h : Keeps z s) (index nonce) : Leads z (execGetMeasurements index nonce s) := by
  unfold execGetMeasurements
  grind [leads_next, keeps_update, keeps_spdm, keeps_makeReport]

theorem keeps_closeSessions (h : Keeps z s) (p) : Keeps z (closeSessions s p) := by
  unfold closeSessions
  grind [keeps_update, keeps_wr]

theorem sound_enMgmtSession : enMgmtSession.Sound := ⟨id, id, fun h => keeps_closeSessions h fun _ _ => true⟩

theorem keeps_authEvent (h : Keeps z s) (transport) : Keeps z (authEvent s transport) := by
  unfold authEvent
  grind [keeps_update, keeps_event]

theorem leads_execKeyExchange (h : Keeps z s) (doe pubKey transcript sig) : Leads z (execKeyExchange doe pubKey transcript sig s) := by
  unfold execKeyExchange
  grind [leads_next, keeps_update, keeps_spdm, keeps_wr, keeps_authEvent]

theorem leads_execSessionIdleTimeout (h : Keeps z s) (session) : Leads z (execSessionIdleTimeout session s) := by
  unfold execSessionIdleTimeout
  grind [leads_next, keeps_update, keeps_closeSessions]

theorem keeps_hSessionKey (h : Keeps z s) (i l k) : Keeps z (hSessionKey i s l k).1 := by
  unfold hSessionKey
  grind [keeps_update, keeps_closeSessions, keeps_wr]

theorem leads_execSessionKeyWrite (h : Keeps z s) (entry w payload) : Leads z (execSessionKeyWrite entry w payload s) := by
  unfold execSessionKeyWrite
  split
  · exact leads_next (keeps_rowWrite h (keeps_hSessionKey h _) ..)
  · exact leads_next h

theorem keeps_hOwnerKey (h : Keeps z s) (l k) : Keeps z (hOwnerKey s l k).1 := by
  unfold hOwnerKey
  grind [keeps_update, keeps_wr]

theorem leads_execIdeKm (h : Keeps z s) (session stream establish) : Leads z (execIdeKm session stream establish s) := by
  unfold execIdeKm
  grind [leads_next, keeps_update, keeps_wr]

theorem keeps_takeStaging (h : Keeps z s) : Keeps z (takeStaging s) := by
  unfold takeStaging
  grind [keeps_update, keeps_takeSpread]

theorem keeps_openBuf (h : Keeps z s) (transport) : Keeps z (openBuf s transport) := by
  unfold openBuf
  grind [keeps_update, keeps_takeStaging, keeps_wr]

theorem keeps_fillBuf (h : Keeps z s) (off data) : Keeps z (fillBuf s off data) := h.same rfl rfl rfl rfl rfl

theorem keeps_dropBuf (h : Keeps z s) : Keeps z (dropBuf s) := by
  unfold dropBuf
  grind [keeps_update, keeps_wr]

theorem keeps_showStaged (h : Keeps z s) : Keeps z (showStaged s) := by
  unfold showStaged
  grind [keeps_update, keeps_wr]

theorem keeps_hFwBuffer (h : Keeps z s) (off l k) : Keeps z (hFwBuffer off s l k).1 := by
  unfold hFwBuffer
  grind [keeps_update, keeps_openBuf, keeps_showStaged, keeps_fillBuf]

theorem keeps_hFwApply (h : Keeps z s) (l k) : Keeps z (hFwApply s l k).1 := by
  refine keeps_trigger h ?_ ..
  grind [keeps_wr]

theorem keeps_abortFw (h : Keeps z s) : Keeps z (abortFw s) := by
  unfold abortFw
  grind [keeps_update, keeps_dropBuf, keeps_wr]

theorem keeps_hFwAbort (h : Keeps z s) (l k) : Keeps z (hFwAbort s l k).1 := by
  exact keeps_trigger h (keeps_abortFw h) ..

theorem leads_execFwBufferTimeout (h : Keeps z s) : Leads z (execFwBufferTimeout s) := by
  unfold execFwBufferTimeout
  grind [leads_next, keeps_update, keeps_dropBuf, keeps_wr]

theorem leads_execTransferFw (h : Keeps z s) (fn action slot offset data) : Leads z (execTransferFw fn action slot offset data s) := by
  have hput {t : State} (h : Keeps z t) : Keeps z (wr (showStaged (fillBuf t (offset * 128) data)) K.fwLength (offset * 128 +
    data.length)) :=
    keeps_wr (keeps_showStaged (keeps_fillBuf h ..)) ..
  unfold execTransferFw
  split
  · exact leads_next h
  split
  · exact leads_next (keeps_mailbox h ..)
  extract_lets mine put
  split
  · exact leads_next (keeps_mailbox (keeps_ite (keeps_abortFw h) h) ..)
  · split
    · exact leads_next (keeps_mailbox h ..)
    split
    · exact leads_next (keeps_mailbox h ..)
    · exact leads_next (keeps_mailbox (keeps_wr (hput (keeps_openBuf h _)) ..) ..)
  · split
    · exact leads_next (keeps_mailbox h ..)
    · exact leads_next (keeps_mailbox (hput (keeps_openBuf h _)) ..)
  · split
    · exact leads_next (keeps_mailbox (hput h) ..)
    · exact leads_next (keeps_mailbox h ..)
  · split
    · exact leads_next (keeps_mailbox h ..)
    split
    · exact leads_next (keeps_mailbox (keeps_wr (hput h) ..) ..)
    · exact leads_next (keeps_mailbox h ..)
  · exact leads_next (keeps_mailbox h ..)

theorem keeps_carryOut (h : Keeps z s) (t body) : Keeps z (carryOut s t body) := by
  unfold carryOut
  extract_lets t'
  have ht : Keeps z t' := keeps_bump (keeps_wr (keeps_dropBuf h) ..) ..
  split
  · exact keeps_wr ht ..
  · exact keeps_closeSessions (keeps_foldl (fun _ _ h => keeps_wr h ..) _ (keeps_wr (keeps_wr (keeps_wr ht ..) ..) ..)) _

theorem leads_execFwVerifyDone (h : Keeps z s) : Leads z (execFwVerifyDone s) := by
  unfold execFwVerifyDone
  grind [leads_next, keeps_update, keeps_carryOut, keeps_mailbox, keeps_event, keeps_wr]

theorem leads_execFwWriteDone (h : Keeps z s) : Leads z (execFwWriteDone s) := by
  unfold execFwWriteDone
  grind [leads_next, keeps_update, keeps_bump, keeps_event, keeps_wr]

theorem keeps_activate (h : Keeps z s) (l) : Keeps z (activate s l) := h.same rfl rfl rfl rfl rfl

theorem keeps_hFwActivate (h : Keeps z s) (l k) : Keeps z (hFwActivate s l k).1 := by
  unfold hFwActivate
  grind [keeps_update, keeps_activate, keeps_boot, keeps_resetState]

theorem leads_execActivateFw (h : Keeps z s) (fn action slot) : Leads z (execActivateFw fn action slot s) := by
  unfold execActivateFw
  grind [leads_next, keeps_update, keeps_activate, keeps_boot, keeps_mailbox, keeps_resetState]

theorem keeps_runIn (h : Keeps z s) (sl t) : Keeps z (runIn sl s t) := by
  unfold runIn
  grind [keeps_update, keeps_measure, keeps_event, keeps_wr]

theorem leads_execImageActivated (h : Keeps z s) (slice) : Leads z (execImageActivated slice s) := by
  unfold execImageActivated
  split
  · exact leads_next (keeps_foldl (fun _ _ h => keeps_runIn h ..) _ (keeps_update h rfl))
  · exact leads_next h

theorem keeps_hSvnCommit (h : Keeps z s) (l k) : Keeps z (hSvnCommit s l k).1 := by
  refine keeps_trigger h ?_ ..
  grind [keeps_wr, keeps_event]

/-! ## Integrity -/

theorem keeps_tellSlice (h : Keeps z s) (sl st) : Keeps z (tellSlice s sl st) := by
  unfold tellSlice
  grind [keeps_update, keeps_mgmt]

theorem keeps_setSlice (h : Keeps z s) (sl st) : Keeps z (setSlice s sl st) := by
  unfold setSlice
  grind [keeps_update, keeps_tellSlice, keeps_wr]

theorem keeps_loseShare (h : Keeps z s) (x) : Keeps z (loseShare s x) := by
  unfold loseShare
  split
  · exact keeps_dropShare h _
  · split
    · exact keeps_abandonShare h _
    · extract_lets t
      have ht : Keeps z t := keeps_addPenalty (keeps_bump h ..) ..
      split
      next u c e =>
      have hd := keeps_dropShare (keeps_putCtx ((keeps_addGaps ht ..).fst e) { c with ownOut := without c.ownOut x.id }) x
      exact keeps_ite (keeps_foldOwn hd _) hd

theorem keeps_loseCtx (h : Keeps z s) (c) : Keeps z (loseCtx s c) := by
  unfold loseCtx
  extract_lets t u
  have hu : Keeps z u := keeps_bump (keeps_releaseCtx (keeps_foldl (fun _ _ h => keeps_dropShare h _) _ h) _) ..
  split
  · exact keeps_completeAs hu ..
  · exact keeps_postFor hu ..

theorem keeps_loseAppends (h : Keeps z s) (sl) : Keeps z (loseAppends s sl) := by
  unfold loseAppends
  exact keeps_foldl (fun _ _ h => by grind [keeps_update, keeps_withdrawAppend, keeps_completeAs]) _ (by grind [keeps_update,
    keeps_withdrawAppend, keeps_completeAs])

theorem keeps_salvage (h : Keeps z s) (p) : Keeps z (salvage s p) := by
  unfold salvage
  have hd := keeps_dropMove h p.1 p.2
  dsimp only
  split
  · next hp => exact keeps_moveAway hd _ _ _ hp
  · exact keeps_loseQuire (keeps_bump hd ..) ..

theorem keeps_sliceFault (h : Keeps z s) (sl cause answers) : Keeps z (sliceFault s sl cause answers) := by
  unfold sliceFault
  split
  · exact h
  · extract_lets t u v w x l
    have ht : Keeps z t := by grind [keeps_wr]
    have hv : Keeps z v := keeps_foldl (fun _ _ h => keeps_loseShare h _) _ (keeps_event (keeps_setSlice ht ..) ..)
    have hx : Keeps z x := keeps_loseAppends (keeps_foldl (fun _ _ h => by grind [keeps_releaseCtx, keeps_loseCtx]) _ hv) _
    refine keeps_afterMove ?_
    split
    · exact keeps_foldl (fun _ _ h => keeps_salvage h _) _ hx
    · exact keeps_foldl (fun _ _ h => keeps_loseQuire h ..) _ hx

theorem leads_execSliceWatchdogTimeout (h : Keeps z s) (slice answers) : Leads z (execSliceWatchdogTimeout slice answers s) := by
  unfold execSliceWatchdogTimeout
  grind [leads_next, keeps_update, keeps_sliceFault]

theorem keeps_sayFull (h : Keeps z s) (st table) : Keeps z (sayFull s st table) := by
  unfold sayFull
  grind [keeps_update, keeps_event]

theorem keeps_tableLine {one many : State → State} (h : Keeps z s) (ho : ∀ {t}, Keeps z t → Keeps z (one t))
    (hm : ∀ {t}, Keeps z t → Keeps z (many t)) (st inside) : Keeps z (tableLine s st inside one many) := by
  unfold tableLine
  split
  · exact h
  split
  · exact keeps_bump (ho h) ..
  split
  · exact keeps_bump (hm (keeps_sayFull h ..)) ..
  · exact keeps_sliceFault (keeps_sayFull (keeps_sayFull h ..) ..) ..

theorem keeps_poisonLine (h : Keeps z s) (st line) : Keeps z (poisonLine s st line) := by
  exact keeps_tableLine h (fun h => keeps_update h rfl) (fun h => keeps_update h rfl) ..

theorem keeps_poisonDpa (h : Keeps z s) (dpa) : Keeps z (poisonDpa s dpa) := by
  unfold poisonDpa
  split
  · exact h
  · split
    · exact h
    · refine keeps_tableLine h (fun h => ?_) (fun h => ?_) ..
      · exact keeps_update h rfl
      · exact keeps_update h rfl

theorem keeps_sayPoison (h : Keeps z s) (path place addr sl) : Keeps z (sayPoison s path place addr sl) := by
  unfold sayPoison
  grind [keeps_update, keeps_bump, keeps_event]

theorem keeps_retireEngine (h : Keeps z s) (sl e) : Keeps z (retireEngine s sl e) := by
  unfold retireEngine
  grind [keeps_update, keeps_event, keeps_wr]

theorem keeps_laneFail (h : Keeps z s) (sl e lane) : Keeps z (laneFail s sl e lane) := by
  unfold laneFail
  grind [keeps_update, keeps_retireEngine, keeps_bump]

theorem keeps_retireFelt (h : Keeps z s) (sl b) : Keeps z (retireFelt s sl b) := by
  unfold retireFelt
  grind [keeps_update, keeps_bump, keeps_event]

theorem keeps_dropArray (h : Keeps z s) (sl) : Keeps z (dropArray s sl) := by
  unfold dropArray
  grind [keeps_update, keeps_unplan, keeps_serveStack, keeps_wr]

theorem keeps_poisonSheet (h : Keeps z s) (k) : Keeps z (poisonSheet s k) := h.same rfl rfl rfl rfl rfl

theorem keeps_loseAt (h : Keeps z s) (sl share) : Keeps z (loseAt s sl share) := by
  unfold loseAt
  grind [keeps_update, keeps_loseShare]

theorem keeps_dropPacket (h : Keeps z s) (die) : Keeps z (dropPacket s die) := by
  unfold dropPacket
  grind [keeps_update, keeps_bump, keeps_putEgress]

theorem keeps_poisonWord (h : Keeps z s) (w) : Keeps z (poisonWord s w) := by
  have hs {t} (ht : Keeps z t) (l : List (Nat × Sheet)) := keeps_foldl (fun _ p h => keeps_poisonSheet h p.1) l ht
  unfold poisonWord
  grind [keeps_loseAt, keeps_laneFail, keeps_sayPoison, keeps_retireFelt, keeps_poisonSheet, keeps_poisonLine, keeps_poisonDpa,
    keeps_dropArray, keeps_dropPacket, keeps_loseCtx, keeps_update]

theorem keeps_countCheck (h : Keeps z s) (at_ check) : Keeps z (countCheck s at_ check) := by
  unfold countCheck
  grind [keeps_update, keeps_bump]

theorem leads_execParityError (h : Keeps z s) (at_ check failed) : Leads z (execParityError at_ check failed s) := by
  unfold execParityError
  grind [leads_next, keeps_update, keeps_bump, keeps_countCheck, keeps_poisonWord]

theorem keeps_putCv (h : Keeps z s) (c w) : Keeps z (putCv s c w) := by
  unfold putCv
  grind [keeps_update, keeps_wr]

theorem keeps_cvLines (h : Keeps z s) (poly l r) : Keeps z (cvLines poly l s r).1 := by
  induction l generalizing s r with
  | nil => exact h
  | cons x rest ih =>
    have hn := keeps_nodeLine h x
    simp only [cvLines]
    split
    · exact hn
    · exact ih hn _

theorem keeps_hCvEntry (h : Keeps z s) (l k) : Keeps z (hCvEntry s l k).1 := by
  unfold hCvEntry
  grind [keeps_update, keeps_putCv]

theorem keeps_hCvOp (h : Keeps z s) (fed l k) : Keeps z (hCvOp fed s l k).1 := by
  unfold hCvOp
  grind [keeps_update, keeps_cvLines, keeps_putCv]

theorem leads_execCvRunDone (h : Keeps z s) (ctx) : Leads z (execCvRunDone ctx s) := by
  unfold execCvRunDone
  grind [leads_next, keeps_update, keeps_cvLines, keeps_putCv, keeps_askBudget]

theorem leads_execEvent (h : Keeps z s) (_src entry) : Leads z (execEvent _src entry s) := by
  unfold execEvent
  grind [leads_next, keeps_update, keeps_logPut]

theorem keeps_clearLog (h : Keeps z s) : Keeps z (clearLog s) := by
  have hl : Keeps z { s with log := [] } := h.trans ⟨rfl, fun ⟨hm, hd, _, ha⟩ => ⟨hm, hd, rfl, ha⟩⟩
  exact keeps_wr hl ..

theorem keeps_hLogClear (h : Keeps z s) (l k) : Keeps z (hLogClear s l k).1 := by
  exact keeps_trigger h (keeps_clearLog h) ..

theorem sound_enTrace : enTrace.Sound := ⟨id, id, id⟩

theorem leads_execMaintOpen (h : Keeps z s) (slice entry eqFailed stackFailed) : Leads z (execMaintOpen slice entry eqFailed stackFailed
  s) := by
  unfold execMaintOpen
  split
  · exact leads_next h
  · extract_lets t _ _ u v w x
    have hu : Keeps z u := keeps_update (keeps_takeOccurrence h ..) rfl
    have hv : Keeps z v := keeps_foldl (fun _ _ h => keeps_ite (keeps_bump h ..) h) _ hu
    have hx : Keeps z x := keeps_recalibrate (keeps_rebalance (keeps_spreadSlice (keeps_foldl (fun _ _ h => keeps_restoreLanes h _) _ hv)
      _) _) _
    exact leads_next (keeps_ite (keeps_sliceFault hx ..) hx)

/-! ## Compose -/

theorem keeps_setHerd (h : Keeps z s) (x) : Keeps z (setHerd s x) := h.same rfl rfl rfl rfl rfl

theorem keeps_refuseMgmt (h : Keeps z s) : Keeps z (refuseMgmt s) := by
  unfold refuseMgmt
  grind [keeps_update, keeps_bump]

theorem keeps_tryMap (h : Keeps z s) : Keeps z (tryMap s) := by
  unfold tryMap
  dsimp only
  split
  · exact keeps_foldl (fun _ _ h => keeps_mgmt h ..) _ (keeps_setHerd h _)
  · exact h

theorem keeps_wantMap (h : Keeps z s) (f) : Keeps z (wantMap s f) := by
  unfold wantMap
  grind [keeps_update, keeps_tryMap, keeps_setHerd]

theorem keeps_placeImage {t} (h : Keeps z s) (im taking) (e : placeImage s im taking = some t) : Keeps z t := by
  unfold placeImage at e
  dsimp only at e
  split at e
  · cases e
    exact keeps_update (keeps_foldl (fun _ _ h => keeps_putSheet h _) _ (keeps_makeQuireEntry (keeps_putQuire (keeps_fresh h) ..) _)) rfl
  · cases e

theorem keeps_placeImages {t} (h : Keeps z s) (l) (e : placeImages l s = some t) : Keeps z t := by
  induction l generalizing s with
  | nil => cases e; exact h
  | cons im r ih =>
    simp only [placeImages] at e
    split at e
    · cases e
    · next hp => exact ih (keeps_placeImage h _ _ hp) e

theorem keeps_setHandoffs (h : Keeps z s) (l) : Keeps z (setHandoffs s l) := h.same rfl rfl rfl rfl rfl

theorem keeps_putHandoff (h : Keeps z s) (x) : Keeps z (putHandoff s x) := h.same rfl rfl rfl rfl rfl

theorem leads_execHandoffOrder (h : Keeps z s) (src o copies) : Leads z (execHandoffOrder src o copies s) := by
  unfold execHandoffOrder
  grind [leads_next, keeps_update, keeps_setHandoffs, keeps_placeImages, keeps_refuseMgmt]

theorem keeps_takeCopy (h : Keeps z s) (im) : Keeps z (takeCopy s im) := by
  unfold takeCopy
  split
  · exact keeps_getD h fun hp => keeps_placeImage h _ _ hp
  · split
    · exact h
    · exact keeps_update (keeps_foldl (fun _ _ h => keeps_putSheet h _) _ h) rfl

theorem leads_execHandoffCopyDone (h : Keeps z s) (c) : Leads z (execHandoffCopyDone c s) := by
  have hc (l : List QuireImage) := keeps_foldl (fun _ x h => keeps_takeCopy h x) l h
  unfold execHandoffCopyDone
  grind [leads_next, keeps_mgmt, keeps_putHandoff]

theorem keeps_settleLeaving (h : Keeps z s) : Keeps z (settleLeaving s) := by
  unfold settleLeaving
  exact keeps_foldl (fun _ _ h => by grind [keeps_update, keeps_setHerd, keeps_wantMap]) _ (by grind [keeps_update, keeps_setHerd,
    keeps_wantMap])

theorem leads_execHandoffReady (h : Keeps z s) (_src o) : Leads z (execHandoffReady _src o s) := by
  unfold execHandoffReady
  grind [leads_next, keeps_update, keeps_tryMap, keeps_setHerd, keeps_settleLeaving, keeps_refuseMgmt]

theorem leads_execHandoffRevert (h : Keeps z s) (src o) : Leads z (execHandoffRevert src o s) := by
  unfold execHandoffRevert
  grind [leads_next, keeps_update, keeps_putHandoff, keeps_refuseMgmt]

theorem keeps_takeHome (h : Keeps z s) (o) : Keeps z (takeHome s o) := by
  unfold takeHome
  grind [keeps_update, keeps_dropReamEntry, keeps_makeReamEntry]

theorem keeps_renameHome (h : Keeps z s) (t ream home) : Keeps z (renameHome s t ream home) := h.same rfl rfl rfl rfl rfl

theorem keeps_mapQuires (h : Keeps z s) (p f) : Keeps z (mapQuires s p f) := h.same rfl rfl rfl rfl rfl

theorem keeps_switchHandoff (h : Keeps z s) (x o) : Keeps z (switchHandoff s x o) := by
  unfold switchHandoff
  grind [keeps_update, keeps_mapQuires, keeps_bump, keeps_renameHome, keeps_putHandoff, keeps_takeHome]

theorem keeps_cancelHandoff (h : Keeps z s) (x) : Keeps z (cancelHandoff s x) := by
  unfold cancelHandoff
  extract_lets t
  have ht : Keeps z t := keeps_bump (keeps_setHandoffs h _) ..
  split
  · exact ht
  · exact keeps_foldl (fun _ _ h => keeps_freeQuire h ..) _ ht

theorem keeps_settleHandoffs (h : Keeps z s) (m) : Keeps z (settleHandoffs s m) := by
  exact keeps_foldl (fun _ _ h => by grind [keeps_update, keeps_switchHandoff, keeps_cancelHandoff]) _ h

theorem keeps_settlePartner (h : Keeps z s) : Keeps z (settlePartner s) := by
  unfold settlePartner
  grind [keeps_update, keeps_mgmt, keeps_wr]

theorem keeps_takePlace (h : Keeps z s) (old m) : Keeps z (takePlace s old m) := by
  unfold takePlace
  grind [keeps_update, keeps_mgmt, keeps_wr]

theorem keeps_startScores (h : Keeps z s) (old m) : Keeps z (startScores s old m) := by
  unfold startScores
  grind [keeps_update]

theorem keeps_installMap (h : Keeps z s) (m) : Keeps z (installMap s m) := by
  unfold installMap
  exact keeps_settleStart (keeps_settlePartner (keeps_settleHandoffs (keeps_startScores (keeps_takePlace
    (keeps_foldl (fun _ _ h => keeps_dropConns h _) _ (keeps_wr (keeps_setHerd h _) ..)) ..) ..) _))

theorem keeps_drainEnd (h : Keeps z s) : Keeps z (drainEnd s) := by
  unfold drainEnd
  extract_lets e s1 gone _ s2 back s3 s4 s5 s6 _ s7
  have h3 : Keeps z s3 := keeps_setHandoffs (keeps_update (keeps_dirDrop (keeps_wr h ..) _) rfl) _
  have h4 : Keeps z s4 := by
    refine keeps_foldl (fun t x ht => ?_) _ h3
    have hq := keeps_mapQuires ht (ordersQuire x.order) (fun q => { q with departing := false })
    exact keeps_ite (keeps_ite (keeps_takeHome hq _) (keeps_mgmt (keeps_takeHome hq _) ..)) hq
  have h7 : Keeps z s7 := keeps_setHerd (keeps_mapQuires (keeps_foldl (fun _ _ h => keeps_freeQuire h ..) _ h4) ..) _
  exact keeps_tryMap (keeps_ite (keeps_wr h7 ..) h7)

theorem leads_execEpochDrainEnd (h : Keeps z s) : Leads z (execEpochDrainEnd s) := by
  unfold execEpochDrainEnd
  grind [leads_next, keeps_update, keeps_drainEnd]

theorem keeps_beginEpoch (h : Keeps z s) (epoch step) : Keeps z (beginEpoch s epoch step) := by
  unfold beginEpoch
  extract_lets t u _ v
  have ht : Keeps z t := keeps_ite (keeps_drainEnd h) h
  have hv : Keeps z v := keeps_setHerd (keeps_wr (keeps_wr ht ..) ..) _
  clear_value v
  split
  · exact keeps_ite (keeps_installMap hv _) (keeps_bump (keeps_wr (keeps_setHerd hv _) ..) ..)
  · exact keeps_bump (keeps_wr (keeps_setHerd hv _) ..) ..

theorem leads_execMapUpdate (h : Keeps z s) (src m) : Leads z (execMapUpdate src m s) := by
  unfold execMapUpdate
  grind [leads_next, keeps_update, keeps_setHerd, keeps_installMap, keeps_refuseMgmt, keeps_releaseHeld]

theorem leads_execSliceReport (h : Keeps z s) (src slice state) : Leads z (execSliceReport src slice state s) := by
  unfold execSliceReport
  grind [leads_next, keeps_update, keeps_wantMap, keeps_refuseMgmt]

/-! ## Health -/

theorem keeps_setRel (h : Keeps z s) (r) : Keeps z (setRel s r) := h.same rfl rfl rfl rfl rfl

theorem sound_enHealth : enHealth.Sound := ⟨fun h => keeps_setRel h _, id, id⟩

theorem sound_enJournal : enJournal.Sound :=
  ⟨fun h => keeps_setRel (keeps_takeSpread h ..) _, fun h => keeps_freeHold (keeps_setRel h _) .., id⟩

theorem leads_execHealthReportDue (h : Keeps z s) : Leads z (execHealthReportDue s) := by
  unfold execHealthReportDue
  grind [leads_next, keeps_update, keeps_setRel, keeps_mgmt]

theorem keeps_setScore (h : Keeps z s) (n v) : Keeps z (setScore s n v) := h.same rfl rfl rfl rfl rfl

theorem keeps_orderAll (h : Keeps z s) (named src dst) : Keeps z (orderAll s named src dst).1 := by
  exact keeps_foldl (fun _ _ h => by grind [keeps_update, keeps_mgmt]) _ h

theorem keeps_takeSpare (h : Keeps z s) (g) : Keeps z (takeSpare s g) := h.same rfl rfl rfl rfl rfl

theorem keeps_replaceLive (h : Keeps z s) (node src spare) : Keeps z (replaceLive s node src spare) := by
  unfold replaceLive
  grind [keeps_update, keeps_setHerd, keeps_orderAll, keeps_mgmt, keeps_settleLeaving, keeps_takeSpare]

theorem keeps_loseNode (h : Keeps z s) (n) : Keeps z (loseNode s n) := by
  unfold loseNode
  split
  · exact h
  · extract_lets a _ b c _ d
    have hb : Keeps z b := keeps_setRel (keeps_setScore (keeps_event (keeps_bump h ..) ..) ..) _
    have hc : Keeps z c := by
      simp only [c]
      split
      · exact hb
      · exact keeps_foldl (fun _ _ h => keeps_mgmt h ..) _ hb
    have hd : Keeps z d := keeps_setHerd hc _
    clear_value d
    grind [keeps_wantMap, keeps_mgmt, keeps_takeSpare]

theorem keeps_expelNode (h : Keeps z s) (n g spare) : Keeps z (expelNode s n g spare) := by
  unfold expelNode
  grind [keeps_update, keeps_bump, keeps_replaceLive, keeps_setRel, keeps_event]

theorem keeps_decideNode (h : Keeps z s) (n fell) : Keeps z (decideNode s n fell) := by
  unfold decideNode
  grind [keeps_update, keeps_expelNode, keeps_bump, keeps_wantMap, keeps_event]

theorem keeps_newScore (h : Keeps z s) (n v report) : Keeps z (newScore s n v report) := by
  unfold newScore
  grind [keeps_update, keeps_decideNode, keeps_setScore]

theorem leads_execHealthReport (h : Keeps z s) (src counts unmirrored) : Leads z (execHealthReport src counts unmirrored s) := by
  unfold execHealthReport
  grind [leads_next, keeps_update, keeps_setRel, keeps_newScore, keeps_refuseMgmt]

theorem leads_execHealthReportMissed (h : Keeps z s) (node) : Leads z (execHealthReportMissed node s) := by
  unfold execHealthReportMissed
  grind [leads_next, keeps_update, keeps_setRel, keeps_newScore]

theorem leads_execNodeLost (h : Keeps z s) (node neighbours) : Leads z (execNodeLost node neighbours s) := by
  unfold execNodeLost
  grind [leads_next, keeps_update, keeps_loseNode]

theorem leads_execStandInOrder (h : Keeps z s) (src node) : Leads z (execStandInOrder src node s) := by
  unfold execStandInOrder
  grind [leads_next, keeps_update, keeps_setRel, keeps_refuseMgmt]

theorem leads_execJournalMirror (h : Keeps z s) (src step toks) : Leads z (execJournalMirror src step toks s) := by
  unfold execJournalMirror
  grind [leads_next, keeps_update, keeps_setRel, keeps_mgmt, keeps_refuseMgmt]

theorem keeps_releaseCommit (h : Keeps z s) (n) : Keeps z (releaseCommit s n) := by
  unfold releaseCommit
  exact keeps_foldl (fun _ _ h => by grind [keeps_update, keeps_setRel, keeps_complete]) _ (by grind [keeps_update, keeps_setRel,
    keeps_complete])

theorem leads_execJournalAck (h : Keeps z s) (src step taken) : Leads z (execJournalAck src step taken s) := by
  unfold execJournalAck
  grind [leads_next, keeps_update, keeps_countUnmirrored, keeps_refuseMgmt, keeps_releaseCommit]

theorem leads_execJournalAckTimeout (h : Keeps z s) : Leads z (execJournalAckTimeout s) := by
  unfold execJournalAckTimeout
  grind [leads_next, keeps_update, keeps_countUnmirrored, keeps_event, keeps_releaseCommit]

theorem keeps_rebuildReam (h : Keeps z s) (l t0) : Keeps z (rebuildReam s l t0) := by
  unfold rebuildReam
  extract_lets _ o t groups u
  have ht : Keeps z t := by grind [keeps_takeHome]
  have hu : Keeps z u := by
    refine keeps_foldl (fun _ _ h => ?_) _ ht
    split
    · exact h
    · exact keeps_bump (keeps_getD h fun hp => keeps_placeImage h _ _ hp) ..
  exact keeps_bump (keeps_setRel hu _) ..

theorem keeps_rebuildAll (h : Keeps z s) (toks) : Keeps z (rebuildAll s toks) := by
  exact keeps_foldl (fun _ _ h => by grind [keeps_update, keeps_rebuildReam]) _ h

theorem leads_execJournalFetch (h : Keeps z s) (src lost toks) : Leads z (execJournalFetch src lost toks s) := by
  unfold execJournalFetch
  grind [leads_next, keeps_update, keeps_rebuildAll, keeps_mgmt, keeps_refuseMgmt]

theorem leads_execLostRanges (h : Keeps z s) (src ranges) : Leads z (execLostRanges src ranges s) := by
  unfold execLostRanges
  split
  · exact leads_next (keeps_refuseMgmt h)
  · exact leads_next (keeps_foldl (fun _ _ h => keeps_addLost h _) _ h)

theorem keeps_dropLost (h : Keeps z s) (t ream) : Keeps z (dropLost s t ream) := h.same rfl rfl rfl rfl rfl

theorem leads_execLostRangeClear (h : Keeps z s) (src tenant ream) : Leads z (execLostRangeClear src tenant ream s) := by
  unfold execLostRangeClear
  split
  · exact leads_next (keeps_foldl (fun _ _ h => keeps_mgmt h ..) _ (keeps_dropLost h ..))
  split
  · exact leads_next (keeps_dropLost h ..)
  · exact leads_next (keeps_refuseMgmt h)

/-! ## Herd -/

theorem keeps_announce (h : Keeps z s) (step start) : Keeps z (announce s step start) := h.same rfl rfl rfl rfl rfl

theorem keeps_announceNext (h : Keeps z s) : Keeps z (announceNext s) := by
  unfold announceNext
  grind [keeps_update, keeps_announce]

theorem leads_execStepAnnounceDue (h : Keeps z s) : Leads z (execStepAnnounceDue s) := by
  unfold execStepAnnounceDue
  grind [leads_next, keeps_update, keeps_announceNext]

theorem keeps_dropSpans (h : Keeps z s) : Keeps z (dropSpans s) := h.same rfl rfl rfl rfl rfl

theorem keeps_beginStep (h : Keeps z s) (a) : Keeps z (beginStep s a) := by
  unfold beginStep
  extract_lets cur t _ _ _ _ u v w
  have hv : Keeps z v := keeps_wr (keeps_update (keeps_settleBuckets h) rfl) ..
  have hw : Keeps z w := by grind [keeps_dropSpans, keeps_beginEpoch]
  clear_value w
  grind [keeps_releaseHeld, keeps_tryMap]

theorem keeps_beginDue (h : Keeps z s) : Keeps z (beginDue s) := by
  unfold beginDue
  grind [keeps_update, keeps_beginStep]

theorem leads_execStepStart (h : Keeps z s) : Leads z (execStepStart s) := by
  unfold execStepStart
  grind [leads_next, keeps_update, keeps_beginDue]

theorem leads_execStepGuardPoint (h : Keeps z s) : Leads z (execStepGuardPoint s) := by
  unfold execStepGuardPoint
  grind [leads_next, keeps_update, keeps_setHerd, keeps_mgmt]

theorem leads_execStallNotice (h : Keeps z s) (src step) : Leads z (execStallNotice src step s) := by
  unfold execStallNotice
  grind [leads_next, keeps_update, keeps_setHerd, keeps_refuseMgmt]

theorem leads_execSpanReport (h : Keeps z s) (src span) : Leads z (execSpanReport src span s) := by
  unfold execSpanReport
  grind [leads_next, keeps_update, keeps_setHerd, keeps_refuseMgmt]

theorem keeps_yieldLead (h : Keeps z s) : Keeps z (yieldLead s) := by
  unfold yieldLead
  grind [keeps_update, keeps_settleStart, keeps_wr]

theorem keeps_followAnnounce (h : Keeps z s) (a) : Keeps z (followAnnounce s a) := by
  unfold followAnnounce
  grind [keeps_update, keeps_wr, keeps_beginDue]

theorem keeps_hearAnnounce (h : Keeps z s) (src unit a) : Keeps z (hearAnnounce s src unit a) := by
  unfold hearAnnounce
  grind [keeps_update, keeps_followAnnounce, keeps_freeEvent, keeps_refuseMgmt, keeps_yieldLead]

theorem keeps_takeCast {take : State → State} (h : Keeps z s) (ht : ∀ {t}, Keeps z t → Keeps z (take t)) (link src msgId hops b) :
    Keeps z (takeCast s link src msgId hops b take) := by
  unfold takeCast
  split
  · exact h
  · next hp => exact ht (keeps_update (keeps_castNew h _ _ hp) rfl)

theorem leads_execStepAnnounce (h : Keeps z s) (link src msgId hops unit a) : Leads z (execStepAnnounce link src msgId hops unit a s) :=
  by
  exact leads_next (keeps_takeCast h (fun h => keeps_hearAnnounce h ..) ..)

theorem keeps_setEntries (h : Keeps z s) (sl l) : Keeps z (setEntries s sl l).1 := by
  unfold setEntries
  extract_lets t
  have ht : Keeps z t := keeps_foldl (fun _ _ h => by grind [keeps_store]) _ h
  split
  · exact h
  · exact keeps_updateSpan ht

theorem keeps_hScheduleTable (h : Keeps z s) (sl sub l k) : Keeps z (hScheduleTable sl sub s l k).1 := by
  unfold hScheduleTable
  grind [keeps_update, keeps_setEntries]

theorem keeps_resumeSteps (h : Keeps z s) : Keeps z (resumeSteps s) := by
  unfold resumeSteps
  grind [keeps_update, keeps_setHerd]

theorem keeps_startLead (h : Keeps z s) : Keeps z (startLead s) := by
  unfold startLead
  extract_lets t m _ u v
  have hv : Keeps z v := keeps_tryMap (keeps_setHerd (keeps_resumeSteps (keeps_wr (keeps_wr h ..) ..)) _)
  clear_value v
  grind [keeps_announceNext]

theorem sound_enHerd : enHerd.Sound :=
  ⟨fun h => keeps_settleStart (keeps_ite (keeps_startLead (keeps_setHerd h _))
      (keeps_joinWhenLocked (keeps_wr (keeps_wr (keeps_setHerd h _) ..) ..))),
    fun h => keeps_settleStart (keeps_wr (keeps_wr (keeps_wr (keeps_setHerd h _) ..) ..) ..), id⟩

theorem sound_enDeputy (taken) : (enDeputy taken).Sound := ⟨fun h => keeps_mgmt h .., fun h => keeps_mgmt (keeps_setHerd h _) .., id⟩

theorem leads_execDeputyState (h : Keeps z s) (src img) : Leads z (execDeputyState src img s) := by
  unfold execDeputyState
  grind [leads_next, keeps_update, keeps_setHerd, keeps_refuseMgmt]

theorem leads_execLeadSilenceTimeout (h : Keeps z s) : Leads z (execLeadSilenceTimeout s) := by
  unfold execLeadSilenceTimeout
  dsimp only
  split
  · exact leads_next (keeps_foldl (fun _ _ h => keeps_mgmt h ..) _ (keeps_setHerd h _))
  · exact leads_next h

theorem leads_execTakeoverProbe (h : Keeps z s) (src _heard) : Leads z (execTakeoverProbe src _heard s) := by
  unfold execTakeoverProbe
  grind [leads_next, keeps_update, keeps_mgmt, keeps_refuseMgmt]

theorem leads_execProbeReply (h : Keeps z s) (src heard) : Leads z (execProbeReply src heard s) := by
  unfold execProbeReply
  grind [leads_next, keeps_update, keeps_setHerd, keeps_refuseMgmt]

theorem keeps_renumber (h : Keeps z s) (old new) : Keeps z (renumber s old new) := h.same rfl rfl rfl rfl rfl

theorem keeps_takeOver (h : Keeps z s) (i) : Keeps z (takeOver s i) := by
  unfold takeOver
  extract_lets t me g a _ _ _ _
  have ht : Keeps z t := keeps_beginDue h
  have ha : Keeps z a := keeps_wr (keeps_wr (keeps_wr (keeps_bump ht ..) ..) ..) ..
  split
  extract_lets b c d e
  have hd : Keeps z d := keeps_wantMap (keeps_renumber (keeps_update ha rfl) ..) _
  have he : Keeps z e := by
    simp only [e]
    split
    · exact keeps_settleLeaving (keeps_setHerd (keeps_orderAll (keeps_mgmt (keeps_takeSpare hd _) ..) ..) _)
    · exact hd
  exact keeps_settleStart (keeps_announceNext he)

theorem leads_execLeadTakeover (h : Keeps z s) : Leads z (execLeadTakeover s) := by
  unfold execLeadTakeover
  grind [leads_next, keeps_update, keeps_takeOver]

theorem keeps_sendReply (h : Keeps z s) (src rep) : Keeps z (sendReply s src rep) := by
  unfold sendReply
  grind [keeps_update, keeps_mgmt, keeps_post]

theorem keeps_acceptMember (h : Keeps z s) (r) : Keeps z (acceptMember s r) := by
  unfold acceptMember
  grind [keeps_update, keeps_setHerd, keeps_wantMap, keeps_setRel, keeps_sendReply]

theorem keeps_acceptSpare (h : Keeps z s) (r) : Keeps z (acceptSpare s r) := by
  unfold acceptSpare
  grind [keeps_update, keeps_setHerd, keeps_wantMap, keeps_decideNode, keeps_sendReply]

theorem keeps_handleJoin (h : Keeps z s) (r) : Keeps z (handleJoin s r) := by
  unfold handleJoin
  grind [keeps_update, keeps_acceptMember, keeps_sendReply, keeps_acceptSpare]

theorem leads_execJoinRequest (h : Keeps z s) (r) : Leads z (execJoinRequest r s) := by
  unfold execJoinRequest
  grind [leads_next, keeps_update, keeps_sendReply, keeps_refuseMgmt, keeps_handleJoin, keeps_loseNode]

theorem keeps_takeReply (h : Keeps z s) (r) : Keeps z (takeReply s r) := by
  unfold takeReply
  split
  · exact h
  · have hj := keeps_setHerd h { s.herd with joinSent := false }
    grind [keeps_wr, keeps_settleStart, keeps_mgmt]

theorem leads_execJoinReply (h : Keeps z s) (r) : Leads z (execJoinReply r s) := by
  unfold execJoinReply
  grind [leads_next, keeps_update, keeps_takeReply]

theorem leads_execJoinTimeout (h : Keeps z s) : Leads z (execJoinTimeout s) := by
  unfold execJoinTimeout
  grind [leads_next, keeps_update, keeps_sendJoin]

/-! ## Power -/

theorem keeps_setPow (h : Keeps z s) (p) : Keeps z (setPow s p) := h.same rfl rfl rfl rfl rfl

theorem sound_enPower : enPower.Sound := ⟨id, id, id⟩

theorem keeps_grantWindow (h : Keeps z s) (w) : Keeps z (grantWindow s w) := by
  unfold grantWindow
  grind [keeps_update, keeps_bump, keeps_event, keeps_wr, keeps_setPow]

theorem keeps_keepWarm (h : Keeps z s) (l) : Keeps z (keepWarm s l) := by
  unfold keepWarm
  grind [keeps_update, keeps_setPow]

theorem leads_execPowerWindow (h : Keeps z s) : Leads z (execPowerWindow s) := by
  unfold execPowerWindow
  grind [leads_next, keeps_update, keeps_grantWindow, keeps_event, keeps_wr, keeps_keepWarm, keeps_releaseHeld, keeps_setPow]

theorem keeps_guardModel (h : Keeps z s) (sl trigger) : Keeps z (guardModel s sl trigger) := by
  unfold guardModel
  grind [keeps_update, keeps_event, keeps_wr, keeps_setPow]

theorem keeps_overcurrent (h : Keeps z s) (rails) : Keeps z (overcurrent s rails) := by
  unfold overcurrent
  grind [keeps_update, keeps_fresh, keeps_event, keeps_setPow]

theorem leads_execPowerSample (h : Keeps z s) (rails sliceWatts) : Leads z (execPowerSample rails sliceWatts s) := by
  unfold execPowerSample
  extract_lets rails total a b _ c d e
  have hb : Keeps z b := keeps_wr (keeps_foldl (fun _ _ h => keeps_wr h ..) _ h) ..
  have hd : Keeps z d := keeps_foldl (fun _ _ h => keeps_ite (keeps_guardModel h ..) h) _ (keeps_setPow hb _)
  have he : Keeps z e := keeps_ite (keeps_foldl (fun _ _ h => keeps_guardModel h ..) _ (keeps_bump hd ..)) hd
  exact leads_next (keeps_ite (keeps_overcurrent he _) he)

theorem leads_execThermalSample (h : Keeps z s) (t) : Leads z (execThermalSample t s) := by
  refine leads_next (keeps_foldl (fun _ _ h => ?_) _ (keeps_foldl (fun _ _ h => keeps_keepWarm h _) _ (keeps_setPow (keeps_wr h ..) _)))
  exact keeps_ite (keeps_guardModel h ..) h

theorem keeps_stopSlice (h : Keeps z s) (sl) : Keeps z (stopSlice s sl) := by
  exact keeps_wr (keeps_foldl (fun _ _ h => keeps_loseQuire h ..) _ (keeps_putStack (keeps_update
    (keeps_foldl (fun _ _ h => keeps_dropShare h _) _ h) rfl) ..)) ..

theorem keeps_stopSlices (h : Keeps z s) : Keeps z (stopSlices s) := by
  exact keeps_foldl (fun _ _ h => keeps_stopSlice h _) _ h

theorem leads_execThermTrip (h : Keeps z s) (att die) : Leads z (execThermTrip att die s) := by
  unfold execThermTrip
  grind [leads_next, keeps_update, keeps_emit, keeps_stopSlices, keeps_wr]

/-! ## Service -/

theorem keeps_startEvent (h : Keeps z s) (sl) : Keeps z (startEvent s sl) := by
  unfold startEvent
  grind [keeps_update, keeps_freeEvent]

theorem keeps_selfTest (h : Keeps z s) (sl r) : Keeps z (selfTest s sl r) := by
  unfold selfTest
  extract_lets t u
  have ht : Keeps z t := keeps_foldl (fun _ _ h => keeps_retireEngine h ..) _ h
  have hu : Keeps z u := by grind [keeps_dropArray, keeps_startEvent]
  exact keeps_foldl (fun _ _ h => keeps_retireFelt h ..) _ hu

theorem keeps_markStacks (h : Keeps z s) (sl r) : Keeps z (markStacks s sl r) := by
  unfold markStacks
  grind [keeps_update, keeps_wr]

theorem keeps_retireAtStart (h : Keeps z s) (sl r) : Keeps z (retireAtStart s sl r) := by
  unfold retireAtStart
  grind [keeps_update, keeps_startEvent, keeps_markStacks, keeps_wr, keeps_setSlice]

theorem keeps_autoAt (h : Keeps z s) (sub) : Keeps z (autoAt s sub) := by
  unfold autoAt
  grind [keeps_update, keeps_wr]

theorem keeps_beginAuto (h : Keeps z s) : Keeps z (beginAuto s) := by
  unfold beginAuto
  grind [keeps_update, keeps_wr, keeps_autoAt]

theorem keeps_leaveStart (h : Keeps z s) : Keeps z (leaveStart s) := by
  unfold leaveStart
  grind [keeps_update, keeps_beginAuto, keeps_startEvent, keeps_settleStart, keeps_wr]

theorem leads_execSliceHardwareReady (h : Keeps z s) (slice r) : Leads z (execSliceHardwareReady slice r s) := by
  unfold execSliceHardwareReady
  grind [leads_next, keeps_update, keeps_retireAtStart, keeps_selfTest, keeps_leaveStart, keeps_setSlice]

theorem keeps_dropEvacuation (h : Keeps z s) (sl) : Keeps z (dropEvacuation s sl) := by
  exact keeps_foldl (fun _ _ h => by grind [keeps_update, keeps_dropMove]) _ h

theorem keeps_runOp (h : Keeps z s) (sl code) : Keeps z (runOp s sl code) := by
  unfold runOp
  split
  · exact keeps_evacuate (keeps_wr (keeps_setSlice h ..) ..) _
  · exact keeps_wr (keeps_setSlice (keeps_dropEvacuation h _) ..) ..
  · exact keeps_foldl (fun _ _ h => keeps_train h _) _ (keeps_wr h ..)
  · exact keeps_wr (keeps_setSlice h ..) ..
  · exact keeps_wr (keeps_setSlice (keeps_update h rfl) ..) ..

theorem keeps_hSliceOp (h : Keeps z s) (sl l k) : Keeps z (hSliceOp sl s l k).1 := by
  unfold hSliceOp
  grind [keeps_update, keeps_runOp]

theorem leads_sliceOpRow (h : Keeps z s) (sl code w) : Leads z (sliceOpRow sl code w s) := by
  unfold sliceOpRow
  split
  · exact leads_next (keeps_rowWrite h (keeps_hSliceOp h _) ..)
  · exact leads_next h

theorem leads_execQuiesce (h : Keeps z s) (slice w) : Leads z (execQuiesce slice w s) := by
  unfold execQuiesce
  grind [leads_next, keeps_update, leads_sliceOpRow]

theorem leads_execCancel (h : Keeps z s) (slice w) : Leads z (execCancel slice w s) := by
  unfold execCancel
  grind [leads_next, keeps_update, leads_sliceOpRow]

theorem leads_execRetrain (h : Keeps z s) (slice w) : Leads z (execRetrain slice w s) := by
  unfold execRetrain
  grind [leads_next, keeps_update, leads_sliceOpRow]

theorem leads_execRetireSlice (h : Keeps z s) (slice w) : Leads z (execRetireSlice slice w s) := by
  unfold execRetireSlice
  grind [leads_next, keeps_update, leads_sliceOpRow]

theorem leads_execReadmit (h : Keeps z s) (slice w) : Leads z (execReadmit slice w s) := by
  unfold execReadmit
  grind [leads_next, keeps_update, leads_sliceOpRow]

theorem keeps_clearSlice (h : Keeps z s) (sl) : Keeps z (clearSlice s sl) := h.same rfl rfl rfl rfl rfl

theorem leads_execEvacuationDone (h : Keeps z s) (slice) : Leads z (execEvacuationDone slice s) := by
  unfold execEvacuationDone
  grind [leads_next, keeps_update, keeps_wr, keeps_setSlice]

theorem leads_execRetrainDone (h : Keeps z s) (slice ok) : Leads z (execRetrainDone slice ok s) := by
  unfold execRetrainDone
  grind [leads_next, keeps_update, keeps_wr, keeps_setSlice]

theorem keeps_copyEntries (h : Keeps z s) (sl) : Keeps z (copyEntries s sl) := by
  unfold copyEntries
  split
  · exact h
  · exact keeps_foldl (fun _ _ h => keeps_getD h fun hp => keeps_dirPut h _ hp) _ (keeps_dirDrop h _)

theorem keeps_backSlice (h : Keeps z s) (sl) : Keeps z (backSlice s sl) := by
  unfold backSlice
  grind [keeps_update, keeps_resizeHold]

theorem leads_execReadmitDone (h : Keeps z s) (slice r) : Leads z (execReadmitDone slice r s) := by
  unfold execReadmitDone
  split
  · exact leads_next h
  extract_lets trains trained _ s1 s2 s3
  have h1 : Keeps z s1 := keeps_selfTest (keeps_update h rfl) ..
  have h2 : Keeps z s2 := keeps_ite (keeps_markStacks h1 ..) h1
  have h3 : Keeps z s3 := keeps_copyBooks (keeps_backSlice (keeps_clearPoison (keeps_clearSlice h2 _) _) _) _
  split
  · exact leads_next (keeps_afterMove (keeps_setSlice (keeps_wr (keeps_copyEntries h3 _) ..) ..))
  · exact leads_next (keeps_wr (keeps_setSlice (keeps_startEvent h2 _) ..) ..)

theorem leads_execNodeRstNAssert (h : Keeps z s) : Leads z (execNodeRstNAssert s) := by
  unfold execNodeRstNAssert
  grind [leads_next, keeps_update, keeps_resetState]

theorem leads_execNodeRstNRelease (h : Keeps z s) (strap) : Leads z (execNodeRstNRelease strap s) := by
  unfold execNodeRstNRelease
  grind [leads_next, keeps_update, keeps_boot, keeps_resetState]

theorem leads_execPwrOkCoreDrop (h : Keeps z s) : Leads z (execPwrOkCoreDrop s) := by
  unfold execPwrOkCoreDrop
  grind [leads_next, keeps_update, keeps_resetState]

theorem leads_execCoreRailsPowerUp (h : Keeps z s) : Leads z (execCoreRailsPowerUp s) := by
  unfold execCoreRailsPowerUp
  grind [leads_next, keeps_update, keeps_clearLog, keeps_wr]

theorem leads_execVddAuxPowerUp (h : Keeps z s) : Leads z (execVddAuxPowerUp s) := by
  exact leads_next (h.trans ⟨rfl, fun ⟨hm, hd, hl, ha⟩ => ⟨hm, twf_filter _ hd, hl, ha⟩⟩)

/-! ## Router -/

theorem sound_of_enableOf {e : Enable} {k : Nat} (h : enableOf k = some e) : e.Sound := by
  unfold enableOf at h
  grind [sound_enHtRef, sound_enHtSource, sound_enSchedule, sound_enDeadline, sound_enFormatRules, sound_enAttention, sound_enScoring,
    sound_enRebalance, sound_enDeckle, sound_enSearch, sound_enVindex, sound_enMerge, sound_enDirectory, sound_enVat, sound_enPress,
    sound_enFeltHome, sound_enVatRegion, sound_enTenant, sound_enLink, sound_enTraffic, sound_enTransport, sound_enExtent, sound_enPool,
    sound_enHostPort, sound_enSlotArea, sound_enMgmtSession, sound_enTrace, sound_enHealth, sound_enJournal, sound_enHerd,
    sound_enDeputy, sound_enPower]

theorem keeps_storeOne (h : Keeps z s) (o k v) : Keeps z (storeOne s o k v) := by
  unfold storeOne
  grind [keeps_update, keeps_settleBuckets, keeps_store, keeps_wr]

theorem keeps_afterWrite (h : Keeps z s) (k) : Keeps z (afterWrite s k) := by
  unfold afterWrite
  grind [keeps_update, keeps_updateSpan, keeps_showRegion, keeps_showExtent]

theorem keeps_storeAll (h : Keeps z s) (o idx kv) : Keeps z (storeAll s o idx kv).1 := by
  unfold storeAll
  split
  · exact h
  · extract_lets t
    have ht : Keeps z t := keeps_foldl (fun _ _ h => keeps_storeOne h ..) _ h
    split
    · exact h
    · exact keeps_foldl (fun _ _ h => keeps_afterWrite h _) _ ht

theorem keeps_hPlain (h : Keeps z s) (idx sub l k) : Keeps z (hPlain idx sub s l k).1 := by
  unfold hPlain
  grind [keeps_update, keeps_storeAll]

theorem keeps_hArray (h : Keeps z s) (idx n l k) : Keeps z (hArray idx n s l k).1 := by
  unfold hArray
  grind [keeps_update, keeps_storeAll]

theorem keeps_hBundleBuffer (h : Keeps z s) (off l k) : Keeps z (hBundleBuffer off s l k).1 := h.same rfl rfl rfl rfl rfl

theorem keeps_withFree {f : Bool → Handler} (h : Keeps z s) (hf : ∀ {t}, Keeps z t → ∀ b w p, Keeps z (f b t w p).1) (w p) : Keeps z
  (withFree f s w p).1 := by
  exact hf (keeps_fresh h) ..

theorem keeps_hDeputy (h : Keeps z s) (l k) : Keeps z (hDeputy s l k).1 := by
  exact keeps_withFree h (fun h b => keeps_enableWrite (sound_enDeputy b) h) ..

theorem keeps_hCvOpFree (h : Keeps z s) (l k) : Keeps z (hCvOpFree s l k).1 := by
  exact keeps_hCvOp (fed := Config.freeNat (fresh s).1) (keeps_fresh h) l k

/-- A handler keeps what z has, whatever is written. -/
def Serves (z s : State) (f : Handler) : Prop := ∀ w p, Keeps z (f s w p).1

theorem keeps_handlerOf {bundle : Handler} (h : Keeps z s) (hb : ∀ w p, Keeps z (bundle s w p).1) (idx sub off w p) :
    Keeps z (handlerOf bundle idx sub off s w p).1 := by
  have hp (n) : Serves z s (hPlain idx n) := fun _ _ => keeps_hPlain h ..
  suffices Serves z s (handlerOf bundle idx sub off) from this w p
  unfold handlerOf
  extract_lets k
  split
  · exact fun _ _ => keeps_hDeputy h ..
  split
  · next e => exact fun _ _ => keeps_enableWrite (sound_of_enableOf e) h ..
  split <;> (try split)
  · exact fun _ _ => keeps_withFree h (fun h b => keeps_hStoreCommit h b) ..
  · exact hp _
  · exact fun _ _ => keeps_hStoreDefaults h ..
  · exact hp _
  · exact fun _ _ => keeps_hBundleBuffer h ..
  · exact hp _
  · exact fun _ _ => hb ..
  · exact hp _
  · exact fun _ _ => keeps_hScheduleTable h ..
  · exact hp _
  · exact fun _ _ => keeps_hSliceOp h ..
  · exact fun _ _ => keeps_hSliceOp h ..
  · exact fun _ _ => keeps_hSliceOp h ..
  · exact fun _ _ => keeps_hSliceOp h ..
  · exact fun _ _ => keeps_hArray h ..
  · exact fun _ _ => keeps_hTreeEntry h ..
  · exact fun _ _ => keeps_hDirWindowOp h ..
  · exact fun _ _ => keeps_hVatDrain h ..
  · exact hp _
  · exact fun _ _ => keeps_hLaneRestore h ..
  · exact fun _ _ => keeps_hRegionOp h ..
  · exact fun _ _ => keeps_hArray h ..
  · exact fun _ _ => keeps_hArray h ..
  · exact fun _ _ => keeps_hExtentOp h ..
  · exact hp _
  · exact fun _ _ => keeps_hPoolRequest h ..
  · exact hp _
  · exact fun _ _ => keeps_hPoolRelease h ..
  · exact hp _
  · exact fun _ _ => keeps_hCvEntry h ..
  · exact hp _
  · exact fun _ _ => keeps_hCvOpFree h ..
  · exact hp _
  · exact fun _ _ => keeps_hLogClear h ..
  · exact fun _ _ => keeps_hOwnerKey h ..
  · exact fun _ _ => keeps_hAttestRequest h ..
  · exact fun _ _ => keeps_hFwBuffer h ..
  · exact fun _ _ => keeps_hFwApply h ..
  · exact fun _ _ => keeps_hFwAbort h ..
  · exact fun _ _ => keeps_hFwActivate h ..
  · exact fun _ _ => keeps_hSvnCommit h ..
  · exact fun _ _ => keeps_hSessionKey h ..
  · exact hp _

theorem keeps_withRead {f : State → State} (h : Keeps z s) (hf : Keeps z (f s)) (via p) : Keeps z (withRead s via p f) := by
  unfold withRead
  grind [keeps_finish, keeps_answer]

theorem keeps_answerRead (h : Keeps z s) (via p) : Keeps z (answerRead s via p) := by
  refine keeps_withRead h ?_ ..
  grind [keeps_finish, keeps_answer]

theorem keeps_answerDescribe (h : Keeps z s) (via p) : Keeps z (answerDescribe s via p) := by
  refine keeps_withRead h ?_ ..
  grind [keeps_finish, keeps_answer]

theorem keeps_answerReadBlock (h : Keeps z s) (via p) : Keeps z (answerReadBlock s via p) := by
  refine keeps_withRead h ?_ ..
  grind [keeps_finish, keeps_answer]

theorem leads_execEnableStopDone (h : Keeps z s) (key) : Leads z (execEnableStopDone key s) := by
  unfold execEnableStopDone
  split
  · next e => exact leads_next (keeps_stopDone (sound_of_enableOf e) h)
  · exact leads_next h

/-! ## Bundle -/

theorem keeps_internalDone (h : Keeps z s) (r) : Keeps z (internalDone s r).1 := by
  unfold internalDone
  grind [keeps_update, keeps_enableRefused, keeps_noteRefusal]

theorem keeps_internalWrite {f : Nat → Nat → Nat → Handler} (h : Keeps z s) (hf : ∀ i j k w p, Keeps z (f i j k s w p).1) (idx sub l) :
    Keeps z (internalWrite f s idx sub l).1 := by
  unfold internalWrite
  split
  · exact keeps_internalDone h _
  split
  · exact h
  extract_lets arr big
  split
  · exact h
  rw [apply_ite Prod.fst]
  exact keeps_ite h (keeps_internalDone (hf ..) _)

theorem keeps_noteEntry (h : Keeps z s) (e) : Keeps z (noteEntry s e) := by
  unfold noteEntry
  grind [keeps_update, keeps_fresh, keeps_noteRefusal]

theorem keeps_applyEntries {f : Nat → Nat → Nat → Handler} (h : Keeps z s) (hf : ∀ {t}, Keeps z t → ∀ i j k w p, Keeps z (f i j k t w
  p).1) (l ch) :
    Keeps z (applyEntries f l s ch).1 := by
  induction l generalizing s ch with
  | nil => exact h
  | cons e r ih =>
    have hw := keeps_internalWrite h (hf h) e.idx e.sub e.val
    unfold applyEntries
    dsimp only
    split
    · split
      · exact ih h _
      · exact keeps_noteEntry h _
    · split
      · exact ih hw _
      · exact keeps_ite (keeps_noteEntry hw _) hw

theorem keeps_setEnable {e : Enable} (he : e.Sound) (h : Keeps z s) (v) : Keeps z (setEnable e v s) := by
  exact keeps_enableWrite he h ..

theorem keeps_restoreObjects {t} (hs : Keeps z s) (ht : Keeps z t) : Keeps z (restoreObjects s t) := by
  refine keeps_updateSpan ⟨ht.pending, fun hz => ⟨(ht.inv hz).1, twf_foldl_tset _ (twf_filter _ (ht.inv hz).2.1), (ht.inv hz).2.2⟩⟩

theorem keeps_undoBundle {t} (hs : Keeps z s) (ht : Keeps z t) {ch : Changed} (hc : ∀ c ∈ ch, c.1.Sound) : Keeps z (undoBundle s t ch) :=
  by
  exact keeps_foldl_mem (fun _ _ hx h => keeps_ite (keeps_setEnable (hc _ hx) h _) h)
    (keeps_restoreObjects hs (keeps_foldl_mem (fun _ _ hx h => keeps_ite h (keeps_setEnable (hc _ hx) h _)) ht))

theorem keeps_bundleKey (h : Keeps z s) (l) : Keeps z (bundleKey s l) := by
  unfold bundleKey
  grind [keeps_update, keeps_wr]

theorem keeps_hNoBundle (h : Keeps z s) (l k) : Keeps z (hNoBundle s l k).1 := h.same rfl rfl rfl rfl rfl

/-- The enables that a bundle has changed are enables of the dictionary. -/
theorem sound_applyEntries {f : Nat → Nat → Nat → Handler} (l) {ch : Changed} (hc : ∀ c ∈ ch, c.1.Sound) :
    ∀ c ∈ (applyEntries f l s ch).2.1, c.1.Sound := by
  induction l generalizing s ch with
  | nil => exact hc
  | cons e r ih =>
    unfold applyEntries
    dsimp only
    split
    · split
      · exact ih hc
      · exact hc
    · split
      · refine ih ?_
        split
        · split
          · exact hc
          · next hx _ => exact fun c h => (List.mem_cons.mp h).elim (fun h => h ▸ sound_of_enableOf hx) (hc c)
        · exact hc
      · exact hc

theorem keeps_applyBundle (h : Keeps z s) : Keeps z (applyBundle s).1 := by
  unfold applyBundle
  split
  · dsimp only
    exact keeps_event (keeps_wr h ..) ..
  next seq es _ =>
    have hn {t} (h : Keeps z t) (i j k) := keeps_handlerOf (bundle := hNoBundle) h (fun _ _ => h) i j k
    have ha := keeps_applyEntries h hn es []
    have hc := sound_applyEntries (f := handlerOf hNoBundle) (s := s) es (ch := []) (by simp)
    split
    · next e => exact keeps_wr (keeps_wr (keeps_bundleKey (ha.fst e) _) ..) ..
    · next e => exact keeps_wr (keeps_undoBundle h (ha.fst e) (by simpa [e] using hc)) ..

theorem keeps_hBundleApply (h : Keeps z s) (l k) : Keeps z (hBundleApply s l k).1 := by
  exact keeps_trigger h (keeps_applyBundle h) ..

theorem keeps_handler (h : Keeps z s) (idx sub off l k) : Keeps z (handler idx sub off s l k).1 := by
  exact keeps_handlerOf h (keeps_hBundleApply h) ..

theorem leads_execAutostartWaitEnd (h : Keeps z s) : Leads z (execAutostartWaitEnd s) := by
  unfold execAutostartWaitEnd
  grind [leads_next, keeps_update, keeps_internalWrite, keeps_handler, keeps_wr, keeps_autoAt]

theorem leads_execAutostartTimeout (h : Keeps z s) : Leads z (execAutostartTimeout s) := by
  unfold execAutostartTimeout
  grind [leads_next, keeps_update, keeps_wr]

theorem keeps_servePdu (h : Keeps z s) (via p) : Keeps z (servePdu s via p) := by
  unfold servePdu
  split
  · exact keeps_answerRead h ..
  · exact keeps_serveWrite h (keeps_handler h _ _ _) ..
  · exact keeps_answerDescribe h ..
  · exact keeps_answerReadBlock h ..

theorem leads_execRead (h : Keeps z s) (via p) : Leads z (execRead via p s) := by
  exact leads_next (keeps_takePdu h (keeps_answerRead h ..) ..)

theorem leads_execWrite (h : Keeps z s) (via p) : Leads z (execWrite via p s) := by
  exact leads_next (keeps_takePdu h (keeps_serveWrite h (keeps_handler h _ _ _) ..) ..)

theorem leads_execDescribe (h : Keeps z s) (via p) : Leads z (execDescribe via p s) := by
  exact leads_next (keeps_takePdu h (keeps_answerDescribe h ..) ..)

theorem leads_execReadBlock (h : Keeps z s) (via p) : Leads z (execReadBlock via p s) := by
  exact leads_next (keeps_takePdu h (keeps_answerReadBlock h ..) ..)

theorem leads_execMailboxUzoenePdu (h : Keeps z s) (fn payload) : Leads z (execMailboxUzoenePdu fn payload s) := by
  unfold execMailboxUzoenePdu
  split
  · exact leads_next h
  split
  · exact leads_next (keeps_mailbox h ..)
  extract_lets via p t
  have ht : Keeps z t := keeps_takePdu (serve := fun s => servePdu s via p) h (keeps_servePdu h ..) ..
  split
  · exact leads_next (keeps_mailbox ht ..)
  · exact leads_next (keeps_update ht rfl)

theorem leads_execMgmtSecureDatagram (h : Keeps z s) (session bytes) : Leads z (execMgmtSecureDatagram session bytes s) := by
  unfold execMgmtSecureDatagram
  split
  · exact leads_next h
  split
  · exact leads_next h
  split
  · exact leads_next (keeps_authEvent (keeps_bump h ..) _)
  extract_lets t p
  have ht : Keeps z t := keeps_update h rfl
  split
  · exact leads_next ht
  · exact leads_next (keeps_takePdu (serve := fun s => servePdu s (.session session) p) ht (keeps_servePdu ht ..) ..)

/-! ## Packet -/

theorem keeps_countFec (h : Keeps z s) (l corrected uncorrectable) : Keeps z (countFec s l corrected uncorrectable) := by
  unfold countFec
  grind [keeps_update, keeps_bump, keeps_linkEvent, keeps_putLink]

theorem keeps_takeOwn (h : Keeps z s) (p) : Keeps z (takeOwn p s) := by
  unfold takeOwn
  grind [keeps_update, keeps_fresh, keeps_hearAnnounce, keeps_emit, keeps_refuseMgmt]

theorem keeps_passOn (h : Keeps z s) (link p) : Keeps z (passOn s link p) := by
  unfold passOn
  grind [keeps_update, keeps_bump, keeps_enqueuePkt, keeps_routeMiss]

theorem keeps_serveFabric (h : Keeps z s) (was) : Keeps z (serveFabric s was) := by
  unfold serveFabric
  dsimp only
  split
  · exact keeps_ite h (keeps_takePdu h (keeps_servePdu h ..) ..)
  · exact h

theorem keeps_handlePacket (h : Keeps z s) (link p) : Keeps z (handlePacket s link p) := by
  unfold handlePacket
  split
  · exact keeps_takeCast h (fun h => keeps_takeOwn h _) ..
  · grind [keeps_passOn, keeps_recvEntries, keeps_serveFabric, keeps_recvPkt]

theorem keeps_cutThrough (h : Keeps z s) (link flits k) : Keeps z (cutThrough s link flits k) := by
  unfold cutThrough
  grind [keeps_update, keeps_fresh, keeps_police, keeps_passOn]

theorem leads_execPacketReceive (h : Keeps z s) (link flits corrected uncorrectable) : Leads z (execPacketReceive link flits corrected
  uncorrectable s) := by
  unfold execPacketReceive
  grind [leads_next, keeps_update, keeps_bump, keeps_cutThrough, keeps_handlePacket, keeps_countFec, keeps_police]

/-! ## Dispatch -/

/-- Every command ends in a next state that keeps what the state had. -/
theorem leads_exec (c : Instr) (h : Keeps z s) : Leads z (exec c s) := by
  cases c with
  | read => exact leads_execRead h ..
  | write => exact leads_execWrite h ..
  | describe => exact leads_execDescribe h ..
  | readBlock => exact leads_execReadBlock h ..
  | enableStopDone => exact leads_execEnableStopDone h ..
  | storeCommit => exact leads_next (keeps_rowWrite h (keeps_hStoreCommit h _) ..)
  | storeDefaults => exact leads_next (keeps_rowWrite h (keeps_hStoreDefaults h) ..)
  | bundleApply => exact leads_next (keeps_rowWrite h (keeps_hBundleApply h) ..)
  | herdEnable => exact leads_enableRow sound_enHerd h ..
  | deputyEnable => exact leads_enableRow (sound_enDeputy _) h ..
  | deputyState => exact leads_execDeputyState h ..
  | leadSilenceTimeout => exact leads_execLeadSilenceTimeout h ..
  | takeoverProbe src heard => exact leads_execTakeoverProbe h src heard
  | probeReply => exact leads_execProbeReply h ..
  | leadTakeover => exact leads_execLeadTakeover h ..
  | timeSymbolSend => exact leads_execTimeSymbolSend h ..
  | timeSymbol => exact leads_execTimeSymbol h ..
  | htSymbolTimeout => exact leads_execHtSymbolTimeout h ..
  | htLost => exact leads_execHtLost h ..
  | htRefEnable => exact leads_enableRow sound_enHtRef h ..
  | htSourceEnable => exact leads_enableRow sound_enHtSource h ..
  | htRefEdge => exact leads_execHtRefEdge h ..
  | htRefMissing => exact leads_execHtRefMissing h ..
  | stepAnnounceDue => exact leads_execStepAnnounceDue h ..
  | stepAnnounce => exact leads_execStepAnnounce h ..
  | stepStart => exact leads_execStepStart h ..
  | epochDrainEnd => exact leads_execEpochDrainEnd h ..
  | stepGuardPoint => exact leads_execStepGuardPoint h ..
  | stallNotice => exact leads_execStallNotice h ..
  | spanReport => exact leads_execSpanReport h ..
  | scheduleEnable => exact leads_enableRow (sound_enSchedule _) h ..
  | scheduleTableWrite => exact leads_next (keeps_rowWrite h (keeps_hScheduleTable h _ _) ..)
  | sweep => exact leads_execSweep h ..
  | admitOpen => exact leads_execAdmitOpen h ..
  | admitClose => exact leads_execAdmitClose h ..
  | commit => exact leads_execCommit h ..
  | tierStallLimit => exact leads_execTierStallLimit h ..
  | mergeClose => exact leads_execMergeClose h ..
  | maintOpen => exact leads_execMaintOpen h ..
  | maintClose => exact leads_execMaintClose h ..
  | deadlineEnable => exact leads_enableRow sound_enDeadline h ..
  | deadlineFire => exact leads_execDeadlineFire h ..
  | formatRulesEnable => exact leads_enableRow sound_enFormatRules h ..
  | query => exact leads_execQuery h ..
  | append => exact leads_execAppend h ..
  | retire => exact leads_execRetire h ..
  | appendRoomWaitEnd => exact leads_execAppendRoomWaitEnd h ..
  | ticketMessage => exact leads_execTicketMessage h ..
  | shareDispatch => exact leads_execShareDispatch h ..
  | shareResume => exact leads_execShareResume h ..
  | shareStreamStart => exact leads_execShareStreamStart h ..
  | passStart => exact leads_execPassStart h ..
  | shareRecord => exact leads_execShareRecord h ..
  | attentionEnable => exact leads_enableRow sound_enAttention h ..
  | scoringEnable => exact leads_enableRow sound_enScoring h ..
  | rebalanceEnable => exact leads_enableRow sound_enRebalance h ..
  | burstStart => exact leads_execBurstStart h ..
  | burstEnd => exact leads_execBurstEnd h ..
  | refreshDue => exact leads_execRefreshDue h ..
  | hostMemRead => exact leads_execHostMemRead h ..
  | hostMemWrite => exact leads_execHostMemWrite h ..
  | flipToDevice => exact leads_execFlipToDevice h ..
  | flipToHost => exact leads_execFlipToHost h ..
  | fence => exact leads_execFence h ..
  | fenceDone => exact leads_execFenceDone h ..
  | quireRebalanceSwitch => exact leads_execQuireRebalanceSwitch h ..
  | deckleEnable => exact leads_enableRow sound_enDeckle h ..
  | deckleBuild => exact leads_execDeckleBuild h ..
  | searchEnable => exact leads_enableRow sound_enSearch h ..
  | vindexEnable => exact leads_enableRow (sound_enVindex _) h ..
  | search => exact leads_execSearch h ..
  | insert => exact leads_execInsert h ..
  | delete => exact leads_execDelete h ..
  | filterStore => exact leads_execFilterStore h ..
  | filterDrop => exact leads_execFilterDrop h ..
  | loadCodebook => exact leads_execLoadCodebook h ..
  | dropCodebook => exact leads_execDropCodebook h ..
  | mergeEnable => exact leads_enableRow sound_enMerge h ..
  | treeEntryWrite => exact leads_next (keeps_rowWrite h (keeps_hTreeEntry h) ..)
  | queryForwardArrive => exact leads_execQueryForwardArrive h ..
  | mergeContextOpen => exact leads_execMergeContextOpen h ..
  | set => exact leads_execSet h ..
  | mergeDeadline => exact leads_execMergeDeadline h ..
  | directoryEnable => exact leads_enableRow sound_enDirectory h ..
  | dirWindowFind => exact leads_next (keeps_rowWrite h (keeps_hDirWindowOp h) ..)
  | dirWindowInsert => exact leads_next (keeps_rowWrite h (keeps_hDirWindowOp h) ..)
  | dirWindowRemove => exact leads_next (keeps_rowWrite h (keeps_hDirWindowOp h) ..)
  | vatEnable => exact leads_enableRow sound_enVat h ..
  | pressEnable => exact leads_enableRow sound_enPress h ..
  | feltHomeEnable => exact leads_enableRow sound_enFeltHome h ..
  | vatRegionEnable => exact leads_enableRow (sound_enVatRegion _) h ..
  | tenantEnable => exact leads_enableRow (sound_enTenant _) h ..
  | quireMoveSwitch => exact leads_execQuireMoveSwitch h ..
  | quireSourceFree => exact leads_execQuireSourceFree h ..
  | quireMoveError => exact leads_execQuireMoveError h ..
  | demotionStart => exact leads_execDemotionStart h ..
  | overQuotaDemotion => exact leads_execOverQuotaDemotion h ..
  | preempt => exact leads_execPreempt h ..
  | preemptAck => exact leads_execPreemptAck h ..
  | resume => exact leads_execResume h ..
  | move => exact leads_execMove h ..
  | press => exact leads_execPress h ..
  | vatRegionDrain => exact leads_next (keeps_rowWrite h (keeps_hVatDrain h _) ..)
  | vatRegionFail => exact leads_execVatRegionFail h ..
  | hostPortEnable => exact leads_enableRow sound_enHostPort h ..
  | slotAreaEnable => exact leads_enableRow (sound_enSlotArea _) h ..
  | hdmDecoderProgram => exact leads_execHdmDecoderProgram h ..
  | hostSnoopResponse => exact leads_execHostSnoopResponse h ..
  | completionWriteError => exact leads_execCompletionWriteError h ..
  | cxlLinkDown => exact leads_execCxlLinkDown h ..
  | cxlLinkUp => exact leads_execCxlLinkUp h ..
  | conventionalReset => exact leads_execConventionalReset h ..
  | functionLevelReset => exact leads_execFunctionLevelReset h ..
  | mailboxUzoenePdu => exact leads_execMailboxUzoenePdu h ..
  | getEventRecords => exact leads_execGetEventRecords h ..
  | clearEventRecords => exact leads_execClearEventRecords h ..
  | getFwInfo => exact leads_execGetFwInfo h ..
  | transferFw => exact leads_execTransferFw h ..
  | activateFw => exact leads_execActivateFw h ..
  | getSupportedLogs => exact leads_execGetSupportedLogs h ..
  | getLog => exact leads_execGetLog h ..
  | identifyMemoryDevice => exact leads_execIdentifyMemoryDevice h ..
  | mailboxUnsupported fn opcode => exact leads_execMailboxUnsupported h fn opcode
  | getMeasurements => exact leads_execGetMeasurements h ..
  | keyExchange => exact leads_execKeyExchange h ..
  | ideKm => exact leads_execIdeKm h ..
  | linkEnable => exact leads_enableRow (sound_enLink _) h ..
  | linkTrained => exact leads_execLinkTrained h ..
  | linkTrainingTimeout => exact leads_execLinkTrainingTimeout h ..
  | linkRetrainAttempt => exact leads_execLinkRetrainAttempt h ..
  | laneFlap => exact leads_execLaneFlap h ..
  | laneRestore => exact leads_next (keeps_rowWrite h (keeps_hLaneRestore h _) ..)
  | linkBlockSend => exact leads_execLinkBlockSend h ..
  | linkBlock => exact leads_execLinkBlock h ..
  | packetReceive => exact leads_execPacketReceive h ..
  | ack => exact leads_execAck h ..
  | nak => exact leads_execNak h ..
  | ackDelayExpire => exact leads_execAckDelayExpire h ..
  | retransmitTimeout => exact leads_execRetransmitTimeout h ..
  | rnrDelayExpire => exact leads_execRnrDelayExpire h ..
  | reassemblyTimeout => exact leads_execReassemblyTimeout h ..
  | ccInterval => exact leads_execCcInterval h ..
  | register => exact leads_next (keeps_rowWrite h (keeps_hRegionOp h) ..)
  | deregister => exact leads_next (keeps_rowWrite h (keeps_hRegionOp h) ..)
  | transportEnable => exact leads_enableRow sound_enTransport h ..
  | trafficEnable => exact leads_enableRow sound_enTraffic h ..
  | egressSelect => exact leads_execEgressSelect h ..
  | extentEnable => exact leads_enableRow sound_enExtent h ..
  | create => exact leads_next (keeps_rowWrite h (keeps_hExtentOp h) ..)
  | setGrants => exact leads_next (keeps_rowWrite h (keeps_hExtentOp h) ..)
  | revoke => exact leads_next (keeps_rowWrite h (keeps_hExtentOp h) ..)
  | extentDrainEnd => exact leads_execExtentDrainEnd h ..
  | memoryClearDone => exact leads_execMemoryClearDone h ..
  | tenantLeaseExpire => exact leads_execTenantLeaseExpire h ..
  | renew => exact leads_execRenew h ..
  | close => exact leads_execClose h ..
  | publish => exact leads_execPublish h ..
  | shareReq => exact leads_execShareReq h ..
  | shareReply => exact leads_execShareReply h ..
  | versionRelease => exact leads_execVersionRelease h ..
  | poolEnable => exact leads_enableRow sound_enPool h ..
  | poolRequestMib => exact leads_next (keeps_rowWrite h (keeps_hPoolRequest h) ..)
  | poolLeaseReq => exact leads_execPoolLeaseReq h ..
  | poolLeaseGrant => exact leads_execPoolLeaseGrant h ..
  | poolLeaseRenewDue => exact leads_execPoolLeaseRenewDue h ..
  | poolLeaseRenew => exact leads_execPoolLeaseRenew h ..
  | poolRelease => exact leads_next (keeps_rowWrite h (keeps_hPoolRelease h) ..)
  | poolLeaseRelease => exact leads_execPoolLeaseRelease h ..
  | poolLeaseRevoke => exact leads_execPoolLeaseRevoke h ..
  | poolLeaseGuardExpire => exact leads_execPoolLeaseGuardExpire h ..
  | poolLeaseLapse => exact leads_execPoolLeaseLapse h ..
  | mapUpdate => exact leads_execMapUpdate h ..
  | handoffOrder => exact leads_execHandoffOrder h ..
  | handoffCopyDone => exact leads_execHandoffCopyDone h ..
  | handoffReady src o => exact leads_execHandoffReady h src o
  | handoffRevert => exact leads_execHandoffRevert h ..
  | parityError => exact leads_execParityError h ..
  | cvReset => exact leads_next (keeps_rowWrite h (keeps_hCvOp h _) ..)
  | cvRun => exact leads_next (keeps_rowWrite h (keeps_hCvOp h _) ..)
  | cvRunDone => exact leads_execCvRunDone h ..
  | cvAbort => exact leads_next (keeps_rowWrite h (keeps_hCvOp h _) ..)
  | sliceWatchdogTimeout => exact leads_execSliceWatchdogTimeout h ..
  | healthEnable => exact leads_enableRow sound_enHealth h ..
  | healthReportDue => exact leads_execHealthReportDue h ..
  | healthReport => exact leads_execHealthReport h ..
  | healthReportMissed => exact leads_execHealthReportMissed h ..
  | nodeLost => exact leads_execNodeLost h ..
  | standInOrder => exact leads_execStandInOrder h ..
  | lostRanges => exact leads_execLostRanges h ..
  | journalEnable => exact leads_enableRow sound_enJournal h ..
  | journalMirror => exact leads_execJournalMirror h ..
  | journalAck => exact leads_execJournalAck h ..
  | journalAckTimeout => exact leads_execJournalAckTimeout h ..
  | journalFetch => exact leads_execJournalFetch h ..
  | lostRangeClear => exact leads_execLostRangeClear h ..
  | event src entry => exact leads_execEvent h src entry
  | logClear => exact leads_next (keeps_rowWrite h (keeps_hLogClear h) ..)
  | traceTriggerEnable => exact leads_enableRow sound_enTrace h ..
  | powerEnable => exact leads_enableRow sound_enPower h ..
  | powerWindow => exact leads_execPowerWindow h ..
  | powerSample => exact leads_execPowerSample h ..
  | thermalSample => exact leads_execThermalSample h ..
  | thermTrip => exact leads_execThermTrip h ..
  | nodeReset => exact leads_execNodeReset h ..
  | debugAttached => exact leads_execDebugAttached h ..
  | extest => exact leads_execExtest h ..
  | attestRequest => exact leads_next (keeps_rowWrite h (keeps_hAttestRequest h) ..)
  | attestReportReady => exact leads_execAttestReportReady h ..
  | mgmtSessionEnable => exact leads_enableRow sound_enMgmtSession h ..
  | mgmtSecureDatagram => exact leads_execMgmtSecureDatagram h ..
  | sessionIdleTimeout => exact leads_execSessionIdleTimeout h ..
  | sessionKeyWrite => exact leads_execSessionKeyWrite h ..
  | ownerKeyWrite => exact leads_next (keeps_rowWrite h (keeps_hOwnerKey h) ..)
  | fwBufferWrite => exact leads_next (keeps_rowWrite h (keeps_hFwBuffer h _) ..)
  | fwApply => exact leads_next (keeps_rowWrite h (keeps_hFwApply h) ..)
  | fwVerifyDone => exact leads_execFwVerifyDone h ..
  | fwWriteDone => exact leads_execFwWriteDone h ..
  | fwAbort => exact leads_next (keeps_rowWrite h (keeps_hFwAbort h) ..)
  | fwBufferTimeout => exact leads_execFwBufferTimeout h ..
  | fwActivateSlices => exact leads_next (keeps_rowWrite h (keeps_hFwActivate h) ..)
  | imageActivated => exact leads_execImageActivated h ..
  | svnCommit => exact leads_next (keeps_rowWrite h (keeps_hSvnCommit h) ..)
  | sliceHardwareReady => exact leads_execSliceHardwareReady h ..
  | autostartWaitEnd => exact leads_execAutostartWaitEnd h ..
  | autostartTimeout => exact leads_execAutostartTimeout h ..
  | joinRequest => exact leads_execJoinRequest h ..
  | joinReply => exact leads_execJoinReply h ..
  | joinTimeout => exact leads_execJoinTimeout h ..
  | quiesce => exact leads_execQuiesce h ..
  | evacuationDone => exact leads_execEvacuationDone h ..
  | cancel => exact leads_execCancel h ..
  | retrain => exact leads_execRetrain h ..
  | retrainDone => exact leads_execRetrainDone h ..
  | retireSlice => exact leads_execRetireSlice h ..
  | readmit => exact leads_execReadmit h ..
  | readmitDone => exact leads_execReadmitDone h ..
  | sliceReport => exact leads_execSliceReport h ..
  | nodeRstNRelease => exact leads_execNodeRstNRelease h ..
  | nodeRstNAssert => exact leads_execNodeRstNAssert h ..
  | pwrOkCoreDrop => exact leads_execPwrOkCoreDrop h ..
  | ticketWholeTimeout => exact leads_execTicketWholeTimeout h ..
  | coreRailsPowerUp => exact leads_execCoreRailsPowerUp h ..
  | vddAuxPowerUp => exact leads_execVddAuxPowerUp h ..
  | controlCoreWatchdog => exact leads_execControlCoreWatchdog h ..
  | poolRunCleared => exact leads_execPoolRunCleared h ..
  | resumeAck => exact leads_execResumeAck h ..
  -- the OPEN ticket, whose constructor bears the name of a Lean keyword
  | _ => exact leads_execOpen h ..

theorem keeps_tick (h : Keeps z s) : Keeps z (tick s) := keeps_closeDue (keeps_serveHosts (keeps_clock h))

end

/-- Settles O58: a step is the command at the front on the state without it, or one engine clock, and both keep the invariant. -/
theorem everyStepKeepsTheInvariant : Obligations.EveryStepKeepsTheInvariant := by
  unfold Obligations.EveryStepKeepsTheInvariant
  intro s t hi e
  unfold step at e
  split at e
  · cases e
    exact (keeps_tick (Keeps.refl s)).inv hi
  · next c rest _ =>
    obtain ⟨u, hu, k⟩ := leads_exec c (Keeps.refl { s with pending := rest })
    rw [hu] at e
    cases e
    exact k.inv hi

/-- Settles O3: no operation writes the queue. -/
theorem commandsLeaveTheQueue : Obligations.CommandsLeaveTheQueue := by
  unfold Obligations.CommandsLeaveTheQueue
  intro c s t e
  obtain ⟨u, hu, k⟩ := leads_exec c (Keeps.refl s)
  rw [hu] at e
  cases e
  exact k.pending

/-- Settles O60: every arm of the dispatch ends in a next state. -/
theorem everyCommandCompletes : Obligations.EveryCommandCompletes := by
  unfold Obligations.EveryCommandCompletes
  intro c s
  obtain ⟨t, ht, _⟩ := leads_exec c (Keeps.refl s)
  exact ⟨t, ht⟩
/-- Settles O57: reset lists nothing in memory, the dictionary and the log, and has its four stacks. -/
theorem resetMeetsTheInvariant : Obligations.ResetMeetsTheInvariant := by
  unfold Obligations.ResetMeetsTheInvariant
  exact ⟨rfl, rfl, rfl, rfl⟩

/-- Settles O1: by the definition of a step. -/
theorem stepRunsFrontCommand : Obligations.StepRunsFrontCommand := by
  unfold Obligations.StepRunsFrontCommand
  intro c rest s hp
  rw [step, hp]

end Sys2Proof.Machine
end

section
/-! SUPPORT. What the commands that only keep or send what they say leave alone: memory, the cache, the directory and the stacks. One lemma
per operation that they use, in the order of the model's files. -/

namespace Sys2Proof.Machine

/-- A state t has the memory, the cache, the directory and the scoring stacks of s. -/
structure Quiet (s t : State) : Prop where
  mem : t.mem = s.mem
  kv : t.kv = s.kv
  dirs : t.dirs = s.dirs
  arrays : t.arrays = s.arrays

/-- A command ends in such a state. -/
def Sends (s : State) (o : Outc) : Prop := ∃ t, o = .next t ∧ Quiet s t

theorem Quiet.refl (s : State) : Quiet s s := ⟨rfl, rfl, rfl, rfl⟩

section

variable {z s : State}

/-- An update of other fields. -/
theorem Quiet.same {t : State} (h : Quiet z s) (hm : t.mem = s.mem) (hk : t.kv = s.kv) (hd : t.dirs = s.dirs) (ha : t.arrays = s.arrays) :
    Quiet z t := ⟨hm.trans h.mem, hk.trans h.kv, hd.trans h.dirs, ha.trans h.arrays⟩

/-- The same for an update as it stands in a definition. -/
theorem quiet_update {p o f n d dq tm hd sch att trees ctxs cw fences l ob se ho dt comp host rel srch pow net sec} (h : Quiet z s) :
    Quiet z { pending := p, out := o, free := f, nextId := n, dict := d, dq := dq, tm := tm, herd := hd, sch := sch,
              att := att, kv := s.kv, dirs := s.dirs, trees := trees, ctxs := ctxs, ctxWait := cw, arrays := s.arrays,
              fences := fences, mem := s.mem, log := l, outbox := ob, sessions := se, holds := ho, dirTaken := dt, comp := comp,
              host := host, rel := rel, srch := srch, pow := pow, net := net, sec := sec } := h.same rfl rfl rfl rfl

theorem sends_next (h : Quiet z s) : Sends z (.next s) := ⟨s, rfl, h⟩

theorem quiet_ite {c : Prop} [Decidable c] {a b : State} (ha : Quiet z a) (hb : Quiet z b) : Quiet z (if c then a else b) := by
  split
  · exact ha
  · exact hb

theorem quiet_foldl {α : Type} {f : State → α → State} (hf : ∀ t x, Quiet z t → Quiet z (f t x)) (l : List α) (h : Quiet z s) :
    Quiet z (l.foldl f s) := by
  induction l generalizing s with
  | nil => exact h
  | cons x l ih => exact ih (hf _ _ h)

/-! ## Ops -/

theorem quiet_wr (h : Quiet z s) (k v) : Quiet z (wr s k v) := by
  exact h.same rfl rfl rfl rfl

theorem quiet_bump (h : Quiet z s) (k n) : Quiet z (bump s k n) := by
  unfold bump
  grind [quiet_update, quiet_wr]

theorem quiet_emit (h : Quiet z s) (o) : Quiet z (emit s o) := h.same rfl rfl rfl rfl

theorem quiet_mgmt (h : Quiet z s) (dst b) : Quiet z (mgmt s dst b) := h.same rfl rfl rfl rfl

theorem quiet_fresh (h : Quiet z s) : Quiet z (fresh s).2 := h.same rfl rfl rfl rfl

theorem quiet_offerRecord (h : Quiet z s) (e) : Quiet z (offerRecord s e) := by
  unfold offerRecord
  exact h.same rfl rfl rfl rfl

theorem quiet_logPut (h : Quiet z s) (e) : Quiet z (logPut s e) := by
  unfold logPut
  have hp : Quiet z { s with log := tset s.log (rd s K.logHead % 4096) e } :=
    h.same rfl rfl rfl rfl
  grind [quiet_bump, quiet_emit, quiet_wr, quiet_offerRecord]

theorem quiet_addPenalty (h : Quiet z s) (i n) : Quiet z (addPenalty s i n) := h.same rfl rfl rfl rfl

theorem quiet_event (h : Quiet z s) (source code slice sev data) : Quiet z (event s source code slice sev data) := by
  unfold event
  extract_lets t
  have ht : Quiet z t := by grind [quiet_addPenalty]
  clear_value t
  split
  · exact ht
  · split
    · exact ht.same rfl rfl rfl rfl
    · grind [quiet_mgmt, quiet_logPut]

/-! ## Dict -/

theorem quiet_measure (h : Quiet z s) (n v) : Quiet z (measure s n v) := by
  unfold measure
  grind [quiet_update, quiet_bump]

/-! ## Time -/

theorem quiet_skipMissed (h : Quiet z s) : Quiet z (skipMissed s) := h.same rfl rfl rfl rfl

theorem sends_execTimeSymbolSend (h : Quiet z s) (link) : Sends z (execTimeSymbolSend link s) := by
  unfold execTimeSymbolSend
  grind [sends_next, quiet_update, quiet_emit]

theorem quiet_correctTime (h : Quiet z s) (off) : Quiet z (correctTime s off) := by
  unfold correctTime
  grind [quiet_update]

theorem quiet_slewTime (h : Quiet z s) (off) : Quiet z (slewTime s off) := by
  unfold slewTime
  grind [quiet_update]

theorem quiet_setLockRun (h : Quiet z s) (n) : Quiet z (setLockRun s n) := h.same rfl rfl rfl rfl

theorem quiet_followSymbol (h : Quiet z s) (value) : Quiet z (followSymbol s value) := by
  unfold followSymbol
  grind [quiet_update, quiet_slewTime, quiet_setLockRun, quiet_skipMissed, quiet_wr, quiet_correctTime]

theorem quiet_settleStart (h : Quiet z s) : Quiet z (settleStart s) := by
  unfold settleStart
  grind [quiet_update, quiet_wr]

theorem quiet_sendJoin (h : Quiet z s) : Quiet z (sendJoin s) := by
  unfold sendJoin
  grind [quiet_update, quiet_bump, quiet_mgmt]

theorem quiet_joinWhenLocked (h : Quiet z s) : Quiet z (joinWhenLocked s) := by
  unfold joinWhenLocked
  grind [quiet_update, quiet_sendJoin]

theorem sends_execTimeSymbol (h : Quiet z s) (link block) : Sends z (execTimeSymbol link block s) := by
  unfold execTimeSymbol
  extract_lets b d t _ u _ v
  have hu : Quiet z u := quiet_update (quiet_wr h ..)
  have hv : Quiet z v := quiet_update hu
  clear_value u v
  split
  · exact sends_next h
  split
  · exact sends_next hu
  split
  · exact sends_next hv
  extract_lets w
  have hw : Quiet z w := quiet_wr (quiet_wr hv ..) ..
  split
  · exact sends_next (quiet_joinWhenLocked (quiet_followSymbol hw _))
  · exact sends_next hw

theorem sends_execHtSymbolTimeout (h : Quiet z s) : Sends z (execHtSymbolTimeout s) := by
  unfold execHtSymbolTimeout
  grind [sends_next, quiet_update, quiet_wr]

theorem sends_execHtLost (h : Quiet z s) : Sends z (execHtLost s) := by
  unfold execHtLost
  grind [sends_next, quiet_update, quiet_event, quiet_wr]

theorem sends_execHtRefEdge (h : Quiet z s) : Sends z (execHtRefEdge s) := by
  unfold execHtRefEdge
  grind [sends_next, quiet_update, quiet_slewTime, quiet_wr]

theorem sends_execHtRefMissing (h : Quiet z s) : Sends z (execHtRefMissing s) := by
  unfold execHtRefMissing
  grind [sends_next, quiet_update, quiet_event, quiet_wr]

/-! ## Links -/

theorem quiet_putLink (h : Quiet z s) (l x) : Quiet z (putLink s l x) := h.same rfl rfl rfl rfl

theorem quiet_linkEvent (h : Quiet z s) (code sev l data) : Quiet z (linkEvent s code sev l data) := by
  unfold linkEvent
  grind [quiet_update, quiet_event]

theorem quiet_sayDown (h : Quiet z s) (l cause) : Quiet z (sayDown s l cause) := by
  unfold sayDown
  grind [quiet_update, quiet_bump, quiet_linkEvent, quiet_putLink]

theorem quiet_dropTo (h : Quiet z s) (l st cause) : Quiet z (dropTo s l st cause) := by
  unfold dropTo
  grind [quiet_update, quiet_sayDown, quiet_wr]

theorem quiet_goUp (h : Quiet z s) (l w) : Quiet z (goUp s l w) := by
  unfold goUp
  grind [quiet_update, quiet_linkEvent, quiet_putLink, quiet_wr]

theorem quiet_checkHold (h : Quiet z s) (l) : Quiet z (checkHold s l) := by
  unfold checkHold
  grind [quiet_update, quiet_linkEvent, quiet_putLink, quiet_goUp, quiet_dropTo]

theorem quiet_fillBuckets (h : Quiet z s) (l) : Quiet z (fillBuckets s l) := h.same rfl rfl rfl rfl

theorem sends_execLinkTrained (h : Quiet z s) (link farOffer) : Sends z (execLinkTrained link farOffer s) := by
  unfold execLinkTrained
  grind [sends_next, quiet_update, quiet_checkHold, quiet_goUp, quiet_fillBuckets]

theorem sends_execLinkTrainingTimeout (h : Quiet z s) (link signal) : Sends z (execLinkTrainingTimeout link signal s) := by
  unfold execLinkTrainingTimeout
  grind [sends_next, quiet_update, quiet_sayDown, quiet_putLink, quiet_wr]

theorem sends_execLinkBlockSend (h : Quiet z s) (link) : Sends z (execLinkBlockSend link s) := by
  unfold execLinkBlockSend
  grind [sends_next, quiet_update, quiet_checkHold, quiet_emit, quiet_putLink]

theorem sends_execLinkBlock (h : Quiet z s) (link block) : Sends z (execLinkBlock link block s) := by
  unfold execLinkBlock
  grind [sends_next, quiet_update, quiet_checkHold, quiet_putLink, quiet_wr]

/-! ## Transport -/

theorem quiet_putRate (h : Quiet z s) (dst r) : Quiet z (putRate s dst r) := h.same rfl rfl rfl rfl

theorem sends_execCcInterval (h : Quiet z s) (dst) : Sends z (execCcInterval dst s) := by
  unfold execCcInterval
  grind [sends_next, quiet_update, quiet_putRate]

/-! ## HostPort -/

theorem sends_execHdmDecoderProgram (h : Quiet z s) (decoder hpa size dpa lock commit) : Sends z (execHdmDecoderProgram decoder hpa size
  dpa lock commit s) := by
  unfold execHdmDecoderProgram
  grind [sends_next, quiet_update]

theorem sends_execCxlLinkUp (h : Quiet z s) (hostMode width) : Sends z (execCxlLinkUp hostMode width s) := by
  unfold execCxlLinkUp
  grind [sends_next, quiet_update, quiet_wr]

theorem quiet_mailbox (h : Quiet z s) (fn code payload) : Quiet z (mailbox s fn code payload) := h.same rfl rfl rfl rfl

theorem sends_pfOnly {f : State → State} (h : Quiet z s) (hf : Quiet z (f s)) (fn) : Sends z (pfOnly fn s f) := by
  unfold pfOnly
  refine sends_next ?_
  grind [quiet_mailbox]

theorem sends_execGetEventRecords (h : Quiet z s) (fn) : Sends z (execGetEventRecords fn s) := by
  exact sends_pfOnly h (quiet_mailbox h ..) _

theorem sends_execClearEventRecords (h : Quiet z s) (fn handles) : Sends z (execClearEventRecords fn handles s) := by
  refine sends_pfOnly h ?_ _
  split
  · exact quiet_mailbox h ..
  · exact quiet_mailbox (quiet_update h) ..

theorem sends_execGetFwInfo (h : Quiet z s) (fn) : Sends z (execGetFwInfo fn s) := by
  exact sends_pfOnly h (quiet_mailbox h ..) _

theorem sends_execGetSupportedLogs (h : Quiet z s) (fn) : Sends z (execGetSupportedLogs fn s) := by
  exact sends_pfOnly h (quiet_mailbox h ..) _

theorem sends_execIdentifyMemoryDevice (h : Quiet z s) (fn) : Sends z (execIdentifyMemoryDevice fn s) := by
  exact sends_pfOnly h (quiet_mailbox h ..) _

theorem sends_execMailboxUnsupported (h : Quiet z s) (fn _opcode) : Sends z (execMailboxUnsupported fn _opcode s) := by
  unfold execMailboxUnsupported
  grind [sends_next, quiet_update, quiet_mailbox]

/-! ## Security -/

theorem sends_execDebugAttached (h : Quiet z s) : Sends z (execDebugAttached s) := by
  unfold execDebugAttached
  grind [sends_next, quiet_update, quiet_measure, quiet_event, quiet_wr]

theorem quiet_makeReport (h : Quiet z s) (requester nonce) : Quiet z (makeReport s requester nonce).1 := by
  unfold makeReport
  grind [quiet_update, quiet_measure]

theorem quiet_spdm (h : Quiet z s) (what payload) : Quiet z (spdm s what payload) := h.same rfl rfl rfl rfl

theorem sends_execGetMeasurements (h : Quiet z s) (index nonce) : Sends z (execGetMeasurements index nonce s) := by
  unfold execGetMeasurements
  grind [sends_next, quiet_update, quiet_spdm, quiet_makeReport]

theorem quiet_closeSessions (h : Quiet z s) (p) : Quiet z (closeSessions s p) := by
  unfold closeSessions
  grind [quiet_update, quiet_wr]

theorem quiet_authEvent (h : Quiet z s) (transport) : Quiet z (authEvent s transport) := by
  unfold authEvent
  grind [quiet_update, quiet_event]

theorem sends_execKeyExchange (h : Quiet z s) (doe pubKey transcript sig) : Sends z (execKeyExchange doe pubKey transcript sig s) := by
  unfold execKeyExchange
  grind [sends_next, quiet_update, quiet_spdm, quiet_wr, quiet_authEvent]

theorem sends_execSessionIdleTimeout (h : Quiet z s) (session) : Sends z (execSessionIdleTimeout session s) := by
  unfold execSessionIdleTimeout
  grind [sends_next, quiet_update, quiet_closeSessions]

theorem sends_execIdeKm (h : Quiet z s) (session stream establish) : Sends z (execIdeKm session stream establish s) := by
  unfold execIdeKm
  grind [sends_next, quiet_update, quiet_wr]

/-! ## Integrity -/

theorem sends_execEvent (h : Quiet z s) (_src entry) : Sends z (execEvent _src entry s) := by
  unfold execEvent
  grind [sends_next, quiet_update, quiet_logPut]

theorem quiet_clearLog (h : Quiet z s) : Quiet z (clearLog s) := by
  have hl : Quiet z { s with log := [] } := h.same rfl rfl rfl rfl
  exact quiet_wr hl ..

/-! ## Compose -/

theorem quiet_setHerd (h : Quiet z s) (x) : Quiet z (setHerd s x) := h.same rfl rfl rfl rfl

theorem quiet_refuseMgmt (h : Quiet z s) : Quiet z (refuseMgmt s) := by
  unfold refuseMgmt
  grind [quiet_update, quiet_bump]

/-! ## Health -/

theorem quiet_setRel (h : Quiet z s) (r) : Quiet z (setRel s r) := h.same rfl rfl rfl rfl

theorem sends_execHealthReportDue (h : Quiet z s) : Sends z (execHealthReportDue s) := by
  unfold execHealthReportDue
  grind [sends_next, quiet_update, quiet_setRel, quiet_mgmt]

theorem sends_execStandInOrder (h : Quiet z s) (src node) : Sends z (execStandInOrder src node s) := by
  unfold execStandInOrder
  grind [sends_next, quiet_update, quiet_setRel, quiet_refuseMgmt]

/-! ## Herd -/

theorem quiet_announce (h : Quiet z s) (step start) : Quiet z (announce s step start) := h.same rfl rfl rfl rfl

theorem quiet_announceNext (h : Quiet z s) : Quiet z (announceNext s) := by
  unfold announceNext
  grind [quiet_update, quiet_announce]

theorem sends_execStepAnnounceDue (h : Quiet z s) : Sends z (execStepAnnounceDue s) := by
  unfold execStepAnnounceDue
  grind [sends_next, quiet_update, quiet_announceNext]

theorem sends_execStepGuardPoint (h : Quiet z s) : Sends z (execStepGuardPoint s) := by
  unfold execStepGuardPoint
  grind [sends_next, quiet_update, quiet_setHerd, quiet_mgmt]

theorem sends_execStallNotice (h : Quiet z s) (src step) : Sends z (execStallNotice src step s) := by
  unfold execStallNotice
  grind [sends_next, quiet_update, quiet_setHerd, quiet_refuseMgmt]

theorem sends_execSpanReport (h : Quiet z s) (src span) : Sends z (execSpanReport src span s) := by
  unfold execSpanReport
  grind [sends_next, quiet_update, quiet_setHerd, quiet_refuseMgmt]

theorem sends_execDeputyState (h : Quiet z s) (src img) : Sends z (execDeputyState src img s) := by
  unfold execDeputyState
  grind [sends_next, quiet_update, quiet_setHerd, quiet_refuseMgmt]

theorem sends_execLeadSilenceTimeout (h : Quiet z s) : Sends z (execLeadSilenceTimeout s) := by
  unfold execLeadSilenceTimeout
  dsimp only
  split
  · exact sends_next (quiet_foldl (fun _ _ h => quiet_mgmt h ..) _ (quiet_setHerd h _))
  · exact sends_next h

theorem sends_execTakeoverProbe (h : Quiet z s) (src _heard) : Sends z (execTakeoverProbe src _heard s) := by
  unfold execTakeoverProbe
  grind [sends_next, quiet_update, quiet_mgmt, quiet_refuseMgmt]

theorem sends_execProbeReply (h : Quiet z s) (src heard) : Sends z (execProbeReply src heard s) := by
  unfold execProbeReply
  grind [sends_next, quiet_update, quiet_setHerd, quiet_refuseMgmt]

theorem quiet_takeReply (h : Quiet z s) (r) : Quiet z (takeReply s r) := by
  unfold takeReply
  split
  · exact h
  · have hj := quiet_setHerd h { s.herd with joinSent := false }
    grind [quiet_wr, quiet_settleStart, quiet_mgmt]

theorem sends_execJoinReply (h : Quiet z s) (r) : Sends z (execJoinReply r s) := by
  unfold execJoinReply
  grind [sends_next, quiet_update, quiet_takeReply]

theorem sends_execJoinTimeout (h : Quiet z s) : Sends z (execJoinTimeout s) := by
  unfold execJoinTimeout
  grind [sends_next, quiet_update, quiet_sendJoin]

/-! ## Power -/

theorem quiet_setPow (h : Quiet z s) (p) : Quiet z (setPow s p) := h.same rfl rfl rfl rfl

theorem quiet_keepWarm (h : Quiet z s) (l) : Quiet z (keepWarm s l) := by
  unfold keepWarm
  grind [quiet_update, quiet_setPow]

theorem quiet_guardModel (h : Quiet z s) (sl trigger) : Quiet z (guardModel s sl trigger) := by
  unfold guardModel
  grind [quiet_update, quiet_event, quiet_wr, quiet_setPow]

theorem quiet_overcurrent (h : Quiet z s) (rails) : Quiet z (overcurrent s rails) := by
  unfold overcurrent
  grind [quiet_update, quiet_fresh, quiet_event, quiet_setPow]

theorem sends_execPowerSample (h : Quiet z s) (rails sliceWatts) : Sends z (execPowerSample rails sliceWatts s) := by
  unfold execPowerSample
  extract_lets rails total a b _ c d e
  have hb : Quiet z b := quiet_wr (quiet_foldl (fun _ _ h => quiet_wr h ..) _ h) ..
  have hd : Quiet z d := quiet_foldl (fun _ _ h => quiet_ite (quiet_guardModel h ..) h) _ (quiet_setPow hb _)
  have he : Quiet z e := quiet_ite (quiet_foldl (fun _ _ h => quiet_guardModel h ..) _ (quiet_bump hd ..)) hd
  exact sends_next (quiet_ite (quiet_overcurrent he _) he)

theorem sends_execThermalSample (h : Quiet z s) (t) : Sends z (execThermalSample t s) := by
  refine sends_next (quiet_foldl (fun _ _ h => ?_) _ (quiet_foldl (fun _ _ h => quiet_keepWarm h _) _ (quiet_setPow (quiet_wr h ..) _)))
  exact quiet_ite (quiet_guardModel h ..) h

/-! ## Service -/

theorem sends_execCoreRailsPowerUp (h : Quiet z s) : Sends z (execCoreRailsPowerUp s) := by
  unfold execCoreRailsPowerUp
  grind [sends_next, quiet_update, quiet_clearLog, quiet_wr]

theorem sends_execVddAuxPowerUp (h : Quiet z s) : Sends z (execVddAuxPowerUp s) := by
  exact sends_next (h.same rfl rfl rfl rfl)

/-! ## Bundle -/

theorem sends_execAutostartTimeout (h : Quiet z s) : Sends z (execAutostartTimeout s) := by
  unfold execAutostartTimeout
  grind [sends_next, quiet_update, quiet_wr]

end

/-- Settles O59: none of the operations that these commands use writes there. -/
theorem messagesLeaveMemoryAlone : Obligations.MessagesLeaveMemoryAlone := by
  unfold Obligations.MessagesLeaveMemoryAlone
  intro c s t hc e
  suffices Sends s (exec c s) by
    obtain ⟨u, hu, h⟩ := this
    rw [hu] at e
    cases e
    exact ⟨h.mem, h.kv, h.dirs, h.arrays⟩
  have h := Quiet.refl s
  cases c with
  | timeSymbolSend => exact sends_execTimeSymbolSend h ..
  | timeSymbol => exact sends_execTimeSymbol h ..
  | htSymbolTimeout => exact sends_execHtSymbolTimeout h ..
  | htLost => exact sends_execHtLost h ..
  | htRefEdge => exact sends_execHtRefEdge h ..
  | htRefMissing => exact sends_execHtRefMissing h ..
  | stepAnnounceDue => exact sends_execStepAnnounceDue h ..
  | stepGuardPoint => exact sends_execStepGuardPoint h ..
  | stallNotice => exact sends_execStallNotice h ..
  | spanReport => exact sends_execSpanReport h ..
  | deputyState => exact sends_execDeputyState h ..
  | leadSilenceTimeout => exact sends_execLeadSilenceTimeout h ..
  | takeoverProbe src heard => exact sends_execTakeoverProbe h src heard
  | probeReply => exact sends_execProbeReply h ..
  | joinReply => exact sends_execJoinReply h ..
  | joinTimeout => exact sends_execJoinTimeout h ..
  | healthReportDue => exact sends_execHealthReportDue h ..
  | standInOrder => exact sends_execStandInOrder h ..
  | linkTrained => exact sends_execLinkTrained h ..
  | linkTrainingTimeout => exact sends_execLinkTrainingTimeout h ..
  | linkBlockSend => exact sends_execLinkBlockSend h ..
  | linkBlock => exact sends_execLinkBlock h ..
  | ccInterval => exact sends_execCcInterval h ..
  | event src entry => exact sends_execEvent h src entry
  | thermalSample => exact sends_execThermalSample h ..
  | powerSample => exact sends_execPowerSample h ..
  | cxlLinkUp => exact sends_execCxlLinkUp h ..
  | hdmDecoderProgram => exact sends_execHdmDecoderProgram h ..
  | getFwInfo => exact sends_execGetFwInfo h ..
  | getSupportedLogs => exact sends_execGetSupportedLogs h ..
  | identifyMemoryDevice => exact sends_execIdentifyMemoryDevice h ..
  | getEventRecords => exact sends_execGetEventRecords h ..
  | clearEventRecords => exact sends_execClearEventRecords h ..
  | mailboxUnsupported fn opcode => exact sends_execMailboxUnsupported h fn opcode
  | getMeasurements => exact sends_execGetMeasurements h ..
  | debugAttached => exact sends_execDebugAttached h ..
  | sessionIdleTimeout => exact sends_execSessionIdleTimeout h ..
  | ideKm => exact sends_execIdeKm h ..
  | keyExchange => exact sends_execKeyExchange h ..
  | autostartTimeout => exact sends_execAutostartTimeout h ..
  | vddAuxPowerUp => exact sends_execVddAuxPowerUp h ..
  | coreRailsPowerUp => exact sends_execCoreRailsPowerUp h ..
  | _ => cases hc

end Sys2Proof.Machine
end

section
/-! SUPPORT. A write of 0 to an enable, and the end of its stop (R50). -/

namespace Sys2Proof.Machine

section

variable {e : Enable} {s : State} (w : WReq)

/-- A write of 0 to an enable that reads 1 goes on to the tests of its dependents and its own rules. -/
theorem enableWrite_usersFail {r k : Nat} (hs : isStopping s e.key = false) (ho : on s e.key = true)
    (hu : firstFail ((e.users s).map (fun k => (some (0x06, k) : Fail))) = some (r, k)) :
    enableWrite e s w [0] = (s, .refused r (k / 256) (k % 256)) := by
  simp [enableWrite, ofBytes_singleton, hs, ho, hu, b2n]

theorem enableWrite_haltsFail {r k : Nat} (hs : isStopping s e.key = false) (ho : on s e.key = true) (hu : e.users s = [])
    (hf : firstFail (e.halts s) = some (r, k)) : enableWrite e s w [0] = (s, .refused r (k / 256) (k % 256)) := by
  have hn : firstFail [] = none := rfl
  simp [enableWrite, ofBytes_singleton, hs, ho, hu, hn, hf, b2n]

/-- One that they allow stops the subsystem, at once or later. -/
theorem enableWrite_stops (hs : isStopping s e.key = false) (ho : on s e.key = true) (hu : e.users s = [])
    (hf : firstFail (e.halts s) = none) :
    enableWrite e s w [0] = if e.stopped (e.stop (wr s e.key 0)) then (enableClosed e (e.stop (wr s e.key 0)), .done)
      else ({ e.stop (wr s e.key 0) with dq := { (e.stop (wr s e.key 0)).dq with
        stopping := (e.stop (wr s e.key 0)).dq.stopping ++ [{ key := e.key, via := w.via, txn := w.txn }] } }, .later) := by
  have hn : firstFail [] = none := rfl
  simp [enableWrite, ofBytes_singleton, hs, ho, hu, hn, hf, b2n]

theorem enableWrite_aboveOne {v : Byte} (hs : isStopping s e.key = false) (hv : 1 < v.toNat) :
    enableWrite e s w [v] = (s, .refused 0x01 (e.key / 256) (e.key % 256)) := by
  simp [enableWrite, ofBytes_singleton, hs, hv]

theorem enableWrite_stopping (v : Byte) (hs : isStopping s e.key = true) : enableWrite e s w [v] = (s, .busy) := by
  simp [enableWrite, hs]

end

/-- The end of a stop that has come. -/
theorem stopDone_stopped {e : Enable} {s : State} {p : Stop} (hp : s.dq.stopping.find? (fun q => q.key == e.key) = some p)
    (hd : e.stopped s = true) :
    stopDone e s = answer (enableClosed e { s with dq := { s.dq with stopping := s.dq.stopping.filter (fun q => q.key != e.key) } })
      p.via (respond (rowPdu { via := p.via, txn := p.txn } (e.key / 256) (e.key % 256) 0 []) 0 0 []) := by
  simp [stopDone, hp, hd]

/-- One that has not come, or of a subsystem that does not stop. -/
theorem stopDone_idle {e : Enable} {s : State} (h : e.stopped s = false ∨ ∀ q ∈ s.dq.stopping, q.key ≠ e.key) : stopDone e s = s := by
  unfold stopDone
  split
  · rfl
  · next p hp =>
    obtain h | h := h
    · simp [h]
    · exact absurd (by simpa using List.find?_some hp) (h p (List.mem_of_find?_eq_some hp))

/-- Settles O5: each case of the handler, and the end of the stop. -/
theorem enablesStopAndAnswer : Obligations.EnablesStopAndAnswer := by
  unfold Obligations.EnablesStopAndAnswer
  refine ⟨fun c e w s r k hwf hc ha hs ho hf => ?refused, fun c e w v s hwf hc hv ha hs => ?aboveOne,
    fun c e w s t hwf hc ha hs ho hu hf ht => ?stops, fun c e w v s hwf hc ha hs => ?busy,
    fun key e p s he hk hp hd => ?done, fun key e s he hk h => ?idle, fun key s he => ?none⟩
  case refused =>
    rw [(enable_run hwf hc ha).1]
    obtain hf | ⟨hu, hf⟩ := hf
    · rw [enableWrite_usersFail w hs ho hf]; rfl
    · rw [enableWrite_haltsFail w hs ho hu hf]; rfl
  case aboveOne => rw [(enable_run hwf hc ha).1, enableWrite_aboveOne w hs hv]; rfl
  case stops =>
    subst ht
    rw [(enable_run hwf hc ha).1, enableWrite_stops w hs ho hu hf]
    refine ⟨fun hd => ?_, fun hd => ?_⟩
    · simp only [hd, ↓reduceIte, enableClosed, doneTo, enablePdu]
    · simp only [hd, Bool.false_eq_true, ↓reduceIte, finish]
  case busy => rw [(enable_run hwf hc ha).1, enableWrite_stopping w v hs]; rfl
  case done =>
    subst hk
    unfold exec execEnableStopDone
    simp only [he]
    rw [stopDone_stopped hp hd]
  case idle =>
    subst hk
    unfold exec execEnableStopDone
    simp only [he]
    rw [stopDone_idle h]
  case none => simp only [exec, execEnableStopDone, he]

end Sys2Proof.Machine
end

section
/-! SUPPORT. READ, DESCRIBE and READ_BLOCK (R40, R485). -/

namespace Sys2Proof.Machine

theorem exec_describe_taken {via : Via} {p : Pdu} {s : State} (ho : p.opcode = 3) (hc : p.crcOk = true)
    (hm : malformed p = false) (ht : Taken s via p.transaction) : exec (.describe via p) s = .next (answerDescribe s via p) := by
  have hp : { p with opcode := 3 } = p := by rw [← ho]
  unfold exec execDescribe
  simp only [hp]
  rw [takePdu_taken _ ht hc hm]

theorem exec_readBlock_taken {via : Via} {p : Pdu} {s : State} (ho : p.opcode = 4) (hc : p.crcOk = true)
    (hm : malformed p = false) (ht : Taken s via p.transaction) : exec (.readBlock via p) s = .next (answerReadBlock s via p) := by
  have hp : { p with opcode := 4 } = p := by rw [← ho]
  unfold exec execReadBlock
  simp only [hp]
  rw [takePdu_taken _ ht hc hm]

section

variable {s : State} {via : Via} {p : Pdu}

/-- A request that the requester may make and that names no object of the vendor's is served. -/
theorem withRead_allowed {f : State → State} (hv : vendorRange p.index = false) (hr : mayRead s via p.index = true) :
    withRead s via p f = f s := by
  simp [withRead, hv, hr]

theorem withheld_of_running {idx sub : Nat} (hn : inRecovery s = false) : withheld s idx sub = false := by simp [withheld, hn]

/-- A request to read is answered, whatever it asks: nothing but answers changes. -/
theorem sba_withRead {f : State → State} (h : SameButAnswers s (f s)) : SameButAnswers s (withRead s via p f) := by
  unfold withRead
  split
  · exact sba_finish _ _ _ _ (by simp)
  split
  · exact sba_answer ..
  · exact h

theorem sba_answerRead : SameButAnswers s (answerRead s via p) := by
  refine sba_withRead ?_
  split
  · exact sba_answer ..
  split
  · exact sba_answer ..
  split
  · exact sba_answer ..
  · exact sba_finish _ _ _ _ (by simp)

theorem sba_answerDescribe : SameButAnswers s (answerDescribe s via p) := by
  refine sba_withRead ?_
  split
  · exact sba_answer ..
  split
  · exact sba_answer ..
  · exact sba_finish _ _ _ _ (by simp)

theorem sba_answerReadBlock : SameButAnswers s (answerReadBlock s via p) := by
  refine sba_withRead ?_
  split
  · exact sba_answer ..
  extract_lets l
  split
  · exact sba_answer ..
  · exact sba_finish _ _ _ _ (by simp)

end

/-- Settles O6: a request that is taken reaches the answer of its object or page. -/
theorem readsAreAnswered : Obligations.ReadsAreAnswered := by
  unfold Obligations.ReadsAreAnswered
  refine ⟨fun via p o s hop hc hm ht hv hr hn ho hw hp hb => ?read, fun via p o s hop hc hm ht hv hr hn ho hp => ?describe,
    fun via p s hop hc hm ht hv hr hn hpg hl => ?readBlock, fun via p c s t h he => ?frame⟩
  case read =>
    rw [exec_read_taken hop hc hm ht, answerRead, withRead_allowed hv hr]
    simp [withheld_of_running hn, ho, hw, hp, hb, finish]
  case describe =>
    rw [exec_describe_taken hop hc hm ht, answerDescribe, withRead_allowed hv hr]
    simp [withheld_of_running hn, ho, hp, finish]
  case readBlock =>
    rw [exec_readBlock_taken hop hc hm ht, answerReadBlock, withRead_allowed hv hr]
    simp [withheld_of_running hn, hpg, Nat.not_lt.mpr hl, finish]
  case frame =>
    obtain rfl | rfl | rfl := h <;> cases he
    · exact sba_take _ _ _ _ sba_answerRead
    · exact sba_take _ _ _ _ sba_answerDescribe
    · exact sba_take _ _ _ _ sba_answerReadBlock

end Sys2Proof.Machine
end

section
/-! SUPPORT. A write of an object that has no handler of its own (R34, R49). -/

namespace Sys2Proof.Machine

/-- A WRITE that is taken and allowed, of an object of one value that may be written and has the payload's size, is answered with its
handler's outcome. -/
theorem serveWrite_one {s : State} {via : Via} {p : Pdu} {o : Obj} (h : Handler) (hv : vendorRange p.index = false)
    (hw : MayWriteTo s via p.index p.subindex) (ho : findObj p.index p.subindex = some o) (hro : o.acc ≠ .ro) (hco : o.acc ≠ .const)
    (hn : p.subindex = 0 → arrayCount p.index = none) (hl : p.payload.length = o.ty.size) (hs : o.ty.size ≤ 1024) (hoff : p.offset = 0) :
    serveWrite s via p h = finish (h s { via := via, txn := p.transaction } p.payload).1 via p
      (h s { via := via, txn := p.transaction } p.payload).2 := by
  have harr : (p.subindex == 0 && (arrayCount p.index).isSome) = false := by
    by_cases h0 : p.subindex = 0 <;> simp [h0, hn]
  have hacc : (o.acc == .ro || o.acc == .const) = false := by simp [hro, hco]
  have hbig (n) (e : o.ty = .octets n) : ¬ 1024 < n := by rw [e] at hs; exact Nat.not_lt.mpr hs
  simp [serveWrite, hv, hw.1, hw.2.2, mayWriteTo_served hw, ho, harr, hacc, hl, hoff]
  intro hb
  split at hb
  · next n e => exact absurd (of_decide_eq_true hb) (hbig n e)
  · cases hb

section

variable {idx sub : Nat} {o : Obj} {l : List Byte} {s : State} (w : WReq)

theorem hPlain_stored (ho : lookupObj idx sub = some o) (hf : plainFail s o idx [(keyOf idx sub, ofBytes l)] = none)
    (hc : runChecks (storeOne s o (keyOf idx sub) (ofBytes l)) [keyOf idx sub] = none) :
    hPlain idx sub s w l = (afterWrite (storeOne s o (keyOf idx sub) (ofBytes l)) (keyOf idx sub), .done) := by
  simp [hPlain, ho, storeAll, hf, hc]

theorem hPlain_valueRefused {r k : Nat} (ho : lookupObj idx sub = some o)
    (hf : plainFail s o idx [(keyOf idx sub, ofBytes l)] = some (r, k)) :
    hPlain idx sub s w l = (s, .refused r (k / 256) (k % 256)) := by
  simp [hPlain, ho, storeAll, hf]

theorem hPlain_checkRefused {r k : Nat} (ho : lookupObj idx sub = some o)
    (hf : plainFail s o idx [(keyOf idx sub, ofBytes l)] = none)
    (hc : runChecks (storeOne s o (keyOf idx sub) (ofBytes l)) [keyOf idx sub] = some (r, k)) :
    hPlain idx sub s w l = (s, .refused r (k / 256) (k % 256)) := by
  simp [hPlain, ho, storeAll, hf, hc]

end

/-- Settling the buckets of policing writes the node's buckets and nothing else. -/
theorem settleBuckets_buckets (s : State) : ∃ b, settleBuckets s = { s with net := { s.net with buckets := b } } := by
  have inner (q : Nat) (l : List Nat) (b) : ∃ b', l.foldl (fun u l => setBucket u l q
      (min (bucketNow u l q) (rd u (K.policeBurstKib (q / 8) (q % 8)) * 1024 * 3300))) { s with net := { s.net with buckets := b } }
      = { s with net := { s.net with buckets := b' } } := by
    induction l generalizing b with
    | nil => exact ⟨b, rfl⟩
    | cons x l ih => exact ih _
  have outer (qs : List Nat) (b) : ∃ b', qs.foldl (fun t q => (upFrom 0 36).foldl (fun u l => setBucket u l q
      (min (bucketNow u l q) (rd u (K.policeBurstKib (q / 8) (q % 8)) * 1024 * 3300))) t) { s with net := { s.net with buckets := b } }
      = { s with net := { s.net with buckets := b' } } := by
    induction qs generalizing b with
    | nil => exact ⟨b, rfl⟩
    | cons q qs ih =>
      obtain ⟨b', hb⟩ := inner q (upFrom 0 36) b
      rw [List.foldl_cons, hb]
      exact ih b'
  exact outer _ s.net.buckets

section

variable (o : Obj) (k v : Nat) (s : State)

theorem storeOne_plain (hk : isPolice k = false) (h : o.stepBound = false ∨ runsSteps s = false) : storeOne s o k v = wr s k v := by
  obtain h | h := h <;> simp [storeOne, store, hk, h]

/-- A step-bound object on a node that runs steps: its new value reads, and the one that governed goes on governing. -/
theorem storeOne_stepBound (ho : o.stepBound = true) (hr : runsSteps s = true) :
    storeOne s o k v = { wr s k v with dq := (storeOne s o k v).dq } ∧ rd (storeOne s o k v) k = v ∧ gv (storeOne s o k v) k = gv s k := by
  have hs : storeOne s o k v = store s o k v := by simp [storeOne, hr]
  cases hg : tget? s.dq.gov k with
  | none =>
    have hst : store s o k v = { wr s k v with dq := { s.dq with gov := tset s.dq.gov k (rd s k) } } := by simp [store, ho, hr, hg]
    rw [hs, hst]
    exact ⟨rfl, rd_wr_same s k v, by simp [gv, hg]⟩
  | some x =>
    have hst : store s o k v = wr s k v := by simp [store, hg]
    rw [hs, hst]
    exact ⟨rfl, rd_wr_same s k v, by simp [gv, hg]⟩

theorem storeOne_police (hk : isPolice k = true) (hr : runsSteps s = false) :
    ∃ t, storeOne s o k v = t ∧ (∀ x, rd t x = if x = k then v else rd s x) ∧ t.mem = s.mem ∧ t.kv = s.kv ∧ t.att = s.att := by
  obtain ⟨b, hb⟩ := settleBuckets_buckets { wr s k v with dq := { s.dq with gov := tset s.dq.gov k (rd s k) } }
  have hs : storeOne s o k v = { wr s k v with
      dq := { s.dq with gov := terase (tset s.dq.gov k (rd s k)) k }, net := { s.net with buckets := b } } := by
    rw [storeOne, if_pos (by simp [hk, hr])]
    dsimp only at hb ⊢
    rw [wr_dq, hb]
    rfl
  refine ⟨_, rfl, fun x => ?_, ?_⟩
  · rw [hs]
    exact rd_wr s k v x
  · rw [hs]
    exact ⟨rfl, rfl, rfl⟩

end

/-- Settles O8: the front end hands the write to its handler, and the plain handler stores a value that its checks pass. -/
theorem plainWriteStoresItsValue : Obligations.PlainWriteStoresItsValue := by
  unfold Obligations.PlainWriteStoresItsValue
  refine ⟨fun via p o s t r hop hc hm ht hw hi ho hro hco hn hl hs hoff hh => ?_, fun idx sub o l w s => hPlain_stored w,
    fun idx sub r k o l w s => hPlain_valueRefused w, fun idx sub r k o l w s => hPlain_checkRefused w,
    storeOne_plain, storeOne_stepBound, storeOne_police, fun k s hr he hg => by simp [afterWrite, hr, he, hg]⟩
  rw [exec_write_taken hop hc hm ht, serveWrite_one _ (vendorRange_eq_false hi) hw ho hro hco hn hl hs hoff, hh]

end Sys2Proof.Machine
end

section
/-! SUPPORT. Time symbols: what a symbol of the upstream link does to Herd Time (R61 to R64). -/

namespace Sys2Proof.Machine

/-- Whether a node takes Herd Time from its links depends on the dictionary only. -/
theorem followsLinks_congr {s t : State} (h : t.dict = s.dict) : followsLinks t = followsLinks s := by
  simp only [followsLinks, on, isLead, rd_congr h]

/-- The delay of a link is no object that decides whom the node follows. -/
theorem followsLinks_wr_delay (s : State) (link v : Nat) (tm : TimeSt) :
    followsLinks { wr s (K.oneWayDelayPs link) v with tm := tm } = followsLinks s := by
  rw [followsLinks_congr (s := wr s (K.oneWayDelayPs link) v) (t := { wr s (K.oneWayDelayPs link) v with tm := tm }) rfl]
  have he : K.herdEnable ≠ K.oneWayDelayPs link := by simp only [K.herdEnable, K.oneWayDelayPs]; omega
  have hr : K.herdRole ≠ K.oneWayDelayPs link := by simp only [K.herdRole, K.oneWayDelayPs]; omega
  have hm : K.membershipState ≠ K.oneWayDelayPs link := by simp only [K.membershipState, K.oneWayDelayPs]; omega
  simp only [followsLinks, on, isLead, rd_wr_other _ _ he, rd_wr_other _ _ hr, rd_wr_other _ _ hm]

/-- A symbol that is discarded. -/
theorem exec_timeSymbol_discarded {s : State} {link block : Nat}
    (h : blockOk 0x01 block = false ∨ rd s (K.linkState link) ≠ 2 ∨ 36 ≤ link) : exec (.timeSymbol link block) s = .next s := by
  have hc : (!blockOk 0x01 block || rd s (K.linkState link) != 2 || decide (36 ≤ link)) = true := by
    obtain h | h | h := h <;> simp [h]
  unfold exec execTimeSymbol
  simp only [hc, ↓reduceIte]

section

variable {s : State} {link block d : Nat} {b : TimeBlock} (hb : blockOk 0x01 block = true) (hb' : b = timeBlockFrom block)
  (hl : link < 36) (hu : rd s (K.linkState link) = 2)
include hb hb' hl hu

/-- One that is not sets the link's delay and its hop count, and no more where its sender has no Herd Time or the node does not follow. -/
theorem exec_timeSymbol_noted (h : b.hops = 0xFF ∨ followsLinks s = false) :
    exec (.timeSymbol link block) s = .next { wr s (K.oneWayDelayPs link) (oneWayPs s link b.turnaroundPs % 2 ^ 32) with
      tm := { s.tm with linkRx := tset s.tm.linkRx link s.tm.ec, linkHops := tset s.tm.linkHops link b.hops } } := by
  subst hb'
  have hc : (!blockOk 0x01 block || rd s (K.linkState link) != 2 || decide (36 ≤ link)) = false := by
    simp [hb, hu, hl]
  unfold exec execTimeSymbol
  simp only [hc, Bool.false_eq_true, ↓reduceIte]
  rw [if_pos]
  · rfl
  obtain h | h := h
  · simp [h]
  · rw [followsLinks_wr_delay, h]
    simp

/-- With Herd Time and on a node that follows, the upstream link is chosen, and steers Herd Time where it is this one. -/
theorem exec_timeSymbol_follows {h l : Nat} {t : State} (hd : d = oneWayPs s link b.turnaroundPs)
    (ht : t = { wr s (K.oneWayDelayPs link) (d % 2 ^ 32) with tm := { s.tm with
      linkRx := tset s.tm.linkRx link s.tm.ec, linkHops := tset s.tm.linkHops link b.hops, symAt := s.tm.ec } })
    (hh : b.hops ≠ 0xFF) (hf : followsLinks s = true) (hup : upstreamOf t = some (h, l)) :
    exec (.timeSymbol link block) s = if l = link
      then .next (joinWhenLocked (followSymbol (wr (wr t K.htHops (h + 1)) K.htUpstreamLink l) (b.ht + d / 1000)))
      else .next (wr (wr t K.htHops (h + 1)) K.htUpstreamLink l) := by
  subst hb' hd ht
  have hc : (!blockOk 0x01 block || rd s (K.linkState link) != 2 || decide (36 ≤ link)) = false := by
    simp [hb, hu, hl]
  unfold exec execTimeSymbol
  simp only [hc, Bool.false_eq_true, ↓reduceIte]
  rw [if_neg]
  · simp only [wr_tm] at hup ⊢
    rw [hup]
    simp only [beq_iff_eq]
  · rw [followsLinks_wr_delay, hf]
    simp [hh]

end

/-! ## Steering -/

section

variable {s : State} {v : Nat}

theorem followSymbol_first (hh : s.tm.held = false) :
    (followSymbol s v).tm.held = true ∧ (followSymbol s v).tm.ht = v * 33 ∧ rd (followSymbol s v) K.htState = 1 := by
  simp [followSymbol, hh]

variable (hh : s.tm.held = true)
include hh

/-- In ACQUIRING a symbol counts towards lock where it is within 20 ns, and else the run starts again. -/
theorem followSymbol_acquiring (h1 : rd s K.htState = 1) : followSymbol s v =
    if within20 ((v : Int) - htNs s) then
      if 64 ≤ s.tm.lockRun + 1 then skipMissed (wr (setLockRun s 0) K.htState 2) else setLockRun s (s.tm.lockRun + 1)
    else setLockRun (correctTime s ((v : Int) - htNs s)) 0 := by
  simp [followSymbol, hh, h1]

theorem followSymbol_locked (h2 : rd s K.htState = 2) : followSymbol s v =
    if within20 ((v : Int) - htNs s) then slewTime s ((v : Int) - htNs s)
    else wr (setLockRun (correctTime s ((v : Int) - htNs s)) 0) K.htState 1 := by
  simp [followSymbol, hh, h2]

theorem followSymbol_holdover (h3 : rd s K.htState = 3) : followSymbol s v =
    if within20 ((v : Int) - htNs s) then wr s K.htState 2
    else wr (setLockRun (correctTime s ((v : Int) - htNs s)) 0) K.htState 1 := by
  simp [followSymbol, hh, h3]

end

theorem rd_correctTime (s : State) (off : Int) (k : Nat) : rd (correctTime s off) k = rd s k := by
  unfold correctTime; split <;> rfl

theorem rd_slewTime (s : State) (off : Int) (k : Nat) : rd (slewTime s off) k = rd s k := by
  unfold slewTime; split <;> rfl

/-- An offset outside 20 ns, in each of the three states, corrects Herd Time. -/
theorem followSymbol_corrects {s : State} {v : Nat} (hh : s.tm.held = true) (h1 : 1 ≤ rd s K.htState) (h3 : rd s K.htState ≤ 3)
    (hw : within20 ((v : Int) - htNs s) = false) :
    (followSymbol s v).tm = { (correctTime s ((v : Int) - htNs s)).tm with lockRun := 0 } := by
  obtain h | h | h : rd s K.htState = 1 ∨ rd s K.htState = 2 ∨ rd s K.htState = 3 := by omega
  · rw [followSymbol_acquiring hh h, hw]; rfl
  · rw [followSymbol_locked hh h, hw]; rfl
  · rw [followSymbol_holdover hh h, hw]; rfl

theorem within20_eq_false {off : Int} : within20 off = false ↔ off < -20 ∨ 20 < off := by
  simp [within20]; omega

/-- Settles O13: a symbol's tests, the state it is met in, and whether it is within 20 ns. -/
theorem symbolsSetAndSteerHerdTime : Obligations.SymbolsSetAndSteerHerdTime := by
  unfold Obligations.SymbolsSetAndSteerHerdTime
  refine ⟨fun link block d h l b s t hb hb' hl hu hd ht hh hf hup => ?_,
    fun link block b s hb hb' hl hu h => exec_timeSymbol_noted hb hb' hl hu h,
    fun link block s h => exec_timeSymbol_discarded h, fun s v hh => followSymbol_first hh,
    fun s v hh => ⟨fun h hw hr => ?runs, fun h hw hr => ?locks, fun h hw => ?restarts, fun h hw => ?slews, fun h hw => ?falls,
      fun h hw => ?returns, fun h1 h3 hv => ?forward, fun h1 h3 hv => ?backward⟩⟩
  · rw [exec_timeSymbol_follows hb hb' hl hu hd ht hh hf hup]
    exact ⟨fun h => if_pos h, fun h => if_neg h⟩
  case runs =>
    rw [followSymbol_acquiring hh h, if_pos hw, if_neg (by omega)]
    exact ⟨h, rfl⟩
  case locks =>
    rw [followSymbol_acquiring hh h, if_pos hw, if_pos (by omega)]
    exact rd_wr_same ..
  case restarts =>
    rw [followSymbol_acquiring hh h, hw]
    exact ⟨(rd_correctTime ..).trans h, rfl⟩
  case slews =>
    rw [followSymbol_locked hh h, if_pos hw]
    refine ⟨(rd_slewTime ..).trans h, ?_, fun hv => ?_, fun hv => ?_⟩
    · unfold slewTime; split <;> rfl
    · rw [slewTime, if_pos (by omega)]
      simp only
      omega
    · rw [slewTime, if_neg (by omega)]
      simp only
      omega
  case falls =>
    obtain h | h := h
    · rw [followSymbol_locked hh h, hw]; exact rd_wr_same ..
    · rw [followSymbol_holdover hh h, hw]; exact rd_wr_same ..
  case returns => rw [followSymbol_holdover hh h, if_pos hw]; exact rd_wr_same ..
  case forward =>
    rw [followSymbol_corrects hh h1 h3 (within20_eq_false.mpr (by omega)), correctTime, if_pos (by omega)]
    simp only
    omega
  case backward =>
    rw [followSymbol_corrects hh h1 h3 (within20_eq_false.mpr (by omega)), correctTime, if_neg (by omega)]
    refine ⟨rfl, ?_⟩
    simp only
    omega

end Sys2Proof.Machine
end

section
/-! SUPPORT. Steps: their announcement by the Lead, their beginning, and the end of an epoch's window (R69, R70, R322, R375). -/

namespace Sys2Proof.Machine

section

variable {s : State}

/-- What the Lead announces. -/
theorem announce_spec (s : State) (step start : Nat) : ∃ a, (announce s step start).tm.next = some a ∧ a.step = step ∧ a.start = start ∧
    a.leadTerm = rd s K.leadTerm ∧ (announce s step start).herd.lastAnn = step ∧ (announce s step start).herd.lastAnnStart = start ∧
    (announce s step start).herd.stalls = 0 ∧ (announce s step start).outbox =
      s.outbox ++ [{ dst := 0xFFFF, vl := 8, key := 0, off := 0, body := .stepAnnounce a, fwd := none }] :=
  ⟨_, rfl, rfl, rfl, rfl, rfl, rfl, rfl, rfl⟩

/-- The next step is announced one length after the last one, or 2,000 ns ahead where that has passed or there was none. -/
theorem announceNext_eq (s : State) : announceNext s = announce s (s.herd.lastAnn + 1)
    (if s.herd.lastAnn ≠ 0 ∧ now s ≤ s.herd.lastAnnStart + stepLen s then s.herd.lastAnnStart + stepLen s else now s + 2000) := by
  unfold announceNext
  by_cases h : s.herd.lastAnn = 0
  · simp [h]
  · simp [h]

/-- An announcement is due at once where none was made, and else 2,000 ns before the next step. -/
theorem exec_stepAnnounceDue_due (hl : isLead s = true) (hh : s.tm.held = true) (hn : s.tm.next = none)
    (hd : s.herd.lastAnn = 0 ∨ (rd s K.currentStep = s.herd.lastAnn ∧ s.herd.lastAnnStart + stepLen s ≤ now s + 2000)) :
    exec .stepAnnounceDue s = .next (announceNext s) := by
  have hd' : (if s.herd.lastAnn = 0 then true
      else rd s K.currentStep == s.herd.lastAnn && decide (s.herd.lastAnnStart + stepLen s ≤ now s + 2000)) = true := by
    obtain h | ⟨h, g⟩ := hd
    · simp [h]
    · simp [h, g]
  unfold exec execStepAnnounceDue
  simp only [hl, hh, hn, hd', Option.isNone_none, Bool.and_true, ↓reduceIte]

theorem exec_stepAnnounceDue_idle (h : isLead s = false ∨ s.tm.held = false ∨ s.tm.next ≠ none ∨
    (s.herd.lastAnn ≠ 0 ∧ (rd s K.currentStep ≠ s.herd.lastAnn ∨ now s + 2000 < s.herd.lastAnnStart + stepLen s))) :
    exec .stepAnnounceDue s = .next s := by
  unfold exec execStepAnnounceDue
  rw [if_neg]
  obtain h | h | h | ⟨h0, h | h⟩ := h
  · simp [h]
  · simp [h]
  · simp [h]
  · simp [h0, h]
  · simp [h0, Nat.not_le.mpr h]

/-- A step is due once the node's own Herd Time has reached its start. -/
theorem dueStep_eq_some {a : Announce} (h : dueStep s = some a) : a.start ≤ now s ∧ s.tm.next = some a := by
  unfold dueStep at h
  split at h
  · next b hb =>
    split at h
    · next hc =>
      cases h
      simp only [Bool.and_eq_true, decide_eq_true_eq] at hc
      exact ⟨hc.2, hb⟩
    · cases h
  · cases h

/-- The first copy of a broadcast is noted as heard, and nothing else. -/
theorem castNew_eq_some {src id : Nat} {u : State} (h : castNew s src id = some u) :
    ∃ b, u = { s with herd := { s.herd with bseen := b } } := by
  unfold castNew at h
  split at h
  · cases h; exact ⟨_, rfl⟩
  split at h
  · cases h; exact ⟨_, rfl⟩
  split at h
  · cases h
  · cases h; exact ⟨_, rfl⟩

/-- A first copy is passed on before it is heard. -/
theorem exec_stepAnnounce_first {link src msgId hops unit : Nat} {a : Announce} {u v : State} (hc : castNew s src msgId = some u)
    (hv : v = { u with outbox := u.outbox ++
      [{ dst := 0xFFFF, vl := 8, key := 0, off := 0, body := .stepAnnounce a, fwd := some (src, msgId, hops, link) }] }) :
    exec (.stepAnnounce link src msgId hops unit a) s = .next (hearAnnounce v src unit a) := by
  subst hv
  unfold exec execStepAnnounce
  simp only [takeCast, hc]

theorem exec_stepAnnounce_copy {link src msgId hops unit : Nat} {a : Announce} (hc : castNew s src msgId = none) :
    exec (.stepAnnounce link src msgId hops unit a) s = .next s := by
  unfold exec execStepAnnounce
  simp only [takeCast, hc]

end

/-- A state that passes a broadcast on has the dictionary and the map of the one that took it. -/
theorem heard_dict_map {s u v : State} {src msgId : Nat} {l : List Post} (hc : castNew s src msgId = some u)
    (hv : v = { u with outbox := l }) : v.dict = s.dict ∧ v.herd.map = s.herd.map := by
  obtain ⟨b, rfl⟩ := castNew_eq_some hc
  subst hv
  exact ⟨rfl, rfl⟩

theorem yieldLead_detached (s : State) : rd (yieldLead s) K.membershipState = 0 ∧ rd (yieldLead s) K.nodeNumber = 0xFFFF := by
  unfold yieldLead settleStart
  split <;> simp [K.membershipState, K.nodeNumber, K.nodeStartState]

/-- Settles O15: the tests of an announcement that is due, of a step that is due, and of one that is heard. -/
theorem stepsAreAnnouncedAndBegun : Obligations.StepsAreAnnouncedAndBegun := by
  unfold Obligations.StepsAreAnnouncedAndBegun
  refine ⟨fun s hl hh hn hd => ?announced, fun s h => exec_stepAnnounceDue_idle h, fun s a ha => ?begun, fun s hn => ?notBegun,
    fun link src msgId hops unit a s u v hc hv => ?heard, fun link src msgId hops unit a s hc => exec_stepAnnounce_copy hc,
    yieldLead_detached, fun s => ⟨fun h g => ?ends, fun h => ?goesOn⟩⟩
  case announced =>
    obtain ⟨a, ha⟩ := announce_spec s (s.herd.lastAnn + 1)
      (if s.herd.lastAnn ≠ 0 ∧ now s ≤ s.herd.lastAnnStart + stepLen s then s.herd.lastAnnStart + stepLen s else now s + 2000)
    obtain ⟨hx, hs, ht, hm, hla, hls, hst, ho⟩ := ha
    refine ⟨_, a, by rw [exec_stepAnnounceDue_due hl hh hn hd, announceNext_eq], hx, hs, ht, hm, hla.trans hs.symm, hls.trans ht.symm,
      hst, ho⟩
  case begun =>
    refine ⟨?_, dueStep_eq_some ha⟩
    unfold exec execStepStart
    simp only [beginDue, ha]
  case notBegun => simp only [exec, execStepStart, beginDue, hn]
  case heard =>
    obtain ⟨hdict, hmap⟩ := heard_dict_map hc hv
    have hlead : isLead v = isLead s := by simp only [isLead, rd_congr hdict]
    have hnode : leadNode v = leadNode s := by simp only [leadNode, hmap]
    rw [exec_stepAnnounce_first hc hv]
    simp only [hearAnnounce, hlead, hnode, rd_congr hdict]
    refine ⟨fun h => by simp [h], fun h hm => ⟨fun ht => ?_, fun ht => ?_⟩, fun h hm => ⟨fun ht => ?_, fun ht => ?_, fun ht hu => ?_⟩⟩
    · simp [h, hm, Nat.not_lt.mpr ht]
    · simp [h, hm, ht]
    · simp [h, hm, ht]
    · obtain ht | ⟨ht, hu⟩ := ht
      · simp [h, hm, ht, Nat.lt_asymm ht]
      · simp [h, hm, ht, Nat.not_lt.mpr hu]
    · simp [h, hm, ht, hu]
  case ends => simp [exec, execEpochDrainEnd, h, g]
  case goesOn =>
    unfold exec execEpochDrainEnd
    rw [if_neg]
    obtain h | h := h
    · simp [h]
    · simp [Nat.not_le.mpr h]

end Sys2Proof.Machine
end

section
/-! SUPPORT. The guard point of a step, and what members tell the Lead of it (R70, R71). -/

namespace Sys2Proof.Machine

section

variable {s : State}

/-- The guard point of a step that has come, for the first time. -/
theorem exec_stepGuardPoint_come (hc : rd s K.currentStep ≠ 0) (hg : s.tm.guardDone = false)
    (hp : refLength s - gv s K.stepGuardNs ≤ phaseNow s) : exec .stepGuardPoint s =
      if s.sch.running.all (fun sl => has s.sch.commitDone sl) then .next { s with tm := { s.tm with guardDone := true } }
      else if isLead s then
        .next { s with tm := { s.tm with guardDone := true }, herd := { s.herd with stalls := s.herd.stalls + 1 } }
      else .next (mgmt { s with tm := { s.tm with guardDone := true } } (leadNode s) (.stall (rd s K.currentStep))) := by
  unfold exec execStepGuardPoint
  rw [if_pos (by simp [hc, hg, hp])]
  rfl

theorem exec_stepGuardPoint_done (hg : s.tm.guardDone = true) : exec .stepGuardPoint s = .next s := by
  unfold exec execStepGuardPoint
  simp [hg]

/-- A notice and a span are taken by the Lead. -/
theorem exec_stallNotice_counted {src step : Nat} (hl : isLead s = true) (hm : (mapEntry? s.herd.map src).isSome = true)
    (hs : step = s.herd.lastAnn) :
    exec (.stallNotice src step) s = .next { s with herd := { s.herd with stalls := s.herd.stalls + 1 } } := by
  have hn : (mapEntry? s.herd.map src).isNone = false := by simpa [Option.isNone_eq_false_iff] using hm
  unfold exec execStallNotice
  simp [hl, hn, hs, setHerd]

theorem exec_stallNotice_notLead {src step : Nat} (hl : isLead s = false) : exec (.stallNotice src step) s = .next (refuseMgmt s) := by
  unfold exec execStallNotice
  simp [hl]

theorem exec_spanReport_kept {src span : Nat} (hl : isLead s = true) :
    exec (.spanReport src span) s = .next { s with herd := { s.herd with spans := tset s.herd.spans src span } } := by
  unfold exec execSpanReport
  simp [hl, setHerd]

theorem exec_spanReport_notLead {src span : Nat} (hl : isLead s = false) : exec (.spanReport src span) s = .next (refuseMgmt s) := by
  unfold exec execSpanReport
  simp [hl]

end

/-- Settles O16: whether the COMMITs are done and whether the node is the Lead. -/
theorem guardPointTellsTheLead : Obligations.GuardPointTellsTheLead := by
  unfold Obligations.GuardPointTellsTheLead
  refine ⟨fun s hc hg hp ha => ⟨fun hl => ?_, fun hl => ?_⟩, fun s hc hg hp ha => ?_, fun s => exec_stepGuardPoint_done,
    fun src step s => exec_stallNotice_counted, fun src step s => exec_stallNotice_notLead, fun src span s => exec_spanReport_kept,
    fun src span s => exec_spanReport_notLead⟩ <;> rw [exec_stepGuardPoint_come hc hg hp]
  · simp [ha, hl]
  · simp [ha, hl]
  · simp [ha]

end Sys2Proof.Machine
end

section
/-! SUPPORT. Due occurrences of schedule entries (R72 to R76), and deadlines (R77, R80, R225, R227). -/

namespace Sys2Proof.Machine

/-! ## Occurrences that are due -/

section

variable {slice entry e : Nat} {s : State}

theorem exec_admitOpen_due (h : dueEntry s slice entry 2 = some e) : exec (.admitOpen slice entry) s =
    .next (releaseHeld { takeOccurrence s slice entry e with sch := { (takeOccurrence s slice entry e).sch with
      gates := tset (takeOccurrence s slice entry e).sch.gates (slice * 8 + enClass e) true } }) := by
  unfold exec execAdmitOpen
  simp only [h]

theorem exec_admitClose_due (h : dueEntry s slice entry 3 = some e) : exec (.admitClose slice entry) s =
    .next { takeOccurrence s slice entry e with sch := { (takeOccurrence s slice entry e).sch with
      gates := tset (takeOccurrence s slice entry e).sch.gates (slice * 8 + enClass e) false } } := by
  unfold exec execAdmitClose
  simp only [h]

theorem rd_takeOccurrence {k : Nat} (hk : k ≠ K.sweepOverrunCount slice) : rd (takeOccurrence s slice entry e) k = rd s k := by
  simp only [takeOccurrence, rd_bump, hk, ↓reduceIte]
  rfl

/-- Taking an occurrence changes nothing that decides whether an area may be swept. -/
theorem sweepAreaOk_takeOccurrence (a : Nat) : sweepAreaOk (takeOccurrence s slice entry e) slice a = sweepAreaOk s slice a := by
  have he : K.slotAreaEnable a ≠ K.sweepOverrunCount slice := by simp only [K.slotAreaEnable, K.sweepOverrunCount]; omega
  have hs : K.areaSlice a ≠ K.sweepOverrunCount slice := by simp only [K.areaSlice, K.sweepOverrunCount]; omega
  simp only [sweepAreaOk, on, rd_takeOccurrence he, rd_takeOccurrence hs]

theorem exec_sweep_due (h : dueEntry s slice entry 1 = some e) : exec (.sweep slice entry) s =
    if sweepAreaOk s slice (enParam e) then .next (sweepArea (takeOccurrence s slice entry e) slice (enParam e) (enClass e))
    else .next (takeOccurrence s slice entry e) := by
  unfold exec execSweep
  simp only [h, sweepAreaOk_takeOccurrence]

end

/-- Settles O17: each row runs the action of its entry. -/
theorem dueOccurrencesRun : Obligations.DueOccurrencesRun := by
  unfold Obligations.DueOccurrencesRun
  refine ⟨fun slice entry e s t h ht => ?admitOpen, fun slice entry e s t h ht => ?admitClose,
    fun slice entry e s h => ⟨fun ha => ?sweeps, fun ha => ?sweepsNot⟩, fun slice entry e s t h ht => ?mergeClose,
    fun slice entry e failed stack s t u v h ht hu hv => ?maintOpen, fun slice entry e s t h ht => ?maintClose,
    fun slice entry eq st s h => ?notDue⟩
  case admitOpen => rw [exec_admitOpen_due h, ht]
  case admitClose => rw [exec_admitClose_due h, ht]
  case sweeps => rw [exec_sweep_due h, if_pos ha]
  case sweepsNot => rw [exec_sweep_due h, ha]; rfl
  case mergeClose =>
    subst ht
    unfold exec execMergeClose
    simp only [h, Bool.and_eq_true, beq_iff_eq, Bool.not_eq_true', Option.isNone_iff_eq_none, and_assoc]
  case maintOpen =>
    subst ht hu hv
    unfold exec execMaintOpen
    simp only [h]
  case maintClose =>
    subst ht
    unfold exec execMaintClose
    simp only [h] <;> rfl
  case notDue =>
    refine ⟨?_, ?_, ?_, ?_, ?_, ?_, ?_⟩
    · unfold exec execSweep
      simp only [h]
    · unfold exec execAdmitOpen
      simp only [h]
    · unfold exec execAdmitClose
      simp only [h]
    · unfold exec execCommit
      simp only [h]
    · unfold exec execMergeClose
      simp only [h]
    · unfold exec execMaintOpen
      simp only [h]
    · unfold exec execMaintClose
      simp only [h]

/-! ## Deadlines -/

section

variable {s : State} {id slice : Nat}

/-- A comparator fires for a deadline on the list, after the comparator cycle of its time. -/
theorem deadlineFires_eq_some (h : deadlineFires s id = some slice) :
    ∃ d, (slice, d, id) ∈ s.att.dls ∧ cycleOf (d * 33) < cycleOf s.tm.ht := by
  unfold deadlineFires at h
  split at h
  · cases h
  next x hx =>
  extract_lets n fired mine at h
  split at h
  · next hc =>
    cases h
    simp only [Bool.and_eq_true, decide_eq_true_eq] at hc
    have hid : x.2.2 = id := by simpa using List.find?_some hx
    refine ⟨x.2.1, ?_, hc.1.1⟩
    rw [← hid]
    exact List.mem_of_find?_eq_some hx
  · cases h

/-- A deadline that has fired is off the list. -/
theorem takeFire_dls : ∀ x ∈ (takeFire s slice id).att.dls, x.2.2 ≠ id := by
  intro x hx
  simpa using (List.mem_filter.mp hx).2

end

/-- Settles O22: whether a context has the deadline, and whether a comparator fires. -/
theorem deadlinesFireOnce : Obligations.DeadlinesFireOnce := by
  unfold Obligations.DeadlinesFireOnce
  refine ⟨fun id slice s hc hf => ?_, fun id slice c s hc hf => ?_, fun id s hf => ⟨?_, ?_⟩,
    fun id slice s => deadlineFires_eq_some, fun id slice s => takeFire_dls⟩
  · unfold exec execDeadlineFire
    simp [hc, hf]
  · unfold exec execMergeDeadline
    simp [hc, hf]
  · unfold exec execDeadlineFire
    simp [hf]
  · unfold exec execMergeDeadline
    simp [hf]

end Sys2Proof.Machine
end

section
/-! SUPPORT. Bursts and refreshes of the scoring stacks (R170 to R173). -/

namespace Sys2Proof.Machine

/-! ## A stack after it has been set -/

theorem nth_setNth {α : Type} (l : List α) (n : Nat) (v d : α) (h : n < l.length) : nth (setNth l n v) n d = v := by
  induction l generalizing n with
  | nil => cases h
  | cons a l ih =>
    cases n with
    | zero => rfl
    | succ n => exact ih n (Nat.lt_of_succ_lt_succ h)

/-- A stack reads as it was set. -/
theorem stackSt_putStack {s : State} {sl : Nat} (t : StackSt) (h : sl < s.arrays.length) : stackSt (putStack s sl t) sl = t :=
  nth_setNth _ _ _ _ h

theorem tget?_foldl_tset {α : Type} (l : List Nat) (d : Tbl α) (v : α) (k : Nat) :
    tget? (l.foldl (fun d b => tset d b v) d) k = if k ∈ l then some v else tget? d k := by
  induction l generalizing d with
  | nil => simp
  | cons b l ih =>
    rw [List.foldl_cons, ih, tget?_tset]
    by_cases hk : k ∈ l <;> simp [hk]

theorem mem_tkeys_of_tget? {α : Type} {d : Tbl α} {k : Nat} {v : α} (h : tget? d k = some v) : k ∈ tkeys d := by
  induction d with
  | nil => cases h
  | cons p d ih =>
    obtain ⟨a, w⟩ := p
    simp only [tget?] at h
    split at h
    · next e => simp [tkeys, e]
    · exact List.mem_cons_of_mem _ (ih h)

/-! ## BURST_START and BURST_END -/

section

variable {slice : Nat} {s u : State} {x : Share} {c : Ctx}

/-- What a start of a burst needs besides its halves: the array in use, no burst, a plan, and the share that streams. -/
structure Planned (slice : Nat) (u : State) (x : Share) (c : Ctx) : Prop where
  idle : (stackSt u slice).burst = none
  plan : (stackSt u slice).planned ≠ []
  array : arrayOn u slice = true
  share : (sliceShares u slice).find? (fun z => z.stage == .stream) = some x
  ctx : ctxOf u x.ctx = some c

/-- Nothing stands against its start but its halves. -/
theorem Planned.ready (h : Planned slice u x c) :
    ((stackSt u slice).burst.isSome || (stackSt u slice).planned.isEmpty || !arrayOn u slice) = false := by
  simp [h.idle, h.plan, h.array]

theorem exec_burstStart_unfit {y : Share} (hu : u = serveStack slice s) (h : Planned slice u x c)
    (hf : fitsBurst u (cRows c) (copyOf x ((stackSt u slice).planned.headD 0)) = false)
    (hy : y = { x with inStack := without x.inStack ((stackSt u slice).planned.headD 0) }) :
    exec (.burstStart slice) s = .next (putShare (putStack u slice
      (endSequence { stackSt u slice with planned := (stackSt u slice).planned.drop 1 } y (cRows c))) y) := by
  subst hu hy
  unfold exec execBurstStart
  simp only [h.ready, h.share, h.ctx, hf, Bool.false_eq_true, Bool.not_false, ↓reduceIte]

theorem exec_burstStart_fit {v : State} {run : List Nat} {ns : Nat} (hu : u = serveStack slice s) (h : Planned slice u x c)
    (hf : fitsBurst u (cRows c) (copyOf x ((stackSt u slice).planned.headD 0)) = true) (hv : v = loadContexts u slice)
    (hl : ctxLoaded (stackSt v slice) x = true) (hr : run = burstRun v (stackSt v slice) x (cRows c) (stackSt v slice).planned 0)
    (hne : run ≠ []) (hns : ns = ceilDiv (clocksOf x (cRows c) run * 5) 8) :
    exec (.burstStart slice) s = .next (if hasGrant v (stackHolder (scoringStack slice)) ns then
        bump (putStack (putShare (useGrant v (stackHolder (scoringStack slice)) ns)
          { x with kRead := run.foldl (fun m k => tset m k (readNow v x k).kHalf) x.kRead }) slice
        { stackSt v slice with
          burst := some { share := x.id, sheets := run, banks := (run.map (fun k => (copyOf x k).bankSet)).eraseDups,
                          startEc := v.tm.ec, plannedNs := ns },
          planned := (stackSt v slice).planned.drop run.length }) (K.burstsIssued slice) 1
      else askGrant v (stackHolder (scoringStack slice)) ns 2) := by
  subst hu hv hns
  unfold exec execBurstStart
  simp only [h.ready, h.share, h.ctx, hf, hl, ← hr, List.isEmpty_eq_false_iff.mpr hne, Bool.false_eq_true, Bool.not_true, ↓reduceIte]
  split <;> simp_all

theorem exec_burstEnd_over {b : Burst} {t : State} {late : List Nat} (hb : (stackSt s slice).burst = some b)
    (hp : passed s b.startEc b.plannedNs = true) (hl : late = b.banks.filter (fun k => decide (balanceOf (stackSt s slice) k ≤ -1)))
    (ht : t = bump (bump s (K.halvesScoredInStack slice) b.sheets.length) (K.refreshAtBoundary slice) late.length)
    (hu : u = refresh (putStack t slice (endBurst t slice b (stackSt s slice))) slice late (fun k => balanceOf (stackSt s slice) k + 1)) :
    exec (.burstEnd slice) s = .next (loadContexts (pullIn (serveStack slice u) slice) slice) := by
  subst hu ht hl
  unfold exec execBurstEnd
  simp [hb, hp]

theorem exec_burstEnd_runs {b : Burst} (hb : (stackSt s slice).burst = some b) (hp : passed s b.startEc b.plannedNs = false) :
    exec (.burstEnd slice) s = .next s := by
  unfold exec execBurstEnd
  simp [hb, hp]

end

/-- Giving the context back starts no burst. -/
theorem endSequence_burst (t : StackSt) (x : Share) (rows : Nat) : (endSequence t x rows).burst = t.burst := by
  unfold endSequence; split <;> rfl

theorem endBurst_burst (s : State) (sl : Nat) (b : Burst) (t : StackSt) : (endBurst s sl b t).burst = none := by
  unfold endBurst
  split
  · rfl
  split
  · rfl
  · exact endSequence_burst ..

/-! ## REFRESH_DUE -/

section

variable {s : State} {slice b : Nat}

/-- The stack in which a refresh has fallen due. -/
def fallDue (s : State) (slice b : Nat) : StackSt :=
  { stackSt s slice with due := tset (stackSt s slice).due b s.tm.ec,
                         balance := tset (stackSt s slice).balance b (balanceOf (stackSt s slice) b - 1) }

theorem exec_refreshDue_due (hs : slice < 4) (hb : b < 64)
    (hp : passed s (tget (stackSt s slice).due b 0) (refreshNs s slice) = true) :
    exec (.refreshDue slice b) s = .next (pullIn (serveStack slice (putStack s slice (fallDue s slice b))) slice) := by
  unfold exec execRefreshDue
  simp [hp, Nat.not_le.mpr hs, Nat.not_le.mpr hb, fallDue]

theorem exec_refreshDue_early (hp : passed s (tget (stackSt s slice).due b 0) (refreshNs s slice) = false) :
    exec (.refreshDue slice b) s = .next s := by
  unfold exec execRefreshDue
  simp [hp]

/-- Where no host access waits, none is served. -/
theorem serveStack_of_none (hr : (stackSt s slice).readWait = []) (hw : (stackSt s slice).writeBuf = []) : serveStack slice s = s := by
  simp [serveStack, hr, hw]

/-- A listed bank set below +1 that nothing holds is idle. -/
theorem mem_idleSets {t : StackSt} (ht : stackSt s slice = t) (hk : b ∈ tkeys t.balance) (hlow : balanceOf t b < 1) (hb : t.burst = none)
    (hr : t.readWait = []) (hw : t.writeBuf = []) (hslot : has (slotsNow s t) b = false)
    (hx : ∀ x ∈ sliceShares s slice, x.stage ≠ .stream) : b ∈ idleSets s slice := by
  have hslots : ∀ k ∈ slotsNow s t, k ≠ b := by simpa [has] using hslot
  simp only [idleSets, ht, List.mem_filter, hk, hlow, bankOwned, hb, bankWaited, hr, hw, hslot, true_and, Bool.and_eq_true,
    decide_true, Bool.not_false, List.any_nil, Bool.or_self, and_true]
  simp only [has, Bool.not_eq_true', List.any_eq_false, List.mem_flatMap, beq_iff_eq]
  rintro k ⟨x, hxs, hk⟩
  simp [hx x hxs] at hk

/-- An idle bank set is pulled in to +1. -/
theorem balanceOf_pullIn (h : b ∈ idleSets s slice) (hs : slice < s.arrays.length) : balanceOf (stackSt (pullIn s slice) slice) b = 1 := by
  have hne : (idleSets s slice).isEmpty = false := by
    cases hl : idleSets s slice with
    | nil => rw [hl] at h; cases h
    | cons => rfl
  have ht := stackSt_putStack (s := s) (sl := slice) { stackSt s slice with
    balance := (idleSets s slice).foldl (fun bl b => tset bl b 1) (stackSt s slice).balance,
    slots := (stackSt s slice).slots.filter (fun p => !passed s p.2 560) ++ (idleSets s slice).map (fun b => (b, s.tm.ec)) } hs
  simp only [pullIn, hne, Bool.false_eq_true, ↓reduceIte, refresh, stackSt, bump_arrays]
  simp only [stackSt] at ht
  rw [ht]
  simp [balanceOf, tget, tget?_foldl_tset, h]

theorem pullIn_mem_att (s : State) (slice : Nat) : (pullIn s slice).mem = s.mem ∧ (pullIn s slice).att = s.att := by
  unfold pullIn
  extract_lets l
  split <;> exact ⟨rfl, rfl⟩

end

/-- Settles O25: the plan's first half, the burst's time, and the interval of the refreshes. -/
theorem burstsOwnTheirBankSets : Obligations.BurstsOwnTheirBankSets := by
  unfold Obligations.BurstsOwnTheirBankSets
  refine ⟨fun slice ns s u v x c run hu h1 h2 h3 h4 h5 hf hv hl hr hne hns => ?_,
    fun slice s u x y c hu h1 h2 h3 h4 h5 hf hy => exec_burstStart_unfit hu ⟨h1, h2, h3, h4, h5⟩ hf hy,
    fun slice s t u b late hb hp hl ht hu => exec_burstEnd_over hb hp hl ht hu, endBurst_burst,
    fun slice s b hb hp => exec_burstEnd_runs hb hp, fun slice b s hs hb hp => exec_refreshDue_due hs hb hp,
    fun slice b s ha hs hb hp hlow hbu hr hw hslot hx => ?_, fun slice b s hp => exec_refreshDue_early hp⟩
  · rw [exec_burstStart_fit hu ⟨h1, h2, h3, h4, h5⟩ hf hv hl hr hne hns]
    exact ⟨fun hg => by rw [if_pos hg], fun hg => by simp [hg]⟩
  · have ht : stackSt (putStack s slice (fallDue s slice b)) slice = fallDue s slice b := stackSt_putStack _ ha
    have hserve : serveStack slice (putStack s slice (fallDue s slice b)) = putStack s slice (fallDue s slice b) :=
      serveStack_of_none (by rw [ht]; exact hr) (by rw [ht]; exact hw)
    have hbal : tget? (fallDue s slice b).balance b = some (balanceOf (stackSt s slice) b - 1) := by simp [fallDue]
    have hidle : b ∈ idleSets (putStack s slice (fallDue s slice b)) slice :=
      mem_idleSets ht (mem_tkeys_of_tget? hbal) (by simp [balanceOf, tget, hbal] at hlow ⊢; omega) hbu hr hw hslot hx
    refine ⟨_, exec_refreshDue_due hs hb hp, ?_⟩
    rw [hserve]
    exact ⟨balanceOf_pullIn hidle (by rw [putStack, length_setNth]; exact ha), pullIn_mem_att ..⟩

end Sys2Proof.Machine
end

section
/-! SUPPORT. Host reads and writes of one line (R174, R175, R287). -/

namespace Sys2Proof.Machine

section

variable {s : State} {hpa dpa : Nat}

/-- A host access waits where the running burst owns its bank set, or a host access of the set waits. -/
theorem mustWait_iff (s : State) (sl dpa : Nat) : mustWait s sl dpa = true ↔
    (∃ b, (stackSt s sl).burst = some b ∧ has b.banks (dpaBank sl dpa) = true) ∨
    (∃ r ∈ (stackSt s sl).readWait, dpaBank sl r.2.1 = dpaBank sl dpa) ∨ (∃ w ∈ (stackSt s sl).writeBuf, dpaBank sl w.1 = dpaBank sl dpa) := by
  have hown : bankOwned (stackSt s sl) (dpaBank sl dpa) = true ↔
      ∃ b, (stackSt s sl).burst = some b ∧ has b.banks (dpaBank sl dpa) = true := by
    cases h : (stackSt s sl).burst <;> simp [bankOwned, h]
  simp [mustWait, bankWaited, hown]

theorem exec_hostMemRead_served (hl : linkUp s = true) (hd : hostDpa s (hpa / 64 * 64) = some dpa)
    (hw : ∀ sl, scoringSliceOf s dpa = some sl → mustWait s sl dpa = false) :
    exec (.hostMemRead hpa) s = .next (emit s (.memData (hpa / 64 * 64) (Mem.read s.mem.cells dpa 64) (linePoisoned s dpa))) := by
  unfold exec execHostMemRead
  cases hs : scoringSliceOf s dpa with
  | none => simp [hl, hd, hs]
  | some sl => simp [hl, hd, hs, hw sl hs]

theorem exec_hostMemRead_waits {sl : Nat} (hl : linkUp s = true) (hd : hostDpa s (hpa / 64 * 64) = some dpa)
    (hs : scoringSliceOf s dpa = some sl) (hw : mustWait s sl dpa = true) :
    exec (.hostMemRead hpa) s = .next (bump (putStack s sl { stackSt s sl with
      readWait := (stackSt s sl).readWait ++ [(hpa / 64 * 64, dpa, s.tm.ec, (stackSt s sl).writeBuf.length)] }) (K.hostReadsWaited sl) 1) := by
  unfold exec execHostMemRead
  simp [hl, hd, hs, hw]

theorem exec_hostMemRead_unmapped (hl : linkUp s = true) (hd : hostDpa s (hpa / 64 * 64) = none) :
    exec (.hostMemRead hpa) s
      = .next (emit (bump s K.hdmUnmappedAccesses 1) (.memData (hpa / 64 * 64) (List.replicate 64 0xFF) true)) := by
  unfold exec execHostMemRead
  simp [hl, hd]

theorem exec_hostMemRead_linkDown (hl : linkUp s = false) : exec (.hostMemRead hpa) s = .next s := by
  unfold exec execHostMemRead
  simp [hl]

end

/-- Settles O26: what the address maps to, and whether the line's bank set is held. -/
theorem hostReadsAnswerTheLine : Obligations.HostReadsAnswerTheLine := by
  unfold Obligations.HostReadsAnswerTheLine
  exact ⟨fun hpa dpa s => exec_hostMemRead_served, fun hpa dpa sl s => exec_hostMemRead_waits, fun hpa s => exec_hostMemRead_unmapped,
    fun hpa s => exec_hostMemRead_linkDown, mustWait_iff⟩

/-! ## Writes -/

/-- A byte of a write reads as it was written. -/
theorem memGet_write_inside (m : List Host.Cell) (a : Nat) (l : List Byte) (i : Nat) (h : i < l.length) :
    Mem.get (Mem.write m a l) (a + i) = l[i] := by
  induction l generalizing m a i with
  | nil => cases h
  | cons b r ih =>
    rw [Mem.write]
    cases i with
    | zero => rw [memGet_write_outside _ _ _ _ (by omega), memGet_set]; simp
    | succ i =>
      have := ih (Mem.set m a b) (a + 1) i (Nat.lt_of_succ_lt_succ h)
      rw [show a + (i + 1) = a + 1 + i by omega, this]
      rfl

/-- Clearing poison leaves the bytes. -/
theorem wroteLines_cells (s : State) (ls : List Nat) : (wroteLines s ls).mem.cells = s.mem.cells := by
  have hclean (l : List Nat) (s : State) : (l.foldl cleanLine s).mem.cells = s.mem.cells := by
    induction l generalizing s with
    | nil => rfl
    | cons x l ih => exact ih _
  unfold wroteLines
  rw [hclean]

theorem lineWrite_cells (s : State) (dpa : Nat) (data : List Byte) : (lineWrite s dpa data).mem.cells = Mem.write s.mem.cells dpa data :=
  wroteLines_cells ..

section

variable {s : State} {hpa dpa sl : Nat} {data : List Byte}

theorem hostWriteLine_full (h : 256 ≤ (stackSt s sl).writeBuf.length) : hostWriteLine s sl hpa dpa data =
    putStack s sl { stackSt s sl with writeWait := (stackSt s sl).writeWait ++ [(hpa, dpa, data)] } := by
  simp [hostWriteLine, h]

theorem hostWriteLine_held (h : (stackSt s sl).writeBuf.length < 256) (hw : mustWait s sl dpa = true) : hostWriteLine s sl hpa dpa data =
    emit (bump (putStack s sl { stackSt s sl with writeBuf := (stackSt s sl).writeBuf ++ [(dpa, data)] }) (K.hostWritesHeld sl) 1)
      (.memDone hpa) := by
  simp [hostWriteLine, Nat.not_le.mpr h, hw]

theorem hostWriteLine_stored (h : (stackSt s sl).writeBuf.length < 256) (hw : mustWait s sl dpa = false) :
    hostWriteLine s sl hpa dpa data = emit (lineWrite s dpa data) (.memDone hpa) := by
  simp [hostWriteLine, Nat.not_le.mpr h, hw]

/-- Whatever becomes of a host write, the memory stays canonical. -/
theorem memWf_hostWriteLine (h : Mem.wf s.mem.cells = true) : Mem.wf (hostWriteLine s sl hpa dpa data).mem.cells = true := by
  by_cases hf : 256 ≤ (stackSt s sl).writeBuf.length
  · rw [hostWriteLine_full hf]; exact h
  · cases hw : mustWait s sl dpa with
    | true => rw [hostWriteLine_held (Nat.lt_of_not_le hf) hw]; exact h
    | false =>
      rw [hostWriteLine_stored (Nat.lt_of_not_le hf) hw, emit_mem, lineWrite_cells]
      exact memWf_write _ _ h

theorem exec_hostMemWrite_linkDown (hl : linkUp s = false) : exec (.hostMemWrite hpa data) s = .next s := by
  unfold exec execHostMemWrite
  simp [hl]

theorem exec_hostMemWrite_unmapped (hl : linkUp s = true) (hd : hostDpa s hpa = none) :
    exec (.hostMemWrite hpa data) s = .next (emit (bump s K.hdmUnmappedAccesses 1) (.memDone hpa)) := by
  unfold exec execHostMemWrite
  simp [hl, hd]

theorem exec_hostMemWrite_published (hl : linkUp s = true) (hd : hostDpa s hpa = some dpa) (hp : publishedAt s dpa = true) :
    exec (.hostMemWrite hpa data) s = .next (emit (bump s K.readonlyWritesDiscarded 1) (.memDone hpa)) := by
  unfold exec execHostMemWrite
  simp [hl, hd, hp]

/-- A write of a mapped line that is not published stores its bytes outside the scoring stacks; in one, the stack takes it. -/
theorem exec_hostMemWrite_outside (hl : linkUp s = true) (hd : hostDpa s hpa = some dpa) (hp : publishedAt s dpa = false)
    (hs : scoringSliceOf s dpa = none) :
    exec (.hostMemWrite hpa data) s = .next (emit (lineWrite s dpa (data.take (64 - dpa % 64))) (.memDone hpa)) := by
  unfold exec execHostMemWrite
  simp [hl, hd, hp, hs]

theorem exec_hostMemWrite_stack (hl : linkUp s = true) (hd : hostDpa s hpa = some dpa) (hp : publishedAt s dpa = false)
    (hs : scoringSliceOf s dpa = some sl) :
    exec (.hostMemWrite hpa data) s = .next (hostWriteLine s sl hpa dpa (data.take (64 - dpa % 64))) := by
  unfold exec execHostMemWrite
  simp [hl, hd, hp, hs]

theorem exec_hostMemWrite_stored (hl : linkUp s = true) (hd : hostDpa s hpa = some dpa) (hp : publishedAt s dpa = false)
    (hw : ∀ sl, scoringSliceOf s dpa = some sl → mustWait s sl dpa = false ∧ (stackSt s sl).writeBuf.length < 256) :
    exec (.hostMemWrite hpa data) s = .next (emit (lineWrite s dpa (data.take (64 - dpa % 64))) (.memDone hpa)) := by
  cases hs : scoringSliceOf s dpa with
  | none => exact exec_hostMemWrite_outside hl hd hp hs
  | some sl =>
    obtain ⟨hm, hb⟩ := hw sl hs
    rw [exec_hostMemWrite_stack hl hd hp hs, hostWriteLine_stored hb hm]

theorem memWf_hostMemWrite {t : State} (h : Mem.wf s.mem.cells = true) (e : exec (.hostMemWrite hpa data) s = .next t) :
    Mem.wf t.mem.cells = true := by
  cases hl : linkUp s with
  | false => rw [exec_hostMemWrite_linkDown hl] at e; cases e; exact h
  | true =>
    cases hd : hostDpa s hpa with
    | none => rw [exec_hostMemWrite_unmapped hl hd] at e; cases e; exact h
    | some dpa =>
      cases hp : publishedAt s dpa with
      | true => rw [exec_hostMemWrite_published hl hd hp] at e; cases e; exact h
      | false =>
        cases hs : scoringSliceOf s dpa with
        | none =>
          rw [exec_hostMemWrite_outside hl hd hp hs] at e
          cases e
          rw [emit_mem, lineWrite_cells]
          exact memWf_write _ _ h
        | some sl =>
          rw [exec_hostMemWrite_stack hl hd hp hs] at e
          cases e
          exact memWf_hostWriteLine h

end

/-- Settles O27: what the address maps to, whether it is published, and what its scoring stack does with the line. -/
theorem hostWritesStoreTheirBytes : Obligations.HostWritesStoreTheirBytes := by
  unfold Obligations.HostWritesStoreTheirBytes
  refine ⟨fun hpa dpa data s hl hd hp hw => ?stored, fun hpa data s => exec_hostMemWrite_unmapped,
    fun hpa dpa data s => exec_hostMemWrite_published, fun hpa dpa sl data s hl hd hp hs => ⟨fun hb hw => ?held, fun hb => ?full⟩,
    fun hpa data s => exec_hostMemWrite_linkDown, fun hpa data s t => memWf_hostMemWrite⟩
  case stored =>
    have he := exec_hostMemWrite_stored (data := data) hl hd hp hw
    refine ⟨he, _, he, fun i hi => ?_, fun a ha => ?_⟩ <;> rw [emit_mem, lineWrite_cells]
    · exact memGet_write_inside _ _ _ _ hi
    · exact memGet_write_outside _ _ _ _ ha
  case held => rw [exec_hostMemWrite_stack hl hd hp hs, hostWriteLine_held hb hw]
  case full => rw [exec_hostMemWrite_stack hl hd hp hs, hostWriteLine_full hb]

end Sys2Proof.Machine
end

section
/-! SUPPORT. Packets that arrive on a link (R317, R318, R321, R322, R346). -/

namespace Sys2Proof.Machine

section

variable {s : State} {link c u : Nat} {flits : List (List Byte)}

theorem exec_packetReceive_down (h : 36 ≤ link ∨ rd s (K.linkState link) ≠ 2) : exec (.packetReceive link flits c u) s = .next s := by
  show execPacketReceive link flits c u s = _
  unfold execPacketReceive
  rw [if_pos (by simpa using h)]

section

variable (hl : link < 36) (hs : rd s (K.linkState link) = 2)
include hl hs

/-- A flit that fails its check: it is counted, and those before it may have gone on. -/
theorem exec_packetReceive_badFlit {k : Nat} (hk : flits.findIdx? (fun f => !flitOk f) = some k) :
    exec (.packetReceive link flits c u) s = .next (cutThrough (bump (countFec s link c u) (K.flitsDiscarded link) 1) link flits k) := by
  show execPacketReceive link flits c u s = _
  unfold execPacketReceive
  rw [if_neg (by simp [hl, hs])]
  simp only [hk]

variable (hf : ∀ f ∈ flits, flitOk f = true)
include hf

/-- A packet whose flits pass their checks is malformed, or goes on to the policer. -/
theorem exec_packetReceive_malformed (h : framed flits = false ∨ badPacket (packetFrom flits true) = true) :
    exec (.packetReceive link flits c u) s = .next (bump (countFec s link c u) K.malformedPackets 1) := by
  have hk : flits.findIdx? (fun f => !flitOk f) = none := by simpa [List.findIdx?_eq_none_iff] using hf
  show execPacketReceive link flits c u s = _
  unfold execPacketReceive
  rw [if_neg (by simp [hl, hs])]
  simp only [hk]
  rw [if_pos (by simpa using h)]

theorem exec_packetReceive_policed {p : Packet} {t : State} {ok : Bool} (hp : p = packetFrom flits true) (hfr : framed flits = true)
    (hb : badPacket p = false) (ht : police (countFec s link c u) link p = (t, ok)) :
    exec (.packetReceive link flits c u) s = .next (if ok then handlePacket t link p else t) := by
  have hk : flits.findIdx? (fun f => !flitOk f) = none := by simpa [List.findIdx?_eq_none_iff] using hf
  subst hp
  show execPacketReceive link flits c u s = _
  unfold execPacketReceive
  rw [if_neg (by simp [hl, hs])]
  simp only [hk, hfr, hb, ht, Bool.not_true, Bool.or_self, Bool.false_eq_true, ↓reduceIte]

end

/-- Nothing goes on of a packet whose first flit failed, of one for this node, or of a broadcast. -/
theorem cutThrough_stays {t : State} {k : Nat} (h : k = 0 ∨ (packetFrom (flits.take (k + 1)) false).dst = myNode t ∨
    (packetFrom (flits.take (k + 1)) false).dst = 0xFFFF) : cutThrough t link flits k = { t with free := t.free + 1 } := by
  unfold cutThrough
  refine if_pos ?_
  have hn : myNode { t with free := t.free + 1 } = myNode t := rfl
  obtain h | h | h := h <;> simp [h, hn]

variable {p : Packet}

theorem handlePacket_broadcast (h : p.dst = 0xFFFF) :
    handlePacket s link p = takeCast s link p.src p.msgId p.hopsLeft (.bytes 7 p.payload) (takeOwn p) := by
  simp [handlePacket, h]

theorem handlePacket_other (h : p.dst ≠ 0xFFFF) (hn : p.dst ≠ myNode s) : handlePacket s link p = passOn s link p := by
  simp [handlePacket, h, hn]

/-- A packet for this node is received where its lane is on, by its kind. -/
theorem handlePacket_own (h : p.dst ≠ 0xFFFF) (hn : p.dst = myNode s) : handlePacket s link p =
    if laneOn s p.vl then if p.kind = 8 ∨ p.kind = 9 then recvEntries s p else serveFabric (recvPkt s p) s.out.length else s := by
  by_cases hk : p.kind = 8 ∨ p.kind = 9
  · have hk' : (p.kind == 8 || p.kind == 9) = true := by simpa using hk
    simp [handlePacket, ← hn, h, hk, hk']
  · have hk' : (p.kind == 8 || p.kind == 9) = false := by simpa using hk
    simp [handlePacket, ← hn, h, hk, hk']

end

/-- Settles O44: the tests of a packet in their order, and where one that is taken goes. -/
theorem packetsAreTakenOrDiscarded : Obligations.PacketsAreTakenOrDiscarded := by
  unfold Obligations.PacketsAreTakenOrDiscarded
  refine ⟨fun link c u flits p s t hl hs hf hp hfr hb => ⟨fun ht => ?_, fun ht => ?_⟩,
    fun link c u flits s hl hs hf h => exec_packetReceive_malformed hl hs hf h,
    fun link c u k flits s t hl hs hk ht => ⟨?_, cutThrough_stays⟩, fun link c u flits s h => exec_packetReceive_down h,
    fun link p s => ⟨handlePacket_broadcast, handlePacket_other, fun h hn hv => ?_, fun h hn hv hk => ?_, fun h hn hv h8 h9 => ?_⟩⟩
  · rw [exec_packetReceive_policed hl hs hf hp hfr hb ht, if_pos rfl]
  · rw [exec_packetReceive_policed hl hs hf hp hfr hb ht]; rfl
  · rw [exec_packetReceive_badFlit hl hs hk, ht]
  · rw [handlePacket_own h hn, hv]; rfl
  · rw [handlePacket_own h hn, if_pos hv, if_pos hk]
  · rw [handlePacket_own h hn, if_pos hv, if_neg (by simp [h8, h9])]

end Sys2Proof.Machine
end

section
/-! SUPPORT. One engine clock (log entry 1), the end of a commit of the store (R36), and reset. -/

namespace Sys2Proof.Machine

/-- The clock counts one, and Herd Time moves forward by at most 11 units. -/
theorem tickTime_forward (t : TimeSt) : (tickTime t).ec = t.ec + 1 ∧ t.ht ≤ (tickTime t).ht ∧ (tickTime t).ht ≤ t.ht + 11 := by
  unfold tickTime
  extract_lets u
  have hu : u.ec = t.ec + 1 ∧ u.ht = t.ht := ⟨rfl, rfl⟩
  clear_value u
  obtain ⟨he, hh⟩ := hu
  split
  · simp [he, hh]
  split
  · simp [he, hh]
  split <;> simp [he, hh]

/-- Where no host access waits at a stack, none is served. -/
theorem serveHosts_of_none {s : State} (h : ∀ sl < 4, (stackSt s sl).readWait = [] ∧ (stackSt s sl).writeBuf = []) : serveHosts s = s := by
  have hs : ∀ sl < 4, serveStack sl s = s := fun sl hl => serveStack_of_none (h sl hl).1 (h sl hl).2
  simp [serveHosts, upFrom, hs]

/-- Where no context waits for the end of its comparator cycle, none is closed. -/
theorem closeDue_of_none {s : State} (h : ∀ c ∈ s.ctxs, c.closing = none) : closeDue s = s := by
  have : s.ctxs.filter (fun c => !c.closed && c.closing.any (fun k => k != cycleOf s.tm.ht)) = [] := by
    simp only [List.filter_eq_nil_iff]
    intro c hc
    simp [h c hc]
  rw [closeDue, this]
  rfl

section

variable {s : State} {c : StoreCommit}

/-- The state in which the store has been written, before its read back is taken up. -/
def storeWritten (s : State) (c : StoreCommit) : State :=
  { s with dq := { s.dq with banks := setNth s.dq.banks (1 - s.dq.current) { vals := c.vals, ok := c.ok }, commit := none } }

/-- A commit that reads back makes its bank current; one that does not leaves the other current and raises an event. -/
theorem endCommit_ok (h : s.dq.commit = some c) (ho : c.ok = true) : endCommit s =
    answer (measureBank (wr { storeWritten s c with dq := { (storeWritten s c).dq with current := 1 - s.dq.current } } K.storeState 0)) c.via
      (respond (rowPdu { via := c.via, txn := c.txn } 0x1010 1 0 []) 0 0 []) := by
  unfold endCommit
  simp only [h, ho, ↓reduceIte, storeWritten]

theorem endCommit_notOk (h : s.dq.commit = some c) (ho : c.ok = false) : endCommit s =
    answer (event (wr (storeWritten s c) K.storeState 3) 0x10 3 nodeSlice 2 (1 - s.dq.current)) c.via
      (respond (rowPdu { via := c.via, txn := c.txn } 0x1010 1 0 []) 0 0 []) := by
  unfold endCommit
  simp only [h, ho, Bool.false_eq_true, ↓reduceIte, storeWritten]

/-- An answer leaves the store's banks and commit. -/
theorem answer_store (s : State) (via : Via) (p : Pdu) : (answer s via p).dq.commit = s.dq.commit ∧
    (answer s via p).dq.banks = s.dq.banks ∧ (answer s via p).dq.current = s.dq.current := by
  rw [(sba_answer s via p).2]
  exact ⟨rfl, rfl, rfl⟩

theorem rd_answer (s : State) (via : Via) (p : Pdu) {k : Nat} (h : isRefusalKey k = false) : rd (answer s via p) k = rd s k :=
  (sba_answer s via p).1 k h

/-- An event leaves the state of the dictionary's writes, the store among them. -/
theorem event_dq (s : State) (source code slice sev data : Nat) : (event s source code slice sev data).dq = s.dq := by
  unfold event
  extract_lets u e t
  have hu : u.dq = s.dq := by simp only [u]; split <;> rfl
  have ht : t.dq = s.dq := by
    rw [← hu]
    simp only [t, logPut]
    split <;> rfl
  clear_value t
  split
  · exact hu
  split
  · exact hu
  · split
    · exact ht
    · exact ht

/-- What the end of a commit leaves of the store (R36). -/
theorem endCommit_store (h : s.dq.commit = some c) : (endCommit s).dq.commit = none ∧
    (endCommit s).dq.banks = setNth s.dq.banks (1 - s.dq.current) { vals := c.vals, ok := c.ok } ∧
    (endCommit s).dq.current = (if c.ok then 1 - s.dq.current else s.dq.current) ∧
    rd (endCommit s) K.storeState = (if c.ok then 0 else 3) := by
  cases ho : c.ok with
  | true =>
    rw [endCommit_ok h ho, rd_answer _ _ _ rfl]
    obtain ⟨hc, hb, hcur⟩ := answer_store (measureBank (wr { storeWritten s c with
      dq := { (storeWritten s c).dq with current := 1 - s.dq.current } } K.storeState 0)) c.via
      (respond (rowPdu { via := c.via, txn := c.txn } 0x1010 1 0 []) 0 0 [])
    rw [hc, hb, hcur, ← ho]
    refine ⟨rfl, rfl, by simp [ho]; rfl, ?_⟩
    rw [measureBank, measure, rd_bump, if_neg (by decide)]
    simp only [ho]
    exact rd_wr_same ..
  | false =>
    rw [endCommit_notOk h ho, rd_answer _ _ _ rfl]
    obtain ⟨hc, hb, hcur⟩ := answer_store (event (wr (storeWritten s c) K.storeState 3) 0x10 3 nodeSlice 2 (1 - s.dq.current)) c.via
      (respond (rowPdu { via := c.via, txn := c.txn } 0x1010 1 0 []) 0 0 [])
    rw [hc, hb, hcur, event_dq, rd_event _ _ _ _ _ (by decide), ← ho]
    refine ⟨rfl, rfl, by simp [ho]; rfl, ?_⟩
    simp only [ho]
    exact rd_wr_same ..

end

theorem step_of_empty {s : State} (h : s.pending = []) : step s = .next (tick s) := by
  unfold step
  split
  · rfl
  · next e => rw [h] at e; cases e

/-- Settles O2: what a clock does to the time, to waiting accesses and contexts, and to a commit of the store. -/
theorem emptyQueueLetsOneClockPass : Obligations.EmptyQueueLetsOneClockPass := by
  unfold Obligations.EmptyQueueLetsOneClockPass
  refine ⟨fun s hp => ?_, tickTime_forward, fun s hp hc hw hx => ?_, fun s c h => endCommit_store h⟩
  · rw [step_of_empty hp, tick, clock]
  · have hclock : clock s = { s with tm := tickTime s.tm } := by rw [clock, endCommit, hc]
    have hserve : serveHosts { s with tm := tickTime s.tm } = { s with tm := tickTime s.tm } := serveHosts_of_none hw
    have hclose : closeDue { s with tm := tickTime s.tm } = { s with tm := tickTime s.tm } := closeDue_of_none hx
    rw [step_of_empty hp, tick, hclock, hserve, hclose]

/-- Every enable reads 0 by default. -/
theorem keyDflt_enable : enableKeys.all (fun k => keyDflt k == 0) = true := by decide +kernel

/-- Settles O56: reset keeps nothing in the dictionary, so every object reads its default. -/
theorem resetLeavesDefaults : Obligations.ResetLeavesDefaults := by
  unfold Obligations.ResetLeavesDefaults
  have hd : ∀ k, rd State.reset k = keyDflt k := fun _ => rfl
  refine ⟨hd, rfl, rfl, rfl, rfl, rfl, fun sl hs => ?_, fun k hk => ?_, ?_, ?_, ?_⟩ <;> rw [hd]
  · have : ∀ sl < 4, keyDflt (K.sliceState sl) = 0 := by decide
    exact this sl hs
  · simpa using List.all_eq_true.mp keyDflt_enable k hk
  · decide
  · decide
  · decide

/-! ## Bundles (R56, R437) -/

section

variable {w : WReq} {s t : State} {seq : Nat} {es : List BundleEntry} {ch : Changed}

theorem applyBundle_applied (ht : bundleTest s (getBytes s.dq.bundle 0 (rd s K.bundleLength)) = .inr (seq, es))
    (ha : applyEntries (handlerOf hNoBundle) es s [] = (t, ch, true)) :
    applyBundle s = (wr (wr (bundleKey t es) K.bundleState 1) K.bundleSequenceLast seq, .done) := by
  unfold applyBundle
  simp [ht, ha]

theorem applyBundle_undone (ht : bundleTest s (getBytes s.dq.bundle 0 (rd s K.bundleLength)) = .inr (seq, es))
    (ha : applyEntries (handlerOf hNoBundle) es s [] = (t, ch, false)) :
    applyBundle s = (wr (undoBundle s t ch) K.bundleState 3, .done) := by
  unfold applyBundle
  simp [ht, ha]

theorem applyBundle_rejected {n : Nat} (ht : bundleTest s (getBytes s.dq.bundle 0 (rd s K.bundleLength)) = .inl n) :
    applyBundle s = (event (wr s K.bundleState 2) 0xA0 8 nodeSlice 1 n, .done) := by
  unfold applyBundle
  simp [ht]

/-- A write of 1 to bundle_apply applies the bundle. -/
theorem exec_bundleApply {u : State} (ha : Allowed s w 0x1010 6) (hu : applyBundle s = (u, .done)) :
    exec (.bundleApply w 1) s = .next (doneTo u w 0x1010 6 0 [1]) := by
  show Host.Outcome.next (rowWrite s w 0x1010 6 0 [1] hBundleApply) = _
  rw [row_done (l := [1]) ha takes_bundle_apply (by rw [hBundleApply, trigger_one, hu])]

end

/-- Settles O11: how the tests and the entries of the bundle end. -/
theorem bundleIsAppliedOrRejected : Obligations.BundleIsAppliedOrRejected := by
  unfold Obligations.BundleIsAppliedOrRejected
  exact ⟨fun w s t seq es ch ha ht he => exec_bundleApply ha (applyBundle_applied ht he),
    fun w s t seq es ch ha ht he => exec_bundleApply ha (applyBundle_undone ht he),
    fun w s n ha ht => exec_bundleApply ha (applyBundle_rejected ht)⟩

end Sys2Proof.Machine
end

section
/-! SUPPORT. Control blocks as words (R60, R316), and the timers of Herd Time (R63, R64, R66, R67). -/

namespace Sys2Proof.Machine

/-! ## The fields of a word -/

/-- A field above the lowest one of a word. -/
theorem bits_add_mul {a w : Nat} (x n len : Nat) (h : a < 2 ^ w) : bits (a + 2 ^ w * x) (w + n) len = bits x n len := by
  have hd : (a + 2 ^ w * x) / 2 ^ w = x := by
    rw [Nat.add_mul_div_left _ _ (Nat.two_pow_pos w), Nat.div_eq_of_lt h, Nat.zero_add]
  simp only [bits, Nat.shiftRight_eq_div_pow, Nat.pow_add, ← Nat.div_div_eq_div_mul, hd]

/-- The lowest field of a word. -/
theorem bits_add_mul_low {a w : Nat} (x : Nat) (h : a < 2 ^ w) : bits (a + 2 ^ w * x) 0 w = a := by
  simp [bits, Nat.shiftRight_eq_div_pow, Nat.add_mul_mod_self_left, Nat.mod_eq_of_lt h]

/-- A field of packed fields, above the first of them. -/
theorem bits_packBits_cons {w v : Nat} (l : List (Nat × Nat)) (n len : Nat) :
    bits (packBits ((w, v) :: l)) (w + n) len = bits (packBits l) n len := bits_add_mul _ _ _ (Nat.mod_lt _ (Nat.two_pow_pos w))

theorem bits_packBits_first {w v : Nat} (l : List (Nat × Nat)) : bits (packBits ((w, v) :: l)) 0 w = v % 2 ^ w :=
  bits_add_mul_low _ (Nat.mod_lt _ (Nat.two_pow_pos w))

/-! ## The CRC of a block -/

theorem crcBit_lt {poly c : Nat} (hp : poly < 2 ^ 32) (hc : c < 2 ^ 32) : crcBit poly c < 2 ^ 32 := by
  have hd : c / 2 < 2 ^ 32 := by omega
  unfold crcBit
  split
  · exact Nat.xor_lt_two_pow hd hp
  · exact hd

theorem crcByte_lt {poly c : Nat} (b : Byte) (hp : poly < 2 ^ 32) (hc : c < 2 ^ 32) : crcByte poly c b < 2 ^ 32 := by
  have hb : b.toNat < 2 ^ 32 := Nat.lt_of_lt_of_le b.isLt (by decide)
  have hx : c ^^^ b.toNat < 2 ^ 32 := Nat.xor_lt_two_pow hc hb
  exact crcBit_lt hp (crcBit_lt hp (crcBit_lt hp (crcBit_lt hp (crcBit_lt hp (crcBit_lt hp (crcBit_lt hp (crcBit_lt hp hx)))))))

theorem crc32c_lt (l : List Byte) : crc32c l < 2 ^ 32 := by
  have hl (l : List Byte) {c : Nat} (hc : c < 2 ^ 32) : l.foldl (crcByte 0x82F63B78) c < 2 ^ 32 := by
    induction l generalizing c with
    | nil => exact hc
    | cons b l ih => exact ih (crcByte_lt b (by decide) hc)
  exact Nat.xor_lt_two_pow (hl l (by decide)) (by decide)

/-- A sealed block has the fields of the block above its CRC. -/
theorem bits_sealBlock (l : List (Nat × Nat)) (n len : Nat) :
    bits (sealBlock (packBits ((32, 0) :: l))) (32 + n) len = bits (packBits l) n len := by
  have h : sealBlock (packBits ((32, 0) :: l)) = blockCrc (packBits ((32, 0) :: l)) + 2 ^ 32 * packBits l := by
    simp only [sealBlock, packBits]
    omega
  rw [h]
  exact bits_add_mul _ _ _ (crc32c_lt _)

/-- The word of a TIME block spells its fields. -/
theorem timeBlockFrom_word (b : TimeBlock) (hh : b.hops < 2 ^ 8) (ht : b.ht < 2 ^ 64) (hd : b.turnaroundPs < 2 ^ 32) (hn : b.node < 2 ^ 16)
    (hl : b.leadTerm < 2 ^ 32) : timeBlockFrom (timeBlockWord b) = b := by
  have field (n len : Nat) : bits (timeBlockWord b) (32 + n) len = bits (packBits [(64, 0), (32, b.leadTerm), (16, b.node),
      (32, b.turnaroundPs), (64, b.ht), (8, b.hops), (8, 0x01)]) n len := bits_sealBlock _ n len
  have h1 : bits (timeBlockWord b) 240 8 = b.hops := by
    rw [field 208, bits_packBits_cons (w := 64) _ 144, bits_packBits_cons (w := 32) _ 112, bits_packBits_cons (w := 16) _ 96,
      bits_packBits_cons (w := 32) _ 64, bits_packBits_cons (w := 64) _ 0, bits_packBits_first, Nat.mod_eq_of_lt hh]
  have h2 : bits (timeBlockWord b) 176 64 = b.ht := by
    rw [field 144, bits_packBits_cons (w := 64) _ 80, bits_packBits_cons (w := 32) _ 48, bits_packBits_cons (w := 16) _ 32,
      bits_packBits_cons (w := 32) _ 0, bits_packBits_first, Nat.mod_eq_of_lt ht]
  have h3 : bits (timeBlockWord b) 144 32 = b.turnaroundPs := by
    rw [field 112, bits_packBits_cons (w := 64) _ 48, bits_packBits_cons (w := 32) _ 16, bits_packBits_cons (w := 16) _ 0,
      bits_packBits_first, Nat.mod_eq_of_lt hd]
  have h4 : bits (timeBlockWord b) 128 16 = b.node := by
    rw [field 96, bits_packBits_cons (w := 64) _ 32, bits_packBits_cons (w := 32) _ 0, bits_packBits_first, Nat.mod_eq_of_lt hn]
  have h5 : bits (timeBlockWord b) 96 32 = b.leadTerm := by
    rw [field 64, bits_packBits_cons (w := 64) _ 0, bits_packBits_first, Nat.mod_eq_of_lt hl]
  simp only [timeBlockFrom, h1, h2, h3, h4, h5]

/-- Settles O12: whether the link is up, whether the node passes time on, and the fields of the block's word. -/
theorem trainedLinksSendTimeSymbols : Obligations.TrainedLinksSendTimeSymbols := by
  unfold Obligations.TrainedLinksSendTimeSymbols
  refine ⟨fun link s hl hs => ?_, fun link s hs => ?_, fun link s hp => ?_, fun link s hp => ?_, timeBlockFrom_word⟩
  · show execTimeSymbolSend link s = _
    unfold execTimeSymbolSend
    rw [if_pos (by simp [hl, hs])]
    rfl
  · show execTimeSymbolSend link s = _
    unfold execTimeSymbolSend
    rw [if_neg (by simp [hs])]
  · simp [timeBlockOf, hp]
  · simp [timeBlockOf, hp]

/-! ## The timers -/

section

variable {s : State}

theorem exec_htSymbolTimeout (s : State) : exec .htSymbolTimeout s =
    if followsLinks s = true ∧ rd s K.htState = 2 ∧ passed s s.tm.symAt 4000 = true
    then .next { wr s K.htState 3 with tm := { s.tm with holdAt := s.tm.ec } } else .next s := by
  show execHtSymbolTimeout s = _
  simp only [execHtSymbolTimeout, Bool.and_eq_true, beq_iff_eq, and_assoc]

theorem exec_htLost (s : State) : exec .htLost s =
    if followsLinks s = true ∧ rd s K.htState = 3 ∧ passed s s.tm.holdAt (gv s K.htHoldoverNs) = true
    then .next (event (wr s K.htState 4) 0x12 1 nodeSlice 2 (packBits [(8, rd s K.htUpstreamLink), (8, rd s K.htHops)]))
    else .next s := by
  show execHtLost s = _
  simp only [execHtLost, Bool.and_eq_true, beq_iff_eq, and_assoc]

theorem exec_htRefMissing (s : State) : exec .htRefMissing s =
    if onRef s = true ∧ s.tm.refSeen = true ∧ rd s K.htState = 2 ∧ passed s s.tm.refAt 1100000000 = true
    then .next (event (wr s K.htState 3) 0x12 2 nodeSlice 1 s.tm.refHt) else .next s := by
  show execHtRefMissing s = _
  simp only [execHtRefMissing, Bool.and_eq_true, beq_iff_eq, and_assoc]

/-- Slewing does not touch what Herd Time read at the last edge. -/
theorem slewTime_refHt (off : Int) (n : Nat) :
    { slewTime s off with tm := { (slewTime s off).tm with refHt := n } } = slewTime { s with tm := { s.tm with refHt := n } } off := by
  unfold slewTime
  split <;> rfl

theorem exec_htRefEdge_first {t : State} (hr : onRef s = true) (ht : t = { s with tm := { s.tm with refAt := s.tm.ec, refSeen := true } })
    (hh : s.tm.held = false) : exec .htRefEdge s = .next (wr { t with tm := { t.tm with
      ht := gv s K.htRefSeconds * 1000000000 * 33, held := true, refHt := gv s K.htRefSeconds * 1000000000, slewFwd := 0, slewBack := 0 } }
      K.htState 2) := by
  subst ht
  show execHtRefEdge s = _
  unfold execHtRefEdge
  simp only [hr, hh, Bool.not_true, Bool.not_false, Bool.false_eq_true, ↓reduceIte]
  rfl

theorem exec_htRefEdge_later {t : State} (hr : onRef s = true) (ht : t = { s with tm := { s.tm with refAt := s.tm.ec, refSeen := true } })
    (hh : s.tm.held = true) : exec .htRefEdge s = .next (wr (slewTime { t with tm := { t.tm with refHt := htNs s } }
        (((htNs s + 500000000) / 1000000000 * 1000000000 : Nat) - (htNs s : Int))) K.htState 2) := by
  rw [← slewTime_refHt]
  subst ht
  show execHtRefEdge s = _
  unfold execHtRefEdge
  simp only [hr, hh, Bool.not_true, Bool.false_eq_true, ↓reduceIte]
  rfl

theorem exec_htRefEdge_notOnRef (hr : onRef s = false) : exec .htRefEdge s = .next s := by
  show execHtRefEdge s = _
  unfold execHtRefEdge
  simp [hr]

end

/-- Settles O14: each timer's own condition. -/
theorem timeTimersActWhenDue : Obligations.TimeTimersActWhenDue := by
  unfold Obligations.TimeTimersActWhenDue
  refine ⟨fun s => ⟨fun hf hs hp => ?_, fun h => ?_⟩, fun s => ⟨fun hf hs hp => ?_, fun h => ?_⟩,
    fun s t hr ht => ⟨fun hh => exec_htRefEdge_first hr ht hh, fun hh => ⟨_, exec_htRefEdge_later hr ht hh, rfl⟩⟩,
    fun s => exec_htRefEdge_notOnRef, fun s => ⟨fun hr hq hs hp => ?_, fun h => ?_⟩⟩
  · rw [exec_htSymbolTimeout, if_pos ⟨hf, hs, hp⟩]
  · rw [exec_htSymbolTimeout, if_neg]
    rintro ⟨hf, hs, hp⟩
    simp [hf, hs, hp] at h
  · rw [exec_htLost, if_pos ⟨hf, hs, hp⟩]
  · rw [exec_htLost, if_neg]
    rintro ⟨hf, hs, hp⟩
    simp [hf, hs, hp] at h
  · rw [exec_htRefMissing, if_pos ⟨hr, hq, hs, hp⟩]
  · rw [exec_htRefMissing, if_neg]
    rintro ⟨hr, hq, hs, hp⟩
    simp [hr, hq, hs, hp] at h

end Sys2Proof.Machine
end

section
/-! SUPPORT. COMMIT and the tickets that reach their Ream's home: queries, appends and retires (R120, R122, R144, R150, R273). -/

namespace Sys2Proof.Machine

/-! ## COMMIT -/

theorem has_addNew (l : List Nat) (n : Nat) : has (addNew l n) n = true := by
  unfold addNew
  split
  · next h => exact h
  · simp [has]

theorem has_without (l : List Nat) (n : Nat) : has (without l n) n = false := by
  simp [has, without]

section

variable {s : State} {slice entry e : Nat}

theorem exec_commit_due (h : dueEntry s slice entry 4 = some e) : exec (.commit slice entry) s =
    if appendsWaiting (takeOccurrence s slice entry e) then
      .next { takeOccurrence s slice entry e with sch := { (takeOccurrence s slice entry e).sch with
        commitWait := addNew (takeOccurrence s slice entry e).sch.commitWait slice,
        commitAt := tset (takeOccurrence s slice entry e).sch.commitAt slice (now (takeOccurrence s slice entry e)) } }
    else .next (doCommit (takeOccurrence s slice entry e) slice) := by
  show execCommit slice entry s = _
  unfold execCommit
  simp only [h]

/-- Taking an occurrence changes no append and no step. -/
theorem appendsWaiting_takeOccurrence : appendsWaiting (takeOccurrence s slice entry e) = appendsWaiting s := by
  have hc : curStep (takeOccurrence s slice entry e) = curStep s :=
    rd_takeOccurrence (by simp only [K.currentStep, K.sweepOverrunCount]; omega)
  simp only [appendsWaiting, hc]
  rfl

/-- The COMMITs that TIER_STALL_LIMIT carries out. -/
theorem exec_tierStallLimit (s : State) : exec .tierStallLimit s = .next
    ((s.sch.commitWait.filter (fun sl => decide (tget s.sch.commitAt sl 0 + gv s K.tierStallLimitNs ≤ now s))).foldl doCommit s) := rfl

/-- A COMMIT that is carried out is done for its slice, and waits no longer. -/
theorem doCommit_done (s : State) (slice : Nat) :
    has (doCommit s slice).sch.commitDone slice = true ∧ has (doCommit s slice).sch.commitWait slice = false :=
  ⟨has_addNew .., has_without ..⟩

/-- The tokens of a Sheet that were pending are visible. -/
theorem commitSheet_visible (n : Nat) (sh : Sheet) (h : 0 < sh.pending) :
    (commitSheet n sh).1.tokenCount = sh.tokenCount + sh.pending ∧ (commitSheet n sh).1.pending = 0 ∧ (commitSheet n sh).1.commitStep = n := by
  unfold commitSheet
  rw [if_neg (by omega)]
  exact ⟨rfl, rfl, rfl⟩

end

/-- Settles O18: whether appends wait, how long COMMITs have waited, and what the end of one leaves. -/
theorem commitMakesTokensVisible : Obligations.CommitMakesTokensVisible := by
  unfold Obligations.CommitMakesTokensVisible
  refine ⟨fun slice entry e s h ha => ?_, fun slice entry e s h ha => ?_, exec_tierStallLimit, fun slice s hw hd => ?_, fun s hw => ?_,
    doCommit_done, commitSheet_visible⟩
  · rw [exec_commit_due h, appendsWaiting_takeOccurrence, ha]
    rfl
  · refine ⟨_, (exec_commit_due h).trans (if_pos (appendsWaiting_takeOccurrence.trans ha)), has_addNew .., ?_, rfl, rfl, rfl⟩
    simp
    rfl
  · rw [exec_tierStallLimit, hw]
    simp [hd]
  · have hn : s.sch.commitWait.filter (fun sl => decide (tget s.sch.commitAt sl 0 + gv s K.tierStallLimitNs ≤ now s)) = [] := by
      simp only [List.filter_eq_nil_iff, decide_eq_true_eq]
      exact fun sl hs => Nat.not_le.mpr (hw sl hs)
    rw [exec_tierStallLimit, hn]
    rfl

/-! ## Queries -/

section

variable {s t : State} {tk : Tk}

theorem exec_query_none (h : takeHead s 1 = none) : exec .query s = .next s := by
  show execQuery s = _
  simp only [execQuery, h]

theorem exec_query_head (h : takeHead s 1 = some (tk, t)) : exec .query s = .next (admitQuery t tk) := by
  show execQuery s = _
  simp only [execQuery, h]

theorem admitQuery_fieldsBad (h : ∀ e, tget? t.trees (qTree tk.raw) = some e → e.depth ≠ 0 ∨ queryFieldsBad t tk.raw = true) :
    admitQuery t tk = refuse t tk St.bounds := by
  unfold admitQuery
  cases he : tget? t.trees (qTree tk.raw) with
  | none => simp only [he]
  | some e =>
    simp only [he]
    exact if_pos (by simpa using h e he)

end

/-- Settles O19: the checks of a query in their order. -/
theorem queryIsAdmitted : Obligations.QueryIsAdmitted := by
  unfold Obligations.QueryIsAdmitted
  refine ⟨fun s t0 t1 t2 t3 t4 u tk e snap payload bitmap nodes c hh he hd hf hm hs ha hr hp hx hc hg => ?_,
    fun s t tk hh h => ?_, fun s => exec_query_none⟩
  · have hm' : (qMask tk.raw == 4 && tkTenant tk.raw != 0 && !on t0 (K.maskBitmapGrant (tkTenant tk.raw))) = false := by
      obtain h | h | h := hm <;> simp [h]
    rw [exec_query_head hh]
    unfold admitQuery
    simp only [he, hd, hf, hm', hs, ha, hr, hp, hx, hc, hg, bne_self_eq_false, Bool.or_self, Bool.false_eq_true, ↓reduceIte]
  · rw [exec_query_head hh, admitQuery_fieldsBad h]

/-! ## Appends and retires -/

section

variable {s t0 t1 t2 : State} {tk : Tk} {m : Ream} {h : Nat} {payload rest : List Byte}

/-- An append that passes its own tests, with its home and its parts. -/
structure AppendRead (s t0 t1 t2 : State) (tk : Tk) (h : Nat) (payload rest : List Byte) : Prop where
  head : takeHead s 2 = some (tk, t0)
  free : handoffHolds t0 tk.raw = false
  fields : appendFieldsBad tk.raw = false
  inside : h = myNode t0 → appendOutside t0 tk.raw = false
  areas : appendAreas t0 tk = 0
  home : homeOf t0 tk.slice (tkTenant tk.raw) (bReam tk.raw) = (t1, some h)
  clean : partsPoisoned t1 tk (aPayload tk.raw) (appendPayload tk.raw (dimOf (aDim tk.raw))) 0 0 = false
  parts : fetchParts t1 tk (aPayload tk.raw) (appendPayload tk.raw (dimOf (aDim tk.raw))) 0 0 = (t2, payload, rest)

theorem exec_append_read (a : AppendRead s t0 t1 t2 tk h payload rest) : exec .append s =
    if h ≠ myNode t2 then .next (forwardHome t2 tk h payload) else .next (admitAppend t2 (newApp t2 tk payload)) := by
  have hout : (some h == some (myNode t0) && appendOutside t0 tk.raw) = false := by
    by_cases hn : h = myNode t0
    · simp [a.inside hn]
    · simp [hn]
  show execAppend s = _
  unfold execAppend
  simp only [a.head, a.free, a.fields, hout, a.areas, a.home, a.clean, a.parts, bne_self_eq_false, Bool.false_eq_true, ↓reduceIte,
    bne_iff_ne, ne_eq]

theorem exec_append_held (hh : takeHead s 2 = some (tk, t0)) (hf : handoffHolds t0 tk.raw = true) :
    exec .append s = .next (hold t0 tk 0xFF) := by
  show execAppend s = _
  unfold execAppend
  simp only [hh, hf, ↓reduceIte]

theorem exec_append_fieldsBad (hh : takeHead s 2 = some (tk, t0)) (hf : handoffHolds t0 tk.raw = false)
    (hb : appendFieldsBad tk.raw = true) : exec .append s = .next (refuse t0 tk St.bounds) := by
  show execAppend s = _
  unfold execAppend
  simp only [hh, hf, hb, Bool.false_eq_true, ↓reduceIte]

theorem exec_append_none (hh : takeHead s 2 = none) : exec .append s = .next s := by
  show execAppend s = _
  unfold execAppend
  simp only [hh]

theorem exec_retire_none (hh : takeHead s 3 = none) : exec .retire s = .next s := by
  show execRetire s = _
  unfold execRetire
  simp only [hh]

theorem exec_retire_unknown (hh : takeHead s 3 = some (tk, t0))
    (ho : homeOf t0 tk.slice (tkTenant tk.raw) (bReam tk.raw) = (t1, none)) : exec .retire s = .next (refuse t1 tk St.bounds) := by
  show execRetire s = _
  unfold execRetire
  simp only [hh, ho]

theorem exec_retire_elsewhere (hh : takeHead s 3 = some (tk, t0))
    (ho : homeOf t0 tk.slice (tkTenant tk.raw) (bReam tk.raw) = (t1, some h)) (hn : h ≠ myNode t1) :
    exec .retire s = .next (forwardHome t1 tk h []) := by
  show execRetire s = _
  unfold execRetire
  simp only [hh, ho]
  exact if_pos (by simpa using hn)

/-- At the home a retire is kept for the COMMIT, the first time. -/
theorem exec_retire_home (hh : takeHead s 3 = some (tk, t0))
    (ho : homeOf t0 tk.slice (tkTenant tk.raw) (bReam tk.raw) = (t1, some (myNode t1)))
    (hk : knownReam t1 (tkTenant tk.raw) (bReam tk.raw) = some m) : exec .retire s =
    if m.retiredSet = true ∨ t1.att.retires.any (fun x => tkTenant x.raw == tkTenant tk.raw && bReam x.raw == bReam tk.raw) = true
    then .next (complete t1 tk St.revoked 0 0) else .next { t1 with att := { t1.att with retires := t1.att.retires ++ [tk] } } := by
  show execRetire s = _
  unfold execRetire
  simp only [hh, ho, hk, bne_self_eq_false, Bool.false_eq_true, ↓reduceIte, Bool.or_eq_true]

end

/-- Settles O20: the tests of an append and of a retire in their order. -/
theorem appendsAndRetiresAreAdmitted : Obligations.AppendsAndRetiresAreAdmitted := by
  unfold Obligations.AppendsAndRetiresAreAdmitted
  refine ⟨fun s t0 t1 t2 tk payload rest hh hf hb hi ha ho hp hx hn => ?_, fun s t0 t1 tk m hh ho hk hr hq => ?_,
    fun s t0 t1 tk m hh ho hk hr => ?_, fun s t0 t1 tk => exec_retire_unknown, fun s => rfl,
    fun s t0 t1 t2 tk h payload rest hh hf hb ha ho hn hp hx hn2 => ?_, fun s t tk => exec_append_held,
    fun s t tk => exec_append_fieldsBad, fun s t0 t1 tk h => exec_retire_elsewhere, fun s => ⟨exec_append_none, exec_retire_none⟩⟩
  · rw [exec_append_read ⟨hh, hf, hb, fun _ => hi, ha, ho, hp, hx⟩, if_neg (by simp [hn])]
  · rw [exec_retire_home hh ho hk, if_neg (by simp only [hr, hq]; simp)]
  · rw [exec_retire_home hh ho hk, if_pos hr]
  · rw [exec_append_read ⟨hh, hf, hb, fun h => absurd h hn, ha, ho, hp, hx⟩, if_pos hn2]

/-! ## Wholes -/

section

variable {s t u : State} {link src vl depth key id whole offset : Nat} {part : List Byte} {g h : Gather}

/-- Taking space leaves what is gathered. -/
theorem takeSpread_att (s : State) (k : HoldKind) (id n : Nat) : (takeSpread s k id n).att = s.att := by
  have hf (f : Nat → Nat) (b : Nat) (l : List Nat) (s : State) : (l.foldl (fun t sl => takeHold t k id (f sl) b) s).att = s.att := by
    induction l generalizing s with
    | nil => rfl
    | cons x l ih =>
      rw [List.foldl_cons, ih]
      unfold takeHold
      split <;> rfl
  exact hf carryingStack _ _ s

/-- A whole that is begun: nothing has come of it yet, and it has its space. -/
theorem openGather_spec {base : Nat} (ho : openGather s link src vl key base whole = (t, g)) :
    (g.src = src ∧ g.vl = vl ∧ g.key = key ∧ g.base = base ∧ g.firstAt = s.tm.ec ∧ t.att = s.att) ∧ g.parts = [] ∧ g.got = 0 := by
  cases ho
  exact ⟨⟨rfl, rfl, rfl, rfl, rfl, takeSpread_att ..⟩, rfl, rfl⟩

/-- The first part of a whole opens it. -/
theorem exec_ticketMessage_first
    (hn : s.att.gathers.find? (fun g => g.src == src && g.vl == vl && g.key == key && g.base == partBase id offset) = none)
    (ho : openGather s link src vl key (partBase id offset) whole = (t, g))
    (hh : h = { g with parts := [(offset, part)], got := 0 + part.length })
    (hu : u = { t with att := { t.att with gathers := t.att.gathers.filter (fun x => x.buf != g.buf) ++ [h] } }) :
    exec (.ticketMessage link src vl depth key whole offset ⟨id, part⟩) s = if part.length < whole then .next u
      else .next (arriveWhole (freeGather u h) link src vl depth key part) := by
  obtain ⟨-, hp, hg⟩ := openGather_spec ho
  subst hh hu
  show execTicketMessage link src vl depth key whole offset ⟨id, part⟩ s = _
  unfold execTicketMessage
  simp only [hn, ho, hp, hg, insPart, List.flatMap_cons, List.flatMap_nil, List.append_nil, Nat.zero_add]

/-- A later one joins it; the whole arrives once its bytes are all there. -/
theorem exec_ticketMessage_later
    (hs : s.att.gathers.find? (fun g => g.src == src && g.vl == vl && g.key == key && g.base == partBase id offset) = some g)
    (hh : h = { g with parts := insPart (offset, part) g.parts, got := g.got + part.length })
    (hu : u = { s with att := { s.att with gathers := s.att.gathers.filter (fun x => x.buf != g.buf) ++ [h] } }) :
    exec (.ticketMessage link src vl depth key whole offset ⟨id, part⟩) s = if g.got + part.length < whole then .next u
      else .next (arriveWhole (freeGather u h) link src vl depth key (h.parts.flatMap Prod.snd)) := by
  subst hh hu
  show execTicketMessage link src vl depth key whole offset ⟨id, part⟩ s = _
  unfold execTicketMessage
  simp only [hs]

theorem exec_ticketWholeTimeout_drops
    (hg : s.att.gathers.find? (fun g => g.src == src && g.vl == vl && passed s g.firstAt (rd s K.reassemblyTimeoutNs)) = some g) :
    exec (.ticketWholeTimeout src vl) s = .next (freeGather s g) := by
  show execTicketWholeTimeout src vl s = _
  unfold execTicketWholeTimeout
  simp only [hg]

theorem exec_ticketWholeTimeout_early (hg : ∀ g ∈ s.att.gathers, passed s g.firstAt (rd s K.reassemblyTimeoutNs) = false) :
    exec (.ticketWholeTimeout src vl) s = .next s := by
  have hn : s.att.gathers.find? (fun g => g.src == src && g.vl == vl && passed s g.firstAt (rd s K.reassemblyTimeoutNs)) = none := by
    refine List.find?_eq_none.mpr fun g h => ?_
    simp [hg g h]
  show execTicketWholeTimeout src vl s = _
  unfold execTicketWholeTimeout
  simp only [hn]

theorem freeGather_gathers : ∀ x ∈ (freeGather s g).att.gathers, x.buf ≠ g.buf := by
  intro x hx
  simpa using (List.mem_filter.mp hx).2

end

/-- Settles O21: whether the part is the first of its whole, and whether the whole is complete. -/
theorem wholesAreGathered : Obligations.WholesAreGathered := by
  unfold Obligations.WholesAreGathered
  refine ⟨fun link src vl depth key id whole offset part s t u g h hn ho hh hu => ?_,
    fun link src vl depth key id whole offset part s u g h hs hh hu => ?_, fun link src vl depth key whole s ht => ?_,
    fun src vl g s => exec_ticketWholeTimeout_drops, fun src vl s => exec_ticketWholeTimeout_early,
    fun link src vl key base whole s t g ho => (openGather_spec ho).1, fun g s => freeGather_gathers⟩
  · rw [exec_ticketMessage_first hn ho hh hu]
    exact ⟨fun h => if_pos h, fun h => if_neg (Nat.not_lt.mpr h)⟩
  · rw [exec_ticketMessage_later hs hh hu]
    exact ⟨fun h => if_pos h, fun h => if_neg (Nat.not_lt.mpr h)⟩
  · show execQueryForwardArrive link src vl depth key whole s = _
    unfold execQueryForwardArrive
    exact if_pos (by simp [ht])

end Sys2Proof.Machine
end

section
/-! SUPPORT. The stages of a share (R151 to R153, R160). -/

namespace Sys2Proof.Machine

section

variable {s t : State} {slice : Nat} {x y z : Share} {c d : Ctx}

/-- A share that may be staged, after it has handed on its strays. -/
structure Dispatched (s t : State) (slice : Nat) (x y : Share) (c d : Ctx) : Prop where
  room : placesUsed s slice < 16
  next : nextShare s slice = some x
  ctx : ctxOf s x.ctx = some c
  handed : handStrays s c x = (t, d, y)

theorem exec_shareDispatch_empty (h : Dispatched s t slice x y c d) (hy : y.sheets = []) (hx : x.sheets ≠ []) :
    exec (.shareDispatch slice) s = .next (dropShare (putCtx t { d with ownOut := without d.ownOut x.id }) x) := by
  show execShareDispatch slice s = _
  unfold execShareDispatch
  rw [if_neg (Nat.not_le.mpr h.room)]
  simp only [h.next, h.ctx, h.handed]
  exact if_pos (by simp [hy, hx])

/-- One that keeps Sheets is staged where its Quires are here, and else parks, or waits for room to park. -/
theorem exec_shareDispatch_keeps (h : Dispatched s t slice x y c d) (hz : z = dropPoisoned t y) (hy : y.sheets ≠ [] ∨ x.sheets = []) :
    exec (.shareDispatch slice) s = if absentQuires t z = [] then .next (stageShare t slice d z)
      else if rd t K.parkedLimit ≤ parkedNow t slice then .next (putShare t { z with meta_ := x.meta_, stage := .waitPark })
      else .next (parkShare t { z with meta_ := x.meta_ } (absentQuires t z)) := by
  subst hz
  show execShareDispatch slice s = _
  unfold execShareDispatch
  rw [if_neg (Nat.not_le.mpr h.room)]
  simp only [h.next, h.ctx, h.handed]
  rw [if_neg (by obtain h | h := hy <;> simp [h])]
  simp only [List.isEmpty_iff]

theorem exec_shareDispatch_idle (h : 16 ≤ placesUsed s slice ∨ nextShare s slice = none) :
    exec (.shareDispatch slice) s = .next s := by
  show execShareDispatch slice s = _
  unfold execShareDispatch
  by_cases hp : 16 ≤ placesUsed s slice
  · exact if_pos hp
  · rw [if_neg hp, h.resolve_left hp]

theorem exec_shareResume_some (h : (sliceShares s slice).find? (fun x => x.stage == .parked && quiresHere s x) = some x) :
    exec (.shareResume slice) s = .next (endPark s x ((stallCauses s x.wants).headD 4)) := by
  show execShareResume slice s = _
  unfold execShareResume
  simp only [h]

theorem exec_shareResume_none (h : ∀ x ∈ sliceShares s slice, x.stage = .parked → quiresHere s x = false) :
    exec (.shareResume slice) s = .next s := by
  have hn : (sliceShares s slice).find? (fun x => x.stage == .parked && quiresHere s x) = none := by
    refine List.find?_eq_none.mpr fun x hx => ?_
    by_cases hs : x.stage = .parked
    · simp [h x hx hs]
    · simp [hs]
  show execShareResume slice s = _
  unfold execShareResume
  simp only [hn]

/-- The first staged share of a slice whose stream stage is free. -/
structure Streamable (s : State) (slice : Nat) (x : Share) (c : Ctx) : Prop where
  free : ∀ z ∈ sliceShares s slice, z.stage ≠ .stream
  ready : stackReady s slice = true
  engines : hasEngines s slice = true
  first : (sliceShares s slice).find? (fun z => z.stage == .staged) = some x
  ctx : ctxOf s x.ctx = some c

theorem Streamable.open (h : Streamable s slice x c) :
    ((sliceShares s slice).any (fun x => x.stage == .stream) || !stackReady s slice || !hasEngines s slice) = false := by
  have : (sliceShares s slice).any (fun x => x.stage == .stream) = false := by
    simp only [List.any_eq_false, beq_iff_eq]
    exact h.free
  simp [this, h.ready, h.engines]

theorem exec_shareStreamStart_asks (h : Streamable s slice x c)
    (hg : hasGrant s slice 0 = false ∨ hasGrant s (stackHolder (carryingStack slice)) 0 = false) :
    exec (.shareStreamStart slice) s = .next (askGrant (askGrant s slice 0 (streamSpan s x (cRows c)))
      (stackHolder (carryingStack slice)) 0 (streamSpan s x (cRows c))) := by
  show execShareStreamStart slice s = _
  unfold execShareStreamStart
  simp only [h.open, h.first, h.ctx, Bool.false_eq_true, ↓reduceIte]
  exact if_pos (by obtain h | h := hg <;> simp [h])

theorem exec_shareStreamStart_starts (h : Streamable s slice x c) (h1 : hasGrant s slice 0 = true)
    (h2 : hasGrant s (stackHolder (carryingStack slice)) 0 = true) (ht : t = loadContexts s slice)
    (hl : arrayOn t slice = true → ctxLoaded (stackSt t slice) x = true)
    (hy : (if x.felt != 0 then some x else takePass t x (cRows c)) = some y) :
    exec (.shareStreamStart slice) s = .next (startPass (useGrant (useGrant t slice 0) (stackHolder (carryingStack slice)) 0)
      { y with stage := .stream, streamAt := t.tm.ec } (cRows c)) := by
  subst ht
  have hc : (arrayOn (loadContexts s slice) slice && !ctxLoaded (stackSt (loadContexts s slice) slice) x) = false := by
    cases ha : arrayOn (loadContexts s slice) slice with
    | false => rfl
    | true => simp [hl ha]
  show execShareStreamStart slice s = _
  unfold execShareStreamStart
  simp only [h.open, h.first, h.ctx, h1, h2, hc, hy, Bool.and_self, Bool.not_true, Bool.false_eq_true, ↓reduceIte]

theorem exec_passStart_next (hx : (sliceShares s slice).find? (fun z => z.stage == .stream) = some x) (hc : ctxOf s x.ctx = some c)
    (hp : x.pass + (if x.felt = 0 then 0 else 1) < passCount (cRows c) x.sheets.length) (he : endPass s c x = (t, y)) (hf : y.felt = 0)
    (hz : takePass t y (cRows c) = some z) : exec (.passStart slice) s = .next (startPass t z (cRows c)) := by
  show execPassStart slice s = _
  unfold execPassStart
  simp only [hx, hc, he, hf, hz]
  rw [if_neg (Nat.not_le.mpr hp)]
  rfl

/-- A pass that is finished is counted, and no Sheet is dropped. -/
theorem finishPass_counted (s : State) (c : Ctx) (x : Share) :
    (finishPass s c x).2.pass = x.pass + 1 ∧ (finishPass s c x).2.sheets = x.sheets := by
  have hd : (dropBad s x (passSheets x (cRows c))).pass = x.pass ∧ (dropBad s x (passSheets x (cRows c))).sheets = x.sheets :=
    ⟨rfl, rfl⟩
  unfold finishPass
  extract_lets rows m fac all y
  obtain ⟨hp, hs⟩ : y.pass = x.pass ∧ y.sheets = x.sheets := hd
  clear_value y
  split
  split
  extract_lets
  split
  · next h0 => exact ⟨by rw [← hp, h0], hs⟩
  · exact ⟨congrArg (· + 1) hp, hs⟩

/-- The end of a pass counts it; a pass that has not been scored does not end. -/
theorem endPass_cases (he : endPass s c x = (t, y)) : (t = s ∧ y = x) ∨ (y.pass = x.pass + 1 ∧ y.sheets = x.sheets) := by
  unfold endPass at he
  split at he
  · cases he
    exact .inr (finishPass_counted s c x)
  · cases he
    exact .inl ⟨rfl, rfl⟩

theorem exec_shareRecord (hx : (sliceShares s slice).find? (fun z => z.stage == .stream) = some x) (hc : ctxOf s x.ctx = some c)
    (he : (if x.pass + 1 = passCount (cRows c) x.sheets.length then endPass s c x else (s, x)) = (t, y)) :
    exec (.shareRecord slice) s = if y.pass < passCount (cRows c) y.sheets.length then .next t
      else .next (loadContexts (dropShare (deliver t c y) y) slice) := by
  show execShareRecord slice s = _
  unfold execShareRecord
  simp only [hx, hc, beq_iff_eq, he]

/-- With passes left, nothing has ended. -/
theorem eq_of_passes_left (he : (if x.pass + 1 = passCount (cRows c) x.sheets.length then endPass s c x else (s, x)) = (t, y))
    (hp : y.pass < passCount (cRows c) y.sheets.length) : t = s := by
  split at he
  · next hl =>
    obtain ⟨ht, -⟩ | ⟨hy, hs⟩ := endPass_cases he
    · exact ht
    · rw [hy, hs, hl] at hp
      exact absurd hp (Nat.lt_irrefl _)
  · cases he; rfl

end

/-- Settles O24: each stage's share and what it needs. -/
theorem sharesRunThroughTheirStages : Obligations.SharesRunThroughTheirStages := by
  unfold Obligations.SharesRunThroughTheirStages
  refine ⟨fun slice s t x y z c d hp hn hc hh hz => ⟨fun hy hx => exec_shareDispatch_empty ⟨hp, hn, hc, hh⟩ hy hx,
      fun hy => ⟨fun ha => ?staged, fun ha hr => ?parks, fun ha hr => ?waits⟩⟩,
    fun slice s h => exec_shareDispatch_idle h, fun slice s x h => exec_shareResume_some h, fun slice s h => exec_shareResume_none h,
    fun slice v s t x y c hf hr he hx hc hv h1 h2 ht hl hy => ?streams,
    fun slice v n s x c hf hr he hx hc hv hn hg => ?asks, fun slice s t x y z c hx hc hp he hf hz => exec_passStart_next hx hc hp he hf hz,
    fun slice s t x y c hx hc he => ⟨fun hp => ?record, fun hp => ?goesOn⟩⟩
  case staged => rw [exec_shareDispatch_keeps ⟨hp, hn, hc, hh⟩ hz hy, if_pos ha]
  case parks => rw [exec_shareDispatch_keeps ⟨hp, hn, hc, hh⟩ hz hy, if_neg ha, if_neg (Nat.not_le.mpr hr)]
  case waits => rw [exec_shareDispatch_keeps ⟨hp, hn, hc, hh⟩ hz hy, if_neg ha, if_pos hr]
  case streams =>
    subst hv
    exact exec_shareStreamStart_starts ⟨hf, hr, he, hx, hc⟩ h1 h2 ht hl hy
  case asks =>
    subst hv hn
    exact exec_shareStreamStart_asks ⟨hf, hr, he, hx, hc⟩ hg
  case record => rw [exec_shareRecord hx hc he, if_neg (Nat.not_lt.mpr hp)]
  case goesOn => rw [exec_shareRecord hx hc he, if_pos hp, eq_of_passes_left he hp]

end Sys2Proof.Machine
end

section
/-! SUPPORT. Flips, fences and snoop responses (R178 to R181, R290, R359). -/

namespace Sys2Proof.Machine

/-! ## Blocks in device and in host bias -/

theorem mem_addNew {l : List Nat} {n k : Nat} : k ∈ addNew l n ↔ k ∈ l ∨ k = n := by
  unfold addNew
  split
  · next h =>
    have hn : n ∈ l := by simpa [has] using h
    exact ⟨.inl, fun h => h.elim id fun e => e ▸ hn⟩
  · simp

theorem mem_foldl_addNew {l d : List Nat} {k : Nat} : k ∈ l.foldl addNew d ↔ k ∈ d ∨ k ∈ l := by
  induction l generalizing d with
  | nil => simp
  | cons a l ih => rw [List.foldl_cons, ih, mem_addNew, List.mem_cons, or_assoc]

/-- A flip takes the blocks of its range out of host bias, or puts them there, and no others. -/
theorem hostBias_flips (s : State) (a n b : Nat) :
    (b ∈ (toDevice s a n).mem.hostBias ↔ b ∈ s.mem.hostBias ∧ (b < a / blockBytes ∨ a / blockBytes + n / blockBytes ≤ b)) ∧
    (b ∈ (toHost s a n).mem.hostBias ↔ b ∈ s.mem.hostBias ∨ (a / blockBytes ≤ b ∧ b < a / blockBytes + n / blockBytes)) := by
  refine ⟨by simp [toDevice], ?_⟩
  simp only [toHost, mem_foldl_addNew, blocksOf, mem_upFrom]

/-! ## Tickets -/

section

variable {s t : State} {tk : Tk}

theorem exec_flipToDevice_taken (h : takeFence s (fun o => o == 1) = some (tk, t)) : exec .flipToDevice s =
    if fenceTest t tk.raw ≠ 0 then .next (refuseArea t tk (fenceTest t tk.raw))
    else .next (complete (bump (toDevice t (fAddr tk.raw) (fLength tk.raw)) K.flipsCompleted 1) tk St.ok 0 0) := by
  show execFlipToDevice s = _
  unfold execFlipToDevice
  simp only [h, bne_iff_ne]

theorem exec_flipToHost_taken (h : takeFence s (fun o => o == 2) = some (tk, t)) : exec .flipToHost s =
    if fenceTest t tk.raw ≠ 0 then .next (refuseArea t tk (fenceTest t tk.raw))
    else .next (complete (bump (toHost t (fAddr tk.raw) (fLength tk.raw)) K.flipsCompleted 1) tk St.ok 0 0) := by
  show execFlipToHost s = _
  unfold execFlipToHost
  simp only [h, bne_iff_ne]

theorem exec_fence_taken (h : takeFence s (fun o => o != 1 && o != 2) = some (tk, t)) : exec .fence s =
    if fenceTest t tk.raw ≠ 0 then .next (refuseArea t tk (fenceTest t tk.raw))
    else .next { t with fences := t.fences ++
      [{ tk := tk, op := 3, base := fAddr tk.raw, len := fLength tk.raw, writes := heldWrites t (fAddr tk.raw) (fLength tk.raw) }] } := by
  show execFence s = _
  unfold execFence
  simp only [h, bne_iff_ne]

theorem exec_flipToDevice_none (h : takeFence s (fun o => o == 1) = none) : exec .flipToDevice s = .next s := by
  show execFlipToDevice s = _
  unfold execFlipToDevice
  simp only [h]

theorem exec_flipToHost_none (h : takeFence s (fun o => o == 2) = none) : exec .flipToHost s = .next s := by
  show execFlipToHost s = _
  unfold execFlipToHost
  simp only [h]

theorem exec_fence_none (h : takeFence s (fun o => o != 1 && o != 2) = none) : exec .fence s = .next s := by
  show execFence s = _
  unfold execFence
  simp only [h]

/-- A fence whose held writes have reached DRAM ends. -/
theorem exec_fenceDone_over {id : Nat} {f : Fence} (h : s.fences.find? (fun f => f.tk.id == id && f.writes.isEmpty) = some f)
    (ht : t = { s with fences := s.fences.filter (fun x => x.tk.id != id) }) : exec (.fenceDone id) s = .next (fenceEnd t f) := by
  subst ht
  show execFenceDone id s = _
  unfold execFenceDone
  simp only [h]

theorem exec_fenceDone_waits {id : Nat} (h : ∀ f ∈ s.fences, f.tk.id = id → f.writes ≠ []) : exec (.fenceDone id) s = .next s := by
  have hn : s.fences.find? (fun f => f.tk.id == id && f.writes.isEmpty) = none := by
    refine List.find?_eq_none.mpr fun f hf => ?_
    by_cases hi : f.tk.id = id
    · simp [h f hf hi]
    · simp [hi]
  show execFenceDone id s = _
  unfold execFenceDone
  simp only [hn]

theorem exec_hostSnoopResponse_free {line : Nat} (h : has s.mem.snoops line = false) :
    exec (.hostSnoopResponse line) s = .next s := by
  show execHostSnoopResponse line s = _
  unfold execHostSnoopResponse
  exact if_pos (by simp [h])

/-- The last snoop response of a run that is being unmapped ends its unmapping. -/
theorem exec_hostSnoopResponse_last {line : Nat} {m : Mapped} (h : has s.mem.snoops line = true)
    (ht : t = { s with mem := { s.mem with snoops := without s.mem.snoops line } })
    (hm : mapAt t (line * 64) = some m) (hu : m.unmapping = true)
    (hl : ∀ l ∈ t.mem.snoops, l < m.base / 64 ∨ m.base / 64 + m.blocks * 1024 ≤ l) :
    exec (.hostSnoopResponse line) s = .next (finishUnmap t m) := by
  subst ht
  show execHostSnoopResponse line s = _
  unfold execHostSnoopResponse
  rw [if_neg (by simp [h])]
  simp only [hm]
  refine if_pos ?_
  simp only [hu, Bool.true_and, Bool.not_eq_true', List.any_eq_false, Bool.and_eq_true, decide_eq_true_eq]
  intro l hl'
  have := hl l hl'
  omega

/-- Any other snoop response is taken off the lines that wait, and no more. -/
theorem exec_hostSnoopResponse_more {line : Nat} (h : has s.mem.snoops line = true)
    (ht : t = { s with mem := { s.mem with snoops := without s.mem.snoops line } })
    (hl : ∀ m, mapAt t (line * 64) = some m → m.unmapping = true →
      ∃ l ∈ t.mem.snoops, m.base / 64 ≤ l ∧ l < m.base / 64 + m.blocks * 1024) :
    exec (.hostSnoopResponse line) s = .next t := by
  subst ht
  show execHostSnoopResponse line s = _
  unfold execHostSnoopResponse
  rw [if_neg (by simp [h])]
  cases hm : mapAt { s with mem := { s.mem with snoops := without s.mem.snoops line } } (line * 64) with
  | none => simp only [hm]
  | some m =>
    simp only [hm]
    refine if_neg ?_
    intro hc
    simp only [Bool.and_eq_true, Bool.not_eq_true', List.any_eq_false, decide_eq_true_eq] at hc
    obtain ⟨l, hmem, hin⟩ := hl m hm hc.1
    exact hc.2 l hmem hin

end

/-- Settles O28: flips and fences are taken, refused or absent, and snoop responses come off the lines that wait. -/
theorem flipsAndFencesComplete : Obligations.FlipsAndFencesComplete := by
  unfold Obligations.FlipsAndFencesComplete
  refine ⟨fun s t tk ht => ?toDevice, fun s t tk ht => ?toHost, fun s t tk ht => ?fence,
    fun s => ⟨exec_flipToDevice_none, exec_flipToHost_none, exec_fence_none⟩, hostBias_flips,
    fun id s t f hf ht => ?ended, fun id s => exec_fenceDone_waits,
    fun line s t h ht => ⟨fun m => exec_hostSnoopResponse_last h ht, exec_hostSnoopResponse_more h ht⟩,
    fun line s => exec_hostSnoopResponse_free⟩
  case toDevice =>
    rw [exec_flipToDevice_taken ht]
    exact ⟨fun h => if_neg (not_not_intro h), fun h => if_pos h⟩
  case toHost =>
    rw [exec_flipToHost_taken ht]
    exact ⟨fun h => if_neg (not_not_intro h), fun h => if_pos h⟩
  case fence =>
    rw [exec_fence_taken ht]
    exact ⟨fun h => if_neg (not_not_intro h), fun h => if_pos h⟩
  case ended =>
    rw [exec_fenceDone_over hf ht]
    exact ⟨fun h => by rw [fenceEnd, if_pos h], fun h => by rw [fenceEnd, if_neg (by simp [h])]⟩

end Sys2Proof.Machine
end

section
/-! SUPPORT. Moves, builds and demotions (R186, R194, R211, R258 to R272, R281, R410). -/

namespace Sys2Proof.Machine

section

variable {qk slice tenant : Nat} {times : List Nat} {s t : State} {q : Quire} {m : Move}

/-! ## Moves -/

/-- A move of a tier, not of a rebalance or a handoff, which are switched elsewhere, switches or meets an error. -/
theorem exec_quireMoveSwitch_tier (hq : tget? s.kv.quires qk = some q) (hm : q.move = some m) (h4 : m.target ≠ 4) (h7 : m.target ≠ 7) :
    exec (.quireMoveSwitch qk times) s =
      if moveOk s qk q m = true then .next (settleLeases (afterMove (switchMove (countLate s q m times) qk q m)))
      else .next (moveErrorAt (countLate s q m times) qk (accessFails s q m)) := by
  show execQuireMoveSwitch qk times s = _
  unfold execQuireMoveSwitch
  simp only [hq, hm]
  rw [if_neg (by simp [h4, h7])]
  cases moveOk s qk q m <;> rfl

/-- Where the Quire has no move of its own tier, MOVE_SWITCH does nothing. -/
theorem exec_quireMoveSwitch_none
    (h : ∀ q m, tget? s.kv.quires qk = some q → q.move = some m → m.target = 4 ∨ m.target = 7) :
    exec (.quireMoveSwitch qk times) s = .next s := by
  show execQuireMoveSwitch qk times s = _
  unfold execQuireMoveSwitch
  cases hq : tget? s.kv.quires qk with
  | none => rfl
  | some q =>
    cases hm : q.move with
    | none => simp only [hm]
    | some m =>
      simp only [hm]
      exact if_pos (by simpa using h q m hq hm)

/-- The late Vat accesses of a move are counted against the region that it reads, or else against the one it writes. -/
theorem countLate_cases {n : Nat} (hn : n = (times.filter (fun t => decide (rd s K.vatLateNs < t))).length) :
    (2 ≤ q.tier → countLate s q m times = bump s (K.vatLateCount q.region) n) ∧
    (q.tier < 2 → m.target = 2 ∨ m.target = 3 → countLate s q m times = bump s (K.vatLateCount m.region) n) ∧
    (q.tier < 2 → m.target ≠ 2 → m.target ≠ 3 → countLate s q m times = s) := by
  subst hn
  refine ⟨fun h => if_pos h, fun h ht => ?_, fun h h2 h3 => ?_⟩
  · exact (if_neg (Nat.not_le.mpr h)).trans (if_pos (by simpa using ht))
  · exact (if_neg (Nat.not_le.mpr h)).trans (if_neg (by simp [h2, h3]))

theorem exec_quireRebalanceSwitch_open (hq : tget? s.kv.quires qk = some q) (hm : q.move = some m) (h4 : m.target = 4)
    (hw : has s.sch.maint q.slice = true) : exec (.quireRebalanceSwitch qk) s =
      if bgReady s q.slice = true then .next (afterMove (switchMove s qk q m)) else .next (askBudget s q.slice 3 8) := by
  show execQuireRebalanceSwitch qk s = _
  unfold execQuireRebalanceSwitch
  simp only [hq, hm]
  rw [if_neg (by simp [h4, hw])]
  cases bgReady s q.slice <;> rfl

/-- Without a rebalance copy, or outside the maintenance window, REBALANCE_SWITCH does nothing. -/
theorem exec_quireRebalanceSwitch_none
    (h : ∀ q m, tget? s.kv.quires qk = some q → q.move = some m → m.target ≠ 4 ∨ has s.sch.maint q.slice = false) :
    exec (.quireRebalanceSwitch qk) s = .next s := by
  show execQuireRebalanceSwitch qk s = _
  unfold execQuireRebalanceSwitch
  cases hq : tget? s.kv.quires qk with
  | none => rfl
  | some q =>
    cases hm : q.move with
    | none => simp only [hm]
    | some m =>
      simp only [hm]
      exact if_pos (by simpa using h q m hq hm)

/-- An access error of a move is counted against the Vat region that it reads, or else against the one it writes;
the copy of a salvage ends with its error. -/
theorem moveErrorAt_move {access : Bool} (hq : tget? s.kv.quires qk = some q) (hm : q.move = some m) (h7 : m.target ≠ 7)
    (ht : t = (if access = false then s else if 2 ≤ q.tier then bump s (K.vatErrors q.region) 1
         else if m.target = 2 ∨ m.target = 3 then bump s (K.vatErrors m.region) 1 else s)) :
    moveErrorAt s qk access = afterMove (if m.target = 5 then endSalvage (errorMove t qk q m) qk else errorMove t qk q m) := by
  subst ht
  unfold moveErrorAt
  simp only [hq, hm]
  rw [if_neg (by simp [h7])]
  simp only [Bool.not_eq_true', Bool.or_eq_true, beq_iff_eq]

theorem moveErrorAt_none {access : Bool} (h : ∀ q m, tget? s.kv.quires qk = some q → q.move = some m → m.target = 7) :
    moveErrorAt s qk access = s := by
  unfold moveErrorAt
  cases hq : tget? s.kv.quires qk with
  | none => rfl
  | some q =>
    cases hm : q.move with
    | none => simp only [hm]
    | some m =>
      simp only [hm]
      exact if_pos (by simpa using h q m hq hm)

/-! ## Builds of Deckles -/

/-- The first queued build of the slice whose K half is in HBM. -/
abbrev nextBuild (s : State) (slice : Nat) : Option Nat :=
  s.kv.builds.find? (fun k => match tget? s.kv.quires (quireOfSheet k) with
    | some q => q.slice == slice && q.tier == 0 | none => false)

/-- The first queued build is taken: the Deckle of its Sheet, where that is still there, is built. -/
def buildAt (s : State) (k : Nat) : State :=
  match tget? s.kv.sheets k with
  | none => { s with kv := { s.kv with builds := without s.kv.builds k } }
  | some sh =>
    { s with kv := { s.kv with
        builds := without s.kv.builds k
        deckles := tset s.kv.deckles k (buildDeckle s sh)
        quires := tmod s.kv.quires (quireOfSheet k) (fun q => { q with deckled := addNew q.deckled (k % 16) }) } }

variable {k : Nat}

theorem exec_deckleBuild_next (he : on s K.deckleEnable = true) (hw : engineWaits s = false) (hk : nextBuild s slice = some k) :
    exec (.deckleBuild slice) s = .next (if bgReady s slice = true then buildAt s k else askBudget s slice 3 8) := by
  show execDeckleBuild slice s = _
  unfold execDeckleBuild
  rw [if_neg (by simp [he, hw])]
  split
  · next hn => exact absurd (hk.symm.trans hn) (by simp)
  · next k' hk' =>
    obtain rfl : k = k' := Option.some.inj (hk.symm.trans hk')
    cases bgReady s slice with
    | false => rfl
    | true =>
      cases hs : tget? s.kv.sheets k <;> simp only [buildAt, hs] <;> rfl

theorem buildAt_sheet {sh : Sheet} (hs : tget? s.kv.sheets k = some sh) :
    tget? (buildAt s k).kv.deckles k = some (buildDeckle s sh) ∧ has (buildAt s k).kv.builds k = false ∧
    buildAt s k = { s with kv := { s.kv with
      builds := (buildAt s k).kv.builds, deckles := (buildAt s k).kv.deckles, quires := (buildAt s k).kv.quires } } := by
  simp only [buildAt, hs, tget?_tset, ↓reduceIte, and_true, true_and]
  exact has_without ..

theorem buildAt_none (hs : tget? s.kv.sheets k = none) :
    buildAt s k = { s with kv := { s.kv with builds := without s.kv.builds k } } := by
  simp only [buildAt, hs]

/-- No Deckle is built while they are off, while a selection or a search waits, or where the slice has none queued in HBM. -/
theorem exec_deckleBuild_none (h : on s K.deckleEnable = false ∨ engineWaits s = true ∨
    (∀ k ∈ s.kv.builds, ∀ q, tget? s.kv.quires (quireOfSheet k) = some q → q.slice ≠ slice ∨ q.tier ≠ 0)) :
    exec (.deckleBuild slice) s = .next s := by
  show execDeckleBuild slice s = _
  unfold execDeckleBuild
  by_cases hoff : on s K.deckleEnable = false ∨ engineWaits s = true
  · exact if_pos (by simpa using hoff)
  · have hall := (or_assoc.mpr h).resolve_left hoff
    have hn : nextBuild s slice = none := List.find?_eq_none.mpr fun k hk => by
      cases hq : tget? s.kv.quires (quireOfSheet k) with
      | none => simp
      | some q => simpa [Decidable.imp_iff_not_or] using hall k hk q hq
    rw [if_neg (by simpa using hoff)]
    split
    · rfl
    · next k hk => exact absurd (hn.symm.trans hk) (by simp)

/-! ## Demotions -/

/-- Whether the slice has less free space than demotion asks: it starts below the low mark and goes on below the high one. -/
abbrev demotes (s : State) (slice : Nat) : Prop :=
  on s K.vatEnable = true ∧ slice < 4 ∧ (slicePlan s slice < mib (gv s K.scoringReserveMib + gv s K.vatDemoteLowMib) ∨
    (has s.kv.demoting slice = true ∧ slicePlan s slice < mib (gv s K.vatDemoteHighMib)))

section

variable (hd : demotes s slice) (ht : t = { s with kv := { s.kv with demoting := addNew s.kv.demoting slice } })
include hd ht

/-- A demotion that another coding, or a tenant over its quota, comes before starts nothing. -/
theorem exec_demotionStart_held (h : coderBusy t slice = true ∨ ∃ x < 256, overNext t x ≠ none) :
    exec (.demotionStart slice) s = .next t := by
  subst ht
  show execDemotionStart slice s = _
  unfold execDemotionStart
  refine (if_neg (by simpa only [Bool.not_eq_true', Bool.not_eq_false, Bool.and_eq_true, Bool.or_eq_true, decide_eq_true_eq,
    and_assoc] using hd)).trans (if_pos ?_)
  simpa [Option.isSome_iff_ne_none, mem_upFrom] using h

theorem exec_demotionStart_free (hc : coderBusy t slice = false) (ho : ∀ x < 256, overNext t x = none) :
    exec (.demotionStart slice) s =
      match coldestOf ((demoteCandidates t).filter (fun p => p.2.slice == slice)) with
      | none => .next t
      | some c => if bgReady t slice then .next (demote t c) else .next (askBudget t slice 3 8) := by
  subst ht
  show execDemotionStart slice s = _
  unfold execDemotionStart
  refine (if_neg (by simpa only [Bool.not_eq_true', Bool.not_eq_false, Bool.and_eq_true, Bool.or_eq_true, decide_eq_true_eq,
    and_assoc] using hd)).trans ((if_neg ?_).trans rfl)
  simpa [hc, mem_upFrom] using ho

end

theorem exec_demotionStart_none (h : on s K.vatEnable = false ∨ 4 ≤ slice ∨
    (mib (gv s K.scoringReserveMib + gv s K.vatDemoteLowMib) ≤ slicePlan s slice ∧
      (has s.kv.demoting slice = false ∨ mib (gv s K.vatDemoteHighMib) ≤ slicePlan s slice))) :
    exec (.demotionStart slice) s = .next { s with kv := { s.kv with demoting := without s.kv.demoting slice } } := by
  show execDemotionStart slice s = _
  unfold execDemotionStart
  refine if_pos ?_
  rcases h with h | h | ⟨hl, h | h⟩
  · simp [h]
  · simp [Nat.not_lt.mpr h]
  · simp [Nat.not_lt.mpr hl, h]
  · simp [Nat.not_lt.mpr hl, Nat.not_lt.mpr h]

theorem exec_overQuotaDemotion_next {c : Nat × Quire} (he : on s K.vatEnable = true) (hc : overNext s tenant = some c) :
    exec (.overQuotaDemotion tenant) s =
      if coderBusy s c.2.slice = true then .next s
      else if bgReady s c.2.slice = true then .next (demote s c) else .next (askBudget s c.2.slice 3 8) := by
  show execOverQuotaDemotion tenant s = _
  unfold execOverQuotaDemotion
  rw [if_neg (by simp [he])]
  simp only [hc]
  rfl

theorem exec_overQuotaDemotion_none (h : on s K.vatEnable = false ∨ overNext s tenant = none) :
    exec (.overQuotaDemotion tenant) s = .next s := by
  show execOverQuotaDemotion tenant s = _
  unfold execOverQuotaDemotion
  cases he : on s K.vatEnable with
  | false => rfl
  | true => simp only [h.resolve_left (by simp [he])]; rfl

theorem exec_vatRegionFail {region : Nat} : exec (.vatRegionFail region) s =
    if rd s (K.vatState region) = 1 ∨ rd s (K.vatState region) = 2 then .next (wr s (K.vatState region) 3) else .next s := by
  show execVatRegionFail region s = _
  unfold execVatRegionFail
  simp only [Bool.or_eq_true, beq_iff_eq]

end

/-- Settles O29: each command of moves, builds and demotions, in the cases where it acts and where it does not. -/
theorem movesSwitchWhenCopied : Obligations.MovesSwitchWhenCopied := by
  unfold Obligations.MovesSwitchWhenCopied
  refine ⟨fun qk times s q m hq hm h4 h7 => ?switch, fun s q m times n hn => countLate_cases hn,
    fun qk times s => exec_quireMoveSwitch_none, fun qk s q m hq hm h4 hw => ?rebalance,
    fun qk s => exec_quireRebalanceSwitch_none, fun qk s => rfl, fun qk access s t q m hq hm h7 ht => ?error,
    fun qk access s h => congrArg Host.Outcome.next (moveErrorAt_none h), fun slice k s sh he hw hk => ?build,
    fun slice s => exec_deckleBuild_none, fun slice s t he hs hl ht => ?demotion,
    fun slice s => exec_demotionStart_none, fun tenant s c he hc => ?overQuota,
    fun tenant s => exec_overQuotaDemotion_none, fun region s => ?regionFail⟩
  case switch =>
    rw [exec_quireMoveSwitch_tier hq hm h4 h7]
    exact ⟨fun h => if_pos h, fun h => if_neg (by simp [h])⟩
  case rebalance =>
    rw [exec_quireRebalanceSwitch_open hq hm h4 hw]
    exact ⟨fun h => if_pos h, fun h => if_neg (by simp [h])⟩
  case error =>
    rw [show exec (.quireMoveError qk access) s = .next (moveErrorAt s qk access) from rfl, moveErrorAt_move hq hm h7 ht]
    exact ⟨fun h => by rw [if_neg h], fun h => by rw [if_pos h]⟩
  case build =>
    rw [exec_deckleBuild_next he hw hk]
    exact ⟨fun hb hs => ⟨_, congrArg _ (if_pos hb), buildAt_sheet hs⟩,
      fun hb hs => by rw [if_pos hb, buildAt_none hs], fun hb => by rw [if_neg (by simp [hb])]⟩
  case demotion =>
    have hd : demotes s slice := ⟨he, hs, hl⟩
    refine ⟨fun c hc ho hcold => ?_, fun h => ?_⟩
    · rw [exec_demotionStart_free hd ht hc ho, hcold]
      exact ⟨fun h => if_pos h, fun h => if_neg (by simp [h])⟩
    · by_cases hh : coderBusy t slice = true ∨ ∃ x < 256, overNext t x ≠ none
      · exact exec_demotionStart_held hd ht hh
      · have hn := (or_assoc.mpr h).resolve_left hh
        simp only [not_or, not_exists, not_and, Classical.not_not, Bool.not_eq_true] at hh
        rw [exec_demotionStart_free hd ht hh.1 hh.2, hn]
  case overQuota =>
    rw [exec_overQuotaDemotion_next he hc]
    exact ⟨fun h => if_pos h, fun h hb => (if_neg (by simp [h])).trans (if_pos hb),
      fun h hb => (if_neg (by simp [h])).trans (if_neg (by simp [hb]))⟩
  case regionFail =>
    rw [exec_vatRegionFail]
    exact ⟨fun h => if_pos h, fun h1 h2 => if_neg (by simp [h1, h2])⟩

end Sys2Proof.Machine
end

section
/-! SUPPORT. Tier tickets at the home of their Ream and elsewhere (R274 to R278, R142). -/

namespace Sys2Proof.Machine

section

variable {s t0 t1 t2 : State} {tk : Tk} {n : Nat}

/-- A tier ticket whose Ream's home is not known here, is node `h`, or is this node. -/
abbrev HomeIs (t0 : State) (tk : Tk) (t1 : State) (home : Option Nat) : Prop :=
  homeOf t0 tk.slice (tkTenant tk.raw) (bReam tk.raw) = (t1, home)

/-! ## PREEMPT -/

theorem exec_preempt_none (hh : takeHead s 6 = none) : exec .preempt s = .next s := by
  show execPreempt s = _
  unfold execPreempt
  simp only [hh]

/-- The test of a PREEMPT at the home of its Ream: room of the tenant to swap to comes first. -/
abbrev preemptTest (s : State) (tk : Tk) : Nat :=
  if rd s (K.swapMib (tkTenant tk.raw)) = 0 then St.bounds else tierTest s tk.raw (some false)

/-- What the other node of a Ream does with a PREEMPT that its home has sent, once the ticket is off the deadlines. -/
abbrev preemptElsewhere (s : State) (tk : Tk) : State :=
  mgmt (preemptHere s (tkTenant tk.raw) (bReam tk.raw)).1 tk.src
    (.preemptAck (tkTenant tk.raw) (bReam tk.raw) (preemptHere s (tkTenant tk.raw) (bReam tk.raw)).2)

/-- What the home of its Ream does with a PREEMPT that passes: it is sent on, carried out here, and waits for the answers. -/
abbrev preemptHome (s : State) (tk : Tk) (others : List Nat) : State :=
  waitAcks (preemptHere (sendOn (setPreempted s (tkTenant tk.raw) (bReam tk.raw) true) tk others) (tkTenant tk.raw) (bReam tk.raw)).1 tk others
    (preemptHere (sendOn (setPreempted s (tkTenant tk.raw) (bReam tk.raw) true) tk others) (tkTenant tk.raw) (bReam tk.raw)).2

theorem exec_preempt_head {home : Option Nat} (hh : takeHead s 6 = some (tk, t0)) (hm : HomeIs t0 tk t1 home) :
    exec .preempt s = .next (
      match home with
      | none => refuse t1 tk St.bounds
      | some h =>
        if h ≠ myNode t1 then if tk.fabric = true then preemptElsewhere (dropDl t1 tk.id) tk else forwardHome t1 tk h []
        else if preemptTest t1 tk ≠ 0 then tierRefuse t1 tk (preemptTest t1 tk)
        else preemptHome t1 tk (reamNodes t1 tk.slice (tkTenant tk.raw) (bReam tk.raw))) := by
  show execPreempt s = _
  unfold execPreempt
  simp only [hh, hm, bne_iff_ne, beq_iff_eq, ← apply_ite Host.Outcome.next]
  cases home with
  | none => rfl
  | some h => rfl

/-! ## RESUME -/

theorem exec_resume_none (hh : takeHead s 7 = none) : exec .resume s = .next s := by
  show execResume s = _
  unfold execResume
  simp only [hh]

/-- What the other node of a Ream does with a RESUME that its home has sent, once the ticket is off the deadlines. -/
abbrev resumeElsewhere (s : State) (tk : Tk) : State :=
  mgmt (resumeHere s (tkTenant tk.raw) (bReam tk.raw)).1 tk.src
    (.resumeAck (tkTenant tk.raw) (bReam tk.raw) (resumeHere s (tkTenant tk.raw) (bReam tk.raw)).2)

/-- What the home of its Ream does with a RESUME that passes: it is sent on, carried out here, and waits for the answers. -/
abbrev resumeHome (s : State) (tk : Tk) (others : List Nat) : State :=
  waitAcks (resumeHere (sendOn (setPreempted s (tkTenant tk.raw) (bReam tk.raw) false) tk others) (tkTenant tk.raw) (bReam tk.raw)).1 tk others
    (resumeHere (sendOn (setPreempted s (tkTenant tk.raw) (bReam tk.raw) false) tk others) (tkTenant tk.raw) (bReam tk.raw)).2

theorem exec_resume_head {home : Option Nat} (hh : takeHead s 7 = some (tk, t0)) (hm : HomeIs t0 tk t1 home) :
    exec .resume s = .next (
      match home with
      | none => refuse t1 tk St.bounds
      | some h =>
        if h ≠ myNode t1 then if tk.fabric = true then resumeElsewhere (dropDl t1 tk.id) tk else forwardHome t1 tk h []
        else if tierTest t1 tk.raw (some true) ≠ 0 then tierRefuse t1 tk (tierTest t1 tk.raw (some true))
        else resumeHome t1 tk (reamNodes t1 tk.slice (tkTenant tk.raw) (bReam tk.raw))) := by
  show execResume s = _
  unfold execResume
  simp only [hh, hm, bne_iff_ne]
  cases home with
  | none => rfl
  | some h =>
    simp only
    split
    · split <;> rfl
    · split <;> rfl

/-! ## MOVE -/

theorem exec_move_none (hh : takeHead s 8 = none) : exec .move s = .next s := by
  show execMove s = _
  unfold execMove
  simp only [hh]

theorem exec_move_fieldsBad (hh : takeHead s 8 = some (tk, t0)) (hb : moveFieldsBad t0 tk.raw = true) :
    exec .move s = .next (refuse t0 tk St.bounds) := by
  show execMove s = _
  unfold execMove
  simp only [hh]
  exact if_pos hb

/-- What a MOVE whose fields are in range does, with the home of its Ream. -/
theorem exec_move_fields {home : Option Nat} (hh : takeHead s 8 = some (tk, t0)) (hb : moveFieldsBad t0 tk.raw = false)
    (hm : HomeIs t0 tk t1 home) : exec .move s = .next (
      match home with
      | none => refuse t1 tk St.bounds
      | some h =>
        if h ≠ myNode t1 then
          if tk.fabric = true then
            if has t1.kv.preempted (reamKey (tkTenant tk.raw) (bReam tk.raw)) then complete t1 tk St.preempted 0 0 else runMove t1 tk []
          else forwardHome t1 tk h []
        else if tierTest t1 tk.raw none ≠ 0 then tierRefuse t1 tk (tierTest t1 tk.raw none)
        else runMove (sendOn t1 tk (reamNodes t1 tk.slice (tkTenant tk.raw) (bReam tk.raw))) tk
          (reamNodes t1 tk.slice (tkTenant tk.raw) (bReam tk.raw))) := by
  show execMove s = _
  unfold execMove
  simp only [hh, hm, hb, Bool.false_eq_true, ↓reduceIte, bne_iff_ne]
  cases home with
  | none => rfl
  | some h =>
    simp only
    split
    · split <;> rfl
    · split <;> rfl

/-! ## PRESS -/

/-- What a PRESS that passes its tests does with the bytes that it reads. -/
def pressOf (s : State) (tk : Tk) : State :=
  match nodeRead s (pSrc tk.raw) (pSrcLen tk.raw) with
  | (t, data, bad) => if bad = true then complete t tk St.poisoned 0 0 else runPress t tk data

theorem exec_press_none (hh : takeHead s 9 = none) : exec .press s = .next s := by
  show execPress s = _
  unfold execPress
  simp only [hh]

/-- A PRESS is refused by the first of its tests that fails, and else waits for the background grant. -/
theorem exec_press_tested {a b : Nat} (hh : takeHead s 9 = some (tk, t0))
    (ha : a = areaTest t0 (tkTenant tk.raw) (pSrc tk.raw) (pSrcLen tk.raw) 64 1)
    (hb : b = areaTest t0 (tkTenant tk.raw) (pDst tk.raw) (pDstLen tk.raw) 64 2) : exec .press s = .next (
      if pressFieldsBad tk.raw = true then refuse t0 tk St.bounds
      else if a ≠ 0 then refuseArea t0 tk a
      else if b ≠ 0 then refuseArea t0 tk b
      else if bgReady s tk.slice = false then askBudget s tk.slice 3 8
      else pressOf t0 tk) := by
  subst ha hb
  show execPress s = _
  unfold execPress
  simp only [hh, bne_iff_ne]
  split
  · rfl
  split
  · rfl
  split
  · rfl
  cases bgReady s tk.slice with
  | false => rfl
  | true =>
    simp only [Bool.not_true, Bool.false_eq_true, ↓reduceIte, pressOf]
    split <;> rfl

/-! ## Answers of the other nodes -/

/-- The last answer that a ticket waits for completes it. -/
theorem ackPre_last {type src tenant ream count : Nat} {p : PreTk}
    (hp : s.kv.preTks.find? (fun p => tkType p.tk.raw == type && tkTenant p.tk.raw == tenant && bReam p.tk.raw == ream && has p.waiting src) = some p)
    (hw : without p.waiting src = []) : ackPre s type src tenant ream count
      = complete { s with kv := { s.kv with preTks := s.kv.preTks.filter (fun x => x.tk.id != p.tk.id) } } p.tk St.ok (p.count + count) 0 := by
  unfold ackPre
  simp only [hp]
  exact if_pos (by simp [hw])

end

/-- Settles O30: PREEMPT, RESUME and MOVE by the home of their Ream, PRESS by its tests, and the answers of the other nodes. -/
theorem tierTicketsAreCarriedOut : Obligations.TierTicketsAreCarriedOut := by
  unfold Obligations.TierTicketsAreCarriedOut
  refine ⟨fun s t0 t1 t2 tk n c others hh hm hc ho => ?preempt, fun s t0 t1 t2 tk n others hh hm ho => ?resume,
    fun s t0 t1 tk others hh hb hm ho => ?move, fun s t0 t1 t2 tk h n hm hn => ?elsewhere, fun s t0 t1 tk hm => ?unknown,
    fun s t tk => exec_move_fieldsBad, fun s t0 t1 tk data a b hh ha hb => ?press,
    fun s => ⟨exec_preempt_none, exec_resume_none, exec_move_none, exec_press_none⟩, fun src tenant ream count s => ⟨rfl, rfl⟩,
    fun type src tenant ream count s p => ackPre_last⟩
  case preempt =>
    subst hc ho
    rw [exec_preempt_head hh hm]
    simp only [ne_eq, not_true_eq_false, ↓reduceIte]
    exact ⟨fun h hp => by simp only [if_neg (not_not_intro h), preemptHome, hp], fun h => by rw [if_pos h]⟩
  case resume =>
    subst ho
    rw [exec_resume_head hh hm]
    simp only [ne_eq, not_true_eq_false, ↓reduceIte]
    exact ⟨fun h hp => by simp only [if_neg (not_not_intro h), resumeHome, hp], fun h => by rw [if_pos h]⟩
  case move =>
    subst ho
    rw [exec_move_fields hh hb hm]
    simp only [ne_eq, not_true_eq_false, ↓reduceIte]
    exact ⟨fun h => by rw [if_neg (not_not_intro h)], fun h => by rw [if_pos h]⟩
  case elsewhere =>
    refine ⟨fun hh hf hp => ?_, fun hh hf hp => ?_, fun hh hb hf => ?_, fun hh hf => ?_, fun hh hf => ?_, fun hh hb hf => ?_⟩
    · simp only [exec_preempt_head hh hm, if_pos hn, if_pos hf, preemptElsewhere, hp]
    · simp only [exec_resume_head hh hm, if_pos hn, if_pos hf, resumeElsewhere, hp]
    · simp only [exec_move_fields hh hb hm, if_pos hn, if_pos hf]
    · simp only [exec_preempt_head hh hm, if_pos hn, hf, Bool.false_eq_true, ↓reduceIte]
    · simp only [exec_resume_head hh hm, if_pos hn, hf, Bool.false_eq_true, ↓reduceIte]
    · simp only [exec_move_fields hh hb hm, if_pos hn, hf, Bool.false_eq_true, ↓reduceIte]
  case unknown =>
    exact ⟨fun hh => exec_preempt_head hh hm, fun hh => exec_resume_head hh hm, fun hh hb => exec_move_fields hh hb hm⟩
  case press =>
    rw [exec_press_tested hh ha hb]
    refine ⟨fun hf => by rw [if_pos hf], fun hf h => ?_, fun hf h h' => ?_, fun hf h h' hg => ?_, fun hf h h' hg => ⟨fun hr => ?_, fun hr => ?_⟩⟩
    · simp [hf, h]
    · simp [hf, h, h']
    · simp [hf, h, h', hg]
    · simp [hf, h, h', hg, pressOf, hr]
    · simp [hf, h, h', hg, pressOf, hr]

end Sys2Proof.Machine
end

section
/-! SUPPORT. SEARCH tickets of this node and of others (R142, R204 to R214). -/

namespace Sys2Proof.Machine

section

variable {op : Nat} {s t u v : State} {tk : Tk} {run : State → Tk → List Byte → List Byte → State} {payload bitmap : List Byte}

/-- Each operation of a SEARCH ticket is the common front with a run of its own. -/
theorem exec_searchOp {c : Instr} (h : (op, c, run) ∈ searchOps) (s : State) : exec c s = searchFront op s run := by
  simp only [searchOps, List.mem_cons, List.not_mem_nil, or_false, Prod.mk.injEq] at h
  rcases h with ⟨rfl, rfl, rfl⟩ | ⟨rfl, rfl, rfl⟩ | ⟨rfl, rfl, rfl⟩ | ⟨rfl, rfl, rfl⟩ | ⟨rfl, rfl, rfl⟩ | ⟨rfl, rfl, rfl⟩ | ⟨rfl, rfl, rfl⟩ <;> rfl

/-- The operation `op` takes a ticket whose operation it is; the operation 1 also one whose operation is none. -/
abbrev OpTakes (op : Nat) (tk : Tk) : Prop := hOp tk.raw = op ∨ (op = 1 ∧ (hOp tk.raw = 0 ∨ 7 < hOp tk.raw))

theorem searchFront_none (h : ∀ tk t, takeHead s 5 = some (tk, t) → hOp tk.raw ≠ op ∧ (op = 1 → 1 ≤ hOp tk.raw ∧ hOp tk.raw ≤ 7)) :
    searchFront op s run = .next s := by
  unfold searchFront
  cases hh : takeHead s 5 with
  | none => rfl
  | some p =>
    obtain ⟨tk, t⟩ := p
    obtain ⟨hne, hno⟩ := h tk t hh
    refine if_pos ?_
    by_cases h1 : op = 1
    · have := hno h1
      simp [hne, show ¬ hOp tk.raw = 0 by omega, show ¬ 7 < hOp tk.raw by omega]
    · simp [hne, h1]

/-- A ticket of a host for another node is sent there with its parts, or refused for its areas or their poison. -/
theorem searchFront_remote (hh : takeHead s 5 = some (tk, t)) (ho : OpTakes op tk) (hf : tk.fabric = false) (h0 : hTarget tk.raw ≠ 0)
    (hn : hTarget tk.raw ≠ myNode t) (hb : namesBook tk.raw = false) : searchFront op s run = .next (
      if searchAreas t tk.raw ≠ 0 then refuseArea t tk (searchAreas t tk.raw)
      else if searchPoisoned t tk = true then complete t tk St.poisoned 0 0
      else forwardTicket (searchParts t tk).1 tk (hTarget tk.raw) ((searchParts t tk).2.1 ++ (searchParts t tk).2.2)) := by
  unfold searchFront
  simp only [hh]
  rw [if_neg (by simpa [OpTakes, Decidable.imp_iff_not_or, or_comm] using ho), if_pos (by simp [hf, h0, hn, hb])]
  simp only [bne_iff_ne, ← apply_ite Host.Outcome.next]
  rfl

/-- The filter that a FILTER_STORE names is another tenant's. -/
theorem filterOfOther_iff : (hOp tk.raw == 4 &&
      (match tget? t.srch.filters (hHandle tk.raw) with | some f => f.tenant != tkTenant tk.raw | none => false)) = false ↔
    (hOp tk.raw = 4 → ∀ f, tget? t.srch.filters (hHandle tk.raw) = some f → f.tenant = tkTenant tk.raw) := by
  cases tget? t.srch.filters (hHandle tk.raw) with
  | none => simp
  | some f => by_cases h : hOp tk.raw = 4 <;> simp [h]

/-- A ticket for an index or a filter of another tenant is refused first. -/
theorem searchFront_other (hh : SearchHere s op tk t) (hown : ¬ SearchOwned tk t) :
    searchFront op s run = .next (refuse t tk St.tenant) := by
  obtain ⟨hh, ho, hl⟩ := hh
  unfold searchFront
  simp only [hh]
  rw [if_neg (by simpa [OpTakes, Decidable.imp_iff_not_or, or_comm] using ho), if_neg (by simpa [Decidable.imp_iff_not_or, or_assoc] using hl)]
  by_cases hi : namesBook tk.raw = true ∨ 127 < hIndex tk.raw ∨ rd t (K.vindexTenant (hIndex tk.raw)) = tkTenant tk.raw
  · rw [if_neg (by simpa [Decidable.imp_iff_not_or, or_assoc] using hi)]
    refine if_pos ?_
    rw [← Bool.not_eq_false]
    exact mt filterOfOther_iff.mp fun h => hown ⟨hi, h⟩
  · exact if_pos (by simpa [and_assoc] using hi)

/-- A ticket of this node's own is refused by the first of its tests that fails, and else runs with the parts that were read. -/
theorem searchFront_owned (hh : SearchHere s op tk t) (hown : SearchOwned tk t) : searchFront op s run = .next (
      if searchFieldsBad t tk.raw = true then refuse t tk St.bounds
      else if (snapTest t op tk).2 = false then refuse (snapTest t op tk).1 tk St.staleEpoch
      else if searchCode (snapTest t op tk).1 tk ≠ 0 then refuseArea (snapTest t op tk).1 tk (searchCode (snapTest t op tk).1 tk)
      else if searchPoisoned (snapTest t op tk).1 tk = true then complete (snapTest t op tk).1 tk St.poisoned 0 0
      else run (searchParts (snapTest t op tk).1 tk).1 tk (searchParts (snapTest t op tk).1 tk).2.1
        (searchParts (snapTest t op tk).1 tk).2.2) := by
  obtain ⟨hh, ho, hl⟩ := hh
  obtain ⟨hi, hfl⟩ := hown
  unfold searchFront
  simp only [hh]
  rw [if_neg (by simpa [OpTakes, Decidable.imp_iff_not_or, or_comm] using ho), if_neg (by simpa [Decidable.imp_iff_not_or, or_assoc] using hl),
    if_neg (by simpa [Decidable.imp_iff_not_or, or_assoc] using hi)]
  refine (if_neg ?_).trans ?_
  · rw [Bool.not_eq_true]
    exact filterOfOther_iff.mpr hfl
  · simp only [Bool.not_eq_true', bne_iff_ne, ← apply_ite Host.Outcome.next]
    rfl

/-- A ticket of this node that passes every test runs. -/
theorem searchFront_runs (hh : SearchHere s op tk t) (ho : SearchOwned tk t) (hs : snapTest t op tk = (u, true))
    (hf : searchFieldsBad t tk.raw = false) (hc : searchCode u tk = 0) (hp : searchPoisoned u tk = false)
    (hr : searchParts u tk = (v, payload, bitmap)) : searchFront op s run = .next (run v tk payload bitmap) := by
  rw [searchFront_owned hh ho]
  simp only [hs, hf, hc, hp, hr, Bool.false_eq_true, Bool.true_eq_false, ne_eq, not_true_eq_false, ↓reduceIte]

/-- Only SEARCH tests a snapshot. -/
theorem snapTest_other (h : op ≠ 1) : snapTest t op tk = (t, true) := if_neg (by simpa using h)

end

/-- Settles O31: every operation is the common front, which runs, refuses, sends on, or does nothing. -/
theorem searchTicketsRun : Obligations.SearchTicketsRun := by
  unfold Obligations.SearchTicketsRun
  refine ⟨fun s t u v tk payload bitmap hf hc hp hr => ?runs, fun op c run s t u tk hc hh => ?refused,
    fun op c run s t u tk payload bitmap hc hh ho hf h0 hn hb => ?remote, fun op c run s hc h => ?none⟩
  case runs =>
    refine ⟨fun hh ho hs => searchFront_runs hh ho hs hf hc hp hr, ?_, ?_, ?_, ?_, ?_, ?_⟩ <;>
    · rintro hh ho rfl
      exact searchFront_runs hh ho (snapTest_other (by decide)) hf hc hp hr
  case refused =>
    rw [exec_searchOp hc]
    refine ⟨searchFront_other hh, fun ho hf => (searchFront_owned hh ho).trans (by rw [if_pos hf]), fun ho hf => ?_⟩
    rw [searchFront_owned hh ho, if_neg (by simp [hf])]
    refine ⟨fun hs => ?_, fun hs h => ?_, fun hs h hp => ?_⟩
    · simp only [hs, ↓reduceIte]
    · simp only [hs, h, Bool.true_eq_false, ne_eq, not_false_eq_true, ↓reduceIte]
    · simp only [hs, h, hp, Bool.true_eq_false, ne_eq, not_true_eq_false, ↓reduceIte]
  case remote =>
    rw [exec_searchOp hc, searchFront_remote hh ho hf h0 hn hb]
    exact ⟨fun h => by rw [if_pos h], fun h hp => by rw [if_neg (not_not_intro h), if_pos hp],
      fun h hp hr => by rw [if_neg (not_not_intro h), if_neg (by simp [hp]), hr]⟩
  case none => rw [exec_searchOp hc, searchFront_none h]

end Sys2Proof.Machine
end

section
/-! SUPPORT. Operations of the directory window and of the transport's region window (R239, R240, R254, R323, R330). -/

namespace Sys2Proof.Machine

/-! ## The directory window -/

theorem ofBytes_one : ofBytes [1] = 1 := by decide
theorem ofBytes_two : ofBytes [2] = 2 := by decide
theorem ofBytes_three : ofBytes [3] = 3 := by decide

/-- FIND changes the window's own values at most. -/
theorem windowFind_cases (s : State) : windowFind s = (s, .refused 0x01 0x4400 7) ∨ windowFind s = (setPos s none, .done) ∨
    ∃ e : Ent, windowFind s = (setPos (wr s K.dirWindowEntry (entWord e (entData s e))) e.place, .done) := by
  unfold windowFind
  simp only
  split
  · exact .inl rfl
  · split
    · exact .inr (.inl rfl)
    · next x _ _ => exact .inr (.inr ⟨x, rfl⟩)

theorem windowFind_frame {s t : State} {r : Res} (h : windowFind s = (t, r)) :
    t.dirs = s.dirs ∧ t.mem = s.mem ∧ t.kv = s.kv ∧ (r = .done ∨ r = .refused 0x01 0x4400 7) := by
  rcases windowFind_cases s with hc | hc | ⟨e, hc⟩ <;> obtain ⟨rfl, rfl⟩ := Prod.mk.inj (h.symm.trans hc)
  · exact ⟨rfl, rfl, rfl, .inr rfl⟩
  · exact ⟨rfl, rfl, rfl, .inl rfl⟩
  · exact ⟨rfl, rfl, rfl, .inl rfl⟩

/-- An INSERT that is refused leaves the state. -/
theorem windowInsert_cases (s : State) : (windowInsert s).2 = .done ∨ ∃ c, windowInsert s = (s, .refused c 0x4400 7) := by
  unfold windowInsert
  simp only
  split
  · exact .inr ⟨_, rfl⟩
  split
  · exact .inr ⟨_, rfl⟩
  split
  · exact .inr ⟨_, rfl⟩
  split
  · exact .inr ⟨_, rfl⟩
  split
  · exact .inr ⟨_, rfl⟩
  split
  · exact .inr ⟨_, rfl⟩
  · exact .inl rfl

/-- A REMOVE that is refused leaves the state. -/
theorem windowRemove_cases (s : State) : (windowRemove s).2 = .done ∨ windowRemove s = (s, .refused 0x01 0x4400 7) := by
  unfold windowRemove
  simp only
  split
  · exact .inr rfl
  split
  · split
    · exact .inl rfl
    · exact .inr rfl
  · exact .inl rfl

/-! ## The region window -/

section

variable {s : State} {w : WReq} {i : Nat}

theorem hRegionOp_register : hRegionOp s w [1] =
    match firstFail (registerFails s (rd s K.regionSelect) (regionFrom (rd s K.regionEntry) (regionAt s (rd s K.regionSelect)))
      (regionAt s (rd s K.regionSelect))) with
    | some (c, k) => (s, .refused c (k / 256) (k % 256))
    | none => (showRegion (putRegion s (rd s K.regionSelect)
        (regionFrom (rd s K.regionEntry) (regionAt s (rd s K.regionSelect)))), .done) := by
  simp only [hRegionOp, ofBytes_one] <;> rfl

theorem hRegionOp_deregister : hRegionOp s w [2] = (deregRegion s (rd s K.regionSelect), .done) := by
  simp only [hRegionOp, ofBytes_two]

theorem regionAt_putRegion (s : State) (i : Nat) (r : Region) : regionAt (putRegion s i r) i = r := by
  simp [regionAt, putRegion, setNet, tget]

/-- A valid region ends: its key's generation advances and its quarantine starts. -/
theorem deregRegion_valid (h : (regionAt s i).valid = true) : regionAt (deregRegion s i) i =
    { regionAt s i with valid := false, gen := ((regionAt s i).gen + 1) % 64, deregAt := some s.tm.ec } := by
  unfold deregRegion
  simp only [h, Bool.not_true, Bool.false_eq_true, ↓reduceIte]
  split
  · exact regionAt_putRegion ..
  · exact regionAt_putRegion ..

theorem deregRegion_invalid (h : (regionAt s i).valid = false) : deregRegion s i = s := if_pos (by simp [h])

end

/-- Settles O32: the three operations of the directory window and the two of the region window. -/
theorem windowOperationsAreDone : Obligations.WindowOperationsAreDone := by
  unfold Obligations.WindowOperationsAreDone
  refine ⟨fun w s t r ha => ?window, fun s t r => windowFind_frame, fun s t r h => ?insert, fun s t r h => ?remove,
    fun w s r ha hr => ?register, fun w s ha => ?deregister,
    fun i s r hr => hr ▸ ⟨deregRegion_valid, deregRegion_invalid⟩⟩
  case window =>
    have row (x : Byte) (hx : hDirWindowOp s w [x] = (t, r)) :
        rowWrite s w 0x4400 7 0 [x] hDirWindowOp = endTo t w 0x4400 7 0 [x] r := by
      rw [row_handled (l := [x]) _ ha takes_dir_window_op, hx]; rfl
    refine ⟨fun h => congrArg _ (row 1 ?_), fun h => congrArg _ (row 2 ?_), fun h => congrArg _ (row 3 ?_)⟩
    · simpa only [hDirWindowOp, ofBytes_one] using h
    · simpa only [hDirWindowOp, ofBytes_two] using h
    · simpa only [hDirWindowOp, ofBytes_three] using h
  case insert =>
    rcases windowInsert_cases s with hd | ⟨c, hc⟩
    · exact .inl (by rw [h] at hd; exact hd)
    · obtain ⟨rfl, rfl⟩ := Prod.mk.inj (h.symm.trans hc)
      exact .inr ⟨rfl, c, rfl⟩
  case remove =>
    rcases windowRemove_cases s with hd | hc
    · exact .inl (by rw [h] at hd; exact hd)
    · obtain ⟨rfl, rfl⟩ := Prod.mk.inj (h.symm.trans hc)
      exact .inr ⟨rfl, rfl⟩
  case register =>
    subst hr
    refine ⟨fun h => ⟨congrArg _ (row_done (l := [1]) ha takes_region_op ?_), rfl, rfl⟩,
      fun c k h => congrArg _ (row_refused (l := [1]) ha takes_region_op ?_)⟩
    · rw [hRegionOp_register, h]
    · rw [hRegionOp_register, h]
  case deregister => exact congrArg _ (row_done (l := [2]) ha takes_region_op hRegionOp_deregister)

end Sys2Proof.Machine
end

section
/-! SUPPORT. Check-value contexts (R387, R388, R410, R415). -/

namespace Sys2Proof.Machine

section

variable {s t : State} {w : WReq} {fed v r ctx : Nat} {hit : Bool}

theorem hCvOp_locked (h : cvLocked s = true) (p : List Byte) : hCvOp fed s w p = (s, .refused 0x09 0x8000 0x10) := if_pos h

/-- RESET and RUN of a context that runs are refused. -/
theorem hCvOp_busy (h : cvLocked s = false) (hb : cvStateOf (cvOf s (rd s K.cvSelect)) = 1) :
    hCvOp fed s w [1] = (s, .refused 0x05 0x8000 0x11) ∧ hCvOp fed s w [2] = (s, .refused 0x05 0x8000 0x11) := by
  constructor
  · simp only [hCvOp, h, hb, ofBytes_one, Bool.false_eq_true, BEq.rfl, ↓reduceIte]
  · simp only [hCvOp, h, hb, ofBytes_two, Bool.false_eq_true, BEq.rfl, ↓reduceIte]

/-- RESET, RUN and ABORT of a context that does not run. -/
theorem hCvOp_idle (h : cvLocked s = false) (hv : v = cvOf s (rd s K.cvSelect)) (hb : cvStateOf v ≠ 1) :
    hCvOp fed s w [1] = (putCv s (rd s K.cvSelect) (cvWord (cvInit (cvPoly v)) (bits v 128 64) (cvBase v) (cvLength v) 0 (cvPoly v)), .done) ∧
    hCvOp fed s w [2] = (if cvRangeOk s v = true
      then (putCv s (rd s K.cvSelect) (cvWord (cvRunning v) (bits v 128 64) (cvBase v) (cvLength v) 1 (cvPoly v)), .done)
      else (s, .refused 0x01 0x8000 0x11)) ∧
    hCvOp fed s w [3] = (s, .done) := by
  subst hv
  have hb' : (cvStateOf (cvOf s (rd s K.cvSelect)) == 1) = false := by simpa using hb
  refine ⟨?_, ?_, ?_⟩
  · simp only [hCvOp, h, hb', ofBytes_one, Bool.false_eq_true, ↓reduceIte]
  · simp only [hCvOp, h, hb', ofBytes_two, Bool.false_eq_true, ↓reduceIte]
    cases cvRangeOk s (cvOf s (rd s K.cvSelect)) <;> rfl
  · simp only [hCvOp, h, hb', ofBytes_three, Bool.false_eq_true, Bool.not_false, ↓reduceIte]

/-- ABORT stops a context that runs at the lines it has fed. -/
theorem hCvOp_abort (h : cvLocked s = false) (hv : v = cvOf s (rd s K.cvSelect)) (hb : cvStateOf v = 1)
    (hl : cvLines (cvPoly v) (upFrom (cvBase v / 64) (min fed (cvLength v / 64))) s (cvRunning v) = (t, r, hit)) :
    hCvOp fed s w [3] = (putCv t (rd s K.cvSelect)
      (cvWord r (bits v 128 64) (cvBase v) (cvLength v) (if hit then 3 else 0) (cvPoly v)), .done) := by
  subst hv
  simp only [hCvOp, h, hb, hl, ofBytes_three, Bool.false_eq_true, BEq.rfl, Bool.not_true, ↓reduceIte]

/-! ## The end of a RUN -/

theorem exec_cvRunDone_none (h : cvStateOf (cvOf s ctx) ≠ 1 ∨ deferred s = true) : exec (.cvRunDone ctx) s = .next s := by
  show execCvRunDone ctx s = _
  unfold execCvRunDone
  exact if_pos (by simpa using h)

theorem exec_cvRunDone_asks (hv : cvStateOf (cvOf s ctx) = 1) (hd : deferred s = false) (hb : hasBudget s (ctx / 64) 3 = false) :
    exec (.cvRunDone ctx) s = .next (askBudget s (ctx / 64) 3 8) := by
  show execCvRunDone ctx s = _
  unfold execCvRunDone
  exact (if_neg (by simp [hv, hd])).trans (if_pos (by simp [hb]))

theorem exec_cvRunDone_over (hv : v = cvOf s ctx) (hs : cvStateOf v = 1) (hd : deferred s = false) (hb : hasBudget s (ctx / 64) 3 = true)
    (hl : cvLines (cvPoly v) (upFrom (cvBase v / 64) (cvLength v / 64)) s (cvRunning v) = (t, r, hit)) :
    exec (.cvRunDone ctx) s = .next (putCv t ctx (cvWord r
      (if hit then bits v 128 64 else if cvPoly v = 0 then r ^^^ 0xFFFFFFFF else r) (cvBase v) (cvLength v) (if hit then 3 else 2) (cvPoly v))) := by
  subst hv
  show execCvRunDone ctx s = _
  unfold execCvRunDone
  refine (if_neg (by simp [hs, hd])).trans ((if_neg (by simp [hb])).trans ?_)
  simp only [hl]

end

/-- Settles O33: the operations of a context that is locked, that runs, and that does not, and the end of a RUN. -/
theorem checkValueOperations : Obligations.CheckValueOperations := by
  unfold Obligations.CheckValueOperations
  refine ⟨fun w fed s ha hl => ⟨?_, ?_, ?_⟩, fun w s v ha hl hv hb => ⟨?_, ?_⟩, fun w s v ha hl hv hb => ⟨?_, fun hr => ?_, fun hr => ?_⟩,
    fun w fed s ha hl hb => ?_, fun w fed r s t v hit ha hl hv hb hc => ?_,
    fun ctx r s t v hit hv hs hd => ⟨exec_cvRunDone_over hv hs hd, exec_cvRunDone_asks (hv ▸ hs) hd⟩, fun ctx s => exec_cvRunDone_none⟩
  · exact congrArg _ (row_refused (l := [1]) ha takes_cv_op (hCvOp_locked hl _))
  · exact congrArg _ (row_refused (l := [2]) ha takes_cv_op (hCvOp_locked hl _))
  · exact congrArg _ (row_refused (l := [3]) ha takes_cv_op (hCvOp_locked hl _))
  · exact congrArg _ (row_refused (l := [1]) ha takes_cv_op (hCvOp_busy hl (hv ▸ hb)).1)
  · exact congrArg _ (row_refused (l := [2]) ha takes_cv_op (hCvOp_busy hl (hv ▸ hb)).2)
  · exact congrArg _ (row_done (l := [1]) ha takes_cv_op (hCvOp_idle hl hv hb).1)
  · exact congrArg _ (row_done (l := [2]) ha takes_cv_op ((hCvOp_idle hl hv hb).2.1.trans (if_pos hr)))
  · exact congrArg _ (row_refused (l := [2]) ha takes_cv_op ((hCvOp_idle hl hv hb).2.1.trans (if_neg (by simp [hr]))))
  · exact congrArg _ (row_done (l := [3]) ha takes_cv_op (hCvOp_idle hl rfl hb).2.2)
  · exact congrArg _ (row_done (l := [3]) ha takes_cv_op (hCvOp_abort hl hv hb hc))

end Sys2Proof.Machine
end

section
/-! SUPPORT. Writes of values that have rows of their own (R72, R220, R281, R312, R432, R438, R439, R441). -/

namespace Sys2Proof.Machine

section

variable {s t : State} {w : WReq} {l : List Byte} {h : Handler} {idx : Nat}

/-! ## Rows of whole arrays and of the firmware buffer -/

/-- A row's write of a whole array that is allowed is answered with its handler's outcome, whatever its length. -/
theorem row_array (ha : Allowed s w idx 0) (hi : idx < 0xF000) (hc : (arrayCount idx).isSome = true) (ho : (findObj idx 0).isSome = true) :
    rowWrite s w idx 0 0 l h = endTo (h s w l).1 w idx 0 0 l (h s w l).2 := by
  obtain ⟨ht, hw, hr, hf⟩ := ha
  obtain ⟨o, ho⟩ := Option.isSome_iff_exists.mp ho
  unfold rowWrite
  rw [takePdu_taken (p := rowPdu w idx 0 0 l) _ ht rfl (malformed_rowPdu ..)]
  have hr : (inRecovery s && !recoveryServes idx 0 true) = false := by rcases hr with h | h <;> simp [h]
  simp only [serveWrite, rowPdu_index, rowPdu_subindex, rowPdu_payload, rowPdu_transaction, vendorRange_eq_false hi, hw, hr, ho, hc, hf,
    BEq.rfl, Bool.and_self, Bool.not_true, Bool.false_and, Bool.false_eq_true, ↓reduceIte]
  rfl

theorem row_scheduleTable {slice : Nat} (hs : slice < 4) (ha : Allowed s w (0x1210 + slice) 0) :
    rowWrite s w (0x1210 + slice) 0 0 l h = endTo (h s w l).1 w (0x1210 + slice) 0 0 l (h s w l).2 := by
  have hobj : ∀ sl < 4, (arrayCount (0x1210 + sl)).isSome = true ∧ (findObj (0x1210 + sl) 0).isSome = true := by decide
  exact row_array ha (by omega) (hobj slice hs).1 (hobj slice hs).2

/-- A write of part of the firmware buffer that is allowed is answered with its handler's outcome. -/
theorem row_fwBuffer {off : Nat} (ha : Allowed s w 0xA100 4) (hl : l ≠ []) (hn : l.length ≤ 1024) (hoff : off + l.length ≤ 67108864) :
    rowWrite s w 0xA100 4 off l h = endTo (h s w l).1 w 0xA100 4 off l (h s w l).2 := by
  obtain ⟨ht, hw, hr, hf⟩ := ha
  obtain ⟨o, ho, h1, h2, h3⟩ : ∃ o, findObj 0xA100 4 = some o ∧ o.acc ≠ .ro ∧ o.acc ≠ .const ∧ o.ty = .octets 67108864 :=
    ⟨_, rfl, by decide, by decide, rfl⟩
  unfold rowWrite
  rw [takePdu_taken (p := rowPdu w 0xA100 4 off l) _ ht rfl (malformed_rowPdu ..)]
  have hr : (inRecovery s && !recoveryServes 0xA100 4 true) = false := by rcases hr with h | h <;> simp [h]
  have hacc : (o.acc == Acc.ro || o.acc == Acc.const) = false := by simp [h1, h2]
  simp only [serveWrite, rowPdu_index, rowPdu_subindex, rowPdu_payload, rowPdu_offset, rowPdu_transaction,
    vendorRange_eq_false (show 0xA100 < 0xF000 by decide), hw, hr, ho, hf, hacc, h3, Ty.size,
    show ((4 : Nat) == 0) = false from rfl, show decide (1024 < 67108864) = true from rfl,
    Bool.false_and, Bool.not_false, Bool.true_and, Bool.not_true, Bool.false_eq_true, ↓reduceIte]
  refine if_neg ?_
  simp only [List.isEmpty_eq_false_iff.mpr hl, Nat.not_lt.mpr hoff, decide_false, Bool.false_or, Bool.or_false]
  exact fun h => absurd (of_decide_eq_true h) (Nat.not_lt.mpr hn)

/-! ## The handlers -/

/-- Schedule entries that their schedule does not take leave the state. -/
theorem setEntries_cases {sl : Nat} {e : List (Nat × Nat)} {r : Res} (h : setEntries s sl e = (t, r)) :
    r = .done ∨ (t = s ∧ ∃ c i x, r = .refused c i x) := by
  unfold setEntries at h
  simp only at h
  split at h <;> obtain ⟨rfl, rfl⟩ := Prod.mk.inj h
  · exact .inr ⟨rfl, _, _, _, rfl⟩
  · exact .inl rfl

/-- An activation is refused for a slice that does not exist, or one that is not QUIESCED. -/
abbrev activateFails (s : State) (v : Nat) : List Fail :=
  failIf (decide (16 ≤ v)) 0x01 K.fwActivateSlices ::
    ((upFrom 0 4).filter (fun sl => bitB v sl)).map (fun sl => failIf (rd s (K.sliceState sl) != 3) 0x05 (K.sliceState sl))

theorem mem_activateFails {v : Nat} {x : Nat × Nat} : some x ∈ activateFails s v ↔
    (16 ≤ v ∧ (0x01, K.fwActivateSlices) = x) ∨ ∃ sl < 4, bitB v sl = true ∧ rd s (K.sliceState sl) ≠ 3 ∧ (0x05, K.sliceState sl) = x := by
  simp [activateFails, mem_upFrom, eq_comm (a := some x), and_assoc]

theorem hFwActivate_recovery (h : inRecovery s = true) (l : List Byte) : hFwActivate s w l = (boot (resetState s) false, .done) := if_pos h

theorem hFwActivate_served (h : inRecovery s = false) (v : Byte) : hFwActivate s w [v] =
    match firstFail (activateFails s v.toNat) with
    | some (c, k) => (s, .refused c (k / 256) (k % 256))
    | none => (activate s ((upFrom 0 4).filter (fun sl => bitB v.toNat sl)), .done) := by
  unfold hFwActivate
  simp only [ofBytes_singleton]
  exact if_neg (by simp [h])

/-- An activation of QUIESCED slices is taken. -/
theorem hFwActivate_done {v : Byte} (h : inRecovery s = false) (hv : v.toNat < 16)
    (hs : ∀ sl < 4, bitB v.toNat sl = true → rd s (K.sliceState sl) = 3) :
    hFwActivate s w [v] = (activate s ((upFrom 0 4).filter (fun sl => bitB v.toNat sl)), .done) := by
  have hf : firstFail (activateFails s v.toNat) = none := firstFail_eq_none_iff.mpr fun x hx => by
    rcases mem_activateFails.mp hx with ⟨h16, -⟩ | ⟨sl, h4, hb, hne, -⟩
    · omega
    · exact hne (hs sl h4 hb)
  rw [hFwActivate_served h, hf]

theorem hFwActivate_refused {v : Byte} (h : inRecovery s = false)
    (hs : 16 ≤ v.toNat ∨ ∃ sl < 4, bitB v.toNat sl = true ∧ rd s (K.sliceState sl) ≠ 3) :
    ∃ c i x, hFwActivate s w [v] = (s, .refused c i x) ∧ (c = 0x01 ∨ c = 0x05) := by
  rw [hFwActivate_served h]
  cases hf : firstFail (activateFails s v.toNat) with
  | none =>
    have hn := firstFail_eq_none_iff.mp hf
    rcases hs with h16 | ⟨sl, h4, hb, hne⟩
    · exact absurd (mem_activateFails.mpr (.inl ⟨h16, rfl⟩)) (hn _)
    · exact absurd (mem_activateFails.mpr (.inr ⟨sl, h4, hb, hne, rfl⟩)) (hn _)
  | some y =>
    obtain ⟨c, k⟩ := y
    refine ⟨c, _, _, rfl, ?_⟩
    rcases mem_activateFails.mp (firstFail_least hf).1 with ⟨-, he⟩ | ⟨sl, -, -, -, he⟩
    · exact .inl (Prod.mk.inj he).1.symm
    · exact .inr (Prod.mk.inj he).1.symm

/-- A session key in range is taken, unless management sessions that are on would not start with it. -/
theorem hSessionKey_inRange {i : Nat} (hr : skRights (ofBytes l) ≤ 2) (hb : bits (ofBytes l) 264 56 = 0) : hSessionKey i s w l =
    match (if on s K.mgmtSessionEnable = true then runningFails enMgmtSession (wr s (K.sessionKey i) (ofBytes l)) else none) with
    | some (r, k) => (s, .refused r (k / 256) (k % 256))
    | none => (closeSessions (wr s (K.sessionKey i) (ofBytes l)) (fun _ x => x.entry == i), .done) :=
  if_neg (by simp [Nat.not_lt.mpr hr, hb])

theorem hVatDrain_value {v : Nat} {b : Byte} : hVatDrain v s w [b] =
    if 1 < b.toNat then (s, .refused 0x01 (0x5010 + v) 8) else if b.toNat = 1 then (drainRegion s v, .done) else (s, .done) := by
  simp only [hVatDrain, ofBytes_singleton, beq_iff_eq]

theorem hTreeEntry_cases {e : Nat} (he : e = ofBytes l) : hTreeEntry s w l =
    if teValid e = false then ({ s with trees := terase s.trees (rd s K.treeSelect) }, .done)
    else if treeRangeBad s e = true then (s, .refused 0x01 0x4300 0x11)
    else if mapEpochOk s (teEpoch e) = false then (s, .refused 0x0A 0x4300 0x11)
    else if tget? s.trees (rd s K.treeSelect) = none ∧ 4096 ≤ s.trees.length then (s, .refused 0x04 0x4300 0x11)
    else ({ s with trees := tset s.trees (rd s K.treeSelect) (treeOf e) }, .done) := by
  subst he
  simp only [hTreeEntry, Bool.not_eq_true', Bool.and_eq_true, Option.isNone_iff_eq_none, decide_eq_true_eq]

end

/-- Settles O34: each row is answered with what its handler says of the value. -/
theorem valueWritesAreDone : Obligations.ValueWritesAreDone := by
  unfold Obligations.ValueWritesAreDone
  refine ⟨fun slice sub w l s t r hs ha => ?schedule, fun slice l s t r => setEntries_cases, fun w l s e ha hl he => ?tree,
    fun entry w l s h8 ha hl => ?sessionKey, fun w l s ha hl => ?ownerKey, fun w off l s ha hl hn hoff => ?buffer,
    fun link w v s hl ha => ?lane, fun region w v s hr ha => ?drain, fun w v s ha => ?activate⟩
  case schedule =>
    refine ⟨fun h1 h64 hl hset => congrArg Host.Outcome.next ?_, fun h0 hl hset => congrArg Host.Outcome.next ?_,
      fun h0 hl => congrArg Host.Outcome.next ?_⟩
    · obtain ⟨k, rfl⟩ : ∃ k, sub = k + 1 := ⟨sub - 1, by omega⟩
      rw [row_handled _ ha (hl ▸ takes_schedule_entry slice hs k (by omega)), hScheduleTable, if_neg (by omega), hset]
      rfl
    · subst h0
      rw [row_scheduleTable hs ha, hScheduleTable, if_pos rfl, if_neg (by simp [hl]), hset]
    · subst h0
      rw [row_scheduleTable hs ha, hScheduleTable, if_pos rfl, if_pos (by simp [hl])]
  case tree =>
    have row {t r} (hr : hTreeEntry s w l = (t, r)) : rowWrite s w 0x4300 0x11 0 l hTreeEntry = endTo t w 0x4300 0x11 0 l r := by
      rw [row_handled _ ha (hl ▸ takes_tree_entry), hr]; rfl
    have hc := hTreeEntry_cases (s := s) (w := w) he
    refine ⟨fun hv => congrArg _ (row (hc.trans (if_pos hv))), fun hv hr => congrArg _ (row ?_), fun hv hr hm => congrArg _ (row ?_),
      fun hv hr hm => ⟨fun hroom => congrArg _ (row ?_), fun hn hroom => congrArg _ (row ?_)⟩⟩
    · rw [hc, if_neg (by simp [hv]), if_pos hr]
    · rw [hc, if_neg (by simp [hv]), if_neg (by simp [hr]), if_pos hm]
    · rw [hc, if_neg (by simp [hv]), if_neg (by simp [hr]), if_neg (by simp [hm]), if_neg]
      rintro ⟨hnone, hfull⟩
      rcases hroom with hsome | hroom
      · simp [hnone] at hsome
      · omega
    · rw [hc, if_neg (by simp [hv]), if_neg (by simp [hr]), if_neg (by simp [hm]), if_pos ⟨hn, hroom⟩]
  case sessionKey =>
    have row {t r} (hr : hSessionKey entry s w l = (t, r)) :
        exec (.sessionKeyWrite entry w l) s = .next (endTo t w 0xA000 (0x18 + entry) 0 l r) := by
      show execSessionKeyWrite entry w l s = _
      rw [execSessionKeyWrite, if_pos h8, row_handled _ ha (hl ▸ takes_session_key entry h8), hr]; rfl
    refine ⟨fun hbad => row (if_pos (by simpa using hbad)), fun hr hb => ⟨fun hoff => row ?_, fun c k hon hf => row ?_⟩⟩
    · rw [hSessionKey_inRange hr hb]
      rcases hoff with hoff | hoff
      · simp [hoff]
      · simp [hoff]
    · simp [hSessionKey_inRange hr hb, hon, hf]
  case ownerKey =>
    refine ⟨fun hv h0 => congrArg _ (row_done ha (hl ▸ takes_owner_key) ?_), fun h => congrArg _ (row_refused ha (hl ▸ takes_owner_key) ?_)⟩
    · simp [hOwnerKey, hv, h0]
    · refine if_neg ?_
      simpa [Decidable.imp_iff_not_or] using h
  case buffer =>
    refine ⟨fun h => congrArg Host.Outcome.next ?_, fun ht h => congrArg Host.Outcome.next ?_⟩
    · rw [row_fwBuffer ha hl hn hoff, hFwBuffer, if_neg]
      · rfl
      · rcases h with h | ⟨ho, hst⟩
        · simp [h]
        · simp [ho, hst]
    · rw [row_fwBuffer ha hl hn hoff, hFwBuffer, if_pos (by simpa [ht] using h)]
  case lane =>
    refine congrArg _ (row_done (l := [v]) ha (takes_lane_restore link hl) ?_)
    rw [hLaneRestore, ofBytes_singleton]
  case drain =>
    have row {t r} (hc : hVatDrain region s w [v] = (t, r)) :
        exec (.vatRegionDrain region w v) s = .next (endTo t w (0x5010 + region) 8 0 [v] r) :=
      congrArg Host.Outcome.next (by rw [row_handled (l := [v]) _ ha (takes_vat_drain region hr), hc]; rfl)
    refine ⟨?_, ?_, fun h => row (hVatDrain_value.trans (if_pos h))⟩
    · rintro rfl
      exact row hVatDrain_value
    · rintro rfl
      exact row hVatDrain_value
  case activate =>
    refine ⟨fun h => congrArg _ (row_done (l := [v]) ha takes_fw_activate (hFwActivate_recovery h _)),
      fun h hv hs => congrArg _ (row_done (l := [v]) ha takes_fw_activate (hFwActivate_done h hv hs)), fun h hs => ?_⟩
    obtain ⟨c, i, x, hc, hcode⟩ := hFwActivate_refused (w := w) h hs
    exact ⟨c, i, x, congrArg _ (row_refused (l := [v]) ha takes_fw_activate hc), hcode⟩

end Sys2Proof.Machine
end

section
/-! SUPPORT. Triggers that have rows of their own (R403, R436, R439, R442). -/

namespace Sys2Proof.Machine

section

variable {s : State} {w : WReq} {idx sub : Nat} {v : Byte} {f : State → State × Res}

/-- A trigger written more than 1 is refused. -/
theorem trigger_above_one (h : 1 < v.toNat) : trigger idx sub f s w [v] = (s, .refused 0x01 idx sub) := by
  unfold trigger
  rw [ofBytes_singleton]
  split
  · omega
  · omega
  · rfl

/-- A trigger's row that is written 0 is done without effect, and one written more than 1 is refused. -/
theorem row_trigger_otherwise (ha : Allowed s w idx sub) (ht : takesRow idx sub 1 = true) :
    (v = 0 → rowWrite s w idx sub 0 [v] (trigger idx sub f) = doneTo s w idx sub 0 [v]) ∧
    (1 < v.toNat → rowWrite s w idx sub 0 [v] (trigger idx sub f) = endTo s w idx sub 0 [v] (.refused 0x01 idx sub)) :=
  ⟨fun h => row_done (l := [v]) ha ht (h ▸ trigger_zero ..), fun h => row_refused (l := [v]) ha ht (trigger_above_one h)⟩

/-! ## The triggers written 1 -/

theorem hFwApply_one : hFwApply s w [1] =
    if rd s K.fwState = 2 ∨ rd s K.fwState = 3 then (s, .refused 0x04 0xA100 1) else (wr s K.fwState 2, .done) := by
  simp only [hFwApply, trigger_one, Bool.or_eq_true, beq_iff_eq]

theorem hFwAbort_one : hFwAbort s w [1] =
    (if rd s K.fwState = 1 ∨ rd s K.fwState = 5 then wr (dropBuf s) K.fwState 0 else s, .done) := by
  simp only [hFwAbort, trigger_one, abortFw, Bool.or_eq_true, beq_iff_eq]

theorem hSvnCommit_one : hSvnCommit s w [1] =
    if inRecovery s = true then (s, .refused 0x09 0xA100 0x0C)
    else if newFloors s = rd s K.svnFloor then (s, .done)
    else (event (wr s K.svnFloor (newFloors s)) 0xA0 7 nodeSlice 1 (newFloors s), .done) := by
  simp only [hSvnCommit, trigger_one, beq_iff_eq]

/-- Clearing the log empties it and takes its head back; nothing else changes. -/
theorem clearLog_frame (s : State) : (clearLog s).log = [] ∧ rd (clearLog s) K.logHead = 0 ∧
    (∀ k, k ≠ K.logHead → rd (clearLog s) k = rd s k) ∧ clearLog s = { s with dict := (clearLog s).dict, log := (clearLog s).log } :=
  ⟨rfl, rd_wr_same .., fun _ h => rd_wr_other _ _ h, rfl⟩

end

/-- Settles O35: each trigger written 1, and each written anything else. -/
theorem triggersAreDone : Obligations.TriggersAreDone := by
  unfold Obligations.TriggersAreDone
  refine ⟨fun w s ha => congrArg _ (row_done (l := [1]) ha takes_attest_request (trigger_one ..)), fun w s ha => ?apply,
    fun w s ha => ?abort, fun w s ha => ?svn, fun w s ha => ?log, fun w v s => ?otherwise⟩
  case apply =>
    refine ⟨fun h2 h3 => congrArg _ (row_done (l := [1]) ha takes_fw_apply ?_), fun h => congrArg _ (row_refused (l := [1]) ha takes_fw_apply ?_)⟩
    · rw [hFwApply_one, if_neg (by simp [h2, h3])]
    · rw [hFwApply_one, if_pos h]
  case abort =>
    refine ⟨fun h => congrArg _ (row_done (l := [1]) ha takes_fw_abort ?_), fun h1 h5 => congrArg _ (row_done (l := [1]) ha takes_fw_abort ?_)⟩
    · rw [hFwAbort_one, if_pos h]
    · rw [hFwAbort_one, if_neg (by simp [h1, h5])]
  case svn =>
    refine ⟨fun h => congrArg _ (row_refused (l := [1]) ha takes_svn_commit ?_),
      fun h hf => congrArg _ (row_done (l := [1]) ha takes_svn_commit ?_), fun h hf => congrArg _ (row_done (l := [1]) ha takes_svn_commit ?_)⟩
    · rw [hSvnCommit_one, if_pos h]
    · rw [hSvnCommit_one, if_neg (by simp [h]), if_neg hf]
    · rw [hSvnCommit_one, if_neg (by simp [h]), if_pos hf]
  case log => exact ⟨clearLog s, congrArg _ (row_done (l := [1]) ha takes_log_clear (trigger_one ..)), clearLog_frame s⟩
  case otherwise =>
    refine ⟨fun h => ⟨fun ha => ?_, fun ha => ?_, fun ha => ?_, fun ha => ?_, fun ha => ?_⟩,
      fun h => ⟨fun ha => ?_, fun ha => ?_, fun ha => ?_, fun ha => ?_, fun ha => ?_⟩⟩
    · exact congrArg _ ((row_trigger_otherwise ha takes_attest_request).1 h)
    · exact congrArg _ ((row_trigger_otherwise ha takes_fw_apply).1 h)
    · exact congrArg _ ((row_trigger_otherwise ha takes_fw_abort).1 h)
    · exact congrArg _ ((row_trigger_otherwise ha takes_svn_commit).1 h)
    · exact congrArg _ ((row_trigger_otherwise ha takes_log_clear).1 h)
    · exact congrArg _ ((row_trigger_otherwise ha takes_attest_request).2 h)
    · exact congrArg _ ((row_trigger_otherwise ha takes_fw_apply).2 h)
    · exact congrArg _ ((row_trigger_otherwise ha takes_fw_abort).2 h)
    · exact congrArg _ ((row_trigger_otherwise ha takes_svn_commit).2 h)
    · exact congrArg _ ((row_trigger_otherwise ha takes_log_clear).2 h)

end Sys2Proof.Machine
end

section
/-! SUPPORT. Slice operations (R461, R462). -/

namespace Sys2Proof.Machine

section

variable {s : State} {w : WReq} {slice code : Nat}

/-- The row of a slice operation runs it where its tests pass. -/
theorem sliceOpRow_done (hs : slice < 4) (ha : Allowed s w (0x2000 + 0x100 * slice) 2) (hc : code < 256)
    (hf : firstFail (opFails s slice code) = none) :
    sliceOpRow slice code w s = .next (doneTo (runOp s slice code) w (0x2000 + 0x100 * slice) 2 0 [BitVec.ofNat 8 code]) := by
  have hb : ofBytes [BitVec.ofNat 8 code] = code := by simp [ofBytes_singleton, Nat.mod_eq_of_lt hc]
  refine (if_pos hs).trans (congrArg _ (row_done (l := [BitVec.ofNat 8 code]) ha (takes_slice_op slice hs) ?_))
  simp only [hSliceOp, hb, hf]

/-- The row of a slice operation refuses with the first of its tests that fails. -/
theorem sliceOpRow_refused {r k : Nat} (hs : slice < 4) (ha : Allowed s w (0x2000 + 0x100 * slice) 2) (hc : code < 256)
    (hf : firstFail (opFails s slice code) = some (r, k)) : sliceOpRow slice code w s =
      .next (endTo s w (0x2000 + 0x100 * slice) 2 0 [BitVec.ofNat 8 code] (.refused r (k / 256) (k % 256))) := by
  have hb : ofBytes [BitVec.ofNat 8 code] = code := by simp [ofBytes_singleton, Nat.mod_eq_of_lt hc]
  refine (if_pos hs).trans (congrArg _ (row_refused (l := [BitVec.ofNat 8 code]) ha (takes_slice_op slice hs) ?_))
  simp only [hSliceOp, hb, hf]

/-- Besides the report to the Lead, a slice's new state is its only change. -/
theorem dict_setSlice (s : State) (sl st : Nat) : (setSlice s sl st).dict = (wr s (K.sliceState sl) st).dict := by
  unfold setSlice tellSlice
  simp only
  split
  · rfl
  · split <;> rfl

@[simp] theorem rd_setSlice_same (s : State) (sl st : Nat) : rd (setSlice s sl st) (K.sliceState sl) = st := by
  rw [rd, dict_setSlice]
  exact rd_wr_same ..

/-- READMIT takes the slice to STARTING. -/
theorem runOp_readmit (s : State) (sl : Nat) :
    rd (runOp s sl 5) (K.sliceState sl) = 0 ∧ rd (runOp s sl 5) (K.sliceOpState sl) = 4 := by
  refine ⟨?_, rd_wr_same ..⟩
  exact (rd_wr_other _ _ (by simp only [K.sliceState, K.sliceOpState]; omega)).trans (rd_setSlice_same ..)

/-- In RETIRED no operation but READMIT passes its tests. -/
theorem opFails_retired (hr : rd s (K.sliceState slice) = 4) (hc : code = 1 ∨ code = 2 ∨ code = 3 ∨ code = 4) :
    firstFail (opFails s slice code) ≠ none := by
  intro h
  refine firstFail_eq_none_iff.mp h (0x01, K.sliceState slice) ?_
  rcases hc with rfl | rfl | rfl | rfl <;> simp [opFails, hr, opFrom, has, failIf]

end

/-- Settles O36: each operation by its row, and the states that the tests ask for. -/
theorem sliceOperationsRun : Obligations.SliceOperationsRun := by
  unfold Obligations.SliceOperationsRun
  intro slice w s hs ha
  exact ⟨sliceOpRow_done hs ha (by decide), sliceOpRow_done hs ha (by decide), sliceOpRow_done hs ha (by decide),
    sliceOpRow_done hs ha (by decide), fun hf => ⟨sliceOpRow_done hs ha (by decide) hf, runOp_readmit s slice⟩,
    fun r k => ⟨sliceOpRow_refused hs ha (by decide), sliceOpRow_refused hs ha (by decide), sliceOpRow_refused hs ha (by decide),
      sliceOpRow_refused hs ha (by decide), sliceOpRow_refused hs ha (by decide)⟩,
    fun hr code => opFails_retired hr⟩

end Sys2Proof.Machine
end

section
/-! SUPPORT. Hardware and service events of a slice (R9, R389, R451, R463 to R466). -/

namespace Sys2Proof.Machine

section

variable {s t u : State} {slice : Nat} {r : HwResult}

/-! ## From STARTING -/

theorem exec_sliceHardwareReady_starting (hs : slice < 4) (hh : s.sec.held = false) (hn : rd s K.nodeStartState = 2)
    (h0 : rd s (K.sliceState slice) = 0) (ht : t = selfTest s slice r) : exec (.sliceHardwareReady slice r) s =
      .next (leaveStart (if r.scoringOk = true ∧ r.carryingOk = true ∧ noEngines t slice = false then setSlice t slice 1
        else retireAtStart t slice r)) := by
  subst ht
  show execSliceHardwareReady slice r s = _
  unfold execSliceHardwareReady
  refine (if_neg (by simp [Nat.not_le.mpr hs, hh, hn, h0])).trans ?_
  simp only [Bool.and_eq_true, Bool.not_eq_true', and_assoc]

theorem exec_sliceHardwareReady_other
    (h : 4 ≤ slice ∨ s.sec.held = true ∨ rd s K.nodeStartState ≠ 2 ∨ rd s (K.sliceState slice) ≠ 0) :
    exec (.sliceHardwareReady slice r) s = .next s := by
  show execSliceHardwareReady slice r s = _
  unfold execSliceHardwareReady
  exact if_pos (by simpa [or_assoc] using h)

/-! ## Evacuation and retraining -/

theorem exec_evacuationDone_empty (hs : slice < 4) (h2 : rd s (K.sliceState slice) = 2) (he : sliceEmpty s slice = true) :
    exec (.evacuationDone slice) s = .next (wr (setSlice s slice 3) (K.sliceOpState slice) 0) := by
  show execEvacuationDone slice s = _
  unfold execEvacuationDone
  exact if_neg (by simp [Nat.not_le.mpr hs, h2, he])

theorem exec_evacuationDone_other (h : 4 ≤ slice ∨ rd s (K.sliceState slice) ≠ 2 ∨ sliceEmpty s slice = false) :
    exec (.evacuationDone slice) s = .next s := by
  show execEvacuationDone slice s = _
  unfold execEvacuationDone
  exact if_pos (by simpa [or_assoc] using h)

/-- A slice's state stays after its operation state is set. -/
theorem sliceState_after_opState (s : State) (sl st op : Nat) : rd (wr (setSlice s sl st) (K.sliceOpState sl) op) (K.sliceState sl) = st :=
  (rd_wr_other _ _ (by simp only [K.sliceState, K.sliceOpState]; omega)).trans (rd_setSlice_same ..)

theorem exec_retrainDone_retraining (ok : Bool) (hs : slice < 4) (ho : rd s (K.sliceOpState slice) = 3) (h3 : rd s (K.sliceState slice) = 3) :
    exec (.retrainDone slice ok) s =
      if ok = true then .next (wr s (K.sliceOpState slice) 0) else .next (wr (setSlice s slice 4) (K.sliceOpState slice) 5) := by
  show execRetrainDone slice ok s = _
  unfold execRetrainDone
  exact if_neg (by simp [Nat.not_le.mpr hs, ho, h3])

theorem exec_retrainDone_other {ok : Bool} (h : 4 ≤ slice ∨ rd s (K.sliceOpState slice) ≠ 3 ∨ rd s (K.sliceState slice) ≠ 3) :
    exec (.retrainDone slice ok) s = .next s := by
  show execRetrainDone slice ok s = _
  unfold execRetrainDone
  exact if_pos (by simpa [or_assoc] using h)

/-! ## Readmission -/

theorem exec_readmitDone_starting {trains : Bool} (hs : slice < 4) (ho : rd s (K.sliceOpState slice) = 4) (h0 : rd s (K.sliceState slice) = 0)
    (htr : trains = has s.sec.fromRetired slice)
    (ht : t = selfTest { s with sec := { s.sec with fromRetired := without s.sec.fromRetired slice } } slice r)
    (hu : u = (if trains then markStacks t slice r else t)) : exec (.readmitDone slice r) s =
      if (trains = false ∨ (r.scoringOk = true ∧ r.carryingOk = true)) ∧ noEngines u slice = false then
        .next (afterMove (setSlice (wr (copyEntries
          (copyBooks (backSlice (clearPoison (clearSlice u slice) slice) slice) slice) slice) (K.sliceOpState slice) 0) slice 1))
      else .next (wr (setSlice (startEvent u slice) slice 4) (K.sliceOpState slice) 5) := by
  subst htr ht hu
  show execReadmitDone slice r s = _
  unfold execReadmitDone
  refine (if_neg (by simp [Nat.not_le.mpr hs, ho, h0])).trans ?_
  simp only [Bool.and_eq_true, Bool.or_eq_true, Bool.not_eq_true']

theorem exec_readmitDone_other (h : 4 ≤ slice ∨ rd s (K.sliceOpState slice) ≠ 4 ∨ rd s (K.sliceState slice) ≠ 0) :
    exec (.readmitDone slice r) s = .next s := by
  show execReadmitDone slice r s = _
  unfold execReadmitDone
  exact if_pos (by simpa [or_assoc] using h)

/-! ## Reports and faults -/

theorem exec_sliceReport_cases (src state : Nat) : exec (.sliceReport src slice state) s =
    if isLead s = false then .next (refuseMgmt s)
    else .next (wantMap s (modEntry src (fun e =>
      { e with inService := e.inService - b2n (bitB e.inService slice) * 2 ^ slice + (if state == 1 then 2 ^ slice else 0) }))) := by
  show execSliceReport src slice state s = _
  unfold execSliceReport
  simp only [Bool.not_eq_true']

/-- A slice that comes into service, or leaves it, is reported to the Lead. -/
theorem setSlice_reports {state : Nat} (h : rd s (K.sliceState slice) = 1 ↔ state ≠ 1) (hm : rd s K.membershipState ≠ 0)
    (hn : myNode s ≠ 0xFFFF) :
    setSlice s slice state = mgmt (wr s (K.sliceState slice) state) (leadNode s) (.sliceReport slice state) := by
  have hk (k : Nat) (h : k ≠ K.sliceState slice) : rd (wr s (K.sliceState slice) state) k = rd s k := rd_wr_other _ _ h
  have hms := hk K.membershipState (by simp only [K.sliceState, K.membershipState]; omega)
  have hnn := hk K.nodeNumber (by simp only [K.sliceState, K.nodeNumber]; omega)
  unfold setSlice tellSlice
  refine (if_neg ?_).trans ((if_neg ?_).trans rfl)
  · by_cases hs : state = 1 <;> simp_all
  · simp only [myNode] at hn ⊢
    simp [hms, hnn, hm, hn]

theorem sliceFault_none {cause : Nat} {answers : Bool} (h : 4 ≤ slice ∨ rd s (K.sliceState slice) = 4) :
    sliceFault s slice cause answers = s := if_pos (by simpa [or_comm] using h)

end

/-- Settles O37: each event in the state of the slice that it is for, and in any other. -/
theorem sliceEventsMoveTheSlice : Obligations.SliceEventsMoveTheSlice := by
  unfold Obligations.SliceEventsMoveTheSlice
  refine ⟨fun slice r s t hs hh hn h0 ht => ?ready, fun slice r s => exec_sliceHardwareReady_other,
    fun slice s hs h2 he => ⟨exec_evacuationDone_empty hs h2 he, sliceState_after_opState ..⟩, fun slice s => exec_evacuationDone_other,
    fun slice s hs ho h3 => ⟨exec_retrainDone_retraining true hs ho h3, exec_retrainDone_retraining false hs ho h3,
      sliceState_after_opState ..⟩, fun slice ok s => exec_retrainDone_other,
    fun slice r s t u trains hs ho h0 htr ht hu => ?readmit, fun slice r s => exec_readmitDone_other,
    fun src slice state s => ?report, fun slice state s => setSlice_reports, fun slice answers s => rfl, fun slice answers s => sliceFault_none⟩
  case ready =>
    rw [exec_sliceHardwareReady_starting hs hh hn h0 ht]
    refine ⟨fun h1 h2 h3 => by rw [if_pos ⟨h1, h2, h3⟩], fun h => ?_⟩
    rw [if_neg]
    rintro ⟨h1, h2, h3⟩
    simp [h1, h2, h3] at h
  case readmit =>
    rw [exec_readmitDone_starting hs ho h0 htr ht hu]
    refine ⟨fun h he => if_pos ⟨h, he⟩, fun h => if_neg ?_⟩
    rintro ⟨hok, he⟩
    rcases h with ⟨hb, hx⟩ | hb
    · rcases hok with hf | ⟨h1, h2⟩
      · simp [hb] at hf
      · simp [h1, h2] at hx
    · simp [he] at hb
  case report =>
    rw [exec_sliceReport_cases]
    exact ⟨fun h => if_pos h, fun h => if_neg (by simp [h])⟩

end Sys2Proof.Machine
end

section
/-! SUPPORT. Maps and handoffs (R373, R376, R398). -/

namespace Sys2Proof.Machine

section

variable {s t : State} {src : Nat} {o : Handoff} {h : HandoffSt} {copies : List QuireImage}

/-! ## Maps -/

theorem exec_mapUpdate_lead {m : MapMsg} (hs : src = leadNode s) (hl : isLead s = false) : exec (.mapUpdate src m) s =
    if m.epoch = rd s K.mapEpoch then .next (if s.herd.mapWait = true then releaseHeld (installMap s m) else s)
    else .next { s with herd := { s.herd with mapNext := some m } } := by
  show execMapUpdate src m s = _
  unfold execMapUpdate
  refine (if_neg (by simp [hs, hl])).trans ?_
  simp only [beq_iff_eq]
  rfl

theorem exec_mapUpdate_other {m : MapMsg} (h : src ≠ leadNode s ∨ isLead s = true) : exec (.mapUpdate src m) s = .next (refuseMgmt s) := by
  show execMapUpdate src m s = _
  unfold execMapUpdate
  exact if_pos (by simpa using h)

/-! ## Orders -/

/-- The handoff that a node takes part in by an order, as its source or its destination. -/
abbrev begun (o : Handoff) (source : Bool) : HandoffSt := { order := o, source := source, phase := 1, holdFrom := 0 }

/-- The images of a copy that its order names. -/
abbrev ordered (o : Handoff) (copies : List QuireImage) : List QuireImage :=
  copies.filter (fun im => inOrder o im.tenant im.ream im.layer im.head im.num)

/-- An order of the Lead that is new makes its source and its destination take part. -/
theorem exec_handoffOrder_new (hs : src = leadNode s) (hn : findHandoff s o = none) (hd : o.src ≠ o.dst) :
    exec (.handoffOrder src o copies) s = .next (
      if o.src = myNode s then { s with comp := { s.comp with handoffs := s.comp.handoffs ++ [begun o true] } }
      else if o.dst = myNode s then
        match placeImages (ordered o copies) s with
        | none => s
        | some t => { t with comp := { t.comp with handoffs := t.comp.handoffs ++ [begun o false] } }
      else s) := by
  show execHandoffOrder src o copies s = _
  unfold execHandoffOrder
  simp only [hs, hn, bne_self_eq_false, Bool.false_eq_true, ↓reduceIte, Option.isSome_none, Bool.false_or, beq_iff_eq, hd]
  by_cases h1 : o.src = myNode s
  · simp only [h1, ↓reduceIte, BEq.rfl]
    rfl
  · simp only [h1, ↓reduceIte, beq_eq_false_iff_ne.mpr h1]
    split
    · simp only [ordered]
      cases placeImages (copies.filter (fun im => inOrder o im.tenant im.ream im.layer im.head im.num)) s <;> rfl
    · rfl

theorem exec_handoffOrder_known (hs : src = leadNode s) (hk : (findHandoff s o).isSome = true ∨ o.src = o.dst) :
    exec (.handoffOrder src o copies) s = .next s := by
  show execHandoffOrder src o copies s = _
  unfold execHandoffOrder
  exact (if_neg (by simp [hs])).trans (if_pos (by simpa using hk))

/-! ## Copies -/

/-- A copy at the source: phase 1 holds the appends where the home moves, and the copy is reported ready after the hold. -/
theorem exec_handoffCopyDone_source (hf : findHandoff s o = some h) (hs : h.source = true) :
    exec (.handoffCopyDone ⟨o, copies⟩) s = .next (
      if h.phase = 1 ∧ h.order.homeMoves = true then putHandoff s { h with phase := 2, holdFrom := rd s K.currentStep + 1 }
      else if h.phase = 1 ∨ (h.phase = 2 ∧ h.holdFrom ≤ rd s K.currentStep ∧ noPending s o.tenant o.ream = true) then
        mgmt (putHandoff s { h with phase := 3 }) (leadNode s) (.handoffReady (currentOrder s h.order))
      else s) := by
  show execHandoffCopyDone ⟨o, copies⟩ s = _
  unfold execHandoffCopyDone
  simp only [hf, hs, Bool.not_true, Bool.false_eq_true, ↓reduceIte, beq_iff_eq, Bool.and_eq_true, decide_eq_true_eq, and_assoc]
  by_cases h1 : h.phase = 1
  · simp only [h1, ↓reduceIte, true_and, true_or]
    split <;> rfl
  · simp only [h1, ↓reduceIte, false_and, false_or]
    split <;> rfl

theorem exec_handoffCopyDone_destination (hf : findHandoff s o = some h) (hs : h.source = false) :
    exec (.handoffCopyDone ⟨o, copies⟩) s = .next (if h.phase < 4 then (ordered o copies).foldl takeCopy s else s) := by
  show execHandoffCopyDone ⟨o, copies⟩ s = _
  unfold execHandoffCopyDone
  simp only [hf, hs, Bool.not_false, ↓reduceIte]

theorem exec_handoffCopyDone_none (hf : findHandoff s o = none) : exec (.handoffCopyDone ⟨o, copies⟩) s = .next s := by
  show execHandoffCopyDone ⟨o, copies⟩ s = _
  unfold execHandoffCopyDone
  simp only [hf]

/-! ## Ready and reverted handoffs -/

/-- The Lead takes a ready handoff into the next map, unless a replacement still waits for another one. -/
theorem exec_handoffReady_lead (hl : isLead s = true)
    (ht : t = { s with herd := { s.herd with
      readyWant := s.herd.readyWant.filter (fun x => !sameOrder x o) ++ [o],
      leaving := s.herd.leaving.map (fun l => { l with orders := l.orders.filter (fun x => !sameOrder x o) }) } }) :
    exec (.handoffReady src o) s =
      .next (if t.herd.leaving.any (fun l => l.spare == o.dst && !l.orders.isEmpty) = true then settleLeaving t
        else tryMap (settleLeaving t)) := by
  subst ht
  show execHandoffReady src o s = _
  unfold execHandoffReady
  exact if_neg (by simp [hl])

theorem exec_handoffReady_other (hl : isLead s = false) : exec (.handoffReady src o) s = .next (refuseMgmt s) := by
  show execHandoffReady src o s = _
  unfold execHandoffReady
  exact if_pos (by simp [hl])

theorem exec_handoffRevert_other (hs : src ≠ leadNode s) : exec (.handoffRevert src o) s = .next (refuseMgmt s) := by
  show execHandoffRevert src o s = _
  unfold execHandoffRevert
  exact if_pos (by simpa using hs)

theorem exec_handoffRevert_source (hs : src = leadNode s) (hf : findHandoff s o = some h) (hh : h.source = true) (h4 : h.phase = 4) :
    exec (.handoffRevert src o) s = .next (putHandoff s { h with phase := 5 }) := by
  show execHandoffRevert src o s = _
  unfold execHandoffRevert
  refine (if_neg (by simp [hs])).trans ?_
  simp only [hf, hh, h4, BEq.rfl, Bool.and_self, ↓reduceIte]

theorem exec_handoffRevert_none (hs : src = leadNode s) (hn : ∀ h, findHandoff s o = some h → h.source = false ∨ h.phase ≠ 4) :
    exec (.handoffRevert src o) s = .next s := by
  show execHandoffRevert src o s = _
  unfold execHandoffRevert
  refine (if_neg (by simp [hs])).trans ?_
  cases hf : findHandoff s o with
  | none => rfl
  | some h =>
    simp only
    rw [if_neg (by simpa [Decidable.imp_iff_not_or] using hn h hf)]

end

/-- Settles O40: maps, orders, copies, ready and reverted handoffs, of the Lead and of any other node. -/
theorem handoffsFollowTheLead : Obligations.HandoffsFollowTheLead := by
  unfold Obligations.HandoffsFollowTheLead
  refine ⟨fun src m s hs hl => ?map, fun src m s => exec_mapUpdate_other, fun src o copies s hs hn hd => ?order,
    fun src o copies s => ⟨fun h => ?refused, exec_handoffOrder_known⟩, fun o copies s h hf hs => ?source,
    fun o copies s h hf hs => ?destination, fun o copies s => exec_handoffCopyDone_none, fun src o s t hl ht => ?ready,
    fun src o s => exec_handoffReady_other, fun src o s hs => ⟨fun h => exec_handoffRevert_source hs, exec_handoffRevert_none hs⟩,
    fun src o s => exec_handoffRevert_other⟩
  case map =>
    rw [exec_mapUpdate_lead hs hl]
    exact ⟨fun h => if_neg h, fun h hw => by rw [if_pos h, if_pos hw], fun h hw => by rw [if_pos h, if_neg (by simp [hw])]⟩
  case order =>
    rw [exec_handoffOrder_new hs hn hd]
    refine ⟨fun h => by rw [if_pos h], fun t h h' ht => ?_, fun h h' ht => ?_, fun h h' => by rw [if_neg h, if_neg h']⟩
    · rw [if_neg h, if_pos h', ht]
    · rw [if_neg h, if_pos h', ht]
  case refused =>
    show execHandoffOrder src o copies s = _
    unfold execHandoffOrder
    exact if_pos (by simpa using h)
  case source =>
    rw [exec_handoffCopyDone_source hf hs]
    refine ⟨fun h1 hm => by rw [if_pos ⟨h1, hm⟩], fun hr => ?_, fun hr => ?_⟩
    · rw [if_neg, if_pos]
      · exact hr.imp And.left id
      · rintro ⟨h1, hm⟩
        rcases hr with ⟨-, hm'⟩ | ⟨h2, -⟩
        · simp [hm] at hm'
        · omega
    · rw [if_neg, if_neg]
      · rintro (h1 | ⟨h2, hle, hno⟩)
        · omega
        · rcases hr with hr | ⟨-, hr | hr⟩
          · omega
          · omega
          · simp [hno] at hr
      · rintro ⟨h1, -⟩
        omega
  case destination =>
    rw [exec_handoffCopyDone_destination hf hs]
    exact ⟨fun h => by rw [if_pos h], fun h => by rw [if_neg (by omega)]⟩
  case ready =>
    rw [exec_handoffReady_lead hl ht]
    refine ⟨fun h => by rw [if_pos (by simpa using h)], fun h => ?_⟩
    rw [if_neg]
    simpa using h

end Sys2Proof.Machine
end

section
/-! SUPPORT. Health reports and scores (R392 to R397). -/

namespace Sys2Proof.Machine

section

variable {s t : State} {src node n v u k : Nat} {counts : List Nat}

/-! ## The report of a member -/

/-- A member's report is due. -/
abbrev reportDue (s : State) : Prop :=
  on s K.healthEnable = true ∧ isLead s = false ∧ has [2, 3, 5] (rd s K.membershipState) = true ∧
  s.rel.reportAt + rd s K.healthReportNs ≤ now s

theorem exec_healthReportDue_cases : exec .healthReportDue s = .next (
    if reportDue s then
      mgmt { s with rel := { s.rel with penalties := [], unmirrored := 0, reportAt := now s } } (leadNode s)
        (.healthReport ((upFrom 0 7).map (fun i => tget s.rel.penalties i 0)) s.rel.unmirrored)
    else s) := by
  show execHealthReportDue s = _
  unfold execHealthReportDue
  simp only [Bool.and_eq_true, Bool.not_eq_true', decide_eq_true_eq, and_assoc]
  split <;> rfl

/-! ## The scores of the Lead -/

theorem exec_healthReport_member (hl : isLead s = true) (hm : ∃ e ∈ members s.herd.map, e.node = src) (he : on s K.healthEnable = true)
    (ht : t = { s with rel := { s.rel with reports := tset s.rel.reports src (now s), silent := terase s.rel.silent src } }) :
    exec (.healthReport src counts u) s = .next (newScore t src
      (if (∀ n ∈ counts, n = 0) ∧ u = 0 then min 1000 (scoreOf s src - reportCost s counts u + rd s K.healthRecover)
        else scoreOf s src - reportCost s counts u) true) := by
  subst ht
  show execHealthReport src counts u s = _
  unfold execHealthReport
  refine (if_neg (by simpa [hl] using hm)).trans ((if_neg (by simp [he])).trans ?_)
  simp only [Bool.and_eq_true, List.all_eq_true, beq_iff_eq]
  rfl

theorem exec_healthReport_refused (h : isLead s = false ∨ ∀ e ∈ members s.herd.map, e.node ≠ src) :
    exec (.healthReport src counts u) s = .next (refuseMgmt s) := by
  show execHealthReport src counts u s = _
  unfold execHealthReport
  exact if_pos (by simpa using h)

theorem exec_healthReport_off (hl : isLead s = true) (hm : ∃ e ∈ members s.herd.map, e.node = src) (he : on s K.healthEnable = false) :
    exec (.healthReport src counts u) s = .next s := by
  show execHealthReport src counts u s = _
  unfold execHealthReport
  exact (if_neg (by simpa [hl] using hm)).trans (if_pos (by simp [he]))

/-- A Lead that keeps scores watches the member. -/
abbrev scored (s : State) (node : Nat) : Prop :=
  isLead s = true ∧ on s K.healthEnable = true ∧ ∃ e ∈ members s.herd.map, e.node = node

theorem exec_healthReportMissed_cases (hk : k = tget s.rel.silent node 0) : exec (.healthReportMissed node) s = .next (
    if scored s node ∧ tget s.rel.reports node 0 + (k + 1) * rd s K.healthReportNs ≤ now s then
      newScore { s with rel := { s.rel with silent := tset s.rel.silent node (k + 1) } } node (scoreOf s node - weightOf s 8) false
    else s) := by
  subst hk
  show execHealthReportMissed node s = _
  unfold execHealthReportMissed
  simp only [Bool.and_eq_true, List.any_eq_true, beq_iff_eq, decide_eq_true_eq, scored, and_assoc]
  split <;> rfl

/-- The Lead decides on a member at a report, and where its score falls below the mark. -/
theorem newScore_cases (s : State) (n v : Nat) (report : Bool) : newScore s n v report =
    if report = true ∨ (rd s K.healthExpelBelow ≤ scoreOf s n ∧ v < rd s K.healthExpelBelow) then
      decideNode (setScore s n v) n (decide (rd s K.healthExpelBelow ≤ scoreOf s n) && decide (v < rd s K.healthExpelBelow))
    else setScore s n v := by
  simp only [newScore, Bool.or_eq_true, Bool.and_eq_true, decide_eq_true_eq]

theorem exec_nodeLost_cases (neighbours : Bool) : exec (.nodeLost node neighbours) s = .next (
    if isLead s = true ∧ on s K.healthEnable = true ∧ (∃ e ∈ members (plannedMap s), e.node = node) ∧
      (neighbours = true ∨ rd s K.healthSilentReports ≤ tget s.rel.silent node 0) then loseNode s node else s) := by
  show execNodeLost node neighbours s = _
  unfold execNodeLost
  simp only [Bool.and_eq_true, Bool.or_eq_true, List.any_eq_true, beq_iff_eq, decide_eq_true_eq, and_assoc]
  split <;> rfl

theorem exec_standInOrder_cases : exec (.standInOrder src node) s =
    if src ≠ leadNode s ∨ rd s K.membershipState ≠ 7 then .next (refuseMgmt s)
    else .next { s with rel := { s.rel with standFor := node } } := by
  show execStandInOrder src node s = _
  unfold execStandInOrder
  simp only [Bool.or_eq_true, bne_iff_ne]
  rfl

end

/-- Settles O41: the report of a member, and what the Lead does with it, without it, and at the loss of a node. -/
theorem healthIsReportedAndScored : Obligations.HealthIsReportedAndScored := by
  unfold Obligations.HealthIsReportedAndScored
  refine ⟨fun s he hl hm hd => ?due, fun s h => ?notDue, fun src counts u s t hl hm he ht => ?report,
    fun src counts u s => ⟨exec_healthReport_refused, exec_healthReport_off⟩, fun node k s t hl he hm hk => ?missed, fun node s h => ?notScored,
    fun s n v report => ?decided, fun node neighbours s => ?lost, fun src node s => ?standIn⟩
  case due =>
    refine ⟨_, exec_healthReportDue_cases.trans (congrArg _ (if_pos ⟨he, hl, hm, hd⟩)), rfl, rfl, rfl, rfl, rfl⟩
  case notDue =>
    refine exec_healthReportDue_cases.trans (congrArg _ (if_neg ?_))
    rintro ⟨he, hl, hm, hd⟩
    rcases h with h | h | h | h
    · simp [he] at h
    · simp [hl] at h
    · simp [hm] at h
    · omega
  case report =>
    rw [exec_healthReport_member hl hm he ht]
    refine ⟨fun h hu => by rw [if_pos ⟨h, hu⟩], fun h => ?_⟩
    rw [if_neg]
    rintro ⟨hall, hu⟩
    rcases h with ⟨n, hn, h0⟩ | h
    · exact h0 (hall n hn)
    · exact h hu
  case missed =>
    rw [exec_healthReportMissed_cases hk]
    refine ⟨fun hd ht => ?_, fun hd => ?_⟩
    · rw [if_pos ⟨⟨hl, he, hm⟩, hd⟩, ht]
    · rw [if_neg]
      rintro ⟨-, hd'⟩
      omega
  case notScored =>
    refine (exec_healthReportMissed_cases rfl).trans (congrArg _ (if_neg ?_))
    rintro ⟨⟨hl, he, e, hm, hn⟩, -⟩
    rcases h with h | h | h
    · simp [hl] at h
    · simp [he] at h
    · exact h e hm hn
  case decided =>
    rw [newScore_cases]
    refine ⟨fun h => if_pos h, fun hr h => if_neg ?_⟩
    rintro (hr' | ⟨hle, hlt⟩)
    · simp [hr] at hr'
    · omega
  case lost =>
    rw [exec_nodeLost_cases]
    refine ⟨fun hl he hm hd => by rw [if_pos ⟨hl, he, hm, hd⟩], fun h => ?_⟩
    rw [if_neg]
    rintro ⟨hl, he, ⟨e, hm, hn⟩, hd⟩
    rcases h with h | h | h | ⟨h, hs⟩
    · simp [hl] at h
    · simp [he] at h
    · exact h e hm hn
    · rcases hd with hd | hd
      · simp [h] at hd
      · omega
  case standIn =>
    rw [exec_standInOrder_cases]
    exact ⟨fun hs h7 => if_neg (by simp [hs, h7]), fun h => if_pos h⟩

end Sys2Proof.Machine
end

section
/-! SUPPORT. The journal and the lost ranges (R399 to R401). -/

namespace Sys2Proof.Machine

section

variable {s : State} {src step lost tenant ream : Nat} {toks l : List JournalTok} {taken : Bool}

/-! ## Mirrors and their answers -/

/-- What the partner keeps of a member after a mirror: a mirror of step 0 takes the place of what it held. -/
theorem exec_journalMirror_member (hm : ∃ e ∈ members s.herd.map, e.node = src)
    (hl : l = keepTails ((if step == 0 then [] else tget s.rel.jstore src []).filter
      (fun t => !toks.any (fun u => tokGroup u == tokGroup t && u.position == t.position)) ++ toks)) :
    exec (.journalMirror src step toks) s = .next (
      if on s K.journalEnable = true ∧ storeBytes (tset s.rel.jstore src l) ≤ journalBytes s then
        mgmt { s with rel := { s.rel with jstore := tset s.rel.jstore src l } } src (.journalAck step true)
      else mgmt s src (.journalAck step false)) := by
  subst hl
  show execJournalMirror src step toks s = _
  unfold execJournalMirror
  refine (if_neg (by simpa using hm)).trans ?_
  simp only [Bool.and_eq_true, decide_eq_true_eq, ← apply_ite Host.Outcome.next]
  rfl

theorem exec_journalMirror_refused (hm : ∀ e ∈ members s.herd.map, e.node ≠ src) :
    exec (.journalMirror src step toks) s = .next (refuseMgmt s) := by
  show execJournalMirror src step toks s = _
  unfold execJournalMirror
  exact if_pos (by simpa using hm)

theorem exec_journalAck_cases : exec (.journalAck src step taken) s =
    if src ≠ rd s K.journalPartner then .next (refuseMgmt s)
    else match s.rel.jmirrors.find? (fun m => m.1 == step) with
      | none => .next s
      | some m => .next (releaseCommit (if taken then s else countUnmirrored s m.2.1) step) := by
  show execJournalAck src step taken s = _
  unfold execJournalAck
  simp only [bne_iff_ne] <;> rfl

theorem exec_journalAckTimeout_waited {m : Nat × Nat × Nat}
    (h : s.rel.jmirrors.find? (fun m => passed s m.2.2 (rd s K.journalAckNs)) = some m) :
    exec .journalAckTimeout s = .next (releaseCommit (event (countUnmirrored s m.2.1) 0x81 5 nodeSlice 2
      (packBits [(16, rd s K.journalPartner), (32, m.2.1)])) m.1) := by
  show execJournalAckTimeout s = _
  unfold execJournalAckTimeout
  simp only [h]

theorem exec_journalAckTimeout_none (h : ∀ m ∈ s.rel.jmirrors, passed s m.2.2 (rd s K.journalAckNs) = false) :
    exec .journalAckTimeout s = .next s := by
  have hn : s.rel.jmirrors.find? (fun m => passed s m.2.2 (rd s K.journalAckNs)) = none :=
    List.find?_eq_none.mpr fun m hm => by simp [h m hm]
  show execJournalAckTimeout s = _
  unfold execJournalAckTimeout
  simp only [hn]

theorem exec_journalFetch_cases : exec (.journalFetch src lost toks) s =
    if src = myNode s then .next (rebuildAll s toks)
    else if ¬ ∃ e ∈ s.herd.map, e.node = src then .next (refuseMgmt s)
    else .next (mgmt s src (.journalTail lost (tget s.rel.jstore lost []))) := by
  show execJournalFetch src lost toks s = _
  unfold execJournalFetch
  simp only [beq_iff_eq, Bool.not_eq_true', ← Bool.not_eq_true, List.any_eq_true]

/-! ## Lost ranges -/

/-- What of a lost range a node keeps: of a rebuilt Ream only what lies before its tail. -/
def keptLost (s : State) (r : LostRange) : Option LostRange :=
  match (s.kv.sheets.filter (fun p => p.2.tenant == r.tenant && p.2.ream == r.ream)).map (fun p => p.2.num) with
  | [] => some r
  | l => beforeTail r.tenant r.ream (maxNat l) r

theorem keptLost_not_here {r : LostRange} (h : ∀ p ∈ s.kv.sheets, p.2.tenant ≠ r.tenant ∨ p.2.ream ≠ r.ream) : keptLost s r = some r := by
  have hn : s.kv.sheets.filter (fun p => p.2.tenant == r.tenant && p.2.ream == r.ream) = [] :=
    List.filter_eq_nil_iff.mpr fun p hp => by simpa [Decidable.imp_iff_not_or] using h p hp
  simp only [keptLost, hn, List.map_nil]

theorem filterMap_keptLost {l : List LostRange} (h : ∀ r ∈ l, ∀ p ∈ s.kv.sheets, p.2.tenant ≠ r.tenant ∨ p.2.ream ≠ r.ream) :
    l.filterMap (keptLost s) = l := by
  induction l with
  | nil => rfl
  | cons r l ih =>
    rw [List.filterMap_cons_some (keptLost_not_here (h r List.mem_cons_self)), ih fun r hr => h r (List.mem_cons_of_mem _ hr)]

theorem keptLost_rebuilt {r : LostRange} {tail : Nat} {rest : List Nat}
    (h : (s.kv.sheets.filter (fun p => p.2.tenant == r.tenant && p.2.ream == r.ream)).map (fun p => p.2.num) = tail :: rest) :
    keptLost s r = beforeTail r.tenant r.ream (maxNat (tail :: rest)) r := by
  simp only [keptLost, h]

theorem exec_lostRanges_lead {r : List LostRange} (hs : src = leadNode s) :
    exec (.lostRanges src r) s = .next ((r.filterMap (keptLost s)).foldl addLost s) := by
  show execLostRanges src r s = _
  unfold execLostRanges
  exact (if_neg (by simp [hs])).trans rfl

theorem exec_lostRanges_refused {r : List LostRange} (hs : src ≠ leadNode s) : exec (.lostRanges src r) s = .next (refuseMgmt s) := by
  show execLostRanges src r s = _
  unfold execLostRanges
  exact if_pos (by simpa using hs)

theorem exec_lostRangeClear_cases : exec (.lostRangeClear src tenant ream) s =
    if isLead s = true then .next (((s.herd.map.map MapEntry.node).filter (fun n => n != myNode s)).foldl
      (fun t n => mgmt t n (.lostRangeClear tenant ream)) (dropLost s tenant ream))
    else if src = leadNode s then .next (dropLost s tenant ream)
    else .next (refuseMgmt s) := by
  show execLostRangeClear src tenant ream s = _
  unfold execLostRangeClear
  simp only [beq_iff_eq]

end

/-- Settles O42: mirrors, their answers and their time, the fetch of a tail, and the lost ranges. -/
theorem journalAndLostRanges : Obligations.JournalAndLostRanges := by
  unfold Obligations.JournalAndLostRanges
  refine ⟨fun src step toks l s hm hl => ?mirror, fun src step toks s => exec_journalMirror_refused, fun src step taken s => ?ack,
    fun s m => exec_journalAckTimeout_waited, fun s => exec_journalAckTimeout_none, fun src lost toks s => ?fetch,
    fun src l s => ⟨fun hs h => ?kept, exec_lostRanges_refused⟩, fun src tail r rest s hs h => ?rebuilt, fun src tenant ream s => ?clear⟩
  case mirror =>
    rw [exec_journalMirror_member hm hl]
    refine ⟨fun he hb => by rw [if_pos ⟨he, hb⟩], fun h => ?_⟩
    rw [if_neg]
    rintro ⟨he, hb⟩
    rcases h with h | h
    · simp [he] at h
    · omega
  case ack =>
    rw [exec_journalAck_cases]
    refine ⟨fun h => if_pos h, fun m h hm => ?_, fun h hm => ?_⟩
    · rw [if_neg (not_not_intro h), hm]
    · rw [if_neg (not_not_intro h), hm]
  case fetch =>
    rw [exec_journalFetch_cases]
    refine ⟨fun h => if_pos h, fun h hm => by rw [if_neg h, if_neg (not_not_intro hm)], fun h hm => ?_⟩
    rw [if_neg h, if_pos]
    rintro ⟨e, he, hn⟩
    exact hm e he hn
  case kept =>
    rw [exec_lostRanges_lead hs, filterMap_keptLost h]
  case rebuilt =>
    rw [exec_lostRanges_lead hs]
    refine ⟨fun r' hr => ?_, fun hr => ?_⟩
    · simp [keptLost_rebuilt h, hr]
    · simp [keptLost_rebuilt h, hr]
  case clear =>
    rw [exec_lostRangeClear_cases]
    exact ⟨fun h => if_pos h, fun h hs => by rw [if_neg (by simp [h]), if_pos hs], fun h hs => by rw [if_neg (by simp [h]), if_neg hs]⟩

end Sys2Proof.Machine
end

section
/-! SUPPORT. Training of links, flaps of lanes, and LINK blocks (R312, R313, R316). -/

namespace Sys2Proof.Machine

section

variable {s t : State} {link lane w : Nat}

/-! ## Training -/

theorem exec_linkTrained_cases {farOffer : Nat} (hw : w = min (widthOffer s link) farOffer) : exec (.linkTrained link farOffer) s =
    if (trains s link = true ∨ mayRetry s link = true) ∧ has [1, 2, 4, 8] w = true then
      .next (checkHold (goUp (fillBuckets s link) link w) link)
    else .next s := by
  subst hw
  show execLinkTrained link farOffer s = _
  unfold execLinkTrained
  simp only [Bool.and_eq_true, Bool.or_eq_true]

/-- A link has at most eight good lanes, and offers a width of a power of two of them. -/
theorem widthOffer_powerOfTwo (s : State) (link : Nat) : has [0, 1, 2, 4, 8] (widthOffer s link) = true := by
  unfold widthOffer
  simp only
  split
  · decide
  split
  · decide
  split
  · decide
  · have : min (goodCount s link) (rd s (K.linkWidthMax link)) = 0 ∨ min (goodCount s link) (rd s (K.linkWidthMax link)) = 1 := by omega
    rcases this with h | h <;> rw [h] <;> decide

theorem exec_linkTrainingTimeout_over {signal : Bool} (ht : trains s link = true) (hp : passed s (linkSt s link).trainAt 100000 = true)
    (hu : t = putLink (wr s (K.linkState link) 3) link { linkSt s link with width := 0 }) : exec (.linkTrainingTimeout link signal) s =
    .next (if (linkSt s link).said = false ∨ (linkSt s link).width ≠ 0 ∨ signal = true then sayDown t link 2 else t) := by
  subst hu
  show execLinkTrainingTimeout link signal s = _
  unfold execLinkTrainingTimeout
  refine (if_pos (by simp [ht, hp])).trans ?_
  simp only [Bool.or_eq_true, Bool.not_eq_true', bne_iff_ne, or_assoc]

theorem exec_linkTrainingTimeout_none {signal : Bool} (h : trains s link = false ∨ passed s (linkSt s link).trainAt 100000 = false) :
    exec (.linkTrainingTimeout link signal) s = .next s := by
  show execLinkTrainingTimeout link signal s = _
  unfold execLinkTrainingTimeout
  exact if_neg (by rcases h with h | h <;> simp [h])

theorem exec_linkRetrainAttempt_cases : exec (.linkRetrainAttempt link) s = if mayRetry s link = true then .next (train s link) else .next s := rfl

theorem mayRetry_iff : mayRetry s link = true ↔ link < 36 ∧ on s (K.linkEnable link) = true ∧ rd s (K.linkState link) = 3 ∧
    (linkSt s link).held = false ∧ goodCount s link ≠ 0 := by
  simp only [mayRetry, Bool.and_eq_true, decide_eq_true_eq, beq_iff_eq, Bool.not_eq_true', bne_iff_ne, and_assoc]

/-! ## Flaps -/

/-- A link in service: up, or held. -/
abbrev serves (s : State) (link : Nat) : Bool := rd s (K.linkState link) == 2 || (linkSt s link).held

theorem serves_iff : serves s link = true ↔ rd s (K.linkState link) = 2 ∨ (linkSt s link).held = true := by simp

theorem exec_laneFlap_flaps {far : Bool} (hl : link < 36) (hn : lane < 8) (he : on s (K.linkEnable link) = true)
    (hg : bitB (goodLanes s link) lane = true) (hu : serves s link = true ∨ (rd s (K.linkState link) = 1 ∧ far = true))
    (ht : t = putLink s link { linkSt s link with
      flaps := (linkSt s link).flaps.filter (fun f => decide (minuteNow s < f.2 + 60)) ++ [(lane, minuteNow s)] }) :
    exec (.laneFlap link lane far) s = if rd t K.laneFlapLimit ≤ flapCount t link lane then .next (retireLane t link lane)
      else .next (if serves s link then train t link else t) := by
  subst ht
  show execLaneFlap link lane far s = _
  unfold execLaneFlap
  refine if_pos ?_
  simp only [hl, hn, he, hg, decide_true, Bool.true_and, Bool.or_eq_true (serves s link), Bool.and_eq_true, beq_iff_eq]
  exact hu

theorem exec_laneFlap_none {far : Bool} (h : 36 ≤ link ∨ 8 ≤ lane ∨ on s (K.linkEnable link) = false ∨ bitB (goodLanes s link) lane = false ∨
    (rd s (K.linkState link) ≠ 2 ∧ (linkSt s link).held = false ∧ (rd s (K.linkState link) ≠ 1 ∨ far = false))) :
    exec (.laneFlap link lane far) s = .next s := by
  show execLaneFlap link lane far s = _
  unfold execLaneFlap
  refine if_neg ?_
  simp only [Bool.and_eq_true, Bool.or_eq_true, decide_eq_true_eq, beq_iff_eq]
  rintro ⟨⟨⟨⟨hl, hn⟩, he⟩, hg⟩, hu⟩
  rcases h with h | h | h | h | ⟨h2, hh, h1⟩
  · omega
  · omega
  · simp [he] at h
  · simp [hg] at h
  · simp_all

/-! ## LINK blocks -/

/-- A LINK block is due: at the start of a training, or 1 ms after the last one of a link in service. -/
abbrev blockDue (s : State) (link : Nat) : Prop :=
  (trains s link = true ∧ (linkSt s link).blockAt = none) ∨
  (serves s link = true ∧ ∀ e, (linkSt s link).blockAt = some e → passed s e 1000000 = true)

theorem blockDue_iff : (trains s link && (linkSt s link).blockAt.isNone ||
      serves s link && (match (linkSt s link).blockAt with | none => true | some e => passed s e 1000000)) = true ↔ blockDue s link := by
  rw [Bool.or_eq_true, Bool.and_eq_true, Bool.and_eq_true, Option.isNone_iff_eq_none]
  refine or_congr Iff.rfl (and_congr Iff.rfl ?_)
  cases (linkSt s link).blockAt <;> simp

theorem exec_linkBlockSend_due (hl : link < 36) (hd : blockDue s link)
    (ht : t = putLink (emit s (.control link (linkBlockWord (linkBlockOf s link)))) link { linkSt s link with blockAt := some s.tm.ec }) :
    exec (.linkBlockSend link) s = .next (if serves s link then checkHold t link else t) := by
  subst ht
  show execLinkBlockSend link s = _
  unfold execLinkBlockSend
  exact if_pos ((Bool.and_eq_true ..).mpr ⟨decide_eq_true hl, blockDue_iff.mpr hd⟩)

theorem exec_linkBlockSend_none (h : link < 36 → ¬ blockDue s link) : exec (.linkBlockSend link) s = .next s := by
  show execLinkBlockSend link s = _
  unfold execLinkBlockSend
  refine if_neg fun hc => ?_
  obtain ⟨hl, hd⟩ := (Bool.and_eq_true ..).mp hc
  exact h (of_decide_eq_true hl) (blockDue_iff.mp hd)

/-- A received LINK block that is taken names the peer, and may hold a link in service, or end its hold. -/
theorem exec_linkBlock_taken {block : Nat} {b : LinkBlock} (hk : blockOk 0x02 block = true) (hl : link < 36)
    (hu : trains s link = true ∨ serves s link = true) (hb : b = linkBlockFrom block)
    (ht : t = putLink (wr (wr s (K.peerNode link) b.node) (K.peerLink link) b.link) link { linkSt s link with peerHerd := b.herdId }) :
    exec (.linkBlock link block) s = .next (if serves s link then checkHold t link else t) := by
  subst hb ht
  show execLinkBlock link block s = _
  unfold execLinkBlock
  refine if_pos ?_
  rw [hk, decide_eq_true hl]
  exact (Bool.or_eq_true ..).mpr hu

theorem exec_linkBlock_none {block : Nat} (h : blockOk 0x02 block = false ∨ 36 ≤ link ∨ (trains s link = false ∧ serves s link = false)) :
    exec (.linkBlock link block) s = .next s := by
  show execLinkBlock link block s = _
  unfold execLinkBlock
  refine if_neg ?_
  rcases h with h | h | ⟨ht, hs⟩
  · simp [h]
  · simp [Nat.not_lt.mpr h]
  · rw [serves] at hs
    simp [ht, hs]

theorem linkBlockFrom_word (b : LinkBlock) (hn : b.node < 2 ^ 16) (hl : b.link < 2 ^ 8) (hh : b.herdId < 2 ^ 32)
    (hg : b.goodLanes < 2 ^ 8) (hw : b.widthOffer < 2 ^ 4) : linkBlockFrom (linkBlockWord b) = b := by
  have field (n len : Nat) : bits (linkBlockWord b) (32 + n) len = bits (packBits [(148, 0), (4, b.widthOffer), (8, b.goodLanes),
      (32, b.herdId), (8, b.link), (16, b.node), (8, 0x02)]) n len := bits_sealBlock _ n len
  have h1 : bits (linkBlockWord b) 232 16 = b.node := by
    rw [field 200, bits_packBits_cons (w := 148) _ 52, bits_packBits_cons (w := 4) _ 48, bits_packBits_cons (w := 8) _ 40,
      bits_packBits_cons (w := 32) _ 8, bits_packBits_cons (w := 8) _ 0, bits_packBits_first, Nat.mod_eq_of_lt hn]
  have h2 : bits (linkBlockWord b) 224 8 = b.link := by
    rw [field 192, bits_packBits_cons (w := 148) _ 44, bits_packBits_cons (w := 4) _ 40, bits_packBits_cons (w := 8) _ 32,
      bits_packBits_cons (w := 32) _ 0, bits_packBits_first, Nat.mod_eq_of_lt hl]
  have h3 : bits (linkBlockWord b) 192 32 = b.herdId := by
    rw [field 160, bits_packBits_cons (w := 148) _ 12, bits_packBits_cons (w := 4) _ 8, bits_packBits_cons (w := 8) _ 0,
      bits_packBits_first, Nat.mod_eq_of_lt hh]
  have h4 : bits (linkBlockWord b) 184 8 = b.goodLanes := by
    rw [field 152, bits_packBits_cons (w := 148) _ 4, bits_packBits_cons (w := 4) _ 0, bits_packBits_first, Nat.mod_eq_of_lt hg]
  have h5 : bits (linkBlockWord b) 180 4 = b.widthOffer := by
    rw [field 148, bits_packBits_cons (w := 148) _ 0, bits_packBits_first, Nat.mod_eq_of_lt hw]
  simp only [linkBlockFrom, h1, h2, h3, h4, h5]

end

/-- Settles O43: training, flaps and LINK blocks, each where it acts and where it does not. -/
theorem linksTrainAndRetire : Obligations.LinksTrainAndRetire := by
  unfold Obligations.LinksTrainAndRetire
  refine ⟨fun link farOffer w s hw => ?trained, widthOffer_powerOfTwo, fun link signal s t ht hp hu => ?timeout,
    fun link signal s => exec_linkTrainingTimeout_none, fun link s => ?retry, fun link s => mayRetry_iff,
    fun link lane far up s t hl hn he hg hup hu ht => ?flap, fun link lane far s => exec_laneFlap_none, fun link s t hl ht => ?send,
    fun link s h => ?notSent, fun link block b up s t hk hb hl hup hu ht => ?block, fun link block s h => ?noBlock, linkBlockFrom_word⟩
  case trained =>
    rw [exec_linkTrained_cases hw]
    refine ⟨fun h hw => if_pos ⟨h, hw⟩, fun h => if_neg ?_⟩
    rintro ⟨htr, hw⟩
    rcases h with ⟨h1, h2⟩ | h
    · simp [h1, h2] at htr
    · simp [hw] at h
  case timeout =>
    rw [exec_linkTrainingTimeout_over ht hp hu]
    refine ⟨fun h => by rw [if_pos h], fun h1 h2 h3 => ?_⟩
    rw [if_neg (by simp [h1, h2, h3])]
  case retry =>
    rw [exec_linkRetrainAttempt_cases]
    exact ⟨fun h => if_pos h, fun h => if_neg (by simp [h])⟩
  case flap =>
    subst hup
    rw [exec_laneFlap_flaps hl hn he hg hu ht]
    exact ⟨fun h => if_pos h, fun h => if_neg (by omega)⟩
  case send =>
    refine ⟨fun hs hd => ?_, fun htr hh hb => ?_⟩
    · have hsv := serves_iff.mpr hs
      rw [exec_linkBlockSend_due hl (.inr ⟨hsv, fun e he => ?_⟩) ht, if_pos hsv]
      rcases hd with hd | ⟨e', he', hp⟩
      · simp [hd] at he
      · obtain rfl : e' = e := Option.some.inj (he'.symm.trans he)
        exact hp
    · rw [exec_linkBlockSend_due hl (.inl ⟨htr, hb⟩) ht, if_neg]
      simp only [trains, Bool.and_eq_true, beq_iff_eq] at htr
      rw [serves_iff]
      simp [htr.2, hh]
  case notSent =>
    refine exec_linkBlockSend_none fun hl hd => ?_
    rcases h with h | ⟨htr, hs, hh⟩ | ⟨e, he, hp⟩
    · omega
    · rcases hd with ⟨htr', -⟩ | ⟨hsv, -⟩
      · simp [htr] at htr'
      · simp [hs, hh] at hsv
    · rcases hd with ⟨-, hn⟩ | ⟨-, hp'⟩
      · simp [he] at hn
      · simp [hp' e he] at hp
  case block =>
    subst hup
    exact exec_linkBlock_taken hk hl hu hb ht
  case noBlock =>
    refine exec_linkBlock_none (h.imp_right (Or.imp_right ?_))
    rintro ⟨htr, hs, hh⟩
    exact ⟨htr, by simp [serves, hs, hh]⟩

end Sys2Proof.Machine
end

section
/-! SUPPORT. Timers of the transport: acknowledgement, resending, reassembly and rates (R332 to R335, R348). -/

namespace Sys2Proof.Machine

section

variable {s : State} {dst src vl id packet : Nat} {m : SMsg} {k : SPkt} {c : RCtx}

/-! ## Acknowledgements -/

theorem exec_ack_cases (e : AckEntry) : exec (.ack src vl e) s = .next (if laneOn s vl = true then takeAck s src vl e else s) := rfl

theorem exec_nak_cases (msgId status : Nat) :
    exec (.nak src vl msgId status) s = .next (if laneOn s vl = true then takeNak s src vl msgId status else s) := rfl

/-! ## Resending -/

/-- A packet that was sent and waits for its acknowledgement is sent again, or its message given up. -/
theorem exec_retransmitTimeout_late {e : Nat} (hm : findMsg s dst vl id = some m) (hk : k = nth m.pkts packet ⟨none, 0, true, false, false⟩)
    (he : k.sentAt = some e) (ha : k.acked = false) (hw : k.waits = false) (hn : m.nakAt = none) (hp : passed s e (rd s K.rtoNs) = true) :
    exec (.retransmitTimeout dst vl id packet) s =
      if rd s K.retryLimit ≤ k.tries then .next (unreachable s m)
      else .next (bump (putMsg s { m with
        pkts := setNth m.pkts packet { k with sentAt := none, tries := k.tries + 1, waits := true } }) K.packetsRetransmitted 1) := by
  subst hk
  show execRetransmitTimeout dst vl id packet s = _
  unfold execRetransmitTimeout
  simp only [hm, he]
  exact if_neg (by simp [ha, hw, hn, hp])

theorem exec_retransmitTimeout_early (hm : findMsg s dst vl id = some m) (hk : k = nth m.pkts packet ⟨none, 0, true, false, false⟩)
    (h : k.sentAt = none ∨ k.acked = true ∨ k.waits = true ∨ m.nakAt ≠ none ∨ (∃ e, k.sentAt = some e ∧ passed s e (rd s K.rtoNs) = false)) :
    exec (.retransmitTimeout dst vl id packet) s = .next s := by
  subst hk
  show execRetransmitTimeout dst vl id packet s = _
  unfold execRetransmitTimeout
  simp only [hm]
  cases he : (nth m.pkts packet ⟨none, 0, true, false, false⟩).sentAt with
  | none => rfl
  | some e =>
    refine if_pos ?_
    rcases h with h | h | h | h | ⟨e', he', hp⟩
    · simp [he] at h
    · simp [h]
    · simp [h]
    · simp [Option.isSome_iff_ne_none.mpr h]
    · obtain rfl : e = e' := Option.some.inj (he.symm.trans he')
      simp [hp]

/-- A message that was refused for want of room is sent again, or given up, once the delay has passed. -/
theorem exec_rnrDelayExpire_late {e : Nat} (hm : findMsg s dst vl id = some m) (he : m.nakAt = some e)
    (hp : passed s e (rd s K.rnrDelayNs) = true) : exec (.rnrDelayExpire dst vl id) s =
      if ∃ k ∈ m.pkts, rd s K.retryLimit ≤ k.tries then .next (unreachable s m)
      else .next (bump (putMsg s { m with
        nakAt := none,
        pkts := m.pkts.map (fun k => { k with tries := k.tries + 1, waits := true, free := true, acked := false }) })
        K.packetsRetransmitted m.pkts.length) := by
  show execRnrDelayExpire dst vl id s = _
  unfold execRnrDelayExpire
  simp only [hm, he]
  refine (if_neg (by simp [hp])).trans ?_
  simp only [List.any_eq_true, decide_eq_true_eq, List.length_map]

theorem exec_rnrDelayExpire_early (hm : findMsg s dst vl id = some m)
    (h : ∀ e, m.nakAt = some e → passed s e (rd s K.rnrDelayNs) = false) : exec (.rnrDelayExpire dst vl id) s = .next s := by
  show execRnrDelayExpire dst vl id s = _
  unfold execRnrDelayExpire
  simp only [hm]
  cases he : m.nakAt with
  | none => rfl
  | some e => exact if_pos (by simp [h e he])

theorem exec_timers_noMessage (hm : findMsg s dst vl id = none) :
    exec (.retransmitTimeout dst vl id packet) s = .next s ∧ exec (.rnrDelayExpire dst vl id) s = .next s := by
  constructor
  · show execRetransmitTimeout dst vl id packet s = _
    unfold execRetransmitTimeout
    simp only [hm]
  · show execRnrDelayExpire dst vl id s = _
    unfold execRnrDelayExpire
    simp only [hm]

/-! ## The receiver -/

/-- The entries of a receiver's acknowledgement: one for each run of 32 packets that has packets not acknowledged. -/
def sendEntries (s : State) (src vl id : Nat) (c : RCtx) : State :=
  ((c.unacked.map (fun i => i / 32)).eraseDups).foldl (fun t b =>
    sendEntry t src vl 8 (ackWord {
      msgId := id, complete := false, ceEcho := c.ce, base := b,
      bitmap := sumNat ((c.map.filter (fun i => i / 32 == b)).map (fun i => 2 ^ (i % 32))) })) s

theorem exec_ackDelayExpire_cases (hc : findRctx s src vl id = some c) : exec (.ackDelayExpire src vl id) s =
    if c.unacked = [] ∨ passed s c.ackFrom (rd s K.ackDelayNs) = false then .next s
    else .next (putRctx (sendEntries s src vl id c) { c with unacked := [], ce := false }) := by
  show execAckDelayExpire src vl id s = _
  unfold execAckDelayExpire
  simp only [hc, Bool.or_eq_true, Bool.not_eq_true', List.isEmpty_iff]
  rfl

theorem exec_reassemblyTimeout_cases (hc : findRctx s src vl id = some c) : exec (.reassemblyTimeout src vl id) s =
    if passed s c.openedAt (rd s K.reassemblyTimeoutNs) = true then .next (timeoutRctx s c) else .next s := by
  show execReassemblyTimeout src vl id s = _
  unfold execReassemblyTimeout
  simp only [hc]

theorem exec_timers_noContext (hc : findRctx s src vl id = none) :
    exec (.ackDelayExpire src vl id) s = .next s ∧ exec (.reassemblyTimeout src vl id) s = .next s := by
  constructor
  · show execAckDelayExpire src vl id s = _
    unfold execAckDelayExpire
    simp only [hc]
  · show execReassemblyTimeout src vl id s = _
    unfold execReassemblyTimeout
    simp only [hc]

/-! ## Rates -/

/-- The rate after an interval: less by its shift after an echo, more by its step without one. -/
abbrev nextRate (s : State) (dst : Nat) : Nat :=
  if (rateOf s dst).echo = true then max (rd s K.ccMinMbs) (rateNow s (rateOf s dst) - rateNow s (rateOf s dst) / 2 ^ rd s K.ccDecreaseShift)
  else min (rd s K.ccMaxMbs) (rateNow s (rateOf s dst) + rd s K.ccIncreaseMbs)

theorem exec_ccInterval_cases : exec (.ccInterval dst) s =
    if passed s (rateOf s dst).adjustedAt (rd s K.ccIntervalNs) = false then .next s
    else .next (putRate s dst { rateOf s dst with rate := nextRate s dst, echo := false, adjustedAt := s.tm.ec }) := by
  show execCcInterval dst s = _
  unfold execCcInterval
  simp only [Bool.not_eq_true']

end

/-- Settles O45: each timer of the transport when it is due, before, and for a message that is gone. -/
theorem transportTimersAct : Obligations.TransportTimersAct := by
  unfold Obligations.TransportTimersAct
  refine ⟨fun link s => ⟨fun h => if_pos h, fun h => if_neg (by omega)⟩, fun src vl msgId status e s => ?ack,
    fun dst vl id packet s m k hm hk => ⟨fun e he ha hw hn hp => ?resend, exec_retransmitTimeout_early hm hk⟩,
    fun dst vl id s m hm => ⟨fun e he hp => ?refused, exec_rnrDelayExpire_early hm⟩, fun dst vl id packet s => exec_timers_noMessage,
    fun src vl id s c hc => ?receiver, fun src vl id s => exec_timers_noContext, fun dst s hp => ?rate, fun dst s hp => ?noRate⟩
  case ack =>
    rw [exec_ack_cases, exec_nak_cases]
    exact ⟨fun h => ⟨by rw [if_pos h], by rw [if_pos h]⟩, fun h => ⟨by rw [if_neg (by simp [h])], by rw [if_neg (by simp [h])]⟩⟩
  case resend =>
    rw [exec_retransmitTimeout_late hm hk he ha hw hn hp]
    exact ⟨fun h => if_neg (by omega), fun h => if_pos h⟩
  case refused =>
    rw [exec_rnrDelayExpire_late hm he hp]
    refine ⟨fun h => if_neg ?_, fun h => if_pos h⟩
    rintro ⟨k, hk, hle⟩
    exact absurd (h k hk) (by omega)
  case receiver =>
    rw [exec_ackDelayExpire_cases hc, exec_reassemblyTimeout_cases hc]
    exact ⟨fun hu hp => if_neg (by simp [hu, hp]), fun h => if_pos h, fun h => if_pos h, fun h => if_neg (by simp [h])⟩
  case rate =>
    rw [exec_ccInterval_cases, if_neg (by simp [hp])]
    exact ⟨fun h => by rw [nextRate, if_pos h], fun h => by rw [nextRate, if_neg (by simp [h])]⟩
  case noRate => rw [exec_ccInterval_cases, if_pos hp]

end Sys2Proof.Machine
end

section
/-! SUPPORT. Decoders, completion writes, and the resets of the host port (R283, R287, R300 to R304). -/

namespace Sys2Proof.Machine

section

variable {s t : State} {id vf : Nat} {w : CWrite}

/-! ## Decoders and completion writes -/

theorem exec_hdmDecoderProgram_free {decoder hpa size dpa : Nat} {lock commit : Bool} (hd : decoder < 4)
    (hl : ∀ h, tget? s.host.hdm decoder = some h → h.lock = false) : exec (.hdmDecoderProgram decoder hpa size dpa lock commit) s =
      .next { s with host := { s.host with
        hdm := tset s.host.hdm decoder { hpa := hpa, size := size, dpa := dpa, lock := lock, commit := commit } } } := by
  show execHdmDecoderProgram decoder hpa size dpa lock commit s = _
  unfold execHdmDecoderProgram
  refine if_neg ?_
  cases hh : tget? s.host.hdm decoder with
  | none => simpa using hd
  | some h => simpa [hl h hh] using hd

theorem exec_hdmDecoderProgram_locked {decoder hpa size dpa : Nat} {lock commit : Bool}
    (h : 4 ≤ decoder ∨ ∃ h, tget? s.host.hdm decoder = some h ∧ h.lock = true) :
    exec (.hdmDecoderProgram decoder hpa size dpa lock commit) s = .next s := by
  show execHdmDecoderProgram decoder hpa size dpa lock commit s = _
  unfold execHdmDecoderProgram
  refine if_pos ?_
  rcases h with h | ⟨h, hh, hl⟩
  · simp [h]
  · simp [hh, hl]

theorem exec_completionWriteError_again (hw : tget? s.host.writes id = some w) (ha : w.attempts < 3) (hu : linkUp s = true) :
    exec (.completionWriteError id) s = .next { writeCompletion s w.addr w.record w.gaps with
      host := { (writeCompletion s w.addr w.record w.gaps).host with
        writes := tset (writeCompletion s w.addr w.record w.gaps).host.writes id { w with attempts := w.attempts + 1 } } } := by
  show execCompletionWriteError id s = _
  unfold execCompletionWriteError
  simp only [hw]
  exact if_pos (by simp [ha, hu])

theorem exec_completionWriteError_last (hw : tget? s.host.writes id = some w) (h : 3 ≤ w.attempts ∨ linkUp s = false) :
    exec (.completionWriteError id) s = .next (bump { s with host := { s.host with writes := terase s.host.writes id } } K.completionWriteErrors 1) := by
  show execCompletionWriteError id s = _
  unfold execCompletionWriteError
  simp only [hw]
  refine if_neg ?_
  rcases h with h | h
  · simp [Nat.not_lt.mpr h]
  · simp [h]

theorem exec_completionWriteError_none (hw : tget? s.host.writes id = none) : exec (.completionWriteError id) s = .next s := by
  show execCompletionWriteError id s = _
  unfold execCompletionWriteError
  simp only [hw]

/-- A run of outputs comes out in reverse, in front of what stood there. -/
theorem foldl_emit {α : Type} (f : α → Out) (l : List α) (s : State) :
    l.foldl (fun t p => emit t (f p)) s = { s with out := (l.map f).reverse ++ s.out } := by
  induction l generalizing s with
  | nil => rfl
  | cons p l ih => rw [List.foldl_cons, ih]; simp [emit]

/-- The following lines of a completion go out before its first. -/
theorem writeCompletion_out (s : State) (addr record : Nat) (gaps : List Gap) : ∃ l,
    writeCompletion s addr record gaps = { s with out := .completion addr record (gaps.take 1) (rd s K.completionPath == 1) :: l ++ s.out } ∧
    (gaps.length ≤ 1 → l = []) ∧
    ∀ o ∈ l, ∃ n b, o = .completionLine (addr + 64 * n) b (rd s K.completionPath == 1) ∧ 1 ≤ n := by
  unfold writeCompletion
  simp only [foldl_emit]
  refine ⟨_, rfl, fun hg => ?_, fun o ho => ?_⟩
  · rw [List.drop_eq_nil_of_le hg]
    simp [chunks]
  · simp only [List.mem_reverse, List.mem_map] at ho
    obtain ⟨p, hp, rfl⟩ := ho
    exact ⟨p.1, _, rfl, (mem_upFrom.mp (List.of_mem_zip hp).1).1⟩

/-! ## The link and its resets -/

theorem exec_cxlLinkUp_cases {hostMode width : Nat} : exec (.cxlLinkUp hostMode width) s =
    if has [4, 8, 16] width = true ∧ linkUp s = false then
      .next (wr (wr s K.cxlModeNow (min hostMode (rd s K.cxlModeMax) + 1)) K.linkWidth width)
    else .next s := by
  show execCxlLinkUp hostMode width s = _
  unfold execCxlLinkUp
  simp only [Bool.and_eq_true, Bool.not_eq_true']

/-- The areas' completion writes are dropped one area after another. -/
theorem foldl_dropAreaWrites (l : List Nat) (s : State) : (l.foldl dropAreaWrites s).mem = s.mem ∧ (l.foldl dropAreaWrites s).kv = s.kv ∧
    ∀ p ∈ (l.foldl dropAreaWrites s).host.writes, p ∈ s.host.writes ∧ p.2.area ∉ l := by
  induction l generalizing s with
  | nil => simp
  | cons a l ih =>
    obtain ⟨hm, hk, hw⟩ := ih (dropAreaWrites s a)
    refine ⟨hm, hk, fun p hp => ?_⟩
    obtain ⟨hin, hl⟩ := hw p hp
    simp only [dropAreaWrites, List.mem_filter, bne_iff_ne] at hin
    exact ⟨hin.1, by simp [hin.2, hl]⟩

theorem exec_cxlLinkDown_cases : exec .cxlLinkDown s = if linkUp s = true
    then .next (freeEvent (bump (vatLost (wr (wr s K.cxlModeNow 0) K.linkWidth 0)) K.linkResets 1) 0x70 nodeSlice) else .next s := rfl

/-- A conventional reset drops every area's completion writes, the decoders, the DOE sessions, the IDE state and the VF count. -/
theorem exec_conventionalReset_cases
    (ht : t = (upFrom 0 64).foldl dropAreaWrites (if linkUp s then vatLost (wr (wr s K.cxlModeNow 0) K.linkWidth 0) else s)) :
    exec .conventionalReset s = .next (freeEvent (bump (wr (wr { t with host := { t.host with hdm := [], doe := [] } } K.ideState 0) K.vfEnabled 0)
      K.linkResets 1) 0x70 nodeSlice) := by
  show execConventionalReset s = _
  unfold execConventionalReset portDown portEvent
  simp only [← ht]

/-- A log entry offered to the host changes its event records only, of what the host port keeps. -/
theorem logPut_host (s : State) (e : Nat) : (logPut s e).host.hdm = s.host.hdm ∧ (logPut s e).host.doe = s.host.doe ∧
    (logPut s e).host.writes = s.host.writes := by
  unfold logPut
  extract_lets h u v w
  have hu : u.host.hdm = s.host.hdm ∧ u.host.doe = s.host.doe ∧ u.host.writes = s.host.writes := by
    simp only [u, offerRecord, and_self]
  have hw : w.host = u.host := by simp only [w, v, bump_host, wr_host]
  clear_value w
  split
  · simpa only [emit_host, bump_host, hw] using hu
  · simpa only [hw] using hu

theorem event_host (s : State) (source code slice sev data : Nat) : (event s source code slice sev data).host.hdm = s.host.hdm ∧
    (event s source code slice sev data).host.doe = s.host.doe ∧ (event s source code slice sev data).host.writes = s.host.writes := by
  unfold event
  extract_lets u e t
  have hu : u.host = s.host := by simp only [u]; split <;> rfl
  have ht := logPut_host u e
  rw [hu] at ht
  split
  · rw [hu]; exact ⟨rfl, rfl, rfl⟩
  split
  · rw [hu]; exact ⟨rfl, rfl, rfl⟩
  · split
    · exact ht
    · exact ht

/-- The event of a reset leaves memory, the cache, and the decoders, sessions and completion writes of the host port. -/
theorem freeEvent_frame (s : State) (source slice : Nat) : (freeEvent s source slice).mem = s.mem ∧
    (freeEvent s source slice).kv = s.kv ∧ (freeEvent s source slice).host.hdm = s.host.hdm ∧
    (freeEvent s source slice).host.doe = s.host.doe ∧ (freeEvent s source slice).host.writes = s.host.writes := by
  have hq := quiet_event (Quiet.refl { s with free := s.free + 1 + 1 + 1 }) source (Config.freeNat s.free % 256) slice
    (Config.freeNat (s.free + 1) % 4) (Config.freeNat (s.free + 1 + 1))
  exact ⟨hq.mem, hq.kv, event_host ..⟩

theorem exec_functionLevelReset_vf (h1 : 1 ≤ vf) (h2 : vf ≤ 255) (ht : t = { s with dq := { s.dq with mbox := s.dq.mbox.filter (fun m => m.1 != vf) } }) :
    exec (.functionLevelReset vf) s = .next (freeEvent (bump
      (((areasOn s).filter (fun a => rd s (K.areaFunction a) == vf)).foldl dropAreaWrites t) K.linkResets 1) 0x70 nodeSlice) := by
  subst ht
  show execFunctionLevelReset vf s = _
  unfold execFunctionLevelReset
  exact if_neg (by simp; omega)

theorem exec_functionLevelReset_other (h : vf = 0 ∨ 255 < vf) : exec (.functionLevelReset vf) s = .next s := by
  show execFunctionLevelReset vf s = _
  unfold execFunctionLevelReset
  exact if_pos (by simpa using h)

end

/-- Settles O46: decoders, completion writes, the link, and the two resets of the host port. -/
theorem hostPortEvents : Obligations.HostPortEvents := by
  unfold Obligations.HostPortEvents
  refine ⟨fun decoder hpa size dpa lock commit s => ⟨exec_hdmDecoderProgram_free, exec_hdmDecoderProgram_locked⟩,
    fun id s w hw => ⟨fun ha hu => ⟨_, rfl, exec_completionWriteError_again hw ha hu⟩, exec_completionWriteError_last hw⟩,
    writeCompletion_out, fun id s => exec_completionWriteError_none, fun hostMode width s => ?up, fun s => ?down,
    fun s t => exec_conventionalReset_cases, fun s hu => ?reset,
    fun vf s t => ⟨exec_functionLevelReset_vf, exec_functionLevelReset_other⟩, fun s a p hp => ?dropped⟩
  case up =>
    rw [exec_cxlLinkUp_cases]
    refine ⟨fun hw hu => if_pos ⟨hw, hu⟩, fun h => if_neg ?_⟩
    rintro ⟨hw, hu⟩
    simp [hw, hu] at h
  case down =>
    rw [exec_cxlLinkDown_cases]
    exact ⟨fun h => if_pos h, fun h => if_neg (by simp [h])⟩
  case reset =>
    obtain ⟨hm, hk, hw⟩ := foldl_dropAreaWrites (upFrom 0 64) s
    rw [exec_conventionalReset_cases (t := (upFrom 0 64).foldl dropAreaWrites s) (by rw [if_neg (by simp [hu])])]
    generalize (upFrom 0 64).foldl dropAreaWrites s = u at hm hk hw ⊢
    obtain ⟨fm, fk, fh, fd, fw⟩ := freeEvent_frame (bump (wr (wr { u with host := { u.host with hdm := [], doe := [] } } K.ideState 0) K.vfEnabled 0)
      K.linkResets 1) 0x70 nodeSlice
    refine ⟨_, rfl, fm.trans hm, fk.trans hk, fh, fd, fun hall => ?_⟩
    rw [fw]
    refine List.eq_nil_iff_forall_not_mem.mpr fun p hp => ?_
    obtain ⟨hin, hn⟩ := hw p hp
    have h64 := of_decide_eq_true (List.all_eq_true.mp hall p hin)
    exact hn (mem_upFrom.mpr (by omega))
  case dropped => simpa using (List.mem_filter.mp hp).2

end Sys2Proof.Machine
end

section
/-! SUPPORT. Answers of the mailbox (R307, R444). -/

namespace Sys2Proof.Machine

section

variable {s t : State} {fn : Nat} {l : List Byte}

/-! ## Commands of the PF alone -/

/-- A command of the PF alone runs for it, is unsupported to a VF and in recovery, and is not answered on a link that is down. -/
theorem pfOnly_cases (f : State → State) : pfOnly fn s f =
    .next (if linkUp s = false then s else if fn ≠ 0 ∨ inRecovery s = true then mailbox s fn mbUnsupported [] else f s) := by
  simp only [pfOnly, Bool.not_eq_true', Bool.or_eq_true, bne_iff_ne]

theorem pfOnly_pf (f : State → State) (hu : linkUp s = true) (hr : inRecovery s = false) : pfOnly 0 s f = .next (f s) := by
  rw [pfOnly_cases, if_neg (by simp [hu]), if_neg (by simp [hr])]

theorem pfOnly_unsupported (f : State → State) (hu : linkUp s = true) (h : fn ≠ 0 ∨ inRecovery s = true) :
    pfOnly fn s f = .next (mailbox s fn mbUnsupported []) := by
  rw [pfOnly_cases, if_neg (by simp [hu]), if_pos h]

theorem pfOnly_down (f : State → State) (hu : linkUp s = false) : pfOnly fn s f = .next s := by
  rw [pfOnly_cases, if_pos hu]

theorem exec_getEventRecords : exec (.getEventRecords fn) s = pfOnly fn s (fun s => mailbox s fn mbSuccess (eventPayload s.host.events)) := rfl

theorem exec_clearEventRecords (handles : List Nat) : exec (.clearEventRecords fn handles) s = pfOnly fn s (fun s =>
    if handles.any (fun h => (tget? s.host.events h).isNone) then mailbox s fn mbInvalidHandle []
    else mailbox { s with host := { s.host with events := s.host.events.filter (fun p => !has handles p.1) } } fn mbSuccess []) := rfl

theorem exec_getFwInfo : exec (.getFwInfo fn) s = pfOnly fn s (fun s => mailbox s fn mbSuccess
    (toBytes 16 (packBits [(8, 1), (3, 1), (3, b2n (rd s K.fwState == 4)), (2, 0), (8, 1)])
     ++ (upFrom 0 6).flatMap (fun i => toBytes 4 (rd s (K.fwFlashVersion i))))) := rfl

theorem exec_getSupportedLogs : exec (.getSupportedLogs fn) s =
    pfOnly fn s (fun s => mailbox s fn mbSuccess (toBytes 2 1 ++ toBytes 4 (4 * mbOpcodes.length))) := rfl

theorem exec_identifyMemoryDevice : exec (.identifyMemoryDevice fn) s =
    pfOnly fn s (fun s => mailbox s fn mbSuccess (toBytes 8 (dpaBytes s) ++ toBytes 8 (dpaBytes s) ++ toBytes 8 0)) := rfl

theorem length_toBytes (n v : Nat) : (toBytes n v).length = n := by
  induction n generalizing v with
  | zero => rfl
  | succ n ih => simp [toBytes, ih]

/-- One entry of the log of the command effects: the command, and its effects as a free value. -/
def effectEntry (a : State × List Byte) (o : Nat) : State × List Byte :=
  ({ a.1 with free := a.1.free + 1 }, a.2 ++ toBytes 2 o ++ toBytes 2 (Config.freeNat a.1.free))

theorem exec_getLog (log : Nat) : exec (.getLog fn log) s = pfOnly fn s (fun s =>
    if log != 0 then mailbox s fn mbInvalidInput []
    else mailbox (mbOpcodes.foldl effectEntry (s, [])).1 fn mbSuccess (mbOpcodes.foldl effectEntry (s, [])).2) := rfl

/-- The log of the command effects has one entry of four bytes for each command, whose effects are free values. -/
theorem foldl_effectEntry (ops : List Nat) (a : State × List Byte) :
    ∃ n d, ops.foldl effectEntry a = ({ a.1 with free := n }, d) ∧ d.length = a.2.length + 4 * ops.length := by
  induction ops generalizing a with
  | nil => exact ⟨_, _, rfl, rfl⟩
  | cons o ops ih =>
    obtain ⟨n, d, hf, hd⟩ := ih (effectEntry a o)
    refine ⟨n, d, hf, ?_⟩
    rw [hd]
    simp only [effectEntry, List.length_append, List.length_cons, length_toBytes]
    omega

theorem exec_getLog_effects (hu : linkUp s = true) (hr : inRecovery s = false) :
    ∃ t l, exec (.getLog 0 0) s = .next (mailbox t 0 mbSuccess l) ∧ t = { s with free := t.free } ∧ l.length = 4 * mbOpcodes.length := by
  obtain ⟨n, d, hf, hd⟩ := foldl_effectEntry mbOpcodes (s, [])
  refine ⟨{ s with free := n }, d, ?_, rfl, by simpa using hd⟩
  rw [exec_getLog, pfOnly_pf _ hu hr, if_neg (by decide), hf]

/-! ## Command 0xC100 -/

theorem exec_mailboxUzoenePdu_none (h : s.sec.held = true ∨ linkUp s = false) : exec (.mailboxUzoenePdu fn l) s = .next s := by
  show execMailboxUzoenePdu fn l s = _
  unfold execMailboxUzoenePdu
  exact if_pos (by simpa using h)

theorem exec_mailboxUzoenePdu_length (hh : s.sec.held = false) (hu : linkUp s = true) (hl : l.length < 20 ∨ 1044 < l.length) :
    exec (.mailboxUzoenePdu fn l) s = .next (mailbox s fn mbInvalidLength []) := by
  show execMailboxUzoenePdu fn l s = _
  unfold execMailboxUzoenePdu
  exact (if_neg (by simp [hh, hu])).trans (if_pos (by simpa using hl))

/-- A PDU of the mailbox is answered at once, or waits for its response. -/
theorem exec_mailboxUzoenePdu_taken {via : Via} (hh : s.sec.held = false) (hu : linkUp s = true) (h20 : 20 ≤ l.length) (hl : l.length ≤ 1044)
    (hv : via = (if fn == 0 then Via.pf else .vf fn)) (ht : t = takePdu s via (pduOf l) (fun s => servePdu s via (pduOf l))) :
    exec (.mailboxUzoenePdu fn l) s = .next (
      match newResponse t.out s.out.length with
      | some r => mailbox t fn mbSuccess (pduWire r)
      | none => { t with dq := { t.dq with mbox := t.dq.mbox.filter (fun m => m.1 != fn) ++ [(fn, (pduOf l).transaction)] } }) := by
  subst hv
  show execMailboxUzoenePdu fn l s = _
  unfold execMailboxUzoenePdu
  refine (if_neg (by simp [hh, hu])).trans ((if_neg (by simp; omega)).trans ?_)
  simp only [← ht]
  cases newResponse t.out s.out.length <;> rfl

/-- The response that a mailbox waits for is its answer. -/
theorem endMailbox_waited {via : Via} {r : Pdu} (hv : mailboxFn via = some fn) (hm : (fn, r.transaction) ∈ s.dq.mbox) :
    endMailbox s via r = emit { s with dq := { s.dq with mbox := s.dq.mbox.filter (fun m => !(m == (fn, r.transaction))) } }
      (.mailbox fn mbSuccess (pduWire r)) := by
  unfold endMailbox
  simp only [hv]
  exact if_pos (List.any_eq_true.mpr ⟨_, hm, by simp⟩)

end

/-- Settles O47: the commands of the PF alone, the others, and command 0xC100. -/
theorem mailboxAnswers : Obligations.MailboxAnswers := by
  unfold Obligations.MailboxAnswers
  refine ⟨fun handles s hu hr => ?pf, fun fn handles log s hu h => ?unsupported, fun fn opcode s hu => ?other,
    fun fn opcode log handles l s hu => ?down, fun fn via l s t hh hu h20 hl hv ht => ?taken,
    fun fn l s => exec_mailboxUzoenePdu_length, fun fn l s hh => exec_mailboxUzoenePdu_none (.inl hh), fun s fn via r => endMailbox_waited⟩
  case pf =>
    rw [exec_getEventRecords, exec_getFwInfo, exec_getSupportedLogs, exec_identifyMemoryDevice, exec_clearEventRecords]
    refine ⟨pfOnly_pf _ hu hr, pfOnly_pf _ hu hr, pfOnly_pf _ hu hr, pfOnly_pf _ hu hr, exec_getLog_effects hu hr,
      fun log hl => ?_, fun h => ?_, fun h => ?_⟩
    · rw [exec_getLog, pfOnly_pf _ hu hr, if_pos (by simpa using hl)]
    · rw [pfOnly_pf _ hu hr, if_neg]
      simpa [Option.isSome_iff_ne_none] using h
    · rw [pfOnly_pf _ hu hr, if_pos (by simpa using h)]
  case unsupported =>
    rw [exec_getEventRecords, exec_getFwInfo, exec_clearEventRecords, exec_getSupportedLogs, exec_getLog, exec_identifyMemoryDevice]
    exact ⟨pfOnly_unsupported _ hu h, pfOnly_unsupported _ hu h, pfOnly_unsupported _ hu h, pfOnly_unsupported _ hu h,
      pfOnly_unsupported _ hu h, pfOnly_unsupported _ hu h⟩
  case other => exact congrArg _ (if_pos hu)
  case down =>
    rw [exec_getEventRecords, exec_getFwInfo, exec_clearEventRecords, exec_getSupportedLogs, exec_getLog, exec_identifyMemoryDevice]
    exact ⟨pfOnly_down _ hu, pfOnly_down _ hu, pfOnly_down _ hu, pfOnly_down _ hu, pfOnly_down _ hu, pfOnly_down _ hu,
      congrArg _ (if_neg (by simp [hu])), exec_mailboxUzoenePdu_none (.inr hu)⟩
  case taken =>
    rw [exec_mailboxUzoenePdu_taken hh hu h20 hl hv ht]
    exact ⟨fun r hr => by rw [hr], fun hr => by rw [hr]⟩

end Sys2Proof.Machine
end

section
/-! SUPPORT. Measurements, sessions, datagrams, reports, debug access and IDE (R305, R306, R425 to R436). -/

namespace Sys2Proof.Machine

/-! ## Free places -/

theorem tfree_none {α : Type} {t : Tbl α} {fuel n : Nat} (h : ∃ k, n ≤ k ∧ k < n + fuel ∧ tget? t k = none) :
    tget? t (tfree t fuel n) = none ∧ tfree t fuel n < n + fuel := by
  induction fuel generalizing n with
  | zero => obtain ⟨k, h1, h2, -⟩ := h; omega
  | succ fuel ih =>
    unfold tfree
    by_cases hs : (tget? t n).isSome = true
    · rw [if_pos hs]
      obtain ⟨k, h1, h2, h3⟩ := h
      have hk : k ≠ n := by
        rintro rfl
        simp [h3] at hs
      obtain ⟨hn, hl⟩ := ih (n := n + 1) ⟨k, by omega, by omega, h3⟩
      exact ⟨hn, by omega⟩
    · rw [if_neg hs]
      exact ⟨by simpa using hs, by omega⟩

/-- A table with fewer than m entries has a place free among the first m. -/
theorem exists_free {α : Type} {t : Tbl α} {m : Nat} (h : t.length < m) : ∃ k, 0 ≤ k ∧ k < 0 + m ∧ tget? t k = none := by
  refine Classical.byContradiction fun hc => ?_
  have hall : ∀ k < m, k ∈ t.map Prod.fst := fun k hk => by
    cases hv : tget? t k with
    | none => exact absurd ⟨k, Nat.zero_le _, by omega, hv⟩ hc
    | some v => exact mem_tkeys_of_tget? hv
  have hsub : List.range m ⊆ t.map Prod.fst := fun k hk => hall k (List.mem_range.mp hk)
  have hle := List.nodup_range.length_le_of_subset hsub
  simp at hle
  omega

theorem tfree_free {α : Type} {t : Tbl α} {m : Nat} (h : t.length < m) : tget? t (tfree t m 0) = none ∧ tfree t m 0 < m := by
  simpa using tfree_none (exists_free h)

/-- A list as a table of its own members has a place where the list has none. -/
theorem has_of_tget?_self {l : List Nat} {n : Nat} (h : tget? (l.map (fun i => (i, i))) n = none) : has l n = false := by
  induction l with
  | nil => rfl
  | cons a l ih =>
    simp only [List.map_cons, tget?] at h
    by_cases ha : a = n
    · simp [ha] at h
    · rw [if_neg ha] at h
      simpa [has, ha] using ih h

section

variable {s t : State} {n key : Nat} {tr sg l : List Byte}

/-! ## Measurements and reports -/

theorem exec_getMeasurements_cases {index nonce : Nat} (hh : s.sec.held = false) : exec (.getMeasurements index nonce) s = .next (
    if index = 11 then spdm s 0 (toBytes 16 (fuseRecord s))
    else if (1 ≤ index ∧ index ≤ 10) ∨ index = 12 then spdm s 0 (toBytes 64 (measOf s index))
    else if index = 0x40 then spdm (makeReport s 1 nonce).1 0 (makeReport s 1 nonce).2
    else spdm s 1 []) := by
  show execGetMeasurements index nonce s = _
  unfold execGetMeasurements
  refine (if_neg (by simp [hh])).trans ?_
  simp only [Bool.or_eq_true, Bool.and_eq_true, decide_eq_true_eq, beq_iff_eq, apply_ite Host.Outcome.next]

theorem exec_attestReportReady_due {r : List Byte} (ha : rd s K.attestState = 1) (hr : makeReport s 3 (rd s K.attestNonce) = (t, r)) :
    exec .attestReportReady s = .next (wr { t with sec := { t.sec with report := r } } K.attestState 2) := by
  show execAttestReportReady s = _
  unfold execAttestReportReady
  refine (if_neg (by simp [ha])).trans ?_
  simp only [hr]

theorem exec_attestReportReady_none (ha : rd s K.attestState ≠ 1) : exec .attestReportReady s = .next s := by
  show execAttestReportReady s = _
  unfold execAttestReportReady
  exact if_pos (by simpa using ha)

/-! ## Sessions -/

theorem exec_keyExchange_none {doe : Bool} (h : s.sec.held = true ∨ inRecovery s = true ∨ (doe = false ∧ on s K.mgmtSessionEnable = false)) :
    exec (.keyExchange doe key tr sg) s = .next s := by
  show execKeyExchange doe key tr sg s = _
  unfold execKeyExchange
  by_cases hc : s.sec.held = true ∨ inRecovery s = true
  · exact if_pos (by simpa using hc)
  · obtain ⟨hd, hoff⟩ := (or_assoc.mpr h).resolve_left hc
    exact (if_neg (by simpa using hc)).trans ((if_neg (by simp [hd])).trans (if_pos (by simp [hoff])))

theorem exec_keyExchange_doe (hh : s.sec.held = false) (hr : inRecovery s = false) : exec (.keyExchange true key tr sg) s =
    if 4 ≤ s.host.doe.length then .next (spdm s 2 [])
    else .next (spdm { s with host := { s.host with doe := s.host.doe ++ [tfree (s.host.doe.map (fun i => (i, i))) 4 0] } } 3
      (toBytes 1 (tfree (s.host.doe.map (fun i => (i, i))) 4 0))) := by
  show execKeyExchange true key tr sg s = _
  unfold execKeyExchange
  exact (if_neg (by simp [hh, hr])).trans (if_pos rfl)

/-- The entry of a session key that a key exchange on the management port names. -/
abbrev keyEntry (s : State) (key : Nat) : Option Nat :=
  (upFrom 0 8).find? (fun i => skKey (rd s (K.sessionKey i)) == key && skRights (rd s (K.sessionKey i)) != 0)

/-- A session of the management port opens at the place n with the rights of its key. -/
abbrev openSession (s : State) (n i : Nat) : State :=
  spdm (wr { s with sessions := tset s.sessions n { entry := i, rights := skRights (rd s (K.sessionKey i)), lastEc := s.tm.ec } } K.sessionsOpen
    (tset s.sessions n { entry := i, rights := skRights (rd s (K.sessionKey i)), lastEc := s.tm.ec }).length) 3 (toBytes 1 n)

theorem exec_keyExchange_mgmt (hh : s.sec.held = false) (hr : inRecovery s = false) (he : on s K.mgmtSessionEnable = true) :
    exec (.keyExchange false key tr sg) s = .next (
      if 4 ≤ s.sessions.length then spdm s 2 []
      else match keyEntry s key with
        | none => authEvent s 1
        | some i => if Config.ed25519Verify key tr sg = true then openSession s (tfree s.sessions 4 0) i else authEvent s 1) := by
  show execKeyExchange false key tr sg s = _
  unfold execKeyExchange
  refine (if_neg (by simp [hh, hr])).trans ((if_neg (by simp)).trans ((if_neg (by simp [he])).trans ?_))
  split
  · rfl
  · simp only [keyEntry]
    cases (upFrom 0 8).find? (fun i => skKey (rd s (K.sessionKey i)) == key && skRights (rd s (K.sessionKey i)) != 0) with
    | none => rfl
    | some i =>
      simp only
      split <;> rfl

theorem exec_sessionIdleTimeout_cases : exec (.sessionIdleTimeout n) s = .next (
    match tget? s.sessions n with
    | none => s
    | some x => if passed s x.lastEc (rd s K.sessionIdleS * 1000000000) = true then closeSessions s (fun m _ => m == n) else s) := by
  show execSessionIdleTimeout n s = _
  unfold execSessionIdleTimeout
  cases tget? s.sessions n with
  | none => rfl
  | some x =>
    simp only
    split <;> rfl

theorem exec_mgmtSecureDatagram_none (h : s.sec.held = true ∨ tget? s.sessions n = none) : exec (.mgmtSecureDatagram n l) s = .next s := by
  show execMgmtSecureDatagram n l s = _
  unfold execMgmtSecureDatagram
  by_cases hh : s.sec.held = true
  · exact if_pos hh
  · rw [if_neg hh, h.resolve_left hh]

/-- A datagram of a session that opens is served in it, and one that does not is counted and raises the event. -/
theorem exec_mgmtSecureDatagram_session {x : Sess} (hh : s.sec.held = false) (hx : tget? s.sessions n = some x)
    (ht : t = { s with sessions := tset s.sessions n { x with lastEc := s.tm.ec } }) : exec (.mgmtSecureDatagram n l) s = .next (
      match Config.aeadOpen n l with
      | none => authEvent (bump s K.authFailures 1) 1
      | some app => if app.length < 20 then t else takePdu t (.session n) (pduOf app) (fun s => servePdu s (.session n) (pduOf app))) := by
  subst ht
  show execMgmtSecureDatagram n l s = _
  unfold execMgmtSecureDatagram
  refine (if_neg (by simp [hh])).trans ?_
  simp only [hx]
  cases Config.aeadOpen n l with
  | none => rfl
  | some app =>
    simp only
    split <;> rfl

/-! ## Debug access, boundary scan and IDE -/

theorem exec_debugAttached_development (ht : t = wr s K.debugState 2) (hl : rd s K.lifecycle = 2) (hh : s.sec.held = false) :
    exec .debugAttached s = .next (event (if rd s K.debugState = 2 then t
      else measure t 11 (Config.sha512 (toBytes 16 (fuseRecord t)))) 0xA0 5 nodeSlice 2 0) := by
  subst ht
  show execDebugAttached s = _
  unfold execDebugAttached
  refine (if_neg (by simp [hl, hh])).trans ?_
  simp only [beq_iff_eq]

theorem exec_debugAttached_none (h : rd s K.lifecycle ≠ 2 ∨ s.sec.held = true) : exec .debugAttached s = .next s := by
  show execDebugAttached s = _
  unfold execDebugAttached
  exact if_pos (by simpa using h)

/-- Boundary scan is for a node that serves and whose slices are all STARTING. -/
theorem scans_iff : (!s.sec.held && (upFrom 0 4).all (fun sl => rd s (K.sliceState sl) == 0)) = true ↔
    s.sec.held = false ∧ ∀ sl < 4, rd s (K.sliceState sl) = 0 := by
  simp [mem_upFrom]

theorem exec_extest_starting (hh : s.sec.held = false) (h : ∀ sl < 4, rd s (K.sliceState sl) = 0) :
    exec .extest s = .next ((upFrom 0 4).foldl clearPoison (setCells s [])) := by
  show execExtest s = _
  unfold execExtest
  exact if_pos (scans_iff.mpr ⟨hh, h⟩)

theorem exec_extest_none (h : s.sec.held = true ∨ ∃ sl < 4, rd s (K.sliceState sl) ≠ 0) : exec .extest s = .next s := by
  show execExtest s = _
  unfold execExtest
  refine if_neg fun hc => ?_
  obtain ⟨hh, hall⟩ := scans_iff.mp hc
  rcases h with h | ⟨sl, h4, h0⟩
  · simp [hh] at h
  · exact h0 (hall sl h4)

theorem exec_ideKm_none {session stream : Nat} {est : Bool} (h : has s.host.doe session = false ∨ 1 < stream) :
    exec (.ideKm session stream est) s = .next s := by
  show execIdeKm session stream est s = _
  unfold execIdeKm
  exact if_pos (by simpa using h)

theorem exec_ideKm_open {session stream : Nat} {est : Bool} (hd : has s.host.doe session = true) (hs : stream ≤ 1) :
    exec (.ideKm session stream est) s = .next (wr s K.ideState
      (rd s K.ideState - (if bitB (rd s K.ideState) stream = true then 2 ^ stream else 0) + (if est = true then 2 ^ stream else 0))) := by
  show execIdeKm session stream est s = _
  unfold execIdeKm
  refine (if_neg (by simp [hd, Nat.not_lt.mpr hs])).trans ?_
  cases est <;> rfl

theorem two_pow_le_of_bitB {v k : Nat} (h : bitB v k = true) : 2 ^ k ≤ v := by
  simp only [bitB, bits, beq_iff_eq, Nat.shiftRight_eq_div_pow] at h
  refine Nat.le_of_not_lt fun hc => ?_
  rw [Nat.div_eq_of_lt hc] at h
  simp at h

end

/-- Settles O48: measurements, sessions, datagrams, reports, debug access, boundary scan and IDE. -/
theorem securityCommands : Obligations.SecurityCommands := by
  unfold Obligations.SecurityCommands
  refine ⟨fun index nonce s hh => ?measurements, fun key tr sg s hh hr => ?doe, fun key i tr sg s hh hr he hl hf => ?listed,
    fun key tr sg s hh hr he => ?unlisted, fun doe key tr sg s => exec_keyExchange_none, fun n s => ?idle, fun n x l s t hh hx ht => ?datagram,
    fun n l s => exec_mgmtSecureDatagram_none, fun s t r => exec_attestReportReady_due, fun s => exec_attestReportReady_none,
    fun s t ht hl hh => ?debug, fun s => exec_debugAttached_none, fun s => exec_extest_starting, fun s => exec_extest_none,
    fun session stream s hd hs => ?ide, fun session stream est s => exec_ideKm_none⟩
  case measurements =>
    rw [exec_getMeasurements_cases hh]
    refine ⟨fun h => ?_, fun h => ?_, fun t r h hr => ?_, fun h => ?_⟩
    · rw [if_neg (by omega), if_pos h]
    · rw [if_pos h]
    · rw [if_neg (by omega), if_neg (by omega), if_pos h, hr]
    · rw [if_neg (by omega), if_neg (by omega), if_neg (by omega)]
  case doe =>
    rw [exec_keyExchange_doe hh hr]
    refine ⟨fun hl => ?_, fun hl => if_pos hl⟩
    obtain ⟨hn, h4⟩ := tfree_free (t := s.host.doe.map (fun i => (i, i))) (m := 4) (by simpa using hl)
    exact ⟨_, if_neg (by omega), h4, has_of_tget?_self hn⟩
  case listed =>
    rw [exec_keyExchange_mgmt hh hr he, if_neg (by omega), show keyEntry s key = some i from hf]
    refine ⟨fun hv => ?_, fun hv => ?_⟩
    · refine ⟨openSession s (tfree s.sessions 4 0) i, tfree s.sessions 4 0, congrArg _ (if_pos hv), ?_, (tfree_free hl).1, ?_, rfl⟩
      · exact (tget?_tset ..).trans (if_pos rfl)
      · exact rd_wr_same ..
    · exact congrArg _ (if_neg (by simp [hv]))
  case unlisted =>
    rw [exec_keyExchange_mgmt hh hr he]
    refine ⟨fun hl hk => ?_, fun hl => by rw [if_pos hl]⟩
    have hn : keyEntry s key = none := List.find?_eq_none.mpr fun i hi => by
      have h8 : i < 8 := by have := mem_upFrom.mp hi; omega
      simpa [Decidable.imp_iff_not_or] using hk i h8
    rw [if_neg (by omega), hn]
  case idle =>
    rw [exec_sessionIdleTimeout_cases]
    refine ⟨fun x hx hp => by simp only [hx, if_pos hp], fun h => ?_⟩
    cases hx : tget? s.sessions n with
    | none => rfl
    | some x => simp only [h x hx, Bool.false_eq_true, ↓reduceIte]
  case datagram =>
    rw [exec_mgmtSecureDatagram_session hh hx ht]
    refine ⟨fun app ha => ⟨fun hl => ?_, fun hl => ?_⟩, fun ha => by rw [ha]⟩
    · simp only [ha, if_neg (Nat.not_lt.mpr hl)]
    · simp only [ha, if_pos hl]
  case debug =>
    rw [exec_debugAttached_development ht hl hh]
    exact ⟨fun h => by rw [if_pos h], fun h => by rw [if_neg h]⟩
  case ide =>
    rw [exec_ideKm_open hd hs, exec_ideKm_open hd hs]
    refine ⟨fun hb => ⟨by simp [hb], by simp [hb]⟩, fun hb => ⟨?_, by simp [hb]⟩⟩
    rw [if_pos hb, if_pos rfl, Nat.sub_add_cancel (two_pow_le_of_bitB hb)]

end Sys2Proof.Machine
end

section
/-! SUPPORT. Firmware images, their buffer, and the mailbox's transfer and activation (R439 to R441). -/

namespace Sys2Proof.Machine

section

variable {s t : State} {slot offset action fn : Nat} {data : List Byte}

/-! ## Verification, writing and activation -/

theorem exec_fwVerifyDone_verified (h2 : rd s K.fwState = 2) (hr : imgReject s (stagedImage s) = 0) : exec .fwVerifyDone s = .next (
    if bits (ofBytes ((stagedImage s).take 256)) 376 8 ≤ 6 then wr s K.fwState 3
    else carryOut s (bits (ofBytes ((stagedImage s).take 256)) 376 8) ((stagedImage s).drop 256)) := by
  show execFwVerifyDone s = _
  unfold execFwVerifyDone
  refine (if_neg (by simp [h2])).trans ((if_neg (by simp [hr])).trans ?_)
  exact (apply_ite Host.Outcome.next ..).symm

theorem exec_fwVerifyDone_rejected {r : Nat} (h2 : rd s K.fwState = 2) (hr : imgReject s (stagedImage s) = r) (h0 : r ≠ 0)
    (ht : t = wr (wr s K.fwState 5) K.fwRejectReason r) :
    exec .fwVerifyDone s = .next (event (if s.sec.owner = 3 then mailbox t 0 mbFwAuthFailed [] else t) 0xA0 1 nodeSlice 2
      (packBits [(8, bits (ofBytes ((stagedImage s).take 256)) 376 8), (8, r)])) := by
  subst ht hr
  show execFwVerifyDone s = _
  unfold execFwVerifyDone
  refine (if_neg (by simp [h2])).trans ((if_pos (by simpa using h0)).trans ?_)
  simp only [wr_sec, beq_iff_eq]

theorem exec_fwVerifyDone_none (h2 : rd s K.fwState ≠ 2) : exec .fwVerifyDone s = .next s := by
  show execFwVerifyDone s = _
  unfold execFwVerifyDone
  exact if_pos (by simpa using h2)

/-- The flash copy that a verified image is written to. -/
abbrev imageOf (l : List Byte) : FwImg :=
  { version := bits (ofBytes (l.take 256)) 448 32, svn := bits (ofBytes (l.take 256)) 416 32, key := bits (ofBytes (l.take 256)) 368 8,
    debug := bitB (ofBytes (l.take 256)) 360, digest := some (Config.sha512 l), ok := true }

/-- The state after an image is written over the flash copy of its type. -/
def flashed (s : State) (l : List Byte) (type : Nat) : State :=
  bump (wr (wr { s with sec := { s.sec with flash := tset s.sec.flash type (imageOf l) } } K.fwState 4) (K.fwFlashVersion (type - 1))
    (imageOf l).version) K.updatesApplied 1

theorem exec_fwWriteDone_written (h3 : rd s K.fwState = 3) : exec .fwWriteDone s =
    .next (event (flashed s (stagedImage s) (bits (ofBytes ((stagedImage s).take 256)) 376 8)) 0xA0 2 nodeSlice 0
      (packBits [(8, bits (ofBytes ((stagedImage s).take 256)) 376 8), (32, bits (ofBytes ((stagedImage s).take 256)) 448 32)])) := by
  show execFwWriteDone s = _
  unfold execFwWriteDone
  exact if_neg (by simp [h3])

theorem exec_fwWriteDone_none (h3 : rd s K.fwState ≠ 3) : exec .fwWriteDone s = .next s := by
  show execFwWriteDone s = _
  unfold execFwWriteDone
  exact if_pos (by simpa using h3)

theorem flashed_frame (s : State) (l : List Byte) (type : Nat) : tget? (flashed s l type).sec.flash type = some (imageOf l) ∧
    rd (flashed s l type) K.fwState = 4 ∧ (flashed s l type).sec.running = s.sec.running ∧
    flashed s l type = { s with dict := (flashed s l type).dict, sec := (flashed s l type).sec } := by
  have hu : K.fwState ≠ K.updatesApplied := by decide
  have hv : K.fwState ≠ K.fwFlashVersion (type - 1) := by simp only [K.fwState, K.fwFlashVersion]; omega
  refine ⟨(tget?_tset ..).trans (if_pos rfl), ?_, rfl, rfl⟩
  rw [flashed, rd_bump, if_neg hu, rd_wr_other _ _ hv, rd_wr_same]

theorem exec_fwBufferTimeout_cases : exec .fwBufferTimeout s =
    if rd s K.fwState = 1 ∧ passed s s.sec.wroteAt 10000000000 = true then .next (wr (dropBuf s) K.fwState 0) else .next s := by
  show execFwBufferTimeout s = _
  unfold execFwBufferTimeout
  simp only [Bool.and_eq_true, beq_iff_eq]

theorem exec_imageActivated_cases {slice : Nat} : exec (.imageActivated slice) s =
    if has s.sec.activating slice = true then
      .next ((upFrom 4 3).foldl (runIn slice) { s with sec := { s.sec with activating := without s.sec.activating slice } })
    else .next s := rfl

/-! ## Transfers of the mailbox -/

/-- The mailbox fills the buffer. -/
abbrev mailboxFills (s : State) : Prop := rd s K.fwState = 1 ∧ s.sec.owner = 3

/-- A part of an image in the buffer. -/
def putPart (s : State) (offset : Nat) (data : List Byte) : State :=
  wr (showStaged (fillBuf s (offset * 128) data)) K.fwLength (offset * 128 + data.length)

theorem exec_transferFw_other (hu : linkUp s = false ∨ fn ≠ 0) : exec (.transferFw fn action slot offset data) s =
    .next (if linkUp s = false then s else mailbox s fn mbUnsupported []) := by
  show execTransferFw fn action slot offset data s = _
  unfold execTransferFw
  by_cases hl : linkUp s = false
  · rw [if_pos hl, if_pos (by simp [hl])]
  · rw [if_neg hl, if_neg (by simpa using hl), if_pos (by simpa using hu.resolve_left hl)]

section

variable (hu : linkUp s = true)
include hu

theorem exec_transferFw_whole : exec (.transferFw 0 0 slot offset data) s = .next (
    if slot ≠ 1 then mailbox s 0 mbFwInvalidSlot []
    else if bufTaken s = true ∧ ¬ mailboxFills s then mailbox s 0 mbBusy []
    else mailbox (wr (putPart (openBuf s 3) offset data) K.fwState 2) 0 mbSuccess []) := by
  show execTransferFw 0 0 slot offset data s = _
  unfold execTransferFw
  rw [if_neg (by simp [hu]), if_neg (by simp)]
  simp only [bne_iff_ne, Bool.and_eq_true, Bool.not_eq_true', ← Bool.not_eq_true, beq_iff_eq, ← apply_ite Host.Outcome.next]
  rfl

theorem exec_transferFw_initiate : exec (.transferFw 0 1 slot offset data) s = .next (
    if bufTaken s = true ∧ ¬ mailboxFills s then mailbox s 0 mbBusy []
    else mailbox (putPart (openBuf s 3) offset data) 0 mbSuccess []) := by
  show execTransferFw 0 1 slot offset data s = _
  unfold execTransferFw
  rw [if_neg (by simp [hu]), if_neg (by simp)]
  simp only [Bool.and_eq_true, Bool.not_eq_true', ← Bool.not_eq_true, beq_iff_eq, ← apply_ite Host.Outcome.next]
  rfl

theorem exec_transferFw_continue : exec (.transferFw 0 2 slot offset data) s = .next (
    if mailboxFills s then mailbox (putPart s offset data) 0 mbSuccess [] else mailbox s 0 mbFwOutOfOrder []) := by
  show execTransferFw 0 2 slot offset data s = _
  unfold execTransferFw
  rw [if_neg (by simp [hu]), if_neg (by simp)]
  simp only [Bool.and_eq_true, beq_iff_eq, ← apply_ite Host.Outcome.next]
  rfl

theorem exec_transferFw_end : exec (.transferFw 0 3 slot offset data) s = .next (
    if slot ≠ 1 then mailbox s 0 mbFwInvalidSlot []
    else if mailboxFills s then mailbox (wr (putPart s offset data) K.fwState 2) 0 mbSuccess [] else mailbox s 0 mbFwOutOfOrder []) := by
  show execTransferFw 0 3 slot offset data s = _
  unfold execTransferFw
  rw [if_neg (by simp [hu]), if_neg (by simp)]
  simp only [bne_iff_ne, Bool.and_eq_true, beq_iff_eq, ← apply_ite Host.Outcome.next]
  rfl

theorem exec_transferFw_abort : exec (.transferFw 0 4 slot offset data) s = .next (
    mailbox (if mailboxFills s ∨ rd s K.fwState = 5 then wr (dropBuf s) K.fwState 0 else s) 0 mbSuccess []) := by
  show execTransferFw 0 4 slot offset data s = _
  unfold execTransferFw
  rw [if_neg (by simp [hu]), if_neg (by simp)]
  simp only [Bool.or_eq_true, Bool.and_eq_true, beq_iff_eq, abortFw]
  by_cases hm : mailboxFills s ∨ rd s K.fwState = 5
  · rw [if_pos hm, if_pos hm, if_pos (hm.imp_left And.left)]
  · rw [if_neg hm, if_neg hm]

theorem exec_transferFw_invalid (ha : 4 < action) : exec (.transferFw 0 action slot offset data) s = .next (mailbox s 0 mbInvalidInput []) := by
  show execTransferFw 0 action slot offset data s = _
  unfold execTransferFw
  rw [if_neg (by simp [hu]), if_neg (by simp)]
  simp only
  split
  · omega
  · omega
  · omega
  · omega
  · omega
  · rfl

end

/-! ## Activation by the mailbox -/

theorem exec_activateFw_other (hu : linkUp s = false ∨ fn ≠ 0) : exec (.activateFw fn action slot) s =
    .next (if linkUp s = false then s else mailbox s fn mbUnsupported []) := by
  show execActivateFw fn action slot s = _
  unfold execActivateFw
  by_cases hl : linkUp s = false
  · rw [if_pos hl, if_pos (by simp [hl])]
  · rw [if_neg hl, if_neg (by simpa using hl), if_pos (by simpa using hu.resolve_left hl)]

theorem exec_activateFw_pf (hu : linkUp s = true) : exec (.activateFw 0 action slot) s = .next (
    if slot ≠ 1 then mailbox s 0 mbFwInvalidSlot []
    else if inRecovery s = true then boot (resetState (mailbox s 0 mbSuccess [])) false
    else if action = 0 then mailbox (activate s ((upFrom 0 4).filter (fun sl => rd s (K.sliceState sl) == 3))) 0 mbSuccess []
    else if action = 1 then mailbox s 0 mbSuccess []
    else mailbox s 0 mbInvalidInput []) := by
  show execActivateFw 0 action slot s = _
  unfold execActivateFw
  rw [if_neg (by simp [hu]), if_neg (by simp)]
  simp only [bne_iff_ne, beq_iff_eq, ← apply_ite Host.Outcome.next]

end

/-- Settles O49: images verified, written and activated, and the transfers and activations of the mailbox. -/
theorem firmwareIsStagedVerifiedAndWritten : Obligations.FirmwareIsStagedVerifiedAndWritten := by
  unfold Obligations.FirmwareIsStagedVerifiedAndWritten
  refine ⟨fun s t h2 hr ht => ?verified, fun s t r => exec_fwVerifyDone_rejected, fun s => exec_fwVerifyDone_none, fun s h t h3 hh ht => ?written,
    fun s => exec_fwWriteDone_none, fun s => ?timeout, fun slice s => ?activated, fun slot offset data s t hu h1 ho ht => ?mine,
    fun slot offset data s t hu hm ht => ?opens, fun slot offset data s hu hm => ?others, fun fn action slot offset data s => ?slot,
    fun action offset slot data s hu => exec_transferFw_invalid hu, fun action s hu => ?activate⟩
  case verified =>
    subst ht
    rw [exec_fwVerifyDone_verified h2 hr]
    exact ⟨fun h => by rw [if_pos h], fun h => by rw [if_neg (by omega)]⟩
  case written =>
    subst ht hh
    obtain ⟨hf, hst, hrun, hframe⟩ := flashed_frame s (stagedImage s) (bits (ofBytes ((stagedImage s).take 256)) 376 8)
    exact ⟨_, exec_fwWriteDone_written h3, hf, hst, hrun, hframe⟩
  case timeout =>
    rw [exec_fwBufferTimeout_cases]
    refine ⟨fun h1 hp => if_pos ⟨h1, hp⟩, fun h => if_neg ?_⟩
    rintro ⟨h1, hp⟩
    rcases h with h | h
    · exact h h1
    · simp [hp] at h
  case activated =>
    rw [exec_imageActivated_cases]
    exact ⟨fun h => if_pos h, fun h => if_neg (by simp [h])⟩
  case mine =>
    subst ht
    have hm : mailboxFills s := ⟨h1, ho⟩
    rw [exec_transferFw_continue hu, exec_transferFw_end hu, exec_transferFw_abort hu, if_pos hm, if_neg (by simp), if_pos hm, if_pos (.inl hm)]
    exact ⟨rfl, rfl, rfl⟩
  case opens =>
    subst ht
    have hn : ¬ (bufTaken s = true ∧ ¬ mailboxFills s) := by
      rintro ⟨hb, hno⟩
      rcases hm with hm | hm
      · simp [hm] at hb
      · exact hno hm
    rw [exec_transferFw_initiate hu, exec_transferFw_whole hu, if_neg hn, if_neg (by simp), if_neg hn]
    exact ⟨rfl, rfl⟩
  case others =>
    rw [exec_transferFw_initiate hu, exec_transferFw_whole hu, exec_transferFw_continue hu, exec_transferFw_end hu, exec_transferFw_abort hu]
    refine ⟨fun hb => ⟨by rw [if_pos ⟨hb, hm⟩], by rw [if_neg (by simp), if_pos ⟨hb, hm⟩]⟩, by rw [if_neg hm],
      by rw [if_neg (by simp), if_neg hm], ?_⟩
    by_cases h5 : rd s K.fwState = 5
    · rw [if_pos (.inr h5), if_pos h5]
    · rw [if_neg (by simp [hm, h5]), if_neg h5]
  case slot =>
    refine ⟨fun hu => ?_, fun hu hf => ?_, fun hu hs => ?_⟩
    · rw [exec_transferFw_other (.inl hu), exec_activateFw_other (.inl hu), if_pos hu]
      exact ⟨rfl, rfl⟩
    · rw [exec_transferFw_other (.inr hf), exec_activateFw_other (.inr hf), if_neg (by simp [hu])]
      exact ⟨rfl, rfl⟩
    · rw [exec_transferFw_whole hu, exec_transferFw_end hu, exec_activateFw_pf hu, if_pos hs, if_pos hs, if_pos hs]
      exact ⟨rfl, rfl, rfl⟩
  case activate =>
    rw [exec_activateFw_pf hu, if_neg (by simp)]
    refine ⟨fun h => by rw [if_pos h], fun h => ?_⟩
    rw [if_neg (by simp [h])]
    exact ⟨fun h0 => by rw [if_pos h0], fun h1 => by rw [if_neg (by omega), if_pos h1], fun h1 => by rw [if_neg (by omega), if_neg (by omega)]⟩

end Sys2Proof.Machine
end

section
/-! SUPPORT. Extents: created, granted, revoked, drained and cleared, and the lease of a tenant (R354 to R359, R445). -/

namespace Sys2Proof.Machine

section

variable {s t : State} {w : WReq} {x tenant c : Nat} {e : Extent}

/-! ## The operations of the selected extent -/

theorem hExtentOp_create : hExtentOp s w [1] =
    match firstFail (createFails s (rd s K.extentSelect) (rd s K.extentEntry)) with
    | some (c, k) => (s, .refused c (k / 256) (k % 256))
    | none => (createExtent s (rd s K.extentSelect) (rd s K.extentEntry), .done) := by
  simp only [hExtentOp, ofBytes_one] <;> rfl

/-- The grants of the extent i as the entry r sets them. -/
abbrev grantsSet (s : State) (i r : Nat) : State :=
  showExtent (leaseGrants ((upFrom 1 7).foldl (fun t k => replaceGrant t i k (exGrant r k)) s)
    (match extentAt s i with | some e => e.grants | none => []) (exGrants r))

theorem hExtentOp_setGrants : hExtentOp s w [2] =
    match firstFail (setGrantsFails s (rd s K.extentSelect) (rd s K.extentEntry)) with
    | some (c, k) => (s, .refused c (k / 256) (k % 256))
    | none => (grantsSet s (rd s K.extentSelect) (rd s K.extentEntry), .done) := by
  simp only [hExtentOp, ofBytes_two] <;> rfl

theorem hExtentOp_revoke : hExtentOp s w [3] = (revokeExtent s (rd s K.extentSelect), .done) := by
  simp only [hExtentOp, ofBytes_three]

theorem extentAt_putExtent (s : State) (i : Nat) (e : Extent) : extentAt (putExtent s i e) i = some e := by
  simp [extentAt, putExtent]

/-- Leases that grants renew change the leases only. -/
theorem leaseGrants_frame (s : State) (old new : List Nat) :
    (leaseGrants s old new).comp.extents = s.comp.extents ∧ (leaseGrants s old new).mem = s.mem := by
  unfold leaseGrants
  refine List.foldlRecOn _ _ (motive := fun t : State => t.comp.extents = s.comp.extents ∧ t.mem = s.mem) ⟨rfl, rfl⟩ fun t ht k _ => ?_
  simp only
  split
  · exact ht
  · exact ht

theorem takeHold_frame (s : State) (k : HoldKind) (id st bytes : Nat) :
    (takeHold s k id st bytes).comp = s.comp ∧ (takeHold s k id st bytes).mem = s.mem := by
  unfold takeHold
  split
  · exact ⟨rfl, rfl⟩
  · exact ⟨rfl, rfl⟩

/-- A run of blocks that is mapped changes the space held and the map only. -/
theorem mapBlocks_frame (s : State) (m : Mapped) (k : HoldKind) (id : Nat) :
    (mapBlocks s m k id).comp = s.comp ∧ (mapBlocks s m k id).mem.hostBias = s.mem.hostBias := by
  have hfold : ((upFrom 0 8).foldl (fun t st => takeHold t k id st (runOn m st * blockBytes)) s).comp = s.comp ∧
      ((upFrom 0 8).foldl (fun t st => takeHold t k id st (runOn m st * blockBytes)) s).mem = s.mem := by
    refine List.foldlRecOn _ _ (motive := fun t : State => t.comp = s.comp ∧ t.mem = s.mem) ⟨rfl, rfl⟩ fun t ht st _ => ?_
    obtain ⟨hc, hm⟩ := takeHold_frame t k id st (runOn m st * blockBytes)
    exact ⟨hc.trans ht.1, hm.trans ht.2⟩
  unfold mapBlocks
  generalize (upFrom 0 8).foldl (fun t st => takeHold t k id st (runOn m st * blockBytes)) s = u at hfold ⊢
  have hb := congrArg MemSt.hostBias hfold.2
  exact ⟨hfold.1, hb⟩

/-- A created extent reads as its entry gives it, and its blocks start in host bias. -/
theorem createExtent_extent (s : State) (i r : Nat) : extentAt (createExtent s i r) i = some (extentFrom r) ∧
    (createExtent s i r).mem.hostBias = s.mem.hostBias ++ upFrom ((extentFrom r).base / blockBytes) (extentFrom r).blocks := by
  unfold createExtent
  extract_lets e u v w
  obtain ⟨hc, hb⟩ := mapBlocks_frame (putExtent s i e) (extentRun s i e) .extent i
  obtain ⟨hle, hlm⟩ := leaseGrants_frame w [] e.grants
  constructor
  · have hu : extentAt u i = some e := by
      rw [extentAt, hc]
      exact extentAt_putExtent ..
    exact (congrArg (fun c => tget? c i) hle).trans hu
  · exact (congrArg MemSt.hostBias hlm).trans (congrArg (· ++ upFrom (e.base / blockBytes) e.blocks) hb)

theorem deregWithin_tm (s : State) (e : Extent) (p : Region → Bool) : (deregWithin s e p).tm = s.tm := by
  refine List.foldlRecOn _ _ (motive := fun t : State => t.tm = s.tm) rfl fun t ht r _ => ?_
  unfold deregRegion
  simp only
  split
  · exact ht
  · split
    · exact ht
    · exact ht

theorem revokeExtent_active {i : Nat} (he : extentAt s i = some e) (h1 : e.state = 1) :
    extentAt (revokeExtent s i) i = some { e with state := 2, since := s.tm.ec } := by
  unfold revokeExtent
  simp only [he]
  rw [if_neg (by simp [h1])]
  refine (extentAt_putExtent ..).trans ?_
  rw [deregWithin_tm]

theorem revokeExtent_other {i : Nat} (h : ∀ e, extentAt s i = some e → e.state ≠ 1) : revokeExtent s i = s := by
  unfold revokeExtent
  cases he : extentAt s i with
  | none => rfl
  | some e => exact if_pos (by simpa using h e he)

/-! ## Drains, clearings and leases -/

theorem exec_extentDrainEnd_none (he : extentAt s x = none) : exec (.extentDrainEnd x) s = .next s := by
  show execExtentDrainEnd x s = _
  unfold execExtentDrainEnd
  simp only [he]

theorem exec_extentDrainEnd_granted (he : extentAt s x = some e) (h2 : e.state ≠ 2) : exec (.extentDrainEnd x) s =
    .next (showExtent ((e.drains.filter (fun d => drainOver s e (some d.tenant) d.since)).foldl (fun t d => endGrant t x d) s)) := by
  show execExtentDrainEnd x s = _
  unfold execExtentDrainEnd
  simp only [he]
  exact if_neg (by simpa using h2)

theorem exec_extentDrainEnd_draining (he : extentAt s x = some e) (h2 : e.state = 2) (hd : drainOver s e none e.since = false) :
    exec (.extentDrainEnd x) s = .next s := by
  show execExtentDrainEnd x s = _
  unfold execExtentDrainEnd
  simp only [he]
  exact (if_pos (by simpa using h2)).trans (if_neg (by simp [hd]))

/-- A revoked extent whose drain is over is cleared, after its unmapping where it was mapped. -/
theorem exec_extentDrainEnd_over (he : extentAt s x = some e) (h2 : e.state = 2) (hd : drainOver s e none e.since = true)
    (ht : t = putExtent s x { e with state := 3, drains := [] }) : exec (.extentDrainEnd x) s =
      .next (showExtent (match t.mem.maps.find? (fun m => m.holder == .extent x) with | some m => beginUnmap t m | none => t)) := by
  subst ht
  show execExtentDrainEnd x s = _
  unfold execExtentDrainEnd
  simp only [he]
  exact ((if_pos (by simpa using h2)).trans (if_pos hd)).trans rfl

theorem exec_memoryClearDone_clearing (hc : ∃ h ∈ s.holds, h.kind = .clearing ∧ h.id = c)
    (ht : t = { s with holds := s.holds.filter (fun h => !(h.kind == .clearing && h.id == c)),
                       comp := { s.comp with extents := s.comp.extents.filter (fun p => !(p.2.state == 3 && p.2.clr == c)) } }) :
    exec (.memoryClearDone c) s = .next (afterMove (retryRoom (showExtent t))) := by
  subst ht
  show execMemoryClearDone c s = _
  unfold execMemoryClearDone
  exact if_neg (by simpa using hc)

theorem exec_memoryClearDone_none (hc : ∀ h ∈ s.holds, h.kind = .clearing → h.id ≠ c) : exec (.memoryClearDone c) s = .next s := by
  show execMemoryClearDone c s = _
  unfold execMemoryClearDone
  exact if_pos (by simpa using hc)

theorem exec_tenantLeaseExpire_early (h : ∀ x, tget? s.comp.tleases tenant = some x → now s < x) :
    exec (.tenantLeaseExpire tenant) s = .next s := by
  show execTenantLeaseExpire tenant s = _
  unfold execTenantLeaseExpire
  cases hx : tget? s.comp.tleases tenant with
  | none => rfl
  | some x => exact if_pos (h x hx)

/-- The grants that a tenant holds by its lease are revoked, extent after extent. -/
abbrev revokeLeases (t : State) (tenant : Nat) : State :=
  t.comp.extents.foldl (fun v p => (upFrom 0 8).foldl (fun a k =>
    if p.2.state == 1 && gValid (nth p.2.grants k 0) && gLeased (nth p.2.grants k 0) && gTenant (nth p.2.grants k 0) == tenant
      && !p.2.drains.any (fun d => d.grant == k && d.rights == 3) then revokeGrant a p.1 k 3 0 else a) v) t

theorem exec_tenantLeaseExpire_due (hx : tget? s.comp.tleases tenant = some x) (hn : x ≤ now s)
    (ht : t = { s with comp := { s.comp with tleases := terase s.comp.tleases tenant } }) : exec (.tenantLeaseExpire tenant) s =
      .next (freeEvent (bump (((revokeLeases t tenant).comp.opens.filter (fun o => o.1 == tenant)).foldl releaseOpen
        (revokeLeases t tenant)) K.leasesExpired 1) 0x71 nodeSlice) := by
  subst ht
  show execTenantLeaseExpire tenant s = _
  unfold execTenantLeaseExpire
  simp only [hx]
  exact if_neg (Nat.not_lt.mpr hn)

end

/-- Settles O50: the operations of the selected extent, drains, clearings, and a tenant's lease. -/
theorem extentsAreCreatedRevokedAndCleared : Obligations.ExtentsAreCreatedRevokedAndCleared := by
  unfold Obligations.ExtentsAreCreatedRevokedAndCleared
  refine ⟨fun w s i r ha hi hr => ?ops, createExtent_extent, fun s i e => revokeExtent_active, fun s i => revokeExtent_other,
    fun x s t e he h2 hd ht => ?ended, fun x s e => exec_extentDrainEnd_draining, fun x s e => exec_extentDrainEnd_granted,
    fun x s => exec_extentDrainEnd_none, fun c s t => exec_memoryClearDone_clearing, fun c s => exec_memoryClearDone_none,
    fun tenant x s t u hx hn ht hu => hu ▸ exec_tenantLeaseExpire_due hx hn ht, fun tenant s => exec_tenantLeaseExpire_early⟩
  case ops =>
    subst hi hr
    refine ⟨fun h => congrArg _ (row_done (l := [1]) ha takes_extent_op ?_),
      fun c k h => congrArg _ (row_refused (l := [1]) ha takes_extent_op ?_), fun h => congrArg _ (row_done (l := [2]) ha takes_extent_op ?_),
      fun c k h => congrArg _ (row_refused (l := [2]) ha takes_extent_op ?_), congrArg _ (row_done (l := [3]) ha takes_extent_op hExtentOp_revoke)⟩
    · rw [hExtentOp_create, h]
    · rw [hExtentOp_create, h]
    · rw [hExtentOp_setGrants, h] <;> rfl
    · rw [hExtentOp_setGrants, h]
  case ended =>
    rw [exec_extentDrainEnd_over he h2 hd ht]
    exact ⟨fun m hm => by rw [hm], fun hm => by rw [hm]⟩

end Sys2Proof.Machine
end

section
/-! SUPPORT. Share tickets, the Lead's answers, and releases (R357, R365 to R370). -/

namespace Sys2Proof.Machine

section

variable {s t u : State} {tk : Tk}

/-! ## RENEW, OPEN and CLOSE -/

/-- Without a share ticket of its kind taken, no command of the tickets does anything. -/
theorem exec_share_none {k : Nat} {c : Instr} (h : (k, c) ∈ ([(0xA, .open), (0xB, .close), (0xC, .publish), (0xD, .renew)] : List (Nat × Instr)))
    (hh : takeHead s k = none) : exec c s = .next s := by
  simp only [List.mem_cons, List.not_mem_nil, or_false, Prod.mk.injEq] at h
  rcases h with ⟨rfl, rfl⟩ | ⟨rfl, rfl⟩ | ⟨rfl, rfl⟩ | ⟨rfl, rfl⟩
  · show execOpen s = _
    unfold execOpen
    simp only [hh]
  · show execClose s = _
    unfold execClose
    simp only [hh]
  · show execPublish s = _
    unfold execPublish
    simp only [hh]
  · show execRenew s = _
    unfold execRenew
    simp only [hh]

theorem exec_renew_taken (hh : takeHead s 0xD = some (tk, t)) (hu : u = renewLease t (tkTenant tk.raw)) : exec .renew s = .next (
    if (tget? t.comp.tleases (tkTenant tk.raw)).isSome = true then complete u tk St.ok (leasedCount u (tkTenant tk.raw)) 0
    else complete t tk St.ok 0 0) := by
  subst hu
  show execRenew s = _
  unfold execRenew
  simp only [hh]
  exact (apply_ite Host.Outcome.next ..).symm

theorem exec_open_taken (hh : takeHead s 0xA = some (tk, t)) : exec .open s = .next (
    if areaTest t (tkTenant tk.raw) (sResult tk.raw) 32 32 2 ≠ 0 then refuseArea t tk (areaTest t (tkTenant tk.raw) (sResult tk.raw) 32 32 2)
    else if rd t K.opensMax ≤ t.comp.opens.length then complete t tk St.quota 0 0
    else askLead t tk 0 0 0 0) := by
  show execOpen s = _
  unfold execOpen
  simp only [hh, bne_iff_ne, apply_ite Host.Outcome.next]

theorem exec_close_taken (hh : takeHead s 0xB = some (tk, t)) : exec .close s = .next (askLead t tk 0 0 0 0) := by
  show execClose s = _
  unfold execClose
  simp only [hh]

/-! ## PUBLISH -/

section

variable (hh : takeHead s 0xC = some (tk, t))
include hh

theorem exec_publish_version (hk : sKind tk.raw = 0) : exec .publish s = .next (askLead t tk 0 0 0 0) := by
  show execPublish s = _
  unfold execPublish
  simp only [hh, hk]

theorem exec_publish_unknown (hk : 2 < sKind tk.raw) : exec .publish s = .next (refuse t tk St.bounds) := by
  show execPublish s = _
  unfold execPublish
  simp only [hh]
  split
  · omega
  · omega
  · omega
  · rfl

theorem exec_publish_extent {e : Extent} (hk : sKind tk.raw = 1) (hc : publishTest t (sObject tk.raw) (tkTenant tk.raw) = 0)
    (he : extentAt t (sObject tk.raw) = some e) :
    exec .publish s = .next (askLead (preparePublish t (sObject tk.raw) e) tk 1 (sObject tk.raw) (myNode t) e.base) := by
  show execPublish s = _
  unfold execPublish
  simp only [hh, hk, hc, he]
  rfl

theorem exec_publish_extentRefused (hk : sKind tk.raw = 1) (hc : publishTest t (sObject tk.raw) (tkTenant tk.raw) ≠ 0) :
    exec .publish s = .next (complete t tk (publishTest t (sObject tk.raw) (tkTenant tk.raw)) 0 0) := by
  show execPublish s = _
  unfold execPublish
  simp only [hh, hk]
  exact if_pos (by simpa using hc)

/-- What the PUBLISH of a Ream does, with the home of the Ream: it is sealed at the COMMIT of its home, where it is known and neither
retired nor preempted. -/
def publishReam (u : State) (tk : Tk) : Option Nat → State
  | none => refuse u tk St.bounds
  | some h =>
    if h ≠ myNode u then forwardHome u tk h []
    else match knownReam u (tkTenant tk.raw) (sObject tk.raw) with
      | none => complete u tk St.bounds 0 0
      | some m => if m.retiredSet = true ∨ m.preempted = true then complete u tk St.bounds 0 0
        else { u with att := { u.att with seals := u.att.seals ++ [tk] } }

theorem exec_publish_ream {home : Option Nat} (hk : sKind tk.raw = 2)
    (hm : homeOf t tk.slice (tkTenant tk.raw) (sObject tk.raw) = (u, home)) : exec .publish s = .next (publishReam u tk home) := by
  show execPublish s = _
  unfold execPublish
  simp only [hh, hk, hm, bne_iff_ne, Bool.or_eq_true]
  cases home with
  | none => rfl
  | some h =>
    simp only [publishReam]
    split
    · rfl
    · cases knownReam u (tkTenant tk.raw) (sObject tk.raw) with
      | none => rfl
      | some m =>
        simp only
        split <;> rfl

end

/-! ## The Lead and its replies -/

theorem exec_shareReq_lead {m : ShareMsg} {st n : Nat} {v : Option Version} {w : Version} (hl : isLead s = true)
    (ho : orderShare s m = (t, st, n, v)) (hw : w = v.getD { num := 0, kind := 0, object := 0, node := 0, base := 0, opens := [] }) :
    exec (.shareReq m) s = .next (mgmt t m.src (.shareReply
      { ticketId := m.ticketId, tenant := m.tenant, status := st, count := n, kind := w.kind, object := w.object, node := w.node, base := w.base })) := by
  subst hw
  show execShareReq m s = _
  unfold execShareReq
  refine (if_neg (by simp [hl])).trans ?_
  simp only [ho]

theorem exec_shareReq_other {m : ShareMsg} (hl : isLead s = false) : exec (.shareReq m) s = .next s := by
  show execShareReq m s = _
  unfold execShareReq
  exact if_pos (by simp [hl])

section

variable {a : ShareAns}

theorem exec_shareReply_none (h : s.comp.asks.find? (fun t => tkId t.raw == a.ticketId && tkTenant t.raw == a.tenant) = none) :
    exec (.shareReply a) s = .next s := by
  show execShareReply a s = _
  unfold execShareReply
  simp only [h]

variable (h : s.comp.asks.find? (fun t => tkId t.raw == a.ticketId && tkTenant t.raw == a.tenant) = some tk)
  (ht : t = { s with comp := { s.comp with asks := s.comp.asks.filter (fun t => t.id != tk.id) } })
include h ht

/-- The reply to an OPEN keeps the open, or releases it at once where its ticket is dead. -/
theorem exec_shareReply_open {o : Nat × Nat × Nat} (hk : tkType tk.raw = 0xA) (ho : o = (tkTenant tk.raw, sShare tk.raw, a.count)) :
    exec (.shareReply a) s = .next (
      if a.status ≠ St.ok then complete t tk a.status a.count 0
      else if has t.att.dead tk.id = true then releaseOpen (complete t tk a.status a.count 0) o
      else completeResult (renewLease { t with comp := { t.comp with opens := t.comp.opens ++ [o] } } (tkTenant tk.raw))
        tk (sResult tk.raw) (openRecord a (sShare tk.raw)) St.ok a.count) := by
  subst ht ho
  show execShareReply a s = _
  unfold execShareReply
  simp only [h, hk, bne_iff_ne, apply_ite Host.Outcome.next]

theorem exec_shareReply_close (hk : tkType tk.raw = 0xB) : exec (.shareReply a) s = .next (complete
    (if a.status = St.ok then { t with comp := { t.comp with opens := t.comp.opens.erase (tkTenant tk.raw, sShare tk.raw, sVersion tk.raw) } } else t)
    tk a.status a.count 0) := by
  subst ht
  show execShareReply a s = _
  unfold execShareReply
  simp only [h, hk, beq_iff_eq]

theorem exec_shareReply_other (hA : tkType tk.raw ≠ 0xA) (hB : tkType tk.raw ≠ 0xB) :
    exec (.shareReply a) s = .next (complete t tk a.status a.count 0) := by
  subst ht
  show execShareReply a s = _
  unfold execShareReply
  simp only [h]

end

/-! ## Releases -/

theorem exec_versionRelease_extent {object tenant : Nat} : exec (.versionRelease 1 object tenant) s = .next (
    match extentAt s object with
    | some e => if e.kind = 2 then revokeExtent s object else s
    | none => s) := by
  show execVersionRelease 1 object tenant s = _
  unfold execVersionRelease
  rw [if_pos (by rfl)]
  cases extentAt s object with
  | none => rfl
  | some e => simp only [beq_iff_eq]

theorem exec_versionRelease_ream {kind object tenant : Nat} (hk : kind ≠ 1) : exec (.versionRelease kind object tenant) s
    = .next { s with comp := { s.comp with releases := s.comp.releases ++ [(tenant, object)] } } := by
  show execVersionRelease kind object tenant s = _
  unfold execVersionRelease
  exact if_neg (by simpa using hk)

end

/-- Settles O51: the four tickets, the Lead's answer, the reply by the ticket's type, and the releases. -/
theorem shareTicketsGoToTheLead : Obligations.ShareTicketsGoToTheLead := by
  unfold Obligations.ShareTicketsGoToTheLead
  refine ⟨fun k c s => exec_share_none, fun s t u tk hh hu => ?renew, fun s t tk c hh hc => ?opened, fun s t tk => exec_close_taken,
    fun s t tk => exec_publish_version, fun s t tk => exec_publish_unknown, fun s t tk e c hh hk hc => ?extent,
    fun s t u tk home hh hk hm => ?ream, fun m s t st n v w ho hw => ⟨fun hl => exec_shareReq_lead hl ho hw, exec_shareReq_other⟩,
    fun a s => exec_shareReply_none, fun a s t tk o h ht ho => ?reply, fun object tenant s => ?released,
    fun kind object tenant s => exec_versionRelease_ream⟩
  case renew =>
    rw [exec_renew_taken hh hu]
    exact ⟨fun h => by rw [if_pos h], fun h => by rw [if_neg (by simp [h])]⟩
  case opened =>
    subst hc
    rw [exec_open_taken hh]
    exact ⟨fun h hl => by rw [if_neg (not_not_intro h), if_neg (by omega)], fun h hl => by rw [if_neg (not_not_intro h), if_pos hl],
      fun h => by rw [if_pos h]⟩
  case extent =>
    subst hc
    exact ⟨exec_publish_extent hh hk, exec_publish_extentRefused hh hk⟩
  case ream =>
    rw [exec_publish_ream hh hk hm]
    refine ⟨fun h => by rw [h]; rfl, fun h hn hne => by simp only [hn, publishReam, if_pos hne], fun hn hr => ?_,
      fun m hn hr => ⟨fun hb => ?_, fun h1 h2 => ?_⟩⟩
    · simp only [hn, publishReam, hr, ne_eq, not_true_eq_false, ↓reduceIte]
    · simp only [hn, publishReam, hr, hb, ne_eq, not_true_eq_false, ↓reduceIte]
    · simp only [hn, publishReam, hr, h1, h2, ne_eq, not_true_eq_false, Bool.false_eq_true, or_self, ↓reduceIte]
  case reply =>
    refine ⟨?_, fun hk hs hd => ?_, fun hk hs hd => ?_, fun hk hs => ?_⟩
    · rintro (⟨hA, hB⟩ | ⟨hk, hs⟩ | ⟨hk, hs⟩)
      · exact exec_shareReply_other h ht hA hB
      · rw [exec_shareReply_open h ht hk ho, if_pos hs]
      · rw [exec_shareReply_close h ht hk, if_neg hs]
    · rw [exec_shareReply_open h ht hk ho, if_neg (not_not_intro hs), if_pos hd]
    · rw [exec_shareReply_open h ht hk ho, if_neg (not_not_intro hs), if_neg (by simp [hd])]
    · rw [exec_shareReply_close h ht hk, if_pos hs]
  case released =>
    rw [exec_versionRelease_extent]
    refine ⟨fun e he h2 => by simp only [he, if_pos h2], fun h => ?_⟩
    cases he : extentAt s object with
    | none => rfl
    | some e => simp only [if_neg (h e he)]

end Sys2Proof.Machine
end

section
/-! SUPPORT. Pool leases: asked, granted, renewed, revoked and lapsed (R360 to R364). -/

namespace Sys2Proof.Machine

theorem ofBytes_toBytes {n v : Nat} (h : v < 256 ^ n) : ofBytes (toBytes n v) = v := by
  induction n generalizing v with
  | zero => simp [toBytes, ofBytes, show v = 0 by simpa using h]
  | succ n ih =>
    have hd : v / 256 < 256 ^ n := Nat.div_lt_of_lt_mul (by rw [← Nat.pow_succ']; exact h)
    simp [toBytes, ofBytes, ih hd]
    omega

section

variable {s t : State} {w : WReq} {mib lease src : Nat} {g : PoolGrant}

/-! ## Requests and releases of a member -/

/-- The tests of a request: the pool is on, and the size is in the value set. -/
abbrev requestFails (s : State) (mib : Nat) : List Fail :=
  [needs s K.poolEnable, failIf (mib % 256 != 0 || decide (mib < 256) || decide (262144 < mib)) 0x01 K.poolRequestMib]

theorem firstFail_request_off (h : on s K.poolEnable = false) : firstFail (requestFails s mib) = some (0x06, K.poolEnable) := by
  refine firstFail_eq_some (by simp [needs, h, failIf]) fun x hx => ?_
  have rank : reasonRank 0x06 < reasonRank 0x01 := by decide
  simp only [List.mem_cons, List.not_mem_nil, or_false] at hx
  rcases hx with hx | hx
  · obtain ⟨-, rfl⟩ := failIf_eq_some.mp hx.symm
    exact .inl rfl
  · obtain ⟨-, rfl⟩ := failIf_eq_some.mp hx.symm
    exact .inr rank

theorem firstFail_request_on (h : on s K.poolEnable = true) : firstFail (requestFails s mib) =
    if mib % 256 ≠ 0 ∨ mib < 256 ∨ 262144 < mib then some (0x01, K.poolRequestMib) else none := by
  simp only [requestFails, needs_of_on h]
  split
  · next hb => rw [show failIf _ _ _ = some (0x01, K.poolRequestMib) from if_pos (by simpa [or_assoc] using hb)]; rfl
  · next hb => rw [show failIf _ _ _ = none from if_neg (by simpa [or_assoc] using hb)]; rfl

/-- A request is refused while the pool is off, and else where its size is not in the value set. -/
theorem hPoolRequest_cases (hm : mib < 2 ^ 32) : hPoolRequest s w (toBytes 4 mib) =
    if on s K.poolEnable = false then (s, .refused 0x06 (K.poolEnable / 256) (K.poolEnable % 256))
    else if mib % 256 ≠ 0 ∨ mib < 256 ∨ 262144 < mib then (s, .refused 0x01 0x7110 5)
    else (mgmt (wr { s with comp := { s.comp with poolAsk := mib } } K.poolResultState 1) (leadNode s) (.poolReq mib), .done) := by
  unfold hPoolRequest
  simp only [ofBytes_toBytes (n := 4) hm]
  by_cases h : on s K.poolEnable = false
  · simp only [firstFail_request_off h, if_pos h]
  · simp only [firstFail_request_on (by simpa using h), if_neg h]
    by_cases hb : mib % 256 ≠ 0 ∨ mib < 256 ∨ 262144 < mib
    · simp only [if_pos hb]
      rfl
    · simp only [if_neg hb]

theorem hPoolRelease_cases (hl : lease < 2 ^ 32) : hPoolRelease s w (toBytes 4 lease) =
    if ∃ h ∈ s.comp.held, h.id = lease then (drainLease s lease 1 0, .done) else (s, .refused 0x01 0x7110 6) := by
  simp only [hPoolRelease, ofBytes_toBytes (n := 4) hl, List.any_eq_true, beq_iff_eq]

/-! ## The Lead -/

theorem exec_poolLeases_notLead {drained : Bool} (hl : isLead s = false) : exec (.poolLeaseReq src mib) s = .next s ∧
    exec (.poolLeaseRenew src lease) s = .next s ∧ exec (.poolLeaseRelease src lease drained) s = .next s ∧
    exec (.poolLeaseLapse lease) s = .next s := by
  refine ⟨?_, ?_, ?_, ?_⟩
  · show execPoolLeaseReq src mib s = _
    unfold execPoolLeaseReq
    exact if_pos (by simp [hl])
  · show execPoolLeaseRenew src lease s = _
    unfold execPoolLeaseRenew
    split
    · rfl
    · exact if_pos (by simp [hl])
  · show execPoolLeaseRelease src lease drained s = _
    unfold execPoolLeaseRelease
    split
    · rfl
    · exact if_pos (by simp [hl])
  · show execPoolLeaseLapse lease s = _
    unfold execPoolLeaseLapse
    split
    · rfl
    · exact if_pos (by simp [hl])

/-- The lease of the lowest free run that the Lead grants. -/
theorem exec_poolLeaseReq_granted {b : Nat} (hl : isLead s = true) (ht : t = reapLeases s) (he : on t K.poolEnable = true)
    (hb : lowestRun t mib = some b) : exec (.poolLeaseReq src mib) s = .next (mgmt { t with comp := { t.comp with
          leases := t.comp.leases ++ [{ id := t.comp.nextLease, holder := src, base := b, mib := mib, expiry := now t + rd t K.poolLeaseNs,
                                        lapsed := false }],
          nextLease := t.comp.nextLease + 1 } } src (.poolGrant
            { granted := true, id := t.comp.nextLease, base := b, mib := mib, mustClear := t.comp.dirty.any (fun d => has (unitsOf b mib) d.1) })) := by
  subst ht
  show execPoolLeaseReq src mib s = _
  unfold execPoolLeaseReq
  refine (if_neg (by simp [hl])).trans ?_
  simp only [he, ↓reduceIte, hb]

theorem exec_poolLeaseReq_refused (hl : isLead s = true) (ht : t = reapLeases s) (h : on t K.poolEnable = false ∨ lowestRun t mib = none) :
    exec (.poolLeaseReq src mib) s = .next (mgmt t src (.poolGrant { granted := false, id := 0, base := 0, mib := mib, mustClear := false })) := by
  subst ht
  have hn : (if on (reapLeases s) K.poolEnable = true then lowestRun (reapLeases s) mib else none) = none := by
    rcases h with h | h <;> simp [h]
  show execPoolLeaseReq src mib s = _
  unfold execPoolLeaseReq
  refine (if_neg (by simp [hl])).trans ?_
  simp only [hn]

theorem exec_poolLeaseRenew_held {l m : PoolLease} (hl : isLead s = true)
    (hf : s.comp.leases.find? (fun l => l.id == lease && l.holder == src && !l.lapsed) = some l)
    (hm : m = { l with expiry := now s + rd s K.poolLeaseNs }) : exec (.poolLeaseRenew src lease) s
      = .next (mgmt { s with comp := { s.comp with leases := s.comp.leases.map (fun x => if x.id == lease then m else x) } } src
          (.poolGrant { granted := true, id := l.id, base := l.base, mib := l.mib, mustClear := false })) := by
  subst hm
  show execPoolLeaseRenew src lease s = _
  unfold execPoolLeaseRenew
  simp only [hf]
  exact if_neg (by simp [hl])

theorem exec_poolLeaseRenew_none (hf : s.comp.leases.find? (fun l => l.id == lease && l.holder == src && !l.lapsed) = none) :
    exec (.poolLeaseRenew src lease) s = .next s := by
  show execPoolLeaseRenew src lease s = _
  unfold execPoolLeaseRenew
  simp only [hf]

theorem exec_poolLeaseRelease_held {drained : Bool} {l : PoolLease} {d : List (Nat × Nat)} (hl : isLead s = true)
    (hf : s.comp.leases.find? (fun l => l.id == lease && l.holder == src) = some l)
    (hd : d = s.comp.dirty.filter (fun x => !has (unitsOf l.base l.mib) x.1)) : exec (.poolLeaseRelease src lease drained) s
      = .next { s with comp := { s.comp with leases := s.comp.leases.filter (fun x => x.id != lease),
                                             dirty := if drained then d else d ++ (unitsOf l.base l.mib).map (fun x => (x, 256)) } } := by
  subst hd
  show execPoolLeaseRelease src lease drained s = _
  unfold execPoolLeaseRelease
  simp only [hf]
  exact if_neg (by simp [hl])

theorem exec_poolLeaseRelease_none {drained : Bool} (hf : s.comp.leases.find? (fun l => l.id == lease && l.holder == src) = none) :
    exec (.poolLeaseRelease src lease drained) s = .next s := by
  show execPoolLeaseRelease src lease drained s = _
  unfold execPoolLeaseRelease
  simp only [hf]

theorem exec_poolLeaseLapse_known {l : PoolLease} (hf : s.comp.leases.find? (fun l => l.id == lease && !l.lapsed) = some l) :
    exec (.poolLeaseLapse lease) s = if isLead s = false ∨ now s < l.expiry then .next s
      else .next (bump { s with comp := { s.comp with leases := s.comp.leases.map (fun x => if x.id == lease then { x with lapsed := true } else x) } }
        K.poolLeasesLapsed 1) := by
  show execPoolLeaseLapse lease s = _
  unfold execPoolLeaseLapse
  simp only [hf, Bool.or_eq_true, Bool.not_eq_true', decide_eq_true_eq]

theorem exec_poolLeaseLapse_none (hf : s.comp.leases.find? (fun l => l.id == lease && !l.lapsed) = none) :
    exec (.poolLeaseLapse lease) s = .next s := by
  show execPoolLeaseLapse lease s = _
  unfold execPoolLeaseLapse
  simp only [hf]

/-! ## The member -/

theorem exec_poolLeaseGrant_renewal (hh : ∃ h ∈ s.comp.held, h.id = g.id) (hg : g.granted = true) :
    exec (.poolLeaseGrant g) s = .next (modHeld s g.id (fun h => { h with expiry := h.renewedAt + rd s K.poolLeaseNs })) := by
  show execPoolLeaseGrant g s = _
  unfold execPoolLeaseGrant
  exact if_pos (by simpa [hg] using hh)

/-- The lease that a member keeps at its grant. -/
abbrev leaseKept (s : State) (g : PoolGrant) : HeldLease := ⟨g.id, g.base, g.mib, now s + rd s K.poolLeaseNs, now s, 0, 0, g.mustClear, false⟩

/-- The answer to a request of a member: nothing asked, refused, granted, or granted and to be cleared. -/
theorem exec_poolLeaseGrant_answer (h : (∀ h ∈ s.comp.held, h.id ≠ g.id) ∨ g.granted = false)
    (ht : t = { s with comp := { s.comp with poolAsk := 0 } }) : exec (.poolLeaseGrant g) s = .next (
      if s.comp.poolAsk = 0 then s
      else if g.granted = false then wr t K.poolResultState 3
      else if g.mustClear = true then
        emit (wr (wr { t with comp := { t.comp with held := t.comp.held ++ [leaseKept s g] } } K.poolResult (poolResultWord g)) K.poolResultState 4)
          (.vatWrite g.base (g.mib * 2 ^ 20) true)
      else wr (wr { t with comp := { t.comp with held := t.comp.held ++ [leaseKept s g] } } K.poolResult (poolResultWord g)) K.poolResultState 2) := by
  subst ht
  have hn : ¬ ((s.comp.held.any (fun h => h.id == g.id) && g.granted) = true) := by
    simp only [Bool.and_eq_true, List.any_eq_true, beq_iff_eq]
    rintro ⟨⟨x, hx, hid⟩, hg⟩
    rcases h with h | h
    · exact h x hx hid
    · simp [hg] at h
  show execPoolLeaseGrant g s = _
  unfold execPoolLeaseGrant
  rw [if_neg hn]
  simp only [beq_iff_eq, Bool.not_eq_true', apply_ite Host.Outcome.next]
  rfl

theorem exec_poolRunCleared_cases (ht : t = modHeld s lease (fun h => { h with clearing := false })) : exec (.poolRunCleared lease) s = .next (
    if ∃ h ∈ s.comp.held, h.id = lease ∧ h.clearing = true then
      if rd t K.poolResult % 2 ^ 32 = lease then wr t K.poolResultState 2 else t
    else s) := by
  subst ht
  show execPoolRunCleared lease s = _
  unfold execPoolRunCleared
  simp only [List.any_eq_true, Bool.and_eq_true, beq_iff_eq, apply_ite Host.Outcome.next]

section

variable {h : HeldLease} (hf : s.comp.held.find? (fun h => h.id == lease) = some h)
include hf

theorem exec_poolLeaseRenewDue_held : exec (.poolLeaseRenewDue lease) s =
    if now s < h.renewedAt + rd s K.poolLeaseNs / 4 ∨ h.failed = true then .next s
    else .next (mgmt (modHeld s lease (fun h => { h with renewedAt := now s })) (leadNode s) (.poolRenew lease)) := by
  show execPoolLeaseRenewDue lease s = _
  unfold execPoolLeaseRenewDue
  simp only [hf, Bool.or_eq_true, decide_eq_true_eq]

theorem exec_poolLeaseGuardExpire_held (ht : t = modHeld s lease (fun h => { h with failed := true })) :
    exec (.poolLeaseGuardExpire lease) s = if h.failed = true ∨ now s + rd s K.poolGuardNs < h.expiry then .next s
      else .next ((leaseRegions t lease).foldl (fun t v => wr t (K.vatState v) 3) t) := by
  subst ht
  show execPoolLeaseGuardExpire lease s = _
  unfold execPoolLeaseGuardExpire
  simp only [hf, Bool.or_eq_true, decide_eq_true_eq]

end

theorem exec_heldLease_none (hn : ∀ h ∈ s.comp.held, h.id ≠ lease) : exec (.poolLeaseRenewDue lease) s = .next s ∧
    exec (.poolLeaseGuardExpire lease) s = .next s := by
  have hf : s.comp.held.find? (fun h => h.id == lease) = none := List.find?_eq_none.mpr fun h hh => by simpa using hn h hh
  constructor
  · show execPoolLeaseRenewDue lease s = _
    unfold execPoolLeaseRenewDue
    simp only [hf]
  · show execPoolLeaseGuardExpire lease s = _
    unfold execPoolLeaseGuardExpire
    simp only [hf]

end

/-- Settles O52: requests and releases of a member, what the Lead does, and what a member does with its leases. -/
theorem poolLeasesAreGrantedAndEnded : Obligations.PoolLeasesAreGrantedAndEnded := by
  unfold Obligations.PoolLeasesAreGrantedAndEnded
  refine ⟨fun w mib s ha hm => ?request, fun w lease s ha hl => ?release,
    fun src mib s t hl ht => ⟨fun b => exec_poolLeaseReq_granted hl ht, exec_poolLeaseReq_refused hl ht⟩,
    fun src lease mib drained s => exec_poolLeases_notLead, fun g s => exec_poolLeaseGrant_renewal, fun g s t h ht => ?grant,
    fun lease s t ht => ?cleared, fun lease h s hf => ?held, fun lease s => exec_heldLease_none, fun src lease l m s => exec_poolLeaseRenew_held,
    fun src lease s => exec_poolLeaseRenew_none, fun src lease drained l s d => exec_poolLeaseRelease_held,
    fun src lease drained s => exec_poolLeaseRelease_none, fun lease drainNs s => rfl, fun lease l s hf => ?lapse,
    fun lease s => exec_poolLeaseLapse_none⟩
  case request =>
    have takes : takesRow 0x7110 5 (toBytes 4 mib).length = true := by rw [length_toBytes]; exact takes_pool_request
    have hc := hPoolRequest_cases (s := s) (w := w) hm
    refine ⟨fun he h1 h2 h3 => congrArg _ (row_done ha takes ?_), fun he => congrArg _ (row_refused ha takes ?_),
      fun he hb => congrArg _ (row_refused ha takes ?_)⟩
    · rw [hc, if_neg (by simp [he]), if_neg (by omega)]
    · rw [hc, if_pos he]
    · rw [hc, if_neg (by simp [he]), if_pos hb]
  case release =>
    have takes : takesRow 0x7110 6 (toBytes 4 lease).length = true := by rw [length_toBytes]; exact takes_pool_release
    have hc := hPoolRelease_cases (s := s) (w := w) hl
    refine ⟨fun h => congrArg _ (row_done ha takes ?_), fun h => congrArg _ (row_refused ha takes ?_)⟩
    · rw [hc, if_pos h]
    · rw [hc, if_neg]
      rintro ⟨x, hx, hid⟩
      exact h x hx hid
  case grant =>
    rw [exec_poolLeaseGrant_answer h ht]
    refine ⟨fun h0 => by rw [if_pos h0], fun h0 hg => by rw [if_neg h0, if_pos hg], fun u h0 hg hu => ?_⟩
    subst hu
    rw [if_neg h0, if_neg (by simp [hg])]
    exact ⟨fun hc => by rw [if_neg (by simp [hc])], fun hc => by rw [if_pos hc]⟩
  case cleared =>
    rw [exec_poolRunCleared_cases ht]
    refine ⟨fun hh hr => by rw [if_pos hh, if_pos hr], fun hh hr => by rw [if_pos hh, if_neg hr], fun hn => ?_⟩
    rw [if_neg]
    rintro ⟨x, hx, hid, hc⟩
    simp [hn x hx hid] at hc
  case held =>
    rw [exec_poolLeaseRenewDue_held hf]
    refine ⟨fun hd hfl => ?_, fun h' => if_pos h', fun t ht hfl hg => ?_, fun h' => ?_⟩
    · rw [if_neg]
      rintro (h' | h')
      · omega
      · simp [hfl] at h'
    · rw [exec_poolLeaseGuardExpire_held hf ht, if_neg]
      rintro (h' | h')
      · simp [hfl] at h'
      · omega
    · rw [exec_poolLeaseGuardExpire_held hf rfl, if_pos h']
  case lapse =>
    rw [exec_poolLeaseLapse_known hf]
    refine ⟨fun hl he => ?_, fun he => if_pos (.inr he)⟩
    rw [if_neg]
    rintro (h' | h')
    · simp [hl] at h'
    · omega

end Sys2Proof.Machine
end

section
/-! SUPPORT. Replays, poison, and the log (R115, R380 to R385, R402, R403). -/

namespace Sys2Proof.Machine

section

variable {s : State} {a : ParityAt} {check : RecordCheck} {key : Nat}

/-! ## Failed checks -/

/-- A stale record is counted as stale. -/
abbrev countStale (s : State) (check : RecordCheck) : State := if check = .stale then bump s K.staleRecords 1 else s

/-- A guarded record of a Sheet or a Deckle. -/
abbrev Guarded (a : ParityAt) (key : Nat) : Prop :=
  (∃ addr, a = .feltHome key addr) ∨ (∃ st addr, a = .sheetLine key st addr) ∨ (∃ st addr, a = .deckleLine key st addr)

theorem quireSliceOf_countStale (s : State) (check : RecordCheck) (qk : Nat) : quireSliceOf (countStale s check) qk = quireSliceOf s qk := by
  unfold countStale
  split
  · rfl
  · rfl

theorem countCheck_guarded (ha : Guarded a key) (hc : check ≠ .none) : countCheck s a check =
    bump (countStale s check) (K.metadataCheckFailures (quireSliceOf s (quireOfSheet key))) 1 := by
  unfold countCheck
  rw [if_neg hc]
  rcases ha with ⟨addr, rfl⟩ | ⟨st, addr, rfl⟩ | ⟨st, addr, rfl⟩
  · simp only [quireSliceOf_countStale]
  · simp only [quireSliceOf_countStale]
  · simp only [quireSliceOf_countStale]

theorem countCheck_unguarded (hc : check ≠ .none) (ha : ∀ key, ¬ Guarded a key) : countCheck s a check = countStale s check := by
  unfold countCheck
  rw [if_neg hc]
  cases a with
  | feltHome key addr => exact absurd (.inl ⟨addr, rfl⟩) (ha key)
  | sheetLine key st addr => exact absurd (.inr (.inl ⟨st, addr, rfl⟩)) (ha key)
  | deckleLine key st addr => exact absurd (.inr (.inr ⟨st, addr, rfl⟩)) (ha key)
  | _ => rfl

/-- Each replay is counted, three at most; the third failed one poisons the word. -/
theorem exec_parityError_cases (failed : Nat) : exec (.parityError a check failed) s = .next (
    if 3 ≤ failed then poisonWord (bump (countCheck s a check) K.replaysTotal 3) a
    else bump (countCheck s a check) K.replaysTotal (failed + 1)) := by
  show execParityError a check failed s = _
  unfold execParityError
  by_cases h : 3 ≤ failed
  · simp only [if_pos h, show min 3 (failed + 1) = 3 by omega]
  · simp only [if_neg h, show min 3 (failed + 1) = failed + 1 by omega]

/-! ## The log -/

theorem exec_event_cases (src entry : Nat) : exec (.event src entry) s = .next (
    if isLead s = true ∧ rd s K.logMinSeverity ≤ bits entry 104 4 then logPut s (entry % 2 ^ 256) else s) := by
  show execEvent src entry s = _
  unfold execEvent
  simp only [Bool.and_eq_true, decide_eq_true_eq]

/-- An entry goes where the head of the log points, and the head moves on round the 4,096 places. -/
theorem logPut_entry (s : State) (e : Nat) : tget? (logPut s e).log (rd s K.logHead % 4096) = some e ∧
    rd (logPut s e) K.logHead = (rd s K.logHead % 4096 + 1) % 4096 := by
  have hc : K.logHead ≠ K.logCount := by decide
  have ht : K.logHead ≠ K.tracePulses := by decide
  unfold logPut
  extract_lets h u v w
  have hl : w.log = tset s.log h e := rfl
  have hw : rd w K.logHead = (h + 1) % 4096 := by rw [rd_bump, if_neg hc, rd_wr_same]
  clear_value w
  split
  · exact ⟨by simp [hl, h], by rw [rd_emit, rd_bump, if_neg ht, hw]⟩
  · exact ⟨by simp [hl, h], hw⟩

end

/-- Settles O53: failed checks, what they count, the Lead's log, and the place of an entry. -/
theorem replaysPoisonAndLog : Obligations.ReplaysPoisonAndLog := by
  unfold Obligations.ReplaysPoisonAndLog
  refine ⟨fun a check failed s => ?replays, fun a s => if_pos rfl, fun a key check s => countCheck_guarded,
    fun a check s hc h1 h2 h3 => countCheck_unguarded hc ?_, fun src entry s => ?logged, logPut_entry⟩
  case replays =>
    rw [exec_parityError_cases]
    exact ⟨fun h => by rw [if_neg (by omega)], fun h => by rw [if_pos h]⟩
  case logged =>
    rw [exec_event_cases]
    refine ⟨fun hl hs => by rw [if_pos ⟨hl, hs⟩], fun h => ?_⟩
    rw [if_neg]
    rintro ⟨hl, hs⟩
    rcases h with h | h
    · simp [hl] at h
    · omega
  · rintro key (⟨addr, h⟩ | ⟨st, addr, h⟩ | ⟨st, addr, h⟩)
    · exact h1 key addr h
    · exact h2 key st addr h
    · exact h3 key st addr h

end Sys2Proof.Machine
end

section
/-! SUPPORT. Power and cooling (R409 to R424): what a sample, a window and a trip leave alone, and the throttle level of a window. -/

namespace Sys2Proof.Machine

/-! ## The largest of a list -/

theorem maxNat_le_iff (l : List Nat) (n : Nat) : maxNat l ≤ n ↔ ∀ x ∈ l, x ≤ n := by
  have h : ∀ (l : List Nat) (a : Nat), l.foldl (fun a b => max a b) a ≤ n ↔ a ≤ n ∧ ∀ x ∈ l, x ≤ n := by
    intro l
    induction l with
    | nil => simp
    | cons x xs ih =>
      intro a
      rw [List.foldl_cons, ih]
      simp [Nat.max_le, and_assoc]
  rw [maxNat, h l 0]
  exact and_iff_right (Nat.zero_le n)

/-! ## The throttle level of a window (R416) -/

theorem nextLevel_bounds (s : State) (want cur : Nat) : want ≤ nextLevel s want cur ∧ nextLevel s want cur ≤ max want cur := by
  refine ⟨Nat.le_max_left .., Nat.max_le.mpr ⟨Nat.le_max_left .., Nat.le_trans ?_ (Nat.le_max_right ..)⟩⟩
  refine (maxNat_le_iff ..).mpr fun l hl => ?_
  obtain ⟨-, hl⟩ := List.mem_filter.mp hl
  exact of_decide_eq_true (Bool.and_eq_true_iff.mp hl).1

/-- The level follows what its causes ask where those of every level have been away for 1 ms. -/
theorem nextLevel_cooled {s : State} (want cur : Nat) (h : ∀ l e, tget? s.pow.warm l = some e → passed s e 1000000 = true) :
    nextLevel s want cur = want := by
  refine Nat.le_antisymm (Nat.max_le.mpr ⟨Nat.le_refl _, (maxNat_le_iff ..).mpr fun l hl => ?_⟩) (nextLevel_bounds ..).1
  obtain ⟨-, hl⟩ := List.mem_filter.mp hl
  obtain ⟨-, hl⟩ := Bool.and_eq_true_iff.mp hl
  split at hl
  next e he => simp [h l e he] at hl
  next => cases hl

/-! ## What an event leaves alone -/

theorem logPut_frame (s : State) (e : Nat) : (logPut s e).att = s.att ∧ (logPut s e).tm = s.tm ∧ (logPut s e).pow = s.pow := by
  unfold logPut
  extract_lets h u v w
  have hw : w.att = s.att ∧ w.tm = s.tm ∧ w.pow = s.pow := ⟨rfl, rfl, rfl⟩
  clear_value w
  split
  · exact hw
  · exact hw

theorem event_frame (s : State) (source code slice sev data : Nat) : (event s source code slice sev data).att = s.att ∧
    (event s source code slice sev data).tm = s.tm ∧ (event s source code slice sev data).pow = s.pow := by
  unfold event
  extract_lets u e t
  have hu : u.att = s.att ∧ u.tm = s.tm ∧ u.pow = s.pow := by simp only [u]; split <;> exact ⟨rfl, rfl, rfl⟩
  have ht : t.att = s.att ∧ t.tm = s.tm ∧ t.pow = s.pow := by
    obtain ⟨ha, hm, hp⟩ := logPut_frame u e
    exact ⟨ha.trans hu.1, hm.trans hu.2.1, hp.trans hu.2.2⟩
  clear_value t u
  split
  · exact hu
  split
  · exact hu
  split
  · exact ht
  · exact ht

/-- An event that may be raised changes nothing of what the windows keep. -/
theorem pow_event_ite {c : Prop} [Decidable c] (s : State) (source code slice sev data : Nat) :
    (if c then event s source code slice sev data else s).pow = s.pow := by
  split
  · exact (event_frame ..).2.2
  · rfl

/-! ## What a sample leaves alone (R414, R418, R421) -/

/-- The tables of the attention engines, the clock, what the sensors ask for, when a rail was above its peak, and the two values that the
samples show, are in t as in s. -/
structure Sampled (s t : State) : Prop where
  att : t.att = s.att
  tm : t.tm = s.tm
  asked : t.pow.asked = s.pow.asked
  railEc : t.pow.railEc = s.pow.railEc
  die : rd t K.tjMaxNowC = rd s K.tjMaxNowC
  watts : rd t K.nodePowerW = rd s K.nodePowerW

theorem Sampled.refl (s : State) : Sampled s s := ⟨rfl, rfl, rfl, rfl, rfl, rfl⟩

section

variable {z s : State}

theorem sampled_foldl {α : Type} {f : State → α → State} (hf : ∀ t x, Sampled z t → Sampled z (f t x)) (l : List α) (h : Sampled z s) :
    Sampled z (l.foldl f s) := List.foldlRecOn l f (motive := Sampled z) h (fun t ht x _ => hf t x ht)

theorem sampled_ite {c : Prop} [Decidable c] {a b : State} (ha : Sampled z a) (hb : Sampled z b) : Sampled z (if c then a else b) := by
  split
  · exact ha
  · exact hb

theorem sampled_wr {k : Nat} (h : Sampled z s) (v : Nat) (hd : K.tjMaxNowC ≠ k) (hw : K.nodePowerW ≠ k) : Sampled z (wr s k v) :=
  ⟨h.att, h.tm, h.asked, h.railEc, (rd_wr_other s v hd).trans h.die, (rd_wr_other s v hw).trans h.watts⟩

theorem sampled_setPow (h : Sampled z s) {p : PowerSt} (ha : p.asked = s.pow.asked) (hr : p.railEc = s.pow.railEc) :
    Sampled z (setPow s p) := ⟨h.att, h.tm, ha.trans h.asked, hr.trans h.railEc, h.die, h.watts⟩

theorem sampled_event (h : Sampled z s) (source code slice sev data : Nat) : Sampled z (event s source code slice sev data) := by
  obtain ⟨ha, ht, hp⟩ := event_frame s source code slice sev data
  exact ⟨ha.trans h.att, ht.trans h.tm, (congrArg PowerSt.asked hp).trans h.asked, (congrArg PowerSt.railEc hp).trans h.railEc,
    (rd_event _ _ _ _ _ (by decide)).trans h.die, (rd_event _ _ _ _ _ (by decide)).trans h.watts⟩

theorem sampled_keepWarm (h : Sampled z s) (l : Nat) : Sampled z (keepWarm s l) := by
  unfold keepWarm
  exact sampled_ite h (sampled_setPow h rfl rfl)

theorem sampled_guardModel (h : Sampled z s) (sl trigger : Nat) : Sampled z (guardModel s sl trigger) := by
  have hd : K.tjMaxNowC ≠ K.modelState sl := by simp only [K.tjMaxNowC, K.modelState]; omega
  have hw : K.nodePowerW ≠ K.modelState sl := by simp only [K.nodePowerW, K.modelState]; omega
  unfold guardModel
  have hp : Sampled z (setPow s { s.pow with fit := terase s.pow.fit sl }) := sampled_setPow h rfl rfl
  exact sampled_ite (sampled_event (sampled_wr h _ hd hw) ..) (sampled_ite (sampled_wr hp _ hd hw) h)

end

/-- An overcurrent keeps the time of its rail. -/
theorem overcurrent_frame (s : State) (rails : List RailSample) : (overcurrent s rails).att = s.att ∧
    (overcurrent s rails).pow.railEc = some s.tm.ec ∧ rd (overcurrent s rails) K.nodePowerW = rd s K.nodePowerW := by
  have frame : ∀ {t : State} (code sev data : Nat), t.att = s.att → t.pow.railEc = some s.tm.ec → t.dict = s.dict →
      (event t 0x90 code nodeSlice sev data).att = s.att ∧ (event t 0x90 code nodeSlice sev data).pow.railEc = some s.tm.ec ∧
      rd (event t 0x90 code nodeSlice sev data) K.nodePowerW = rd s K.nodePowerW := by
    intro t code sev data ha hr hd
    obtain ⟨ea, -, ep⟩ := event_frame t 0x90 code nodeSlice sev data
    exact ⟨ea.trans ha, (congrArg PowerSt.railEc ep).trans hr, (rd_event _ _ _ _ _ (by decide)).trans (rd_congr hd _)⟩
  unfold overcurrent
  extract_lets t
  split
  · exact frame _ _ _ rfl rfl rfl
  · exact frame _ _ _ rfl rfl rfl

section

variable {s : State}

/-- R421: a reading of the sensors, with the level that dies and stacks ask for. -/
theorem exec_thermalSample_shows (x : Temps) : ∃ t, exec (.thermalSample x) s = .next t ∧ rd t K.tjMaxNowC = maxNat (x.att ++ x.port) ∧
    t.pow.asked = max (maxNat ((upFrom 1 4).filter (fun l => decide (dieAt s l ≤ maxNat (x.att ++ x.port)))))
      (maxNat ((upFrom 1 4).filter (fun l => match hbmAt s l with | some h => decide (h ≤ maxNat x.hbm) | none => false))) ∧
    t.mem = s.mem ∧ t.kv = s.kv ∧ t.att = s.att := by
  obtain ⟨t, ht, hq⟩ := sends_execThermalSample (Quiet.refl s) x
  refine ⟨t, ht, ?_⟩
  unfold execThermalSample at ht
  extract_lets die hbm byDie byHbm warm _ u v at ht
  have hu : rd u K.tjMaxNowC = die ∧ u.att = s.att ∧ u.pow.asked = max byDie byHbm := ⟨rd_wr_same .., rfl, rfl⟩
  have hv : Sampled u v := sampled_foldl (fun w l h => sampled_keepWarm h l) _ (Sampled.refl u)
  clear_value v u
  have hs : Sampled u t := by
    cases ht
    exact sampled_foldl (fun w sl h => sampled_ite (sampled_guardModel h ..) h) _ hv
  exact ⟨hs.die.trans hu.1, hs.asked.trans hu.2.2, hq.mem, hq.kv, hs.att.trans hu.2.1⟩

/-- R414: a reading of the rails, with the node's power. -/
theorem exec_powerSample_shows (rails : List RailSample) (w : List Nat) : ∃ t, exec (.powerSample rails w) s = .next t ∧
    rd t K.nodePowerW = f32Div (sumNat ((rails.take 9).map RailSample.milliwatts)) 1000 ∧
    (((rails.take 9).zip railPeaks).any (fun p => decide (p.2 < p.1.amps)) = true → t.pow.railEc = some s.tm.ec) ∧
    t.mem = s.mem ∧ t.kv = s.kv ∧ t.att = s.att := by
  obtain ⟨t, ht, hq⟩ := sends_execPowerSample (Quiet.refl s) rails w
  refine ⟨t, ht, ?_⟩
  unfold execPowerSample at ht
  extract_lets rails total a b v c d e at ht
  have ha : a.att = s.att ∧ a.tm = s.tm := List.foldlRecOn _ _ (motive := fun t : State => t.att = s.att ∧ t.tm = s.tm) ⟨rfl, rfl⟩
    (fun _ h _ _ => h)
  have hb : rd b K.nodePowerW = f32Div total 1000 := rd_wr_same ..
  have hd : Sampled b d := sampled_foldl (fun u sl h => sampled_ite (sampled_guardModel h ..) h) _ (sampled_setPow (Sampled.refl b) rfl rfl)
  have he : Sampled b e := sampled_ite (sampled_foldl (fun u sl h => sampled_guardModel h ..) _
    (sampled_wr hd _ (by decide) (by decide))) hd
  have hea : e.att = s.att := he.att.trans ha.1
  have het : e.tm = s.tm := he.tm.trans ha.2
  have hew : rd e K.nodePowerW = f32Div total 1000 := he.watts.trans hb
  obtain ⟨oa, or, ow⟩ := overcurrent_frame e rails
  rw [het] at or
  clear_value e
  split at ht
  next =>
    cases ht
    exact ⟨ow.trans hew, fun _ => or, hq.mem, hq.kv, oa.trans hea⟩
  next hn =>
    cases ht
    refine ⟨hew, fun h => absurd ?_ hn, hq.mem, hq.kv, hea⟩
    rw [h]
    rfl

end

/-! ## Grants of a window (R411, R412) -/

section

variable {s t : State} {r g : Budget} {old : List Budget} {w : Nat}

/-- A request made in an earlier window, alone and not held back by the throttle: it is granted where it fits, and else waits. -/
theorem considerAll_single (hm : r.madeIn < w) (hc : r.cls = 3 → rd s K.throttleLevel = 0) :
    considerAll s (floors s) w [r] old [] [] 0 =
      if fits s (floors s) w old r (max r.first w) then (old ++ [{ r with first := max r.first w }], [], 0)
      else (old, [{ r with waited := r.waited || decide (r.first ≤ w) }], b2n (decide (r.first ≤ w) && !r.waited)) := by
  have hthrottle : (r.cls == 3 && decide (1 ≤ rd s K.throttleLevel)) = false := by
    by_cases h : r.cls = 3
    · simp [hc h]
    · simp [h]
  have hwait : (r.waited || (decide (r.first ≤ w) && !r.waited)) = (r.waited || decide (r.first ≤ w)) := by
    cases r.waited <;> simp
  cases hf : fits s (floors s) w old r (max r.first w) <;> simp [considerAll, has, hm, hthrottle, hf, hwait]

/-- The grants of the window after the last one are made from what waited at its start. -/
theorem grantWindow_next (hw : w = s.pow.win + 1) (hr : s.pow.reqs = [r])
    (ho : old = s.pow.grants.filter (fun g => decide (w < g.first + g.span))) :
    (grantWindow s w).pow.grants = (considerAll s (floors s) w [r] old [] [] 0).1 ∧
    (grantWindow s w).pow.reqs = [r].filterMap (fun y => (considerAll s (floors s) w [r] old [] [] 0).2.1.find? (fun x => x.no == y.no)) := by
  have hgone : min 8 (w - s.pow.win - 1) = 0 := by omega
  unfold grantWindow
  extract_lets fl gone p u old' order peak was q
  have hu : u = s := by simp [u, p, gone, hgone, upFrom, setPow]
  have horder : order = [r] := by simp [order, hu, hr, insReq]
  have hold : old' = old := by simp [old', hu, ho]
  have hfl : fl = floors s := rfl
  clear_value fl u order old' peak was q
  subst hu horder hold hfl
  rw [hr]
  generalize considerAll u (floors u) w [r] old' [] [] 0 = c
  obtain ⟨g, rest, n⟩ := c
  simp only [pow_event_ite, wr_pow, setPow, and_self]

theorem grantWindow_single (hw : w = s.pow.win + 1) (hr : s.pow.reqs = [r]) (hm : r.madeIn < w) (hc : r.cls = 3 → rd s K.throttleLevel = 0)
    (hg : g = { r with first := max r.first w }) (ho : old = s.pow.grants.filter (fun g => decide (w < g.first + g.span)))
    (ht : t = grantWindow s w) :
    (fits s (floors s) w old r g.first = true → t.pow.grants = old ++ [g] ∧ t.pow.reqs = []) ∧
    (fits s (floors s) w old r g.first = false →
      t.pow.grants = old ∧ t.pow.reqs = [{ r with waited := r.waited || decide (r.first ≤ w) }]) := by
  obtain ⟨hgrants, hreqs⟩ := grantWindow_next hw hr ho
  rw [considerAll_single hm hc] at hgrants hreqs
  subst hg ht
  constructor
  · intro hf
    simp only [hgrants, hreqs, hf, if_true]
    simp
  · intro hf
    simp only [hgrants, hreqs, hf, Bool.false_eq_true, if_false]
    simp

end

/-! ## The end of a window (R411, R416) -/

section

variable {s t u v : State} {want cause new : Nat}

theorem exec_powerWindow_same (h : windowNow s ≤ s.pow.win) : exec .powerWindow s = .next s := if_pos h

theorem exec_powerWindow_new (h : s.pow.win < windowNow s)
    (ht : t = { s with pow := { s.pow with started := on s K.powerEnable, slow := rd s K.throttleLevel } })
    (ha : askedLevel t = (want, cause)) (hu : u = keepWarm t want) (hn : new = nextLevel u want (rd u K.throttleLevel))
    (hv : v = grantWindow u (windowNow s)) :
    exec .powerWindow s = if new = rd u K.throttleLevel then .next v
      else .next (releaseHeld (event
        { wr v K.throttleLevel new with pow := { v.pow with cause := if want = 0 then v.pow.cause else cause } } 0x90 1 nodeSlice 1
          (packBits [(8, rd u K.throttleLevel), (8, new), (8, if want = 0 then v.pow.cause else cause)]))) := by
  show execPowerWindow s = _
  unfold execPowerWindow
  extract_lets w _ x
  refine (if_neg (Nat.not_le.mpr h)).trans ?_
  have hx : x = t := ht.symm
  clear_value x
  subst hx
  rw [ha]
  simp only [setPow, ← hu, ← hn, w, ← hv, beq_iff_eq] <;> rfl

end

/-! ## A trip (R422) -/

/-- No object at subindex 1, where the state of a slice stands, differs between s and t. -/
structure FirstsKept (s t : State) : Prop where
  read : ∀ k, k % 256 = 1 → rd t k = rd s k

section

variable {z s : State}

theorem FirstsKept.same {t : State} (h : FirstsKept z s) (hd : t.dict = s.dict) : FirstsKept z t :=
  ⟨fun k hk => (rd_congr hd k).trans (h.read k hk)⟩

theorem firstsKept_bump (h : FirstsKept z s) {k : Nat} (n : Nat) (hk : k % 256 ≠ 1) : FirstsKept z (bump s k n) := by
  refine ⟨fun m hm => ?_⟩
  rw [rd_bump, if_neg (by rintro rfl; exact hk hm), h.read m hm]

theorem firstsKept_emit (h : FirstsKept z s) (o : Out) : FirstsKept z (emit s o) := h.same rfl

theorem firstsKept_foldl {α : Type} {f : State → α → State} (hf : ∀ t x, FirstsKept z t → FirstsKept z (f t x)) (l : List α)
    (h : FirstsKept z s) : FirstsKept z (l.foldl f s) := List.foldlRecOn l f (motive := FirstsKept z) h (fun t ht x _ => hf t x ht)

theorem firstsKept_ite {c : Prop} [Decidable c] {a b : State} (ha : FirstsKept z a) (hb : FirstsKept z b) :
    FirstsKept z (if c then a else b) := by
  split
  · exact ha
  · exact hb

theorem firstsKept_takeHold (h : FirstsKept z s) (k id st bytes) : FirstsKept z (takeHold s k id st bytes) :=
  firstsKept_ite h (h.same rfl)

theorem firstsKept_clearQuireSpace (h : FirstsKept z s) (sl k v kCar) : FirstsKept z (clearQuireSpace s sl k v kCar) := by
  have hn : FirstsKept z (newId s).2 := h.same rfl
  exact firstsKept_takeHold (firstsKept_takeHold hn ..) ..

theorem firstsKept_dropShare (h : FirstsKept z s) (x : Share) : FirstsKept z (dropShare s x) := by
  have hk : K.streamBusyNs x.slice % 256 ≠ 1 := by simp only [K.streamBusyNs]; omega
  have hr : FirstsKept z (releaseRefs s x.id) := h.same rfl
  unfold dropShare
  exact (firstsKept_ite (firstsKept_bump hr _ hk) hr).same rfl

theorem firstsKept_writeCompletion (h : FirstsKept z s) (addr record gaps) : FirstsKept z (writeCompletion s addr record gaps) := by
  unfold writeCompletion
  exact firstsKept_emit (firstsKept_foldl (fun _ _ h => firstsKept_emit h _) _ h) _

theorem firstsKept_issueWrite (h : FirstsKept z s) (tk record gaps) : FirstsKept z (issueWrite s tk record gaps) :=
  firstsKept_ite (firstsKept_bump h _ (by decide)) ((firstsKept_writeCompletion h _ record gaps).same rfl)

theorem firstsKept_completeAs (h : FirstsKept z s) (tk status count commitStep gaps late) :
    FirstsKept z (completeAs s tk status count commitStep gaps late) := by
  have hd : FirstsKept z (dropDl s tk.id) := h.same rfl
  have hl : FirstsKept z (if late then bump (dropDl s tk.id) K.lateCount 1 else dropDl s tk.id) :=
    firstsKept_ite (firstsKept_bump hd _ (by decide)) hd
  have hx : FirstsKept z { s with att := { s.att with dead := without s.att.dead tk.id } } := h.same rfl
  exact firstsKept_ite (firstsKept_bump hx _ (by decide)) (firstsKept_ite (hl.same rfl) (firstsKept_issueWrite hl ..))

theorem stallNs_not_first (t : Nat) : K.stallNs t % 256 ≠ 1 := by simp only [K.stallNs]; omega

theorem firstsKept_endPark (h : FirstsKept z s) (x cause) : FirstsKept z (endPark s x cause) :=
  (firstsKept_bump h _ (stallNs_not_first _)).same rfl

theorem firstsKept_endWait (h : FirstsKept z s) (a : App) : FirstsKept z (endWait s a).1 := by
  unfold endWait
  split
  · exact firstsKept_bump h _ (stallNs_not_first _)
  · exact h

theorem firstsKept_quireArrived (h : FirstsKept z s) (qk cause failed) : FirstsKept z (quireArrived s qk cause failed) := by
  refine firstsKept_foldl (fun t x h => ?_) _ h
  exact firstsKept_ite (firstsKept_endPark h ..) (h.same rfl)

theorem firstsKept_failWaiting (h : FirstsKept z s) (q) : FirstsKept z (failWaiting s q) :=
  firstsKept_foldl (fun _ a h => firstsKept_completeAs (firstsKept_endWait h a) ..) _ (h.same rfl)

theorem firstsKept_dropMove (h : FirstsKept z s) (qk q) : FirstsKept z (dropMove s qk q) := by
  unfold dropMove
  split
  · exact h
  · have hm : FirstsKept z (setMove s qk q none) := h.same rfl
    exact firstsKept_ite hm (firstsKept_clearQuireSpace hm ..)

theorem firstsKept_settleMoves (h : FirstsKept z s) : FirstsKept z (settleMoves s) :=
  firstsKept_foldl (fun _ _ h => firstsKept_completeAs h ..) _ (h.same rfl)

theorem firstsKept_freeQuire (h : FirstsKept z s) (qk q) : FirstsKept z (freeQuire s qk q) := by
  unfold freeQuire
  extract_lets t u v w
  have ht : FirstsKept z t := firstsKept_settleMoves ((firstsKept_dropMove h qk q).same rfl)
  have hu : FirstsKept z u := ht.same rfl
  have hv : FirstsKept z v := firstsKept_clearQuireSpace hu ..
  have hw : FirstsKept z w := firstsKept_ite (firstsKept_bump hv _ (by decide)) (firstsKept_ite (hv.same rfl) hv)
  exact hw.same rfl

theorem firstsKept_loseQuire (h : FirstsKept z s) (qk q) : FirstsKept z (loseQuire s qk q) := by
  have hl : FirstsKept z (addLost s (quireLost q)) := h.same rfl
  exact firstsKept_freeQuire (firstsKept_failWaiting (firstsKept_quireArrived hl ..) _) ..

end

/-- A stop of a slice leaves it RETIRED, and no other slice in another state. -/
theorem rd_stopSlice (s : State) {k : Nat} (sl : Nat) (hk : k % 256 = 1) :
    rd (stopSlice s sl) k = if k = K.sliceState sl then 4 else rd s k := by
  unfold stopSlice
  extract_lets t u _ v w
  have ht : FirstsKept s t := firstsKept_foldl (fun _ x h => firstsKept_dropShare h x) _ ⟨fun _ _ => rfl⟩
  have hv : FirstsKept s v := ht.same rfl
  have hw : FirstsKept s w := firstsKept_foldl (fun _ _ h => firstsKept_loseQuire h ..) _ hv
  rw [rd_wr, hw.read k hk]

/-- A stop leaves every slice RETIRED. -/
theorem sliceState_stopSlices (s : State) {sl : Nat} (h : sl < 4) : rd (stopSlices s) (K.sliceState sl) = 4 := by
  have hk : K.sliceState sl % 256 = 1 := by simp only [K.sliceState]; omega
  simp only [stopSlices, upFrom, List.foldl_cons, List.foldl_nil, rd_stopSlice _ _ hk]
  have : sl = 0 ∨ sl = 1 ∨ sl = 2 ∨ sl = 3 := by omega
  rcases this with rfl | rfl | rfl | rfl <;> simp [K.sliceState]

/-- Settles O54: the level and the grants of a window, a trip, and what the samples show. -/
theorem powerWindowsAndTrips : Obligations.PowerWindowsAndTrips := by
  unfold Obligations.PowerWindowsAndTrips
  refine ⟨fun s t u v want cause new hw ht ha hu hn hv => ?window, fun s => exec_powerWindow_same, fun s want cur => ?level,
    fun s t r g old w hw hr hm hc hg ho ht => grantWindow_single hw hr hm hc hg ho ht, fun att die s t ht => ?trip,
    fun x s => exec_thermalSample_shows x, fun rails w s => exec_powerSample_shows rails w⟩
  case window =>
    rw [exec_powerWindow_new hw ht ha hu hn hv]
    refine ⟨fun h => if_pos h, fun h c hc => ?_⟩
    rw [if_neg h, hc]
  case level =>
    exact ⟨(nextLevel_bounds s want cur).1, (nextLevel_bounds s want cur).2, nextLevel_cooled want cur⟩
  case trip =>
    subst ht
    exact ⟨rfl, fun sl => sliceState_stopSlices s⟩

end Sys2Proof.Machine
end
